-- ==== Sys2Proof/Word.lean ====
section
/-!
DEFINITION. The word types of the Z8 (spec/00_scope.md, R4) and their plainest arithmetic.
-/
namespace Sys2Proof

/-- A byte, 8 bits (R4). -/
abbrev Byte := BitVec 8
/-- A word, 32 bits (R4): a v register, an instruction word. -/
abbrev Word := BitVec 32
/-- A dword, 64 bits (R4): a pair of registers, a lead register, a virtual address. -/
abbrev DWord := BitVec 64
/-- A qword, 128 bits (R4): four registers, a page table entry. -/
abbrev QWord := BitVec 128

end Sys2Proof
end

