-- ==== Sys2Proof/Syntax.lean ====
section
/-!
DEFINITION. The instructions and steps of the Z8: one constructor of `Instr` for each row of
spec/opcode_table.json.  The first 240 are encoded words (formats R52, map R58 to R73); the other 90
are the part's own steps (spec/95_what_each_step_holds.md), which have no encoding: their arguments
say which packet, command, team, queue or value the step concerns, as plain data.
-/
namespace Sys2Proof

/-- The rounding modes of R68 and R172: to nearest even, toward zero, toward -inf, toward +inf. -/
inductive RMode where
  | rn | rz | rd | ru
  deriving DecidableEq, Repr

/-- The M-format size codes of R55, in code order. -/
inductive Size where
  | b | h | w | d | q | sb | sh | sw
  deriving DecidableEq, Repr

/-- The conditions of CMP and LCMP, in the code order of R60; CMPI has eight of them (R100). -/
inductive Cond where
  | eq | ne | lt | le | ltu | leu | gt | ge | gtu | geu | tst
  deriving DecidableEq, Repr

/-- The conditions of FCMP, in code order (R68, R193). -/
inductive FCond where
  | eq | ne | lt | le | gt | ge | un | ord
  deriving DecidableEq, Repr

/-- The levels of R39 in code order: barrier networks and the scopes of fences and atomics (R65, R66). -/
inductive Net where
  | core | quad | die | pkg | pod
  deriving DecidableEq, Repr

/-- The operations of the atomics, in code order (R65). -/
inductive AtomOp where
  | add | min | max | and | or | xor | xch | cas
  deriving DecidableEq, Repr

/-- A place in physical memory: a KIND (R352) and a physical address. -/
structure Place where
  kind : Nat
  pa : Nat
  deriving DecidableEq, Repr

/-- What a flit from another module carries (R370): a write to apply here with the number of its flit, the arrival of that module at a
pod barrier, or the acknowledgement of a flit of this module. -/
inductive Flit where
  | write (id : Nat) (at_ : Place) (bytes : List Byte)
  | podArrival (id : BitVec 16)
  | ack (id : Nat)
  deriving DecidableEq, Repr
/-- A flit as it comes in on a fibre. -/
structure FibreFlit where
  fibre : Nat
  flit : Flit
  deriving DecidableEq, Repr

/-- What Ling's debug interface is asked to do (R340, R369): halts, resumptions, and reads and writes of a
party's state in the layouts of R334 to R336.  `rft` directs a thread that BRK stopped to act as RFT. -/
inductive DebugCmd where
  | attach (queue : Nat)
  | detach (queue : Nat)
  | haltLead (team : Nat)
  | haltGroup (group : Nat)
  | haltTeam (team : Nat)
  | resumeLead (team : Nat)
  | resumeGroup (group : Nat) (rft : Bool)
  | resumeTeam (team : Nat)
  | readThread (thread : Nat)
  | writeThread (thread : Nat) (bytes : List Byte)
  | readLead (team : Nat)
  | writeLead (team : Nat) (bytes : List Byte)
  | readImage (team : Nat)
  | writeImage (team : Nat) (off : Nat) (bytes : List Byte)
  deriving DecidableEq, Repr

/-- The instructions and steps, one constructor for each row of the opcode table. -/
inductive Instr where
  /-- NOP, R58. -/
  | nop
  /-- ADD, R95. -/
  | add (d : BitVec 6) (a : BitVec 6) (b : BitVec 6) (x : Bool) (y : Bool)
  /-- SUB, R95. -/
  | sub (d : BitVec 6) (a : BitVec 6) (b : BitVec 6) (x : Bool) (y : Bool)
  /-- AND, R95. -/
  | and (d : BitVec 6) (a : BitVec 6) (b : BitVec 6) (x : Bool) (y : Bool)
  /-- OR, R95. -/
  | or (d : BitVec 6) (a : BitVec 6) (b : BitVec 6) (x : Bool) (y : Bool)
  /-- XOR, R95. -/
  | xor (d : BitVec 6) (a : BitVec 6) (b : BitVec 6) (x : Bool) (y : Bool)
  /-- ANDN, R95. -/
  | andn (d : BitVec 6) (a : BitVec 6) (b : BitVec 6) (x : Bool) (y : Bool)
  /-- SHL, R95. -/
  | shl (d : BitVec 6) (a : BitVec 6) (b : BitVec 6) (x : Bool) (y : Bool)
  /-- SHR, R95. -/
  | shr (d : BitVec 6) (a : BitVec 6) (b : BitVec 6) (x : Bool) (y : Bool)
  /-- SAR, R95. -/
  | sar (d : BitVec 6) (a : BitVec 6) (b : BitVec 6) (x : Bool) (y : Bool)
  /-- ROL, R95. -/
  | rol (d : BitVec 6) (a : BitVec 6) (b : BitVec 6) (x : Bool) (y : Bool)
  /-- MIN, R95. -/
  | min (d : BitVec 6) (a : BitVec 6) (b : BitVec 6) (x : Bool) (y : Bool)
  /-- MAX, R95. -/
  | max (d : BitVec 6) (a : BitVec 6) (b : BitVec 6) (x : Bool) (y : Bool)
  /-- MINU, R95. -/
  | minu (d : BitVec 6) (a : BitVec 6) (b : BitVec 6) (x : Bool) (y : Bool)
  /-- MAXU, R95. -/
  | maxu (d : BitVec 6) (a : BitVec 6) (b : BitVec 6) (x : Bool) (y : Bool)
  /-- MUL, R95. -/
  | mul (d : BitVec 6) (a : BitVec 6) (b : BitVec 6) (x : Bool) (y : Bool)
  /-- MULH, R95. -/
  | mulh (d : BitVec 6) (a : BitVec 6) (b : BitVec 6) (x : Bool) (y : Bool)
  /-- MULHU, R95. -/
  | mulhu (d : BitVec 6) (a : BitVec 6) (b : BitVec 6) (x : Bool) (y : Bool)
  /-- MAD, R95. -/
  | mad (d : BitVec 6) (a : BitVec 6) (b : BitVec 6) (x : Bool) (y : Bool)
  /-- ADDS, R95. -/
  | adds (d : BitVec 6) (a : BitVec 6) (b : BitVec 6) (x : Bool) (y : Bool)
  /-- SUBS, R95. -/
  | subs (d : BitVec 6) (a : BitVec 6) (b : BitVec 6) (x : Bool) (y : Bool)
  /-- ABSD, R95. -/
  | absd (d : BitVec 6) (a : BitVec 6) (b : BitVec 6) (x : Bool) (y : Bool)
  /-- ADD64, R96. -/
  | add64 (d : BitVec 6) (a : BitVec 6) (b : BitVec 6) (x : Bool) (y : Bool)
  /-- SUB64, R96. -/
  | sub64 (d : BitVec 6) (a : BitVec 6) (b : BitVec 6) (x : Bool) (y : Bool)
  /-- SHL64, R96. -/
  | shl64 (d : BitVec 6) (a : BitVec 6) (b : BitVec 6) (x : Bool) (y : Bool)
  /-- SHR64, R96. -/
  | shr64 (d : BitVec 6) (a : BitVec 6) (b : BitVec 6) (x : Bool) (y : Bool)
  /-- SAR64, R96. -/
  | sar64 (d : BitVec 6) (a : BitVec 6) (b : BitVec 6) (x : Bool) (y : Bool)
  /-- MUL64, R96. -/
  | mul64 (d : BitVec 6) (a : BitVec 6) (b : BitVec 6) (x : Bool) (y : Bool)
  /-- MULU64, R96. -/
  | mulu64 (d : BitVec 6) (a : BitVec 6) (b : BitVec 6) (x : Bool) (y : Bool)
  /-- MAD64, R96. -/
  | mad64 (d : BitVec 6) (a : BitVec 6) (b : BitVec 6) (x : Bool) (y : Bool)
  /-- LEA64, R96. -/
  | lea64 (d : BitVec 6) (a : BitVec 6) (b : BitVec 6) (x : Bool) (y : Bool)
  /-- MOV, R97. -/
  | mov (d : BitVec 6) (a : BitVec 6) (x : Bool)
  /-- NOT, R97. -/
  | not (d : BitVec 6) (a : BitVec 6) (x : Bool)
  /-- NEG, R97. -/
  | neg (d : BitVec 6) (a : BitVec 6) (x : Bool)
  /-- ABS, R97. -/
  | abs (d : BitVec 6) (a : BitVec 6) (x : Bool)
  /-- CLZ, R97. -/
  | clz (d : BitVec 6) (a : BitVec 6) (x : Bool)
  /-- CTZ, R97. -/
  | ctz (d : BitVec 6) (a : BitVec 6) (x : Bool)
  /-- POPC, R97. -/
  | popc (d : BitVec 6) (a : BitVec 6) (x : Bool)
  /-- BREV, R97. -/
  | brev (d : BitVec 6) (a : BitVec 6) (x : Bool)
  /-- SEXT8, R97. -/
  | sext8 (d : BitVec 6) (a : BitVec 6) (x : Bool)
  /-- SEXT16, R97. -/
  | sext16 (d : BitVec 6) (a : BitVec 6) (x : Bool)
  /-- ZEXT8, R97. -/
  | zext8 (d : BitVec 6) (a : BitVec 6) (x : Bool)
  /-- ZEXT16, R97. -/
  | zext16 (d : BitVec 6) (a : BitVec 6) (x : Bool)
  /-- MOV64, R97. -/
  | mov64 (d : BitVec 6) (a : BitVec 6) (x : Bool)
  /-- BFXU, R98. -/
  | bfxu (d : BitVec 6) (a : BitVec 6) (x : Bool) (p : BitVec 5) (l : BitVec 5)
  /-- BFXS, R98. -/
  | bfxs (d : BitVec 6) (a : BitVec 6) (x : Bool) (p : BitVec 5) (l : BitVec 5)
  /-- BFI, R98. -/
  | bfi (d : BitVec 6) (a : BitVec 6) (x : Bool) (p : BitVec 5) (l : BitVec 5)
  /-- ADDI, R99. -/
  | addi (d : BitVec 6) (a : BitVec 6) (x : Bool) (i : BitVec 13)
  /-- ANDI, R99. -/
  | andi (d : BitVec 6) (a : BitVec 6) (x : Bool) (i : BitVec 13)
  /-- ORI, R99. -/
  | ori (d : BitVec 6) (a : BitVec 6) (x : Bool) (i : BitVec 13)
  /-- XORI, R99. -/
  | xori (d : BitVec 6) (a : BitVec 6) (x : Bool) (i : BitVec 13)
  /-- SHLI, R99. -/
  | shli (d : BitVec 6) (a : BitVec 6) (x : Bool) (n : BitVec 5)
  /-- SHRI, R99. -/
  | shri (d : BitVec 6) (a : BitVec 6) (x : Bool) (n : BitVec 5)
  /-- SARI, R99. -/
  | sari (d : BitVec 6) (a : BitVec 6) (x : Bool) (n : BitVec 5)
  /-- ROLI, R99. -/
  | roli (d : BitVec 6) (a : BitVec 6) (x : Bool) (n : BitVec 5)
  /-- MOVI, R99. -/
  | movi (d : BitVec 6) (i : BitVec 20)
  /-- LUI, R99. -/
  | lui (d : BitVec 6) (i : BitVec 20)
  /-- CMP, R100. -/
  | cmp (p : BitVec 3) (a : BitVec 6) (b : BitVec 6) (x : Bool) (y : Bool) (c : Cond)
  /-- CMPI, R100. -/
  | cmpi (c : Cond) (p : BitVec 3) (a : BitVec 6) (x : Bool) (i : BitVec 13)
  /-- PAND, R101. -/
  | pand (d : BitVec 3) (a : BitVec 3) (b : BitVec 3)
  /-- POR, R101. -/
  | por (d : BitVec 3) (a : BitVec 3) (b : BitVec 3)
  /-- PXOR, R101. -/
  | pxor (d : BitVec 3) (a : BitVec 3) (b : BitVec 3)
  /-- PNOT, R101. -/
  | pnot (d : BitVec 3) (a : BitVec 3)
  /-- PTOR, R101. -/
  | ptor (d : BitVec 6)
  /-- SEL, R101. -/
  | sel (d : BitVec 6) (a : BitVec 6) (b : BitVec 6) (x : Bool) (y : Bool) (k : BitVec 3)
  /-- BR, R102. -/
  | br (s : BitVec 19)
  /-- BRP, R102. -/
  | brp (p : BitVec 3) (s : BitVec 19)
  /-- BRN, R102. -/
  | brn (p : BitVec 3) (s : BitVec 19)
  /-- BZ, R102. -/
  | bz (a : BitVec 6) (x : Bool) (s : BitVec 19)
  /-- BNZ, R102. -/
  | bnz (a : BitVec 6) (x : Bool) (s : BitVec 19)
  /-- CALL, R102. -/
  | call (s : BitVec 19)
  /-- CALLP, R102. -/
  | callp (p : BitVec 3) (s : BitVec 19)
  /-- JR, R104. -/
  | jr (a : BitVec 6) (x : Bool)
  /-- JRL, R104. -/
  | jrl (a : BitVec 6) (x : Bool)
  /-- RET, R104. -/
  | ret
  /-- YIELD, R104. -/
  | yield
  /-- EXIT, R104. -/
  | exit
  /-- TRAP, R104. -/
  | trap (n : BitVec 6)
  /-- BRK, R104. -/
  | brk (n : BitVec 6)
  /-- XCONV, R27. -/
  | xconv
  /-- XSET, R106. -/
  | xset (k : BitVec 2) (a : BitVec 6) (b : BitVec 6) (x : Bool) (y : Bool)
  /-- RDX, R106. -/
  | rdx (d : BitVec 6) (k : BitVec 2) (b : BitVec 6) (y : Bool)
  /-- WRX, R106. -/
  | wrx (k : BitVec 2) (a : BitVec 6) (b : BitVec 6) (x : Bool) (y : Bool)
  /-- SRD, R111. -/
  | srd (d : BitVec 6) (n : BitVec 8)
  /-- REP, R108. -/
  | rep (c : BitVec 6) (s : BitVec 3) (t : BitVec 3)
  /-- LD, R122. -/
  | ld (d : BitVec 6) (a : BitVec 6) (x : Bool) (z : Size) (o : BitVec 10)
  /-- ST, R122. -/
  | st (d : BitVec 6) (a : BitVec 6) (x : Bool) (z : Size) (o : BitVec 10)
  /-- LDS, R122. -/
  | lds (d : BitVec 6) (a : BitVec 6) (x : Bool) (z : Size) (o : BitVec 10)
  /-- STS, R122. -/
  | sts (d : BitVec 6) (a : BitVec 6) (x : Bool) (z : Size) (o : BitVec 10)
  /-- LDQ, R122. -/
  | ldq (d : BitVec 6) (a : BitVec 6) (x : Bool) (z : Size) (o : BitVec 10)
  /-- STQ, R122. -/
  | stq (d : BitVec 6) (a : BitVec 6) (x : Bool) (z : Size) (o : BitVec 10)
  /-- LDF, R204. -/
  | ldf (d : BitVec 6) (a : BitVec 6) (x : Bool) (z : Size) (o : BitVec 10)
  /-- LDACC, R214. -/
  | ldacc (d : BitVec 6) (a : BitVec 6) (x : Bool) (c : BitVec 3) (o : BitVec 10)
  /-- ATOM32, R266. -/
  | atom32 (d : BitVec 6) (a : BitVec 6) (b : BitVec 6) (x : Bool) (y : Bool) (o : AtomOp) (s : Net)
  /-- ATOM64, R266. -/
  | atom64 (d : BitVec 6) (a : BitVec 6) (b : BitVec 6) (x : Bool) (y : Bool) (o : AtomOp) (s : Net)
  /-- ATOMS, R130. -/
  | atoms (d : BitVec 6) (a : BitVec 6) (b : BitVec 6) (x : Bool) (y : Bool) (o : AtomOp)
  /-- FENCE, R264. -/
  | fence (s : Net)
  /-- BARA, R138. -/
  | bara (k : BitVec 4) (n : Net)
  /-- BARW, R138. -/
  | barw (k : BitVec 4) (n : Net)
  /-- BARAB, R138. -/
  | barab (k : BitVec 4) (n : Net) (b : BitVec 6) (y : Bool)
  /-- BARI, R138. -/
  | bari (k : BitVec 4) (n : Net) (p : BitVec 3)
  /-- BARS, R138. -/
  | bars (k : BitVec 4) (n : Net) (b : BitVec 6) (y : Bool)
  /-- XPERM, R141. -/
  | xperm (d : BitVec 6) (a : BitVec 6) (b : BitVec 6) (x : Bool) (y : Bool)
  /-- XUP, R141. -/
  | xup (d : BitVec 6) (a : BitVec 6) (b : BitVec 6) (x : Bool) (y : Bool)
  /-- XDOWN, R141. -/
  | xdown (d : BitVec 6) (a : BitVec 6) (b : BitVec 6) (x : Bool) (y : Bool)
  /-- XXOR, R141. -/
  | xxor (d : BitVec 6) (a : BitVec 6) (b : BitVec 6) (x : Bool) (y : Bool)
  /-- XREDADD, R141. -/
  | xredadd (d : BitVec 6) (a : BitVec 6) (x : Bool)
  /-- XREDMAX, R141. -/
  | xredmax (d : BitVec 6) (a : BitVec 6) (x : Bool)
  /-- XREDMIN, R141. -/
  | xredmin (d : BitVec 6) (a : BitVec 6) (x : Bool)
  /-- XREDAND, R141. -/
  | xredand (d : BitVec 6) (a : BitVec 6) (x : Bool)
  /-- XREDOR, R141. -/
  | xredor (d : BitVec 6) (a : BitVec 6) (x : Bool)
  /-- XREDFADD, R142. -/
  | xredfadd (d : BitVec 6) (a : BitVec 6) (x : Bool)
  /-- XREDFMAX, R142. -/
  | xredfmax (d : BitVec 6) (a : BitVec 6) (x : Bool)
  /-- XSCANADD, R141. -/
  | xscanadd (d : BitVec 6) (a : BitVec 6) (x : Bool)
  /-- XBAL, R141. -/
  | xbal (d : BitVec 6) (p : BitVec 3)
  /-- XANY, R141. -/
  | xany (d : BitVec 3) (p : BitVec 3)
  /-- XALL, R141. -/
  | xall (d : BitVec 3) (p : BitVec 3)
  /-- XSTEP, R141. -/
  | xstep (d : BitVec 6) (a : BitVec 6) (x : Bool)
  /-- SEND, R143. -/
  | send (a : BitVec 6) (b : BitVec 6) (x : Bool) (y : Bool) (m : BitVec 5)
  /-- QGET, R114. -/
  | qget (d : BitVec 6)
  /-- FADD, R190. -/
  | fadd (d : BitVec 6) (a : BitVec 6) (b : BitVec 6) (x : Bool) (y : Bool) (r : RMode)
  /-- FSUB, R190. -/
  | fsub (d : BitVec 6) (a : BitVec 6) (b : BitVec 6) (x : Bool) (y : Bool) (r : RMode)
  /-- FMUL, R190. -/
  | fmul (d : BitVec 6) (a : BitVec 6) (b : BitVec 6) (x : Bool) (y : Bool) (r : RMode)
  /-- FFMA, R190. -/
  | ffma (d : BitVec 6) (a : BitVec 6) (b : BitVec 6) (x : Bool) (y : Bool) (r : RMode)
  /-- FMIN, R191. -/
  | fmin (d : BitVec 6) (a : BitVec 6) (b : BitVec 6) (x : Bool) (y : Bool)
  /-- FMAX, R191. -/
  | fmax (d : BitVec 6) (a : BitVec 6) (b : BitVec 6) (x : Bool) (y : Bool)
  /-- FABS, R191. -/
  | fabs (d : BitVec 6) (a : BitVec 6) (x : Bool)
  /-- FNEG, R191. -/
  | fneg (d : BitVec 6) (a : BitVec 6) (x : Bool)
  /-- FCVTIF, R194. -/
  | fcvtif (d : BitVec 6) (a : BitVec 6) (x : Bool) (r : RMode)
  /-- FCVTUF, R194. -/
  | fcvtuf (d : BitVec 6) (a : BitVec 6) (x : Bool) (r : RMode)
  /-- FCVTFI, R195. -/
  | fcvtfi (d : BitVec 6) (a : BitVec 6) (x : Bool) (r : RMode)
  /-- FCVTFU, R195. -/
  | fcvtfu (d : BitVec 6) (a : BitVec 6) (x : Bool) (r : RMode)
  /-- FCVTBF, R194. -/
  | fcvtbf (d : BitVec 6) (a : BitVec 6) (x : Bool) (r : RMode)
  /-- FCVTFB, R194. -/
  | fcvtfb (d : BitVec 6) (a : BitVec 6) (x : Bool)
  /-- FCVTE4, R194. -/
  | fcvte4 (d : BitVec 6) (a : BitVec 6) (x : Bool) (r : RMode)
  /-- FCVTE5, R194. -/
  | fcvte5 (d : BitVec 6) (a : BitVec 6) (x : Bool) (r : RMode)
  /-- FCVTF4, R194. -/
  | fcvtf4 (d : BitVec 6) (a : BitVec 6) (x : Bool)
  /-- FCVTF5, R194. -/
  | fcvtf5 (d : BitVec 6) (a : BitVec 6) (x : Bool)
  /-- FCVTSM.E4, R196. -/
  | fcvtsmE4 (d : BitVec 6) (a : BitVec 6) (b : BitVec 6) (x : Bool) (y : Bool) (r : RMode)
  /-- FCVTSM.E5, R196. -/
  | fcvtsmE5 (d : BitVec 6) (a : BitVec 6) (b : BitVec 6) (x : Bool) (y : Bool) (r : RMode)
  /-- FRCP, R197. -/
  | frcp (d : BitVec 6) (a : BitVec 6) (x : Bool) (r : RMode)
  /-- FRSQ, R197. -/
  | frsq (d : BitVec 6) (a : BitVec 6) (x : Bool) (r : RMode)
  /-- FSQRT, R197. -/
  | fsqrt (d : BitVec 6) (a : BitVec 6) (x : Bool) (r : RMode)
  /-- FEXP2, R197. -/
  | fexp2 (d : BitVec 6) (a : BitVec 6) (x : Bool) (r : RMode)
  /-- FLOG2, R197. -/
  | flog2 (d : BitVec 6) (a : BitVec 6) (x : Bool) (r : RMode)
  /-- FTAB, R203. -/
  | ftab (d : BitVec 6) (a : BitVec 6) (b : BitVec 6) (x : Bool) (y : Bool)
  /-- FDIV, R197. -/
  | fdiv (d : BitVec 6) (a : BitVec 6) (b : BitVec 6) (x : Bool) (y : Bool) (r : RMode)
  /-- HADD2, R192. -/
  | hadd2 (d : BitVec 6) (a : BitVec 6) (b : BitVec 6) (x : Bool) (y : Bool) (r : RMode)
  /-- HSUB2, R192. -/
  | hsub2 (d : BitVec 6) (a : BitVec 6) (b : BitVec 6) (x : Bool) (y : Bool) (r : RMode)
  /-- HMUL2, R192. -/
  | hmul2 (d : BitVec 6) (a : BitVec 6) (b : BitVec 6) (x : Bool) (y : Bool) (r : RMode)
  /-- HFMA2, R192. -/
  | hfma2 (d : BitVec 6) (a : BitVec 6) (b : BitVec 6) (x : Bool) (y : Bool) (r : RMode)
  /-- HMAX2, R192. -/
  | hmax2 (d : BitVec 6) (a : BitVec 6) (b : BitVec 6) (x : Bool) (y : Bool)
  /-- HMIN2, R192. -/
  | hmin2 (d : BitVec 6) (a : BitVec 6) (b : BitVec 6) (x : Bool) (y : Bool)
  /-- FCMP, R193. -/
  | fcmp (p : BitVec 3) (a : BitVec 6) (b : BitVec 6) (x : Bool) (y : Bool) (c : FCond)
  /-- SAADD, R233. -/
  | saadd (a : BitVec 6) (b : BitVec 6) (x : Bool) (y : Bool)
  /-- SAADDH, R233. -/
  | saaddh (a : BitVec 6) (b : BitVec 6) (x : Bool) (y : Bool)
  /-- SARD, R234. -/
  | sard (d : BitVec 6) (a : BitVec 6) (x : Bool)
  /-- SARDH, R234. -/
  | sardh (d : BitVec 6) (a : BitVec 6) (x : Bool)
  /-- SARDQ, R234. -/
  | sardq (d : BitVec 6) (a : BitVec 6) (x : Bool)
  /-- SAWAIT, R235. -/
  | sawait (a : BitVec 6) (x : Bool)
  /-- SACNT, R235. -/
  | sacnt (d : BitVec 6) (a : BitVec 6) (x : Bool)
  /-- LADD, R117. -/
  | ladd (d : BitVec 6) (a : BitVec 6) (b : BitVec 6)
  /-- LSUB, R117. -/
  | lsub (d : BitVec 6) (a : BitVec 6) (b : BitVec 6)
  /-- LAND, R117. -/
  | land (d : BitVec 6) (a : BitVec 6) (b : BitVec 6)
  /-- LOR, R117. -/
  | lor (d : BitVec 6) (a : BitVec 6) (b : BitVec 6)
  /-- LXOR, R117. -/
  | lxor (d : BitVec 6) (a : BitVec 6) (b : BitVec 6)
  /-- LANDN, R117. -/
  | landn (d : BitVec 6) (a : BitVec 6) (b : BitVec 6)
  /-- LSHL, R117. -/
  | lshl (d : BitVec 6) (a : BitVec 6) (b : BitVec 6)
  /-- LSHR, R117. -/
  | lshr (d : BitVec 6) (a : BitVec 6) (b : BitVec 6)
  /-- LSAR, R117. -/
  | lsar (d : BitVec 6) (a : BitVec 6) (b : BitVec 6)
  /-- LMIN, R117. -/
  | lmin (d : BitVec 6) (a : BitVec 6) (b : BitVec 6)
  /-- LMAX, R117. -/
  | lmax (d : BitVec 6) (a : BitVec 6) (b : BitVec 6)
  /-- LMINU, R117. -/
  | lminu (d : BitVec 6) (a : BitVec 6) (b : BitVec 6)
  /-- LMAXU, R117. -/
  | lmaxu (d : BitVec 6) (a : BitVec 6) (b : BitVec 6)
  /-- LMUL, R117. -/
  | lmul (d : BitVec 6) (a : BitVec 6) (b : BitVec 6)
  /-- LMULH, R117. -/
  | lmulh (d : BitVec 6) (a : BitVec 6) (b : BitVec 6)
  /-- LMULHU, R117. -/
  | lmulhu (d : BitVec 6) (a : BitVec 6) (b : BitVec 6)
  /-- LMOV, R117. -/
  | lmov (d : BitVec 6) (a : BitVec 6)
  /-- LNOT, R117. -/
  | lnot (d : BitVec 6) (a : BitVec 6)
  /-- LNEG, R117. -/
  | lneg (d : BitVec 6) (a : BitVec 6)
  /-- LCLZ, R117. -/
  | lclz (d : BitVec 6) (a : BitVec 6)
  /-- LPOPC, R117. -/
  | lpopc (d : BitVec 6) (a : BitVec 6)
  /-- LCMP, R117. -/
  | lcmp (p : BitVec 3) (a : BitVec 6) (b : BitVec 6) (c : Cond)
  /-- LSEL, R117. -/
  | lsel (d : BitVec 6) (a : BitVec 6) (b : BitVec 6) (k : BitVec 3)
  /-- LPAND, R117. -/
  | lpand (d : BitVec 3) (a : BitVec 3) (b : BitVec 3)
  /-- LPOR, R117. -/
  | lpor (d : BitVec 3) (a : BitVec 3) (b : BitVec 3)
  /-- LPXOR, R117. -/
  | lpxor (d : BitVec 3) (a : BitVec 3) (b : BitVec 3)
  /-- LPNOT, R117. -/
  | lpnot (d : BitVec 3) (a : BitVec 3)
  /-- LSRD, R117. -/
  | lsrd (d : BitVec 6) (n : BitVec 6) (m : BitVec 6)
  /-- LBARA, R117. -/
  | lbara (k : BitVec 4)
  /-- LBARW, R117. -/
  | lbarw (k : BitVec 4)
  /-- LMOVI, R118. -/
  | lmovi (d : BitVec 6) (i : BitVec 11)
  /-- LADDI, R118. -/
  | laddi (d : BitVec 6) (a : BitVec 6) (i : BitVec 11)
  /-- LANDI, R118. -/
  | landi (d : BitVec 6) (a : BitVec 6) (i : BitVec 11)
  /-- LORI, R118. -/
  | lori (d : BitVec 6) (a : BitVec 6) (i : BitVec 11)
  /-- LSHLI, R118. -/
  | lshli (d : BitVec 6) (a : BitVec 6) (n : BitVec 6)
  /-- LSHRI, R118. -/
  | lshri (d : BitVec 6) (a : BitVec 6) (n : BitVec 6)
  /-- LSARI, R118. -/
  | lsari (d : BitVec 6) (a : BitVec 6) (n : BitVec 6)
  /-- LSHIN, R118. -/
  | lshin (d : BitVec 6) (i : BitVec 11)
  /-- LBR, R119. -/
  | lbr (s : BitVec 19)
  /-- LBRP, R119. -/
  | lbrp (p : BitVec 3) (s : BitVec 19)
  /-- LBRN, R119. -/
  | lbrn (p : BitVec 3) (s : BitVec 19)
  /-- LEND, R32. -/
  | lend
  /-- LLD, R120. -/
  | lld (d : BitVec 6) (a : BitVec 6) (z : Size) (o : BitVec 10)
  /-- LST, R120. -/
  | lst (d : BitVec 6) (a : BitVec 6) (z : Size) (o : BitVec 10)
  /-- MCFG, R208. -/
  | mcfg (a : BitVec 6)
  /-- MLDW, R209. -/
  | mldw (a : BitVec 6) (b : BitVec 6)
  /-- MSWAP, R210. -/
  | mswap
  /-- MSTRM, R212. -/
  | mstrm (d : BitVec 6) (a : BitVec 6) (b : BitVec 6)
  /-- MZERO, R211. -/
  | mzero (d : BitVec 6) (b : BitVec 6)
  /-- MWAIT, R213. -/
  | mwait
  /-- CPYIN, R154. -/
  | cpyin (d : BitVec 6) (a : BitVec 6) (b : BitVec 6) (v : Bool) (i : Bool) (k : BitVec 3)
  /-- CPYOUT, R155. -/
  | cpyout (d : BitVec 6) (a : BitVec 6) (b : BitVec 6) (v : Bool) (i : Bool) (k : BitVec 3)
  /-- CPYG, R157. -/
  | cpyg (d : BitVec 6) (a : BitVec 6) (b : BitVec 6) (v : Bool) (k : BitVec 3)
  /-- GATH, R158. -/
  | gath (d : BitVec 6) (a : BitVec 6) (b : BitVec 6) (v : Bool) (k : BitVec 3)
  /-- PUBL, R161. -/
  | publ (a : BitVec 6)
  /-- CPWAIT, R163. -/
  | cpwait
  /-- SAALLOC, R239. -/
  | saalloc (d : BitVec 6) (a : BitVec 6)
  /-- SAOPEN, R240. -/
  | saopen (a : BitVec 6) (b : BitVec 6)
  /-- SACLR, R241. -/
  | saclr (a : BitVec 6)
  /-- SAFREE, R242. -/
  | safree (a : BitVec 6)
  /-- SAEVICT, R245. -/
  | saevict (d : BitVec 6) (a : BitVec 6)
  /-- SALOAD, R246. -/
  | saload (d : BitVec 6) (a : BitVec 6)
  /-- SAMERGE, R243. -/
  | samerge (d : BitVec 6) (a : BitVec 6)
  /-- SPAWN, R309. -/
  | spawn (d : BitVec 6) (a : BitVec 6) (b : BitVec 6)
  /-- SPAWN.W, R309. -/
  | spawnW (d : BitVec 6) (a : BitVec 6) (b : BitVec 6)
  /-- JOIN, R310. -/
  | join (d : BitVec 6) (a : BitVec 6)
  /-- TSTAT, R311. -/
  | tstat (d : BitVec 6) (a : BitVec 6)
  /-- ALWADD, R312. -/
  | alwadd (d : BitVec 6) (a : BitVec 6) (b : BitVec 6)
  /-- UNWIND, R313. -/
  | unwind (a : BitVec 6)
  /-- ALWRD, R314. -/
  | alwrd (d : BitVec 6) (a : BitVec 6)
  /-- QSEND, R115. -/
  | qsend (a : BitVec 6)
  /-- TLOAD, R201. -/
  | tload (a : BitVec 6)
  /-- TSWAP, R202. -/
  | tswap
  /-- CSRR, R346. -/
  | csrr (d : BitVec 6) (h : BitVec 6) (l : BitVec 6)
  /-- CSRW, R346. -/
  | csrw (d : BitVec 6) (h : BitVec 6) (l : BitVec 6)
  /-- RFT, R347. -/
  | rft
  /-- TLBI, R348. -/
  | tlbi (a : BitVec 6) (x : Bool)
  /-- HALT, R349. -/
  | halt
  /-- SLEEP, R350. -/
  | sleep (a : BitVec 6) (x : Bool)
  -- the steps without an encoding (spec/95_what_each_step_holds.md)
  /-- CLAUSE_HEADER_ISSUE, R50. -/
  | clauseHeaderIssue
  /-- LONG_LATENCY_RESULT, R16. -/
  | longLatencyResult (lead : Bool) (key : Nat) (idx : Nat)
  /-- TEAM_RETIREMENT, R36. -/
  | teamRetirement (team : Nat)
  /-- LEAD_STOP, R37. -/
  | leadStop (team : Nat)
  /-- TASK_COMPLETION, R36. -/
  | taskCompletion (task : Nat)
  /-- QUEUE_ENTRY_FILL, R114. -/
  | queueEntryFill (thread : Nat)
  /-- QSEND_APPEND, R115. -/
  | qsendAppend (team : Nat)
  /-- WIDE_PHASE_ARRIVAL, R135. -/
  | widePhaseArrival (team : Nat) (bar : Nat)
  /-- BARRIER_WAIT_RELEASE, R138. -/
  | barrierWaitRelease (lead : Bool) (key : Nat)
  /-- SEND_ACCEPTANCE, R145. -/
  | sendAcceptance (idx : Nat)
  /-- NEXT_DELIVERY, R146. -/
  | nextDelivery (idx : Nat)
  /-- COPY_DELIVERY, R127. -/
  | copyDelivery (cmd : Nat) (word : Nat) (core : Nat)
  /-- COPY_UNIT_BEGIN, R317. -/
  | copyUnitBegin (cmd : Nat) (unit : Nat)
  /-- COPY_LATE_DISCARD, R291. -/
  | copyLateDiscard (cmd : Nat) (word : Nat) (core : Nat)
  /-- CPWAIT_RELEASE, R163. -/
  | cpwaitRelease (team : Nat)
  /-- PUBL_SELECTOR_FLIP, R161. -/
  | publSelectorFlip (cmd : Nat)
  /-- MAT_ARRAY_ACQUIRE, R205. -/
  | matArrayAcquire (team : Nat)
  /-- MLDW_ARRAY_LOAD, R209. -/
  | mldwArrayLoad (core : Nat)
  /-- MSTRM_ARRAY_PASS, R212. -/
  | mstrmArrayPass (core : Nat)
  /-- MWAIT_RELEASE, R213. -/
  | mwaitRelease (team : Nat)
  /-- TABLE_LOAD, R201. -/
  | tableLoad (team : Nat)
  /-- SA_ADD_APPLY, R225. -/
  | saAddApply (node : Nat) (idx : Nat)
  /-- SA_READ_REQUEST, R234. -/
  | saReadRequest (node : Nat) (idx : Nat)
  /-- SA_READ_ANSWER, R234. -/
  | saReadAnswer (src : Nat) (dst : Nat) (idx : Nat)
  /-- SA_COMMAND_PERFORM, R237. -/
  | saCommandPerform (node : Nat) (idx : Nat)
  /-- HOME_PACKET_ARRIVAL, R278. -/
  | homePacketArrival (src : Nat) (dst : Nat) (idx : Nat)
  /-- HOME_APPLY, R279. -/
  | homeApply (node : Nat) (idx : Nat)
  /-- HOME_READ_ANSWER, R280. -/
  | homeReadAnswer (node : Nat) (idx : Nat)
  /-- READ_RESPONSE_ARRIVAL, R281. -/
  | readResponseArrival (src : Nat) (dst : Nat) (idx : Nat)
  /-- TOKEN_VISIT, R277. -/
  | tokenVisit (chan : Nat) (node : Nat)
  /-- BEAT_ARRIVAL, R278. -/
  | beatArrival (src : Nat) (dst : Nat)
  /-- LINK_RETRANSMISSION, R286. -/
  | linkRetransmission (src : Nat) (dst : Nat) (ok : Bool)
  /-- TOKEN_TIMEOUT, R288. -/
  | tokenTimeout (chan : Nat)
  /-- RESYNC_START, R287. -/
  | resyncStart (removed : Option Nat)
  /-- RESYNC_DRAIN_END, R287. -/
  | resyncDrainEnd
  /-- GOLDEN_PASS, R284. -/
  | goldenPass (die : Nat)
  /-- MESH_DELIVERY_TIMEOUT, R285. -/
  | meshDeliveryTimeout (die : Nat)
  /-- FERR_CLEAR, R289. -/
  | ferrClear (node : Nat) (value : DWord)
  /-- LEASE_REQUEST, R300. -/
  | leaseRequest (core : Nat) (task : Nat)
  /-- FAILING_REQUEST, R303. -/
  | failingRequest (core : Nat) (task : Nat)
  /-- STARVATION_TIMEOUT, R306. -/
  | starvationTimeout (task : Nat)
  /-- HOME_UNIT_ANSWER, R307. -/
  | homeUnitAnswer (team : Nat)
  /-- UNWIND_ACCEPT, R316. -/
  | unwindAccept (team : Nat)
  /-- UNWIND_END, R318. -/
  | unwindEnd (task : Nat)
  /-- SPAWN_W_ADMISSION, R309. -/
  | spawnWAdmission (team : Nat)
  /-- SPAWN_W_TIMEOUT, R325. -/
  | spawnWTimeout (team : Nat)
  /-- SLOT_CONSUME, R323. -/
  | slotConsume (queue : Nat)
  /-- CONSUMER_PERIODIC_CHECK, R323. -/
  | consumerPeriodicCheck (queue : Nat)
  /-- TEAM_PLACEMENT, R328. -/
  | teamPlacement (task : Nat) (core : Nat) (places : List Nat)
  /-- CLAUSE_ARBITRATION, R330. -/
  | clauseArbitration (core : Nat)
  /-- SWAP_OUT, R331. -/
  | swapOut (team : Nat) (reason : BitVec 4)
  /-- CONTEXT_IMAGE_WRITE, R331. -/
  | contextImageWrite (team : Nat)
  /-- TEAM_REENTRY, R333. -/
  | teamReentry (image : Nat) (core : Nat) (places : List Nat)
  /-- SLEEP_EXPIRY, R350. -/
  | sleepExpiry (group : Nat)
  /-- DOORBELL, R360. -/
  | doorbell (aqi : Nat) (value : DWord)
  /-- PREEMPT_REQUEST, R337. -/
  | preemptRequest (queue : Nat)
  /-- RESET_REQUEST, R339. -/
  | resetRequest (queue : Nat)
  /-- PREEMPT_T1_EXPIRY, R337. -/
  | preemptT1Expiry (queue : Nat)
  /-- PREEMPT_T2_EXPIRY, R337. -/
  | preemptT2Expiry (queue : Nat)
  /-- PREEMPT_DONE, R338. -/
  | preemptDone (queue : Nat)
  /-- REGISTER_WRITE, R360. -/
  | registerWrite (aqi : Nat) (offset : Nat) (value : DWord)
  /-- HOST_WRITE, R261. -/
  | hostWrite (space : Nat) (addr : Nat) (bytes : List Byte)
  /-- HOST_READ, R261. -/
  | hostRead (space : Nat) (addr : Nat) (n : Nat)
  /-- MAPQ, R369. -/
  | mapq (queue : Nat) (block : Place) (pasid : BitVec 20) (root : Nat) (stage2 : Option Nat) (priv : Bool)
  /-- REVOKE, R363. -/
  | revoke (pasid : BitVec 20)
  /-- ENABLEQ, R338. -/
  | enableq (queue : Nat)
  /-- LOADOBJ, R365: the object is its header of 64 bytes and its code. -/
  | loadobj (asid : Nat) (base : Nat) (pages : Nat) (object : List Byte)
  /-- POLICY, R366. -/
  | policy (bytes : List Byte)
  /-- REPORT, R368. -/
  | report (region : Nat)
  /-- INVAL, R356. -/
  | inval (asid : Nat) (va : DWord) (glob : Bool)
  /-- INVAL_COMPLETE, R356. -/
  | invalComplete (idx : Nat)
  /-- FAULTDONE, R355. -/
  | faultdone (ring : Nat) (seq : Nat) (service : Bool)
  /-- REMAP, R362. -/
  | remap (entry : Nat) (value : QWord)
  /-- DEBUG, R340. -/
  | debug (cmd : DebugCmd)
  /-- PODBAR, R369. -/
  | podbar
  /-- POWER, R374. -/
  | power (watts : Nat)
  /-- BRING_UP, R357. -/
  | bringUp (ok : Bool)
  /-- RECOVERY_IMAGE, R357. -/
  | recoveryImage (image : List Byte)
  /-- METER_MIRROR, R367. -/
  | meterMirror
  /-- ORDERLY_POWER_DOWN, R367. -/
  | orderlyPowerDown
  /-- CHANNEL_RETRAIN, R373. -/
  | channelRetrain (channel : Nat)
  /-- THERMAL_STOP, R374. -/
  | thermalStop
  /-- THERMAL_RESUME, R374. -/
  | thermalResume
  /-- FIBRE_TRAINING, R371. -/
  | fibreTraining (fibre : Nat) (lambdas : Nat) (version : Nat)
  /-- FIBRE_FLIT_RETRY, R370. -/
  | fibreFlitRetry (fibre : Nat) (ok : Bool)
  /-- FIBRE_PARK, R372. -/
  | fibrePark (fibre : Nat)
  /-- FIBRE_WAKE, R372. -/
  | fibreWake (fibre : Nat)
  /-- POWER_LOSS, R367. -/
  | powerLoss
  /-- FIBRE_FLIT_RECEIVE, R370. -/
  | fibreFlitReceive (flit : FibreFlit)
  /-- HOST_LINK_COMPLETION, R352. -/
  | hostLinkCompletion (idx : Nat) (data : List Byte)
  deriving DecidableEq, Repr

end Sys2Proof
end

