-- ==== Sys2Proof/WellFormed.lean ====
section
/-!
DEFINITION. The register and field rules that a word must obey beyond the layout of its fields: R53, R55 and
the size, special and CSR numbers of R62, R65, R111 and R346.  A word that breaks one of them raises
ILLEGAL_OP (R46, check 2).
-/
namespace Sys2Proof

/-- An even-odd pair is named by an even field (R53). -/
def pairOk (r : BitVec 6) : Bool := r.toNat % 2 == 0
/-- Four consecutive registers are named by a multiple of 4 (R53). -/
def quadOk (r : BitVec 6) : Bool := r.toNat % 4 == 0
/-- A group of `n` registers from `r` does not pass v63 (R53). -/
def groupOk (r : BitVec 6) (n : Nat) : Bool := r.toNat + n ≤ 64

/-- The destination field of a group load of size `z` (R55): sizes 0 to 6. -/
def loadSizeOk (z : Size) (d : BitVec 6) : Bool :=
  match z with
  | .d => pairOk d
  | .q => quadOk d
  | .sw => false
  | _ => true
/-- The data field of a group store of size `z` (R55): sizes 0 to 4. -/
def storeSizeOk (z : Size) (d : BitVec 6) : Bool :=
  match z with
  | .b | .h | .w => true
  | .d => pairOk d
  | .q => quadOk d
  | .sb | .sh | .sw => false
/-- The sizes of LDF: one, two or four elements (R64, R204). -/
def ldfSizeOk (z : Size) (d : BitVec 6) : Bool :=
  match z with
  | .w => true
  | .d => pairOk d
  | .q => quadOk d
  | _ => false
/-- The sizes of LLD (R55, R120). -/
def lldSizeOk (z : Size) : Bool := match z with | .q => false | _ => true
/-- The sizes of LST (R55, R120). -/
def lstSizeOk (z : Size) : Bool :=
  match z with | .b | .h | .w | .d => true | .q | .sb | .sh | .sw => false
/-- The eight conditions of CMPI (R100). -/
def cmpiCondOk (c : Cond) : Bool :=
  match c with | .leu | .gtu | .tst => false | _ => true
/-- The scopes of a global atomic: CORE, QUAD, DIE, PKG (R65). -/
def atomScopeOk (s : Net) : Bool := match s with | .pod => false | _ => true
/-- The operand field of a 32-bit atomic: a word, or a pair for CAS (R65). -/
def atom32Ok (o : AtomOp) (b : BitVec 6) : Bool := match o with | .cas => pairOk b | _ => true
/-- The operand field of a 64-bit atomic: a pair, or four registers for CAS (R65). -/
def atom64Ok (o : AtomOp) (b : BitVec 6) : Bool := match o with | .cas => quadOk b | _ => pairOk b
/-- The specials a group reads (R111); QFREE is none of them (DEDUCED, assumption 47). -/
def srdOk (n : BitVec 8) : Bool := n.toNat ≤ 0x0B || (0x10 ≤ n.toNat && n.toNat ≤ 0x17)
/-- The specials a lead reads, as the 12-bit number sa * 64 + sb (R111, R117). -/
def lsrdOk (n : Nat) : Bool :=
  n == 0x02 || (0x05 ≤ n && n ≤ 0x0B) || (0x10 ≤ n && n ≤ 0x15) || n == 0x20
/-- The CSR numbers of R346. -/
def csrOk (n : Nat) : Bool := n ≤ 3 || (0x010 ≤ n && n ≤ 0x017) || (0x038 ≤ n && n ≤ 0x03F)
/-- The 12-bit number held in two 6-bit fields (R73, R117). -/
def num12 (hi lo : BitVec 6) : Nat := hi.toNat * 64 + lo.toNat

/-- The rules a decoded word obeys beyond its layout.  A step without an encoding obeys none. -/
def Instr.wf : Instr → Bool
  | .add64 d a b _ _ | .sub64 d a b _ _ => pairOk d && pairOk a && pairOk b
  | .shl64 d a _ _ _ | .shr64 d a _ _ _ | .sar64 d a _ _ _ | .lea64 d a _ _ _ => pairOk d && pairOk a
  | .mul64 d _ _ _ _ | .mulu64 d _ _ _ _ | .mad64 d _ _ _ _ => pairOk d
  | .mov64 d a _ => pairOk d && pairOk a
  | .bfxu _ _ _ p l | .bfxs _ _ _ p l | .bfi _ _ _ p l => p.toNat + (l.toNat + 1) ≤ 32
  | .cmpi c _ _ _ _ => cmpiCondOk c
  | .jr a _ | .jrl a _ => pairOk a
  | .srd _ n => srdOk n
  | .ld d a _ z _ => pairOk a && loadSizeOk z d
  | .st d a _ z _ => pairOk a && storeSizeOk z d
  | .lds d _ _ z _ | .ldq d _ _ z _ => loadSizeOk z d
  | .sts d _ _ z _ | .stq d _ _ z _ => storeSizeOk z d
  | .ldf d a _ z _ => pairOk a && ldfSizeOk z d
  | .ldacc d _ _ c _ => groupOk d (c.toNat + 1)
  | .atom32 _ a b _ _ o s => pairOk a && atom32Ok o b && atomScopeOk s
  | .atom64 d a b _ _ o s => pairOk d && pairOk a && atom64Ok o b && atomScopeOk s
  | .atoms _ _ b _ _ o => atom32Ok o b
  | .send _ _ _ _ m => m != 0#5
  | .qget d => pairOk d
  | .lsrd _ n m => lsrdOk (num12 n m)
  | .lld _ _ z _ => lldSizeOk z
  | .lst _ _ z _ => lstSizeOk z
  | .cpyin _ _ b _ i _ | .cpyout _ _ b _ i _ => i || pairOk b
  | .cpyg _ _ b _ _ | .gath _ _ b _ _ => pairOk b
  | .join d _ | .tstat d _ => pairOk d
  | .csrr _ h l | .csrw _ h l => csrOk (num12 h l)
  | .tlbi a _ => pairOk a
  | _ => true

end Sys2Proof
end

