-- ==== Sys2Proof/Decode.lean ====
section
/-!
DEFINITION. Decoding and encoding of instruction words, from the encoding tables of
spec/03_clauses_and_encoding.md (R52 to R73) as spec/opcode_table.json gives their bits.
`decode` is total on any word and rejects by name; `encode` gives the word of an instruction.
-/
namespace Sys2Proof

/-- Why a word is no instruction.  Every reason raises ILLEGAL_OP (R46, check 2). -/
inductive Reject where
  /-- A reserved major opcode, or a clause header in an instruction position (R58, R46). -/
  | reservedOpcode
  /-- A function, size, scope or mode code that names nothing. -/
  | reservedFunction
  /-- A field that must be zero is not (R53). -/
  | nonZeroField
  /-- A register or special field breaks R53, R55, R111 or R346. -/
  | badRegister
  deriving DecidableEq, Repr

/-! ### Codes of the enumerated fields -/

def RMode.code : RMode → BitVec 2
  | .rn => 0#2 | .rz => 1#2 | .rd => 2#2 | .ru => 3#2
def RMode.ofCode (c : BitVec 2) : Option RMode :=
  if c = 0#2 then some .rn else if c = 1#2 then some .rz else if c = 2#2 then some .rd else some .ru

def Size.code : Size → BitVec 3
  | .b => 0#3 | .h => 1#3 | .w => 2#3 | .d => 3#3 | .q => 4#3 | .sb => 5#3 | .sh => 6#3 | .sw => 7#3
def Size.ofCode (c : BitVec 3) : Option Size :=
  if c = 0#3 then some .b else if c = 1#3 then some .h else if c = 2#3 then some .w
  else if c = 3#3 then some .d else if c = 4#3 then some .q else if c = 5#3 then some .sb
  else if c = 6#3 then some .sh else some .sw

def FCond.code : FCond → BitVec 3
  | .eq => 0#3 | .ne => 1#3 | .lt => 2#3 | .le => 3#3 | .gt => 4#3 | .ge => 5#3 | .un => 6#3 | .ord => 7#3
def FCond.ofCode (c : BitVec 3) : Option FCond :=
  if c = 0#3 then some .eq else if c = 1#3 then some .ne else if c = 2#3 then some .lt
  else if c = 3#3 then some .le else if c = 4#3 then some .gt else if c = 5#3 then some .ge
  else if c = 6#3 then some .un else some .ord

def Net.code : Net → BitVec 3
  | .core => 0#3 | .quad => 1#3 | .die => 2#3 | .pkg => 3#3 | .pod => 4#3
def Net.ofCode (c : BitVec 3) : Option Net :=
  if c = 0#3 then some .core else if c = 1#3 then some .quad else if c = 2#3 then some .die
  else if c = 3#3 then some .pkg else if c = 4#3 then some .pod else none

def AtomOp.code : AtomOp → BitVec 3
  | .add => 0#3 | .min => 1#3 | .max => 2#3 | .and => 3#3 | .or => 4#3 | .xor => 5#3 | .xch => 6#3 | .cas => 7#3
def AtomOp.ofCode (c : BitVec 3) : Option AtomOp :=
  if c = 0#3 then some .add else if c = 1#3 then some .min else if c = 2#3 then some .max
  else if c = 3#3 then some .and else if c = 4#3 then some .or else if c = 5#3 then some .xor
  else if c = 6#3 then some .xch else some .cas

/-- The code of a condition in CMP (fn, R60). -/
def Cond.code6 : Cond → BitVec 6
  | .eq => 0#6 | .ne => 1#6 | .lt => 2#6 | .le => 3#6 | .ltu => 4#6 | .leu => 5#6 | .gt => 6#6 | .ge => 7#6
  | .gtu => 8#6 | .geu => 9#6 | .tst => 10#6
def Cond.ofCode6 (c : BitVec 6) : Option Cond :=
  if c = 0#6 then some .eq else if c = 1#6 then some .ne else if c = 2#6 then some .lt
  else if c = 3#6 then some .le else if c = 4#6 then some .ltu else if c = 5#6 then some .leu
  else if c = 6#6 then some .gt else if c = 7#6 then some .ge else if c = 8#6 then some .gtu
  else if c = 9#6 then some .geu else if c = 10#6 then some .tst else none
/-- The code of a condition in LCMP (fn8[3:0], R70). -/
def Cond.code4 : Cond → BitVec 4
  | .eq => 0#4 | .ne => 1#4 | .lt => 2#4 | .le => 3#4 | .ltu => 4#4 | .leu => 5#4 | .gt => 6#4 | .ge => 7#4
  | .gtu => 8#4 | .geu => 9#4 | .tst => 10#4
def Cond.ofCode4 (c : BitVec 4) : Option Cond :=
  if c = 0#4 then some .eq else if c = 1#4 then some .ne else if c = 2#4 then some .lt
  else if c = 3#4 then some .le else if c = 4#4 then some .ltu else if c = 5#4 then some .leu
  else if c = 6#4 then some .gt else if c = 7#4 then some .ge else if c = 8#4 then some .gtu
  else if c = 9#4 then some .geu else if c = 10#4 then some .tst else none
/-- The code of a condition in CMPI (d[5:3], R60): EQ, NE, LT, LE, GT, GE, LTU, GEU.  The other three
conditions have no code there; `Instr.wf` keeps them out. -/
def Cond.code3 : Cond → BitVec 3
  | .eq => 0#3 | .ne => 1#3 | .lt => 2#3 | .le => 3#3 | .gt => 4#3 | .ge => 5#3 | .ltu => 6#3 | .geu => 7#3
  | .leu => 0#3 | .gtu => 0#3 | .tst => 0#3
def Cond.ofCode3 (c : BitVec 3) : Option Cond :=
  if c = 0#3 then some .eq else if c = 1#3 then some .ne else if c = 2#3 then some .lt
  else if c = 3#3 then some .le else if c = 4#3 then some .gt else if c = 5#3 then some .ge
  else if c = 6#3 then some .ltu else some .geu

/-! ### The formats of R52 -/

/-- Format R. -/
def wordR (op d a b : BitVec 6) (x y : BitVec 1) (f : BitVec 6) : Word :=
  op ++ (d ++ (a ++ (b ++ (x ++ (y ++ f)))))
/-- Format I. -/
def wordI (op d a : BitVec 6) (x : BitVec 1) (i : BitVec 13) : Word := op ++ (d ++ (a ++ (x ++ i)))
/-- Format M. -/
def wordM (op d a : BitVec 6) (x : BitVec 1) (z : BitVec 3) (o : BitVec 10) : Word :=
  op ++ (d ++ (a ++ (x ++ (z ++ o))))
/-- Format B. -/
def wordB (op a : BitVec 6) (x : BitVec 1) (s : BitVec 19) : Word := op ++ (a ++ (x ++ s))
/-- Format J. -/
def wordJ (op d : BitVec 6) (i : BitVec 20) : Word := op ++ (d ++ i)
/-- Format L. -/
def wordL (op d a b : BitVec 6) (g : BitVec 8) : Word := op ++ (d ++ (a ++ (b ++ g)))
/-- Format LI. -/
def wordLI (op d a : BitVec 6) (h : BitVec 3) (j : BitVec 11) : Word := op ++ (d ++ (a ++ (h ++ j)))
/-- Format LB. -/
def wordLB (op : BitVec 6) (k p : BitVec 3) (x : BitVec 1) (s : BitVec 19) : Word := op ++ (k ++ (p ++ (x ++ s)))
/-- Format REP. -/
def wordREP (op c : BitVec 6) (s t : BitVec 3) (w : BitVec 14) : Word := op ++ (c ++ (s ++ (t ++ w)))

/-- An instruction whose fields that must be zero are zero, or the reason it is none. -/
def only (zero : Bool) (i : Instr) : Except Reject Instr := if zero then .ok i else .error .nonZeroField
/-- An instruction with an enumerated field, or none for a reserved code. -/
def withCode {α : Type} (c : Option α) (f : α → Except Reject Instr) : Except Reject Instr :=
  match c with
  | some a => f a
  | none => .error .reservedFunction

/-- Major opcode 0x01 (R58). -/
def decode01 (d : BitVec 6) (a : BitVec 6) (b : BitVec 6) (x : BitVec 1) (y : BitVec 1) (f : BitVec 6) : Except Reject Instr :=
  if f = 0#6 then .ok (.add d a b (x == 1#1) (y == 1#1))
  else if f = 1#6 then .ok (.sub d a b (x == 1#1) (y == 1#1))
  else if f = 2#6 then .ok (.and d a b (x == 1#1) (y == 1#1))
  else if f = 3#6 then .ok (.or d a b (x == 1#1) (y == 1#1))
  else if f = 4#6 then .ok (.xor d a b (x == 1#1) (y == 1#1))
  else if f = 5#6 then .ok (.andn d a b (x == 1#1) (y == 1#1))
  else if f = 6#6 then .ok (.shl d a b (x == 1#1) (y == 1#1))
  else if f = 7#6 then .ok (.shr d a b (x == 1#1) (y == 1#1))
  else if f = 8#6 then .ok (.sar d a b (x == 1#1) (y == 1#1))
  else if f = 9#6 then .ok (.rol d a b (x == 1#1) (y == 1#1))
  else if f = 10#6 then .ok (.min d a b (x == 1#1) (y == 1#1))
  else if f = 11#6 then .ok (.max d a b (x == 1#1) (y == 1#1))
  else if f = 12#6 then .ok (.minu d a b (x == 1#1) (y == 1#1))
  else if f = 13#6 then .ok (.maxu d a b (x == 1#1) (y == 1#1))
  else if f = 14#6 then .ok (.mul d a b (x == 1#1) (y == 1#1))
  else if f = 15#6 then .ok (.mulh d a b (x == 1#1) (y == 1#1))
  else if f = 16#6 then .ok (.mulhu d a b (x == 1#1) (y == 1#1))
  else if f = 17#6 then .ok (.mad d a b (x == 1#1) (y == 1#1))
  else if f = 18#6 then .ok (.adds d a b (x == 1#1) (y == 1#1))
  else if f = 19#6 then .ok (.subs d a b (x == 1#1) (y == 1#1))
  else if f = 20#6 then .ok (.absd d a b (x == 1#1) (y == 1#1))
  else .error .reservedFunction

/-- Major opcode 0x02 (R58). -/
def decode02 (d : BitVec 6) (a : BitVec 6) (b : BitVec 6) (x : BitVec 1) (y : BitVec 1) (f : BitVec 6) : Except Reject Instr :=
  if f = 0#6 then .ok (.add64 d a b (x == 1#1) (y == 1#1))
  else if f = 1#6 then .ok (.sub64 d a b (x == 1#1) (y == 1#1))
  else if f = 2#6 then .ok (.shl64 d a b (x == 1#1) (y == 1#1))
  else if f = 3#6 then .ok (.shr64 d a b (x == 1#1) (y == 1#1))
  else if f = 4#6 then .ok (.sar64 d a b (x == 1#1) (y == 1#1))
  else if f = 5#6 then .ok (.mul64 d a b (x == 1#1) (y == 1#1))
  else if f = 6#6 then .ok (.mulu64 d a b (x == 1#1) (y == 1#1))
  else if f = 7#6 then .ok (.mad64 d a b (x == 1#1) (y == 1#1))
  else if f = 8#6 then .ok (.lea64 d a b (x == 1#1) (y == 1#1))
  else .error .reservedFunction

/-- Major opcode 0x04 (R58). -/
def decode04 (d : BitVec 6) (a : BitVec 6) (b : BitVec 6) (x : BitVec 1) (y : BitVec 1) (f : BitVec 6) : Except Reject Instr :=
  if f = 0#6 then only (b == 0#6 && y == 0#1) (.mov d a (x == 1#1))
  else if f = 1#6 then only (b == 0#6 && y == 0#1) (.not d a (x == 1#1))
  else if f = 2#6 then only (b == 0#6 && y == 0#1) (.neg d a (x == 1#1))
  else if f = 3#6 then only (b == 0#6 && y == 0#1) (.abs d a (x == 1#1))
  else if f = 4#6 then only (b == 0#6 && y == 0#1) (.clz d a (x == 1#1))
  else if f = 5#6 then only (b == 0#6 && y == 0#1) (.ctz d a (x == 1#1))
  else if f = 6#6 then only (b == 0#6 && y == 0#1) (.popc d a (x == 1#1))
  else if f = 7#6 then only (b == 0#6 && y == 0#1) (.brev d a (x == 1#1))
  else if f = 8#6 then only (b == 0#6 && y == 0#1) (.sext8 d a (x == 1#1))
  else if f = 9#6 then only (b == 0#6 && y == 0#1) (.sext16 d a (x == 1#1))
  else if f = 10#6 then only (b == 0#6 && y == 0#1) (.zext8 d a (x == 1#1))
  else if f = 11#6 then only (b == 0#6 && y == 0#1) (.zext16 d a (x == 1#1))
  else if f = 12#6 then only (b == 0#6 && y == 0#1) (.mov64 d a (x == 1#1))
  else .error .reservedFunction

/-- Major opcode 0x05 (R58). -/
def decode05 (d : BitVec 6) (a : BitVec 6) (x : BitVec 1) (i : BitVec 13) : Except Reject Instr :=
  if i.extractLsb' 0 3 = 0#3 then .ok (.bfxu d a (x == 1#1) (i.extractLsb' 8 5) (i.extractLsb' 3 5))
  else if i.extractLsb' 0 3 = 1#3 then .ok (.bfxs d a (x == 1#1) (i.extractLsb' 8 5) (i.extractLsb' 3 5))
  else if i.extractLsb' 0 3 = 2#3 then .ok (.bfi d a (x == 1#1) (i.extractLsb' 8 5) (i.extractLsb' 3 5))
  else .error .reservedFunction

/-- Major opcode 0x08 (R58). -/
def decode08 (d : BitVec 6) (a : BitVec 6) (x : BitVec 1) (i : BitVec 13) : Except Reject Instr :=
  .ok (.addi d a (x == 1#1) i)

/-- Major opcode 0x09 (R58). -/
def decode09 (d : BitVec 6) (a : BitVec 6) (x : BitVec 1) (i : BitVec 13) : Except Reject Instr :=
  .ok (.andi d a (x == 1#1) i)

/-- Major opcode 0x0A (R58). -/
def decode0A (d : BitVec 6) (a : BitVec 6) (x : BitVec 1) (i : BitVec 13) : Except Reject Instr :=
  .ok (.ori d a (x == 1#1) i)

/-- Major opcode 0x0B (R58). -/
def decode0B (d : BitVec 6) (a : BitVec 6) (x : BitVec 1) (i : BitVec 13) : Except Reject Instr :=
  .ok (.xori d a (x == 1#1) i)

/-- Major opcode 0x0C (R58). -/
def decode0C (d : BitVec 6) (a : BitVec 6) (x : BitVec 1) (i : BitVec 13) : Except Reject Instr :=
  if i.extractLsb' 5 8 = 0#8 then .ok (.shli d a (x == 1#1) (i.extractLsb' 0 5))
  else if i.extractLsb' 5 8 = 64#8 then .ok (.shri d a (x == 1#1) (i.extractLsb' 0 5))
  else if i.extractLsb' 5 8 = 128#8 then .ok (.sari d a (x == 1#1) (i.extractLsb' 0 5))
  else if i.extractLsb' 5 8 = 192#8 then .ok (.roli d a (x == 1#1) (i.extractLsb' 0 5))
  else .error .reservedFunction

/-- Major opcode 0x0D (R58). -/
def decode0D (d : BitVec 6) (i : BitVec 20) : Except Reject Instr :=
  .ok (.movi d i)

/-- Major opcode 0x0E (R58). -/
def decode0E (d : BitVec 6) (i : BitVec 20) : Except Reject Instr :=
  .ok (.lui d i)

/-- Major opcode 0x06 (R58). -/
def decode06 (d : BitVec 6) (a : BitVec 6) (b : BitVec 6) (x : BitVec 1) (y : BitVec 1) (f : BitVec 6) : Except Reject Instr :=
  withCode (Cond.ofCode6 f) fun c' => only ((d.extractLsb' 3 3) == 0#3) (.cmp (d.extractLsb' 0 3) a b (x == 1#1) (y == 1#1) c')

/-- Major opcode 0x0F (R58). -/
def decode0F (d : BitVec 6) (a : BitVec 6) (x : BitVec 1) (i : BitVec 13) : Except Reject Instr :=
  withCode (Cond.ofCode3 (d.extractLsb' 3 3)) fun c' => .ok (.cmpi c' (d.extractLsb' 0 3) a (x == 1#1) i)

/-- Major opcode 0x07 (R58). -/
def decode07 (d : BitVec 6) (a : BitVec 6) (b : BitVec 6) (x : BitVec 1) (y : BitVec 1) (f : BitVec 6) : Except Reject Instr :=
  if f = 0#6 then only ((d.extractLsb' 3 3) == 0#3 && (a.extractLsb' 3 3) == 0#3 && (b.extractLsb' 3 3) == 0#3 && x == 0#1 && y == 0#1) (.pand (d.extractLsb' 0 3) (a.extractLsb' 0 3) (b.extractLsb' 0 3))
  else if f = 1#6 then only ((d.extractLsb' 3 3) == 0#3 && (a.extractLsb' 3 3) == 0#3 && (b.extractLsb' 3 3) == 0#3 && x == 0#1 && y == 0#1) (.por (d.extractLsb' 0 3) (a.extractLsb' 0 3) (b.extractLsb' 0 3))
  else if f = 2#6 then only ((d.extractLsb' 3 3) == 0#3 && (a.extractLsb' 3 3) == 0#3 && (b.extractLsb' 3 3) == 0#3 && x == 0#1 && y == 0#1) (.pxor (d.extractLsb' 0 3) (a.extractLsb' 0 3) (b.extractLsb' 0 3))
  else if f = 3#6 then only ((d.extractLsb' 3 3) == 0#3 && (a.extractLsb' 3 3) == 0#3 && b == 0#6 && x == 0#1 && y == 0#1) (.pnot (d.extractLsb' 0 3) (a.extractLsb' 0 3))
  else if f = 4#6 then only (a == 0#6 && b == 0#6 && x == 0#1 && y == 0#1) (.ptor d)
  else if f.extractLsb' 3 3 = 1#3 then .ok (.sel d a b (x == 1#1) (y == 1#1) (f.extractLsb' 0 3))
  else .error .reservedFunction

/-- Major opcode 0x10 (R58). -/
def decode10 (d : BitVec 6) (x : BitVec 1) (s : BitVec 19) : Except Reject Instr :=
  only (d == 0#6 && x == 0#1) (.br s)

/-- Major opcode 0x11 (R58). -/
def decode11 (d : BitVec 6) (x : BitVec 1) (s : BitVec 19) : Except Reject Instr :=
  only ((d.extractLsb' 3 3) == 0#3 && x == 0#1) (.brp (d.extractLsb' 0 3) s)

/-- Major opcode 0x12 (R58). -/
def decode12 (d : BitVec 6) (x : BitVec 1) (s : BitVec 19) : Except Reject Instr :=
  only ((d.extractLsb' 3 3) == 0#3 && x == 0#1) (.brn (d.extractLsb' 0 3) s)

/-- Major opcode 0x13 (R58). -/
def decode13 (d : BitVec 6) (x : BitVec 1) (s : BitVec 19) : Except Reject Instr :=
  .ok (.bz d (x == 1#1) s)

/-- Major opcode 0x14 (R58). -/
def decode14 (d : BitVec 6) (x : BitVec 1) (s : BitVec 19) : Except Reject Instr :=
  .ok (.bnz d (x == 1#1) s)

/-- Major opcode 0x15 (R58). -/
def decode15 (d : BitVec 6) (x : BitVec 1) (s : BitVec 19) : Except Reject Instr :=
  only (d == 0#6 && x == 0#1) (.call s)

/-- Major opcode 0x16 (R58). -/
def decode16 (d : BitVec 6) (x : BitVec 1) (s : BitVec 19) : Except Reject Instr :=
  only ((d.extractLsb' 3 3) == 0#3 && x == 0#1) (.callp (d.extractLsb' 0 3) s)

/-- Major opcode 0x17 (R58). -/
def decode17 (d : BitVec 6) (a : BitVec 6) (b : BitVec 6) (x : BitVec 1) (y : BitVec 1) (f : BitVec 6) : Except Reject Instr :=
  if f = 0#6 then only (d == 0#6 && b == 0#6 && y == 0#1) (.jr a (x == 1#1))
  else if f = 1#6 then only (d == 0#6 && b == 0#6 && y == 0#1) (.jrl a (x == 1#1))
  else if f = 2#6 then only (d == 0#6 && a == 0#6 && b == 0#6 && x == 0#1 && y == 0#1) (.ret)
  else if f = 3#6 then only (d == 0#6 && a == 0#6 && b == 0#6 && x == 0#1 && y == 0#1) (.yield)
  else if f = 4#6 then only (d == 0#6 && a == 0#6 && b == 0#6 && x == 0#1 && y == 0#1) (.exit)
  else if f = 5#6 then only (d == 0#6 && a == 0#6 && x == 0#1 && y == 0#1) (.trap b)
  else if f = 6#6 then only (d == 0#6 && a == 0#6 && x == 0#1 && y == 0#1) (.brk b)
  else if f = 7#6 then only (d == 0#6 && a == 0#6 && b == 0#6 && x == 0#1 && y == 0#1) (.xconv)
  else .error .reservedFunction

/-- Major opcode 0x39 (R58). -/
def decode39 (d : BitVec 6) (a : BitVec 6) (b : BitVec 6) (x : BitVec 1) (y : BitVec 1) (f : BitVec 6) : Except Reject Instr :=
  if f = 0#6 then only ((d.extractLsb' 2 4) == 0#4) (.xset (d.extractLsb' 0 2) a b (x == 1#1) (y == 1#1))
  else if f = 1#6 then only ((a.extractLsb' 2 4) == 0#4 && x == 0#1) (.rdx d (a.extractLsb' 0 2) b (y == 1#1))
  else if f = 2#6 then only ((d.extractLsb' 2 4) == 0#4) (.wrx (d.extractLsb' 0 2) a b (x == 1#1) (y == 1#1))
  else .error .reservedFunction

/-- Major opcode 0x37 (R58). -/
def decode37 (d : BitVec 6) (i : BitVec 20) : Except Reject Instr :=
  only ((i.extractLsb' 8 12) == 0#12) (.srd d (i.extractLsb' 0 8))

/-- Major opcode 0x38 (R58). -/
def decode38 (d : BitVec 6) (u : BitVec 3) (v : BitVec 3) (w : BitVec 14) : Except Reject Instr :=
  only (w == 0#14) (.rep d u v)

/-- Major opcode 0x18 (R58). -/
def decode18 (d : BitVec 6) (a : BitVec 6) (x : BitVec 1) (z : BitVec 3) (o : BitVec 10) : Except Reject Instr :=
  withCode (Size.ofCode z) fun z' => .ok (.ld d a (x == 1#1) z' o)

/-- Major opcode 0x19 (R58). -/
def decode19 (d : BitVec 6) (a : BitVec 6) (x : BitVec 1) (z : BitVec 3) (o : BitVec 10) : Except Reject Instr :=
  withCode (Size.ofCode z) fun z' => .ok (.st d a (x == 1#1) z' o)

/-- Major opcode 0x1A (R58). -/
def decode1A (d : BitVec 6) (a : BitVec 6) (x : BitVec 1) (z : BitVec 3) (o : BitVec 10) : Except Reject Instr :=
  withCode (Size.ofCode z) fun z' => .ok (.lds d a (x == 1#1) z' o)

/-- Major opcode 0x1B (R58). -/
def decode1B (d : BitVec 6) (a : BitVec 6) (x : BitVec 1) (z : BitVec 3) (o : BitVec 10) : Except Reject Instr :=
  withCode (Size.ofCode z) fun z' => .ok (.sts d a (x == 1#1) z' o)

/-- Major opcode 0x1C (R58). -/
def decode1C (d : BitVec 6) (a : BitVec 6) (x : BitVec 1) (z : BitVec 3) (o : BitVec 10) : Except Reject Instr :=
  withCode (Size.ofCode z) fun z' => .ok (.ldq d a (x == 1#1) z' o)

/-- Major opcode 0x1D (R58). -/
def decode1D (d : BitVec 6) (a : BitVec 6) (x : BitVec 1) (z : BitVec 3) (o : BitVec 10) : Except Reject Instr :=
  withCode (Size.ofCode z) fun z' => .ok (.stq d a (x == 1#1) z' o)

/-- Major opcode 0x1E (R58). -/
def decode1E (d : BitVec 6) (a : BitVec 6) (x : BitVec 1) (z : BitVec 3) (o : BitVec 10) : Except Reject Instr :=
  withCode (Size.ofCode z) fun z' => .ok (.ldf d a (x == 1#1) z' o)

/-- Major opcode 0x1F (R58). -/
def decode1F (d : BitVec 6) (a : BitVec 6) (x : BitVec 1) (z : BitVec 3) (o : BitVec 10) : Except Reject Instr :=
  .ok (.ldacc d a (x == 1#1) z o)

/-- Major opcode 0x20 (R58). -/
def decode20 (d : BitVec 6) (a : BitVec 6) (b : BitVec 6) (x : BitVec 1) (y : BitVec 1) (f : BitVec 6) : Except Reject Instr :=
  withCode (AtomOp.ofCode (f.extractLsb' 3 3)) fun o' => withCode (Net.ofCode (f.extractLsb' 0 3)) fun s' => .ok (.atom32 d a b (x == 1#1) (y == 1#1) o' s')

/-- Major opcode 0x21 (R58). -/
def decode21 (d : BitVec 6) (a : BitVec 6) (b : BitVec 6) (x : BitVec 1) (y : BitVec 1) (f : BitVec 6) : Except Reject Instr :=
  withCode (AtomOp.ofCode (f.extractLsb' 3 3)) fun o' => withCode (Net.ofCode (f.extractLsb' 0 3)) fun s' => .ok (.atom64 d a b (x == 1#1) (y == 1#1) o' s')

/-- Major opcode 0x22 (R58). -/
def decode22 (d : BitVec 6) (a : BitVec 6) (b : BitVec 6) (x : BitVec 1) (y : BitVec 1) (f : BitVec 6) : Except Reject Instr :=
  withCode (AtomOp.ofCode (f.extractLsb' 3 3)) fun o' => only ((f.extractLsb' 0 3) == 0#3) (.atoms d a b (x == 1#1) (y == 1#1) o')

/-- Major opcode 0x23 (R58). -/
def decode23 (d : BitVec 6) (a : BitVec 6) (b : BitVec 6) (x : BitVec 1) (y : BitVec 1) (f : BitVec 6) : Except Reject Instr :=
  if f = 0#6 then withCode (Net.ofCode (d.extractLsb' 0 3)) fun s' => only ((d.extractLsb' 3 3) == 0#3 && a == 0#6 && b == 0#6 && x == 0#1 && y == 0#1) (.fence s')
  else if f = 1#6 then withCode (Net.ofCode (a.extractLsb' 0 3)) fun n' => only ((d.extractLsb' 4 2) == 0#2 && (a.extractLsb' 3 3) == 0#3 && b == 0#6 && x == 0#1 && y == 0#1) (.bara (d.extractLsb' 0 4) n')
  else if f = 2#6 then withCode (Net.ofCode (a.extractLsb' 0 3)) fun n' => only ((d.extractLsb' 4 2) == 0#2 && (a.extractLsb' 3 3) == 0#3 && b == 0#6 && x == 0#1 && y == 0#1) (.barw (d.extractLsb' 0 4) n')
  else if f = 3#6 then withCode (Net.ofCode (a.extractLsb' 0 3)) fun n' => only ((d.extractLsb' 4 2) == 0#2 && (a.extractLsb' 3 3) == 0#3 && x == 0#1) (.barab (d.extractLsb' 0 4) n' b (y == 1#1))
  else if f = 4#6 then withCode (Net.ofCode (a.extractLsb' 0 3)) fun n' => only ((d.extractLsb' 4 2) == 0#2 && (a.extractLsb' 3 3) == 0#3 && (b.extractLsb' 3 3) == 0#3 && x == 0#1 && y == 0#1) (.bari (d.extractLsb' 0 4) n' (b.extractLsb' 0 3))
  else if f = 5#6 then withCode (Net.ofCode (a.extractLsb' 0 3)) fun n' => only ((d.extractLsb' 4 2) == 0#2 && (a.extractLsb' 3 3) == 0#3 && x == 0#1) (.bars (d.extractLsb' 0 4) n' b (y == 1#1))
  else .error .reservedFunction

/-- Major opcode 0x24 (R58). -/
def decode24 (d : BitVec 6) (a : BitVec 6) (b : BitVec 6) (x : BitVec 1) (y : BitVec 1) (f : BitVec 6) : Except Reject Instr :=
  if f = 0#6 then .ok (.xperm d a b (x == 1#1) (y == 1#1))
  else if f = 1#6 then .ok (.xup d a b (x == 1#1) (y == 1#1))
  else if f = 2#6 then .ok (.xdown d a b (x == 1#1) (y == 1#1))
  else if f = 3#6 then .ok (.xxor d a b (x == 1#1) (y == 1#1))
  else if f = 4#6 then only (b == 0#6 && y == 0#1) (.xredadd d a (x == 1#1))
  else if f = 5#6 then only (b == 0#6 && y == 0#1) (.xredmax d a (x == 1#1))
  else if f = 6#6 then only (b == 0#6 && y == 0#1) (.xredmin d a (x == 1#1))
  else if f = 7#6 then only (b == 0#6 && y == 0#1) (.xredand d a (x == 1#1))
  else if f = 8#6 then only (b == 0#6 && y == 0#1) (.xredor d a (x == 1#1))
  else if f = 9#6 then only (b == 0#6 && y == 0#1) (.xredfadd d a (x == 1#1))
  else if f = 10#6 then only (b == 0#6 && y == 0#1) (.xredfmax d a (x == 1#1))
  else if f = 11#6 then only (b == 0#6 && y == 0#1) (.xscanadd d a (x == 1#1))
  else if f = 12#6 then only ((a.extractLsb' 3 3) == 0#3 && b == 0#6 && x == 0#1 && y == 0#1) (.xbal d (a.extractLsb' 0 3))
  else if f = 13#6 then only ((d.extractLsb' 3 3) == 0#3 && (a.extractLsb' 3 3) == 0#3 && b == 0#6 && x == 0#1 && y == 0#1) (.xany (d.extractLsb' 0 3) (a.extractLsb' 0 3))
  else if f = 14#6 then only ((d.extractLsb' 3 3) == 0#3 && (a.extractLsb' 3 3) == 0#3 && b == 0#6 && x == 0#1 && y == 0#1) (.xall (d.extractLsb' 0 3) (a.extractLsb' 0 3))
  else if f = 15#6 then only (b == 0#6 && y == 0#1) (.xstep d a (x == 1#1))
  else .error .reservedFunction

/-- Major opcode 0x25 (R58). -/
def decode25 (d : BitVec 6) (a : BitVec 6) (b : BitVec 6) (x : BitVec 1) (y : BitVec 1) (f : BitVec 6) : Except Reject Instr :=
  if f.extractLsb' 5 1 = 0#1 then only (d == 0#6) (.send a b (x == 1#1) (y == 1#1) (f.extractLsb' 0 5))
  else if f = 32#6 then only (a == 0#6 && b == 0#6 && x == 0#1 && y == 0#1) (.qget d)
  else .error .reservedFunction

/-- Major opcode 0x26 (R58). -/
def decode26 (d : BitVec 6) (a : BitVec 6) (b : BitVec 6) (x : BitVec 1) (y : BitVec 1) (f : BitVec 6) : Except Reject Instr :=
  if f.extractLsb' 0 4 = 0#4 then withCode (RMode.ofCode (f.extractLsb' 4 2)) fun r' => .ok (.fadd d a b (x == 1#1) (y == 1#1) r')
  else if f.extractLsb' 0 4 = 1#4 then withCode (RMode.ofCode (f.extractLsb' 4 2)) fun r' => .ok (.fsub d a b (x == 1#1) (y == 1#1) r')
  else if f.extractLsb' 0 4 = 2#4 then withCode (RMode.ofCode (f.extractLsb' 4 2)) fun r' => .ok (.fmul d a b (x == 1#1) (y == 1#1) r')
  else if f.extractLsb' 0 4 = 3#4 then withCode (RMode.ofCode (f.extractLsb' 4 2)) fun r' => .ok (.ffma d a b (x == 1#1) (y == 1#1) r')
  else if f = 4#6 then .ok (.fmin d a b (x == 1#1) (y == 1#1))
  else if f = 5#6 then .ok (.fmax d a b (x == 1#1) (y == 1#1))
  else if f = 6#6 then only (b == 0#6 && y == 0#1) (.fabs d a (x == 1#1))
  else if f = 7#6 then only (b == 0#6 && y == 0#1) (.fneg d a (x == 1#1))
  else .error .reservedFunction

/-- Major opcode 0x27 (R58). -/
def decode27 (d : BitVec 6) (a : BitVec 6) (b : BitVec 6) (x : BitVec 1) (y : BitVec 1) (f : BitVec 6) : Except Reject Instr :=
  if f.extractLsb' 0 4 = 0#4 then withCode (RMode.ofCode (f.extractLsb' 4 2)) fun r' => only (b == 0#6 && y == 0#1) (.fcvtif d a (x == 1#1) r')
  else if f.extractLsb' 0 4 = 1#4 then withCode (RMode.ofCode (f.extractLsb' 4 2)) fun r' => only (b == 0#6 && y == 0#1) (.fcvtuf d a (x == 1#1) r')
  else if f.extractLsb' 0 4 = 2#4 then withCode (RMode.ofCode (f.extractLsb' 4 2)) fun r' => only (b == 0#6 && y == 0#1) (.fcvtfi d a (x == 1#1) r')
  else if f.extractLsb' 0 4 = 3#4 then withCode (RMode.ofCode (f.extractLsb' 4 2)) fun r' => only (b == 0#6 && y == 0#1) (.fcvtfu d a (x == 1#1) r')
  else if f.extractLsb' 0 4 = 4#4 then withCode (RMode.ofCode (f.extractLsb' 4 2)) fun r' => only (b == 0#6 && y == 0#1) (.fcvtbf d a (x == 1#1) r')
  else if f = 5#6 then only (b == 0#6 && y == 0#1) (.fcvtfb d a (x == 1#1))
  else if f.extractLsb' 0 4 = 6#4 then withCode (RMode.ofCode (f.extractLsb' 4 2)) fun r' => only (b == 0#6 && y == 0#1) (.fcvte4 d a (x == 1#1) r')
  else if f.extractLsb' 0 4 = 7#4 then withCode (RMode.ofCode (f.extractLsb' 4 2)) fun r' => only (b == 0#6 && y == 0#1) (.fcvte5 d a (x == 1#1) r')
  else if f = 8#6 then only (b == 0#6 && y == 0#1) (.fcvtf4 d a (x == 1#1))
  else if f = 9#6 then only (b == 0#6 && y == 0#1) (.fcvtf5 d a (x == 1#1))
  else if f.extractLsb' 0 4 = 10#4 then withCode (RMode.ofCode (f.extractLsb' 4 2)) fun r' => .ok (.fcvtsmE4 d a b (x == 1#1) (y == 1#1) r')
  else if f.extractLsb' 0 4 = 11#4 then withCode (RMode.ofCode (f.extractLsb' 4 2)) fun r' => .ok (.fcvtsmE5 d a b (x == 1#1) (y == 1#1) r')
  else .error .reservedFunction

/-- Major opcode 0x28 (R58). -/
def decode28 (d : BitVec 6) (a : BitVec 6) (b : BitVec 6) (x : BitVec 1) (y : BitVec 1) (f : BitVec 6) : Except Reject Instr :=
  if f.extractLsb' 0 4 = 0#4 then withCode (RMode.ofCode (f.extractLsb' 4 2)) fun r' => only (b == 0#6 && y == 0#1) (.frcp d a (x == 1#1) r')
  else if f.extractLsb' 0 4 = 1#4 then withCode (RMode.ofCode (f.extractLsb' 4 2)) fun r' => only (b == 0#6 && y == 0#1) (.frsq d a (x == 1#1) r')
  else if f.extractLsb' 0 4 = 2#4 then withCode (RMode.ofCode (f.extractLsb' 4 2)) fun r' => only (b == 0#6 && y == 0#1) (.fsqrt d a (x == 1#1) r')
  else if f.extractLsb' 0 4 = 3#4 then withCode (RMode.ofCode (f.extractLsb' 4 2)) fun r' => only (b == 0#6 && y == 0#1) (.fexp2 d a (x == 1#1) r')
  else if f.extractLsb' 0 4 = 4#4 then withCode (RMode.ofCode (f.extractLsb' 4 2)) fun r' => only (b == 0#6 && y == 0#1) (.flog2 d a (x == 1#1) r')
  else if f = 5#6 then .ok (.ftab d a b (x == 1#1) (y == 1#1))
  else if f.extractLsb' 0 4 = 6#4 then withCode (RMode.ofCode (f.extractLsb' 4 2)) fun r' => .ok (.fdiv d a b (x == 1#1) (y == 1#1) r')
  else .error .reservedFunction

/-- Major opcode 0x29 (R58). -/
def decode29 (d : BitVec 6) (a : BitVec 6) (b : BitVec 6) (x : BitVec 1) (y : BitVec 1) (f : BitVec 6) : Except Reject Instr :=
  if f.extractLsb' 0 4 = 0#4 then withCode (RMode.ofCode (f.extractLsb' 4 2)) fun r' => .ok (.hadd2 d a b (x == 1#1) (y == 1#1) r')
  else if f.extractLsb' 0 4 = 1#4 then withCode (RMode.ofCode (f.extractLsb' 4 2)) fun r' => .ok (.hsub2 d a b (x == 1#1) (y == 1#1) r')
  else if f.extractLsb' 0 4 = 2#4 then withCode (RMode.ofCode (f.extractLsb' 4 2)) fun r' => .ok (.hmul2 d a b (x == 1#1) (y == 1#1) r')
  else if f.extractLsb' 0 4 = 3#4 then withCode (RMode.ofCode (f.extractLsb' 4 2)) fun r' => .ok (.hfma2 d a b (x == 1#1) (y == 1#1) r')
  else if f = 4#6 then .ok (.hmax2 d a b (x == 1#1) (y == 1#1))
  else if f = 5#6 then .ok (.hmin2 d a b (x == 1#1) (y == 1#1))
  else .error .reservedFunction

/-- Major opcode 0x2A (R58). -/
def decode2A (d : BitVec 6) (a : BitVec 6) (b : BitVec 6) (x : BitVec 1) (y : BitVec 1) (f : BitVec 6) : Except Reject Instr :=
  withCode (FCond.ofCode (f.extractLsb' 0 3)) fun c' => only ((d.extractLsb' 3 3) == 0#3 && (f.extractLsb' 3 3) == 0#3) (.fcmp (d.extractLsb' 0 3) a b (x == 1#1) (y == 1#1) c')

/-- Major opcode 0x2B (R58). -/
def decode2B (d : BitVec 6) (a : BitVec 6) (b : BitVec 6) (x : BitVec 1) (y : BitVec 1) (f : BitVec 6) : Except Reject Instr :=
  if f = 0#6 then only (d == 0#6) (.saadd a b (x == 1#1) (y == 1#1))
  else if f = 1#6 then only (d == 0#6) (.saaddh a b (x == 1#1) (y == 1#1))
  else if f = 2#6 then only (b == 0#6 && y == 0#1) (.sard d a (x == 1#1))
  else if f = 3#6 then only (b == 0#6 && y == 0#1) (.sardh d a (x == 1#1))
  else if f = 4#6 then only (b == 0#6 && y == 0#1) (.sardq d a (x == 1#1))
  else if f = 5#6 then only (d == 0#6 && b == 0#6 && y == 0#1) (.sawait a (x == 1#1))
  else if f = 6#6 then only (b == 0#6 && y == 0#1) (.sacnt d a (x == 1#1))
  else .error .reservedFunction

/-- Major opcode 0x2C (R58). -/
def decode2C (d : BitVec 6) (a : BitVec 6) (b : BitVec 6) (g : BitVec 8) : Except Reject Instr :=
  if g = 0#8 then .ok (.ladd d a b)
  else if g = 1#8 then .ok (.lsub d a b)
  else if g = 2#8 then .ok (.land d a b)
  else if g = 3#8 then .ok (.lor d a b)
  else if g = 4#8 then .ok (.lxor d a b)
  else if g = 5#8 then .ok (.landn d a b)
  else if g = 6#8 then .ok (.lshl d a b)
  else if g = 7#8 then .ok (.lshr d a b)
  else if g = 8#8 then .ok (.lsar d a b)
  else if g = 9#8 then .ok (.lmin d a b)
  else if g = 10#8 then .ok (.lmax d a b)
  else if g = 11#8 then .ok (.lminu d a b)
  else if g = 12#8 then .ok (.lmaxu d a b)
  else if g = 13#8 then .ok (.lmul d a b)
  else if g = 14#8 then .ok (.lmulh d a b)
  else if g = 15#8 then .ok (.lmulhu d a b)
  else if g = 16#8 then only (b == 0#6) (.lmov d a)
  else if g = 17#8 then only (b == 0#6) (.lnot d a)
  else if g = 18#8 then only (b == 0#6) (.lneg d a)
  else if g = 19#8 then only (b == 0#6) (.lclz d a)
  else if g = 20#8 then only (b == 0#6) (.lpopc d a)
  else if g.extractLsb' 4 4 = 2#4 then withCode (Cond.ofCode4 (g.extractLsb' 0 4)) fun c' => only ((d.extractLsb' 3 3) == 0#3) (.lcmp (d.extractLsb' 0 3) a b c')
  else if g.extractLsb' 3 5 = 6#5 then .ok (.lsel d a b (g.extractLsb' 0 3))
  else if g = 56#8 then only ((d.extractLsb' 3 3) == 0#3 && (a.extractLsb' 3 3) == 0#3 && (b.extractLsb' 3 3) == 0#3) (.lpand (d.extractLsb' 0 3) (a.extractLsb' 0 3) (b.extractLsb' 0 3))
  else if g = 57#8 then only ((d.extractLsb' 3 3) == 0#3 && (a.extractLsb' 3 3) == 0#3 && (b.extractLsb' 3 3) == 0#3) (.lpor (d.extractLsb' 0 3) (a.extractLsb' 0 3) (b.extractLsb' 0 3))
  else if g = 58#8 then only ((d.extractLsb' 3 3) == 0#3 && (a.extractLsb' 3 3) == 0#3 && (b.extractLsb' 3 3) == 0#3) (.lpxor (d.extractLsb' 0 3) (a.extractLsb' 0 3) (b.extractLsb' 0 3))
  else if g = 59#8 then only ((d.extractLsb' 3 3) == 0#3 && (a.extractLsb' 3 3) == 0#3 && b == 0#6) (.lpnot (d.extractLsb' 0 3) (a.extractLsb' 0 3))
  else if g = 64#8 then .ok (.lsrd d a b)
  else if g = 65#8 then only (d == 0#6 && (a.extractLsb' 4 2) == 0#2 && b == 0#6) (.lbara (a.extractLsb' 0 4))
  else if g = 66#8 then only (d == 0#6 && (a.extractLsb' 4 2) == 0#2 && b == 0#6) (.lbarw (a.extractLsb' 0 4))
  else .error .reservedFunction

/-- Major opcode 0x2D (R58). -/
def decode2D (d : BitVec 6) (a : BitVec 6) (h : BitVec 3) (j : BitVec 11) : Except Reject Instr :=
  if h = 0#3 then only (a == 0#6) (.lmovi d j)
  else if h = 1#3 then .ok (.laddi d a j)
  else if h = 2#3 then .ok (.landi d a j)
  else if h = 3#3 then .ok (.lori d a j)
  else if h = 4#3 then only ((j.extractLsb' 6 5) == 0#5) (.lshli d a (j.extractLsb' 0 6))
  else if h = 5#3 then only ((j.extractLsb' 6 5) == 0#5) (.lshri d a (j.extractLsb' 0 6))
  else if h = 6#3 then only ((j.extractLsb' 6 5) == 0#5) (.lsari d a (j.extractLsb' 0 6))
  else if h = 7#3 then only (a == 0#6) (.lshin d j)
  else .error .reservedFunction

/-- Major opcode 0x2E (R58). -/
def decode2E (k : BitVec 3) (p : BitVec 3) (x : BitVec 1) (s : BitVec 19) : Except Reject Instr :=
  if k = 0#3 then only (p == 0#3 && x == 0#1) (.lbr s)
  else if k = 1#3 then only (x == 0#1) (.lbrp p s)
  else if k = 2#3 then only (x == 0#1) (.lbrn p s)
  else if k = 3#3 then only (p == 0#3 && x == 0#1 && s == 0#19) (.lend)
  else .error .reservedFunction

/-- Major opcode 0x2F (R58). -/
def decode2F (d : BitVec 6) (a : BitVec 6) (x : BitVec 1) (z : BitVec 3) (o : BitVec 10) : Except Reject Instr :=
  if x = 0#1 then withCode (Size.ofCode z) fun z' => .ok (.lld d a z' o)
  else if x = 1#1 then withCode (Size.ofCode z) fun z' => .ok (.lst d a z' o)
  else .error .reservedFunction

/-- Major opcode 0x30 (R58). -/
def decode30 (d : BitVec 6) (a : BitVec 6) (b : BitVec 6) (g : BitVec 8) : Except Reject Instr :=
  if g = 0#8 then only (d == 0#6 && b == 0#6) (.mcfg a)
  else if g = 1#8 then only (d == 0#6) (.mldw a b)
  else if g = 2#8 then only (d == 0#6 && a == 0#6 && b == 0#6) (.mswap)
  else if g = 3#8 then .ok (.mstrm d a b)
  else if g = 4#8 then only (a == 0#6) (.mzero d b)
  else if g = 5#8 then only (d == 0#6 && a == 0#6 && b == 0#6) (.mwait)
  else .error .reservedFunction

/-- Major opcode 0x31 (R58). -/
def decode31 (d : BitVec 6) (a : BitVec 6) (b : BitVec 6) (g : BitVec 8) : Except Reject Instr :=
  if g.extractLsb' 5 3 = 0#3 then .ok (.cpyin d a b ((g.extractLsb' 4 1) == 1#1) ((g.extractLsb' 3 1) == 1#1) (g.extractLsb' 0 3))
  else if g.extractLsb' 5 3 = 1#3 then .ok (.cpyout d a b ((g.extractLsb' 4 1) == 1#1) ((g.extractLsb' 3 1) == 1#1) (g.extractLsb' 0 3))
  else if g.extractLsb' 5 3 = 2#3 ∧ g.extractLsb' 3 1 = 0#1 then .ok (.cpyg d a b ((g.extractLsb' 4 1) == 1#1) (g.extractLsb' 0 3))
  else if g.extractLsb' 5 3 = 3#3 ∧ g.extractLsb' 3 1 = 0#1 then .ok (.gath d a b ((g.extractLsb' 4 1) == 1#1) (g.extractLsb' 0 3))
  else if g = 128#8 then only (d == 0#6 && b == 0#6) (.publ a)
  else if g = 160#8 then only (d == 0#6 && a == 0#6 && b == 0#6) (.cpwait)
  else .error .reservedFunction

/-- Major opcode 0x32 (R58). -/
def decode32 (d : BitVec 6) (a : BitVec 6) (b : BitVec 6) (g : BitVec 8) : Except Reject Instr :=
  if g = 0#8 then only (b == 0#6) (.saalloc d a)
  else if g = 1#8 then only (d == 0#6) (.saopen a b)
  else if g = 2#8 then only (d == 0#6 && b == 0#6) (.saclr a)
  else if g = 3#8 then only (d == 0#6 && b == 0#6) (.safree a)
  else if g = 4#8 then only (b == 0#6) (.saevict d a)
  else if g = 5#8 then only (b == 0#6) (.saload d a)
  else if g = 6#8 then only (b == 0#6) (.samerge d a)
  else .error .reservedFunction

/-- Major opcode 0x33 (R58). -/
def decode33 (d : BitVec 6) (a : BitVec 6) (b : BitVec 6) (g : BitVec 8) : Except Reject Instr :=
  if g = 0#8 then .ok (.spawn d a b)
  else if g = 1#8 then .ok (.spawnW d a b)
  else if g = 2#8 then only (b == 0#6) (.join d a)
  else if g = 3#8 then only (b == 0#6) (.tstat d a)
  else if g = 4#8 then .ok (.alwadd d a b)
  else if g = 5#8 then only (d == 0#6 && b == 0#6) (.unwind a)
  else if g = 6#8 then only (b == 0#6) (.alwrd d a)
  else .error .reservedFunction

/-- Major opcode 0x34 (R58). -/
def decode34 (d : BitVec 6) (a : BitVec 6) (b : BitVec 6) (g : BitVec 8) : Except Reject Instr :=
  only (d == 0#6 && b == 0#6 && g == 0#8) (.qsend a)

/-- Major opcode 0x35 (R58). -/
def decode35 (d : BitVec 6) (a : BitVec 6) (b : BitVec 6) (g : BitVec 8) : Except Reject Instr :=
  if g = 0#8 then only (d == 0#6 && b == 0#6) (.tload a)
  else if g = 1#8 then only (d == 0#6 && a == 0#6 && b == 0#6) (.tswap)
  else .error .reservedFunction

/-- Major opcode 0x36 (R58). -/
def decode36 (d : BitVec 6) (a : BitVec 6) (b : BitVec 6) (x : BitVec 1) (y : BitVec 1) (f : BitVec 6) : Except Reject Instr :=
  if f = 0#6 then only (x == 0#1 && y == 0#1) (.csrr d a b)
  else if f = 1#6 then only (x == 0#1 && y == 0#1) (.csrw d a b)
  else if f = 2#6 then only (d == 0#6 && a == 0#6 && b == 0#6 && x == 0#1 && y == 0#1) (.rft)
  else if f = 3#6 then only (d == 0#6 && b == 0#6 && y == 0#1) (.tlbi a (x == 1#1))
  else if f = 4#6 then only (d == 0#6 && a == 0#6 && b == 0#6 && x == 0#1 && y == 0#1) (.halt)
  else if f = 5#6 then only (d == 0#6 && b == 0#6 && y == 0#1) (.sleep a (x == 1#1))
  else .error .reservedFunction

/-- The fields of a word, taken apart as its major opcode asks; then the rules of `Instr.wf`. -/
def decodeFields (w : Word) : Except Reject Instr :=
  let op := w.extractLsb' 26 6
  if op = 0#6 then (if w = 0#32 then .ok .nop else .error .nonZeroField)
  else if op = 1#6 then decode01 (w.extractLsb' 20 6) (w.extractLsb' 14 6) (w.extractLsb' 8 6) (w.extractLsb' 7 1) (w.extractLsb' 6 1) (w.extractLsb' 0 6)
  else if op = 2#6 then decode02 (w.extractLsb' 20 6) (w.extractLsb' 14 6) (w.extractLsb' 8 6) (w.extractLsb' 7 1) (w.extractLsb' 6 1) (w.extractLsb' 0 6)
  else if op = 4#6 then decode04 (w.extractLsb' 20 6) (w.extractLsb' 14 6) (w.extractLsb' 8 6) (w.extractLsb' 7 1) (w.extractLsb' 6 1) (w.extractLsb' 0 6)
  else if op = 5#6 then decode05 (w.extractLsb' 20 6) (w.extractLsb' 14 6) (w.extractLsb' 13 1) (w.extractLsb' 0 13)
  else if op = 8#6 then decode08 (w.extractLsb' 20 6) (w.extractLsb' 14 6) (w.extractLsb' 13 1) (w.extractLsb' 0 13)
  else if op = 9#6 then decode09 (w.extractLsb' 20 6) (w.extractLsb' 14 6) (w.extractLsb' 13 1) (w.extractLsb' 0 13)
  else if op = 10#6 then decode0A (w.extractLsb' 20 6) (w.extractLsb' 14 6) (w.extractLsb' 13 1) (w.extractLsb' 0 13)
  else if op = 11#6 then decode0B (w.extractLsb' 20 6) (w.extractLsb' 14 6) (w.extractLsb' 13 1) (w.extractLsb' 0 13)
  else if op = 12#6 then decode0C (w.extractLsb' 20 6) (w.extractLsb' 14 6) (w.extractLsb' 13 1) (w.extractLsb' 0 13)
  else if op = 13#6 then decode0D (w.extractLsb' 20 6) (w.extractLsb' 0 20)
  else if op = 14#6 then decode0E (w.extractLsb' 20 6) (w.extractLsb' 0 20)
  else if op = 6#6 then decode06 (w.extractLsb' 20 6) (w.extractLsb' 14 6) (w.extractLsb' 8 6) (w.extractLsb' 7 1) (w.extractLsb' 6 1) (w.extractLsb' 0 6)
  else if op = 15#6 then decode0F (w.extractLsb' 20 6) (w.extractLsb' 14 6) (w.extractLsb' 13 1) (w.extractLsb' 0 13)
  else if op = 7#6 then decode07 (w.extractLsb' 20 6) (w.extractLsb' 14 6) (w.extractLsb' 8 6) (w.extractLsb' 7 1) (w.extractLsb' 6 1) (w.extractLsb' 0 6)
  else if op = 16#6 then decode10 (w.extractLsb' 20 6) (w.extractLsb' 19 1) (w.extractLsb' 0 19)
  else if op = 17#6 then decode11 (w.extractLsb' 20 6) (w.extractLsb' 19 1) (w.extractLsb' 0 19)
  else if op = 18#6 then decode12 (w.extractLsb' 20 6) (w.extractLsb' 19 1) (w.extractLsb' 0 19)
  else if op = 19#6 then decode13 (w.extractLsb' 20 6) (w.extractLsb' 19 1) (w.extractLsb' 0 19)
  else if op = 20#6 then decode14 (w.extractLsb' 20 6) (w.extractLsb' 19 1) (w.extractLsb' 0 19)
  else if op = 21#6 then decode15 (w.extractLsb' 20 6) (w.extractLsb' 19 1) (w.extractLsb' 0 19)
  else if op = 22#6 then decode16 (w.extractLsb' 20 6) (w.extractLsb' 19 1) (w.extractLsb' 0 19)
  else if op = 23#6 then decode17 (w.extractLsb' 20 6) (w.extractLsb' 14 6) (w.extractLsb' 8 6) (w.extractLsb' 7 1) (w.extractLsb' 6 1) (w.extractLsb' 0 6)
  else if op = 57#6 then decode39 (w.extractLsb' 20 6) (w.extractLsb' 14 6) (w.extractLsb' 8 6) (w.extractLsb' 7 1) (w.extractLsb' 6 1) (w.extractLsb' 0 6)
  else if op = 55#6 then decode37 (w.extractLsb' 20 6) (w.extractLsb' 0 20)
  else if op = 56#6 then decode38 (w.extractLsb' 20 6) (w.extractLsb' 17 3) (w.extractLsb' 14 3) (w.extractLsb' 0 14)
  else if op = 24#6 then decode18 (w.extractLsb' 20 6) (w.extractLsb' 14 6) (w.extractLsb' 13 1) (w.extractLsb' 10 3) (w.extractLsb' 0 10)
  else if op = 25#6 then decode19 (w.extractLsb' 20 6) (w.extractLsb' 14 6) (w.extractLsb' 13 1) (w.extractLsb' 10 3) (w.extractLsb' 0 10)
  else if op = 26#6 then decode1A (w.extractLsb' 20 6) (w.extractLsb' 14 6) (w.extractLsb' 13 1) (w.extractLsb' 10 3) (w.extractLsb' 0 10)
  else if op = 27#6 then decode1B (w.extractLsb' 20 6) (w.extractLsb' 14 6) (w.extractLsb' 13 1) (w.extractLsb' 10 3) (w.extractLsb' 0 10)
  else if op = 28#6 then decode1C (w.extractLsb' 20 6) (w.extractLsb' 14 6) (w.extractLsb' 13 1) (w.extractLsb' 10 3) (w.extractLsb' 0 10)
  else if op = 29#6 then decode1D (w.extractLsb' 20 6) (w.extractLsb' 14 6) (w.extractLsb' 13 1) (w.extractLsb' 10 3) (w.extractLsb' 0 10)
  else if op = 30#6 then decode1E (w.extractLsb' 20 6) (w.extractLsb' 14 6) (w.extractLsb' 13 1) (w.extractLsb' 10 3) (w.extractLsb' 0 10)
  else if op = 31#6 then decode1F (w.extractLsb' 20 6) (w.extractLsb' 14 6) (w.extractLsb' 13 1) (w.extractLsb' 10 3) (w.extractLsb' 0 10)
  else if op = 32#6 then decode20 (w.extractLsb' 20 6) (w.extractLsb' 14 6) (w.extractLsb' 8 6) (w.extractLsb' 7 1) (w.extractLsb' 6 1) (w.extractLsb' 0 6)
  else if op = 33#6 then decode21 (w.extractLsb' 20 6) (w.extractLsb' 14 6) (w.extractLsb' 8 6) (w.extractLsb' 7 1) (w.extractLsb' 6 1) (w.extractLsb' 0 6)
  else if op = 34#6 then decode22 (w.extractLsb' 20 6) (w.extractLsb' 14 6) (w.extractLsb' 8 6) (w.extractLsb' 7 1) (w.extractLsb' 6 1) (w.extractLsb' 0 6)
  else if op = 35#6 then decode23 (w.extractLsb' 20 6) (w.extractLsb' 14 6) (w.extractLsb' 8 6) (w.extractLsb' 7 1) (w.extractLsb' 6 1) (w.extractLsb' 0 6)
  else if op = 36#6 then decode24 (w.extractLsb' 20 6) (w.extractLsb' 14 6) (w.extractLsb' 8 6) (w.extractLsb' 7 1) (w.extractLsb' 6 1) (w.extractLsb' 0 6)
  else if op = 37#6 then decode25 (w.extractLsb' 20 6) (w.extractLsb' 14 6) (w.extractLsb' 8 6) (w.extractLsb' 7 1) (w.extractLsb' 6 1) (w.extractLsb' 0 6)
  else if op = 38#6 then decode26 (w.extractLsb' 20 6) (w.extractLsb' 14 6) (w.extractLsb' 8 6) (w.extractLsb' 7 1) (w.extractLsb' 6 1) (w.extractLsb' 0 6)
  else if op = 39#6 then decode27 (w.extractLsb' 20 6) (w.extractLsb' 14 6) (w.extractLsb' 8 6) (w.extractLsb' 7 1) (w.extractLsb' 6 1) (w.extractLsb' 0 6)
  else if op = 40#6 then decode28 (w.extractLsb' 20 6) (w.extractLsb' 14 6) (w.extractLsb' 8 6) (w.extractLsb' 7 1) (w.extractLsb' 6 1) (w.extractLsb' 0 6)
  else if op = 41#6 then decode29 (w.extractLsb' 20 6) (w.extractLsb' 14 6) (w.extractLsb' 8 6) (w.extractLsb' 7 1) (w.extractLsb' 6 1) (w.extractLsb' 0 6)
  else if op = 42#6 then decode2A (w.extractLsb' 20 6) (w.extractLsb' 14 6) (w.extractLsb' 8 6) (w.extractLsb' 7 1) (w.extractLsb' 6 1) (w.extractLsb' 0 6)
  else if op = 43#6 then decode2B (w.extractLsb' 20 6) (w.extractLsb' 14 6) (w.extractLsb' 8 6) (w.extractLsb' 7 1) (w.extractLsb' 6 1) (w.extractLsb' 0 6)
  else if op = 44#6 then decode2C (w.extractLsb' 20 6) (w.extractLsb' 14 6) (w.extractLsb' 8 6) (w.extractLsb' 0 8)
  else if op = 45#6 then decode2D (w.extractLsb' 20 6) (w.extractLsb' 14 6) (w.extractLsb' 11 3) (w.extractLsb' 0 11)
  else if op = 46#6 then decode2E (w.extractLsb' 23 3) (w.extractLsb' 20 3) (w.extractLsb' 19 1) (w.extractLsb' 0 19)
  else if op = 47#6 then decode2F (w.extractLsb' 20 6) (w.extractLsb' 14 6) (w.extractLsb' 13 1) (w.extractLsb' 10 3) (w.extractLsb' 0 10)
  else if op = 48#6 then decode30 (w.extractLsb' 20 6) (w.extractLsb' 14 6) (w.extractLsb' 8 6) (w.extractLsb' 0 8)
  else if op = 49#6 then decode31 (w.extractLsb' 20 6) (w.extractLsb' 14 6) (w.extractLsb' 8 6) (w.extractLsb' 0 8)
  else if op = 50#6 then decode32 (w.extractLsb' 20 6) (w.extractLsb' 14 6) (w.extractLsb' 8 6) (w.extractLsb' 0 8)
  else if op = 51#6 then decode33 (w.extractLsb' 20 6) (w.extractLsb' 14 6) (w.extractLsb' 8 6) (w.extractLsb' 0 8)
  else if op = 52#6 then decode34 (w.extractLsb' 20 6) (w.extractLsb' 14 6) (w.extractLsb' 8 6) (w.extractLsb' 0 8)
  else if op = 53#6 then decode35 (w.extractLsb' 20 6) (w.extractLsb' 14 6) (w.extractLsb' 8 6) (w.extractLsb' 0 8)
  else if op = 54#6 then decode36 (w.extractLsb' 20 6) (w.extractLsb' 14 6) (w.extractLsb' 8 6) (w.extractLsb' 7 1) (w.extractLsb' 6 1) (w.extractLsb' 0 6)
  else .error .reservedOpcode

/-- R46 check 2: the instruction a word is, or the reason it is none. -/
def decode (w : Word) : Except Reject Instr :=
  match decodeFields w with
  | .ok i => if i.wf then .ok i else .error .badRegister
  | .error r => .error r

/-- The four bytes of a word, lowest address first (R2). -/
def bytesOfWord (w : Word) : List Byte :=
  [w.extractLsb' 0 8, w.extractLsb' 8 8, w.extractLsb' 16 8, w.extractLsb' 24 8]

/-- The instruction that `decode` reads from a table row's bits: every encoded row is one 32-bit word, and its
bits are numbered as the word's are.  The rows without bits have no word. -/
def decodeTableWord (nbits w : Nat) : Option Instr :=
  if nbits = 0 then none
  else
    match decode (BitVec.ofNat 32 w) with
    | .ok i => some i
    | .error _ => none

/-- The word of an instruction, from the same tables.  A step without an encoding has none. -/
def encode : Instr → Option Word
  | .nop => some 0#32
  | .add d a b x y => some (wordR 1#6 d a b (BitVec.ofBool x) (BitVec.ofBool y) 0#6)
  | .sub d a b x y => some (wordR 1#6 d a b (BitVec.ofBool x) (BitVec.ofBool y) 1#6)
  | .and d a b x y => some (wordR 1#6 d a b (BitVec.ofBool x) (BitVec.ofBool y) 2#6)
  | .or d a b x y => some (wordR 1#6 d a b (BitVec.ofBool x) (BitVec.ofBool y) 3#6)
  | .xor d a b x y => some (wordR 1#6 d a b (BitVec.ofBool x) (BitVec.ofBool y) 4#6)
  | .andn d a b x y => some (wordR 1#6 d a b (BitVec.ofBool x) (BitVec.ofBool y) 5#6)
  | .shl d a b x y => some (wordR 1#6 d a b (BitVec.ofBool x) (BitVec.ofBool y) 6#6)
  | .shr d a b x y => some (wordR 1#6 d a b (BitVec.ofBool x) (BitVec.ofBool y) 7#6)
  | .sar d a b x y => some (wordR 1#6 d a b (BitVec.ofBool x) (BitVec.ofBool y) 8#6)
  | .rol d a b x y => some (wordR 1#6 d a b (BitVec.ofBool x) (BitVec.ofBool y) 9#6)
  | .min d a b x y => some (wordR 1#6 d a b (BitVec.ofBool x) (BitVec.ofBool y) 10#6)
  | .max d a b x y => some (wordR 1#6 d a b (BitVec.ofBool x) (BitVec.ofBool y) 11#6)
  | .minu d a b x y => some (wordR 1#6 d a b (BitVec.ofBool x) (BitVec.ofBool y) 12#6)
  | .maxu d a b x y => some (wordR 1#6 d a b (BitVec.ofBool x) (BitVec.ofBool y) 13#6)
  | .mul d a b x y => some (wordR 1#6 d a b (BitVec.ofBool x) (BitVec.ofBool y) 14#6)
  | .mulh d a b x y => some (wordR 1#6 d a b (BitVec.ofBool x) (BitVec.ofBool y) 15#6)
  | .mulhu d a b x y => some (wordR 1#6 d a b (BitVec.ofBool x) (BitVec.ofBool y) 16#6)
  | .mad d a b x y => some (wordR 1#6 d a b (BitVec.ofBool x) (BitVec.ofBool y) 17#6)
  | .adds d a b x y => some (wordR 1#6 d a b (BitVec.ofBool x) (BitVec.ofBool y) 18#6)
  | .subs d a b x y => some (wordR 1#6 d a b (BitVec.ofBool x) (BitVec.ofBool y) 19#6)
  | .absd d a b x y => some (wordR 1#6 d a b (BitVec.ofBool x) (BitVec.ofBool y) 20#6)
  | .add64 d a b x y => some (wordR 2#6 d a b (BitVec.ofBool x) (BitVec.ofBool y) 0#6)
  | .sub64 d a b x y => some (wordR 2#6 d a b (BitVec.ofBool x) (BitVec.ofBool y) 1#6)
  | .shl64 d a b x y => some (wordR 2#6 d a b (BitVec.ofBool x) (BitVec.ofBool y) 2#6)
  | .shr64 d a b x y => some (wordR 2#6 d a b (BitVec.ofBool x) (BitVec.ofBool y) 3#6)
  | .sar64 d a b x y => some (wordR 2#6 d a b (BitVec.ofBool x) (BitVec.ofBool y) 4#6)
  | .mul64 d a b x y => some (wordR 2#6 d a b (BitVec.ofBool x) (BitVec.ofBool y) 5#6)
  | .mulu64 d a b x y => some (wordR 2#6 d a b (BitVec.ofBool x) (BitVec.ofBool y) 6#6)
  | .mad64 d a b x y => some (wordR 2#6 d a b (BitVec.ofBool x) (BitVec.ofBool y) 7#6)
  | .lea64 d a b x y => some (wordR 2#6 d a b (BitVec.ofBool x) (BitVec.ofBool y) 8#6)
  | .mov d a x => some (wordR 4#6 d a 0#6 (BitVec.ofBool x) 0#1 0#6)
  | .not d a x => some (wordR 4#6 d a 0#6 (BitVec.ofBool x) 0#1 1#6)
  | .neg d a x => some (wordR 4#6 d a 0#6 (BitVec.ofBool x) 0#1 2#6)
  | .abs d a x => some (wordR 4#6 d a 0#6 (BitVec.ofBool x) 0#1 3#6)
  | .clz d a x => some (wordR 4#6 d a 0#6 (BitVec.ofBool x) 0#1 4#6)
  | .ctz d a x => some (wordR 4#6 d a 0#6 (BitVec.ofBool x) 0#1 5#6)
  | .popc d a x => some (wordR 4#6 d a 0#6 (BitVec.ofBool x) 0#1 6#6)
  | .brev d a x => some (wordR 4#6 d a 0#6 (BitVec.ofBool x) 0#1 7#6)
  | .sext8 d a x => some (wordR 4#6 d a 0#6 (BitVec.ofBool x) 0#1 8#6)
  | .sext16 d a x => some (wordR 4#6 d a 0#6 (BitVec.ofBool x) 0#1 9#6)
  | .zext8 d a x => some (wordR 4#6 d a 0#6 (BitVec.ofBool x) 0#1 10#6)
  | .zext16 d a x => some (wordR 4#6 d a 0#6 (BitVec.ofBool x) 0#1 11#6)
  | .mov64 d a x => some (wordR 4#6 d a 0#6 (BitVec.ofBool x) 0#1 12#6)
  | .bfxu d a x p l => some (wordI 5#6 d a (BitVec.ofBool x) (p ++ l ++ 0#3))
  | .bfxs d a x p l => some (wordI 5#6 d a (BitVec.ofBool x) (p ++ l ++ 1#3))
  | .bfi d a x p l => some (wordI 5#6 d a (BitVec.ofBool x) (p ++ l ++ 2#3))
  | .addi d a x i => some (wordI 8#6 d a (BitVec.ofBool x) i)
  | .andi d a x i => some (wordI 9#6 d a (BitVec.ofBool x) i)
  | .ori d a x i => some (wordI 10#6 d a (BitVec.ofBool x) i)
  | .xori d a x i => some (wordI 11#6 d a (BitVec.ofBool x) i)
  | .shli d a x n => some (wordI 12#6 d a (BitVec.ofBool x) (0#8 ++ n))
  | .shri d a x n => some (wordI 12#6 d a (BitVec.ofBool x) (64#8 ++ n))
  | .sari d a x n => some (wordI 12#6 d a (BitVec.ofBool x) (128#8 ++ n))
  | .roli d a x n => some (wordI 12#6 d a (BitVec.ofBool x) (192#8 ++ n))
  | .movi d i => some (wordJ 13#6 d i)
  | .lui d i => some (wordJ 14#6 d i)
  | .cmp p a b x y c => some (wordR 6#6 (0#3 ++ p) a b (BitVec.ofBool x) (BitVec.ofBool y) c.code6)
  | .cmpi c p a x i => some (wordI 15#6 (c.code3 ++ p) a (BitVec.ofBool x) i)
  | .pand d a b => some (wordR 7#6 (0#3 ++ d) (0#3 ++ a) (0#3 ++ b) 0#1 0#1 0#6)
  | .por d a b => some (wordR 7#6 (0#3 ++ d) (0#3 ++ a) (0#3 ++ b) 0#1 0#1 1#6)
  | .pxor d a b => some (wordR 7#6 (0#3 ++ d) (0#3 ++ a) (0#3 ++ b) 0#1 0#1 2#6)
  | .pnot d a => some (wordR 7#6 (0#3 ++ d) (0#3 ++ a) 0#6 0#1 0#1 3#6)
  | .ptor d => some (wordR 7#6 d 0#6 0#6 0#1 0#1 4#6)
  | .sel d a b x y k => some (wordR 7#6 d a b (BitVec.ofBool x) (BitVec.ofBool y) (1#3 ++ k))
  | .br s => some (wordB 16#6 0#6 0#1 s)
  | .brp p s => some (wordB 17#6 (0#3 ++ p) 0#1 s)
  | .brn p s => some (wordB 18#6 (0#3 ++ p) 0#1 s)
  | .bz a x s => some (wordB 19#6 a (BitVec.ofBool x) s)
  | .bnz a x s => some (wordB 20#6 a (BitVec.ofBool x) s)
  | .call s => some (wordB 21#6 0#6 0#1 s)
  | .callp p s => some (wordB 22#6 (0#3 ++ p) 0#1 s)
  | .jr a x => some (wordR 23#6 0#6 a 0#6 (BitVec.ofBool x) 0#1 0#6)
  | .jrl a x => some (wordR 23#6 0#6 a 0#6 (BitVec.ofBool x) 0#1 1#6)
  | .ret => some (wordR 23#6 0#6 0#6 0#6 0#1 0#1 2#6)
  | .yield => some (wordR 23#6 0#6 0#6 0#6 0#1 0#1 3#6)
  | .exit => some (wordR 23#6 0#6 0#6 0#6 0#1 0#1 4#6)
  | .trap n => some (wordR 23#6 0#6 0#6 n 0#1 0#1 5#6)
  | .brk n => some (wordR 23#6 0#6 0#6 n 0#1 0#1 6#6)
  | .xconv => some (wordR 23#6 0#6 0#6 0#6 0#1 0#1 7#6)
  | .xset k a b x y => some (wordR 57#6 (0#4 ++ k) a b (BitVec.ofBool x) (BitVec.ofBool y) 0#6)
  | .rdx d k b y => some (wordR 57#6 d (0#4 ++ k) b 0#1 (BitVec.ofBool y) 1#6)
  | .wrx k a b x y => some (wordR 57#6 (0#4 ++ k) a b (BitVec.ofBool x) (BitVec.ofBool y) 2#6)
  | .srd d n => some (wordJ 55#6 d (0#12 ++ n))
  | .rep c s t => some (wordREP 56#6 c s t 0#14)
  | .ld d a x z o => some (wordM 24#6 d a (BitVec.ofBool x) z.code o)
  | .st d a x z o => some (wordM 25#6 d a (BitVec.ofBool x) z.code o)
  | .lds d a x z o => some (wordM 26#6 d a (BitVec.ofBool x) z.code o)
  | .sts d a x z o => some (wordM 27#6 d a (BitVec.ofBool x) z.code o)
  | .ldq d a x z o => some (wordM 28#6 d a (BitVec.ofBool x) z.code o)
  | .stq d a x z o => some (wordM 29#6 d a (BitVec.ofBool x) z.code o)
  | .ldf d a x z o => some (wordM 30#6 d a (BitVec.ofBool x) z.code o)
  | .ldacc d a x c o => some (wordM 31#6 d a (BitVec.ofBool x) c o)
  | .atom32 d a b x y o s => some (wordR 32#6 d a b (BitVec.ofBool x) (BitVec.ofBool y) (o.code ++ s.code))
  | .atom64 d a b x y o s => some (wordR 33#6 d a b (BitVec.ofBool x) (BitVec.ofBool y) (o.code ++ s.code))
  | .atoms d a b x y o => some (wordR 34#6 d a b (BitVec.ofBool x) (BitVec.ofBool y) (o.code ++ 0#3))
  | .fence s => some (wordR 35#6 (0#3 ++ s.code) 0#6 0#6 0#1 0#1 0#6)
  | .bara k n => some (wordR 35#6 (0#2 ++ k) (0#3 ++ n.code) 0#6 0#1 0#1 1#6)
  | .barw k n => some (wordR 35#6 (0#2 ++ k) (0#3 ++ n.code) 0#6 0#1 0#1 2#6)
  | .barab k n b y => some (wordR 35#6 (0#2 ++ k) (0#3 ++ n.code) b 0#1 (BitVec.ofBool y) 3#6)
  | .bari k n p => some (wordR 35#6 (0#2 ++ k) (0#3 ++ n.code) (0#3 ++ p) 0#1 0#1 4#6)
  | .bars k n b y => some (wordR 35#6 (0#2 ++ k) (0#3 ++ n.code) b 0#1 (BitVec.ofBool y) 5#6)
  | .xperm d a b x y => some (wordR 36#6 d a b (BitVec.ofBool x) (BitVec.ofBool y) 0#6)
  | .xup d a b x y => some (wordR 36#6 d a b (BitVec.ofBool x) (BitVec.ofBool y) 1#6)
  | .xdown d a b x y => some (wordR 36#6 d a b (BitVec.ofBool x) (BitVec.ofBool y) 2#6)
  | .xxor d a b x y => some (wordR 36#6 d a b (BitVec.ofBool x) (BitVec.ofBool y) 3#6)
  | .xredadd d a x => some (wordR 36#6 d a 0#6 (BitVec.ofBool x) 0#1 4#6)
  | .xredmax d a x => some (wordR 36#6 d a 0#6 (BitVec.ofBool x) 0#1 5#6)
  | .xredmin d a x => some (wordR 36#6 d a 0#6 (BitVec.ofBool x) 0#1 6#6)
  | .xredand d a x => some (wordR 36#6 d a 0#6 (BitVec.ofBool x) 0#1 7#6)
  | .xredor d a x => some (wordR 36#6 d a 0#6 (BitVec.ofBool x) 0#1 8#6)
  | .xredfadd d a x => some (wordR 36#6 d a 0#6 (BitVec.ofBool x) 0#1 9#6)
  | .xredfmax d a x => some (wordR 36#6 d a 0#6 (BitVec.ofBool x) 0#1 10#6)
  | .xscanadd d a x => some (wordR 36#6 d a 0#6 (BitVec.ofBool x) 0#1 11#6)
  | .xbal d p => some (wordR 36#6 d (0#3 ++ p) 0#6 0#1 0#1 12#6)
  | .xany d p => some (wordR 36#6 (0#3 ++ d) (0#3 ++ p) 0#6 0#1 0#1 13#6)
  | .xall d p => some (wordR 36#6 (0#3 ++ d) (0#3 ++ p) 0#6 0#1 0#1 14#6)
  | .xstep d a x => some (wordR 36#6 d a 0#6 (BitVec.ofBool x) 0#1 15#6)
  | .send a b x y m => some (wordR 37#6 0#6 a b (BitVec.ofBool x) (BitVec.ofBool y) (0#1 ++ m))
  | .qget d => some (wordR 37#6 d 0#6 0#6 0#1 0#1 32#6)
  | .fadd d a b x y r => some (wordR 38#6 d a b (BitVec.ofBool x) (BitVec.ofBool y) (r.code ++ 0#4))
  | .fsub d a b x y r => some (wordR 38#6 d a b (BitVec.ofBool x) (BitVec.ofBool y) (r.code ++ 1#4))
  | .fmul d a b x y r => some (wordR 38#6 d a b (BitVec.ofBool x) (BitVec.ofBool y) (r.code ++ 2#4))
  | .ffma d a b x y r => some (wordR 38#6 d a b (BitVec.ofBool x) (BitVec.ofBool y) (r.code ++ 3#4))
  | .fmin d a b x y => some (wordR 38#6 d a b (BitVec.ofBool x) (BitVec.ofBool y) 4#6)
  | .fmax d a b x y => some (wordR 38#6 d a b (BitVec.ofBool x) (BitVec.ofBool y) 5#6)
  | .fabs d a x => some (wordR 38#6 d a 0#6 (BitVec.ofBool x) 0#1 6#6)
  | .fneg d a x => some (wordR 38#6 d a 0#6 (BitVec.ofBool x) 0#1 7#6)
  | .fcvtif d a x r => some (wordR 39#6 d a 0#6 (BitVec.ofBool x) 0#1 (r.code ++ 0#4))
  | .fcvtuf d a x r => some (wordR 39#6 d a 0#6 (BitVec.ofBool x) 0#1 (r.code ++ 1#4))
  | .fcvtfi d a x r => some (wordR 39#6 d a 0#6 (BitVec.ofBool x) 0#1 (r.code ++ 2#4))
  | .fcvtfu d a x r => some (wordR 39#6 d a 0#6 (BitVec.ofBool x) 0#1 (r.code ++ 3#4))
  | .fcvtbf d a x r => some (wordR 39#6 d a 0#6 (BitVec.ofBool x) 0#1 (r.code ++ 4#4))
  | .fcvtfb d a x => some (wordR 39#6 d a 0#6 (BitVec.ofBool x) 0#1 5#6)
  | .fcvte4 d a x r => some (wordR 39#6 d a 0#6 (BitVec.ofBool x) 0#1 (r.code ++ 6#4))
  | .fcvte5 d a x r => some (wordR 39#6 d a 0#6 (BitVec.ofBool x) 0#1 (r.code ++ 7#4))
  | .fcvtf4 d a x => some (wordR 39#6 d a 0#6 (BitVec.ofBool x) 0#1 8#6)
  | .fcvtf5 d a x => some (wordR 39#6 d a 0#6 (BitVec.ofBool x) 0#1 9#6)
  | .fcvtsmE4 d a b x y r => some (wordR 39#6 d a b (BitVec.ofBool x) (BitVec.ofBool y) (r.code ++ 10#4))
  | .fcvtsmE5 d a b x y r => some (wordR 39#6 d a b (BitVec.ofBool x) (BitVec.ofBool y) (r.code ++ 11#4))
  | .frcp d a x r => some (wordR 40#6 d a 0#6 (BitVec.ofBool x) 0#1 (r.code ++ 0#4))
  | .frsq d a x r => some (wordR 40#6 d a 0#6 (BitVec.ofBool x) 0#1 (r.code ++ 1#4))
  | .fsqrt d a x r => some (wordR 40#6 d a 0#6 (BitVec.ofBool x) 0#1 (r.code ++ 2#4))
  | .fexp2 d a x r => some (wordR 40#6 d a 0#6 (BitVec.ofBool x) 0#1 (r.code ++ 3#4))
  | .flog2 d a x r => some (wordR 40#6 d a 0#6 (BitVec.ofBool x) 0#1 (r.code ++ 4#4))
  | .ftab d a b x y => some (wordR 40#6 d a b (BitVec.ofBool x) (BitVec.ofBool y) 5#6)
  | .fdiv d a b x y r => some (wordR 40#6 d a b (BitVec.ofBool x) (BitVec.ofBool y) (r.code ++ 6#4))
  | .hadd2 d a b x y r => some (wordR 41#6 d a b (BitVec.ofBool x) (BitVec.ofBool y) (r.code ++ 0#4))
  | .hsub2 d a b x y r => some (wordR 41#6 d a b (BitVec.ofBool x) (BitVec.ofBool y) (r.code ++ 1#4))
  | .hmul2 d a b x y r => some (wordR 41#6 d a b (BitVec.ofBool x) (BitVec.ofBool y) (r.code ++ 2#4))
  | .hfma2 d a b x y r => some (wordR 41#6 d a b (BitVec.ofBool x) (BitVec.ofBool y) (r.code ++ 3#4))
  | .hmax2 d a b x y => some (wordR 41#6 d a b (BitVec.ofBool x) (BitVec.ofBool y) 4#6)
  | .hmin2 d a b x y => some (wordR 41#6 d a b (BitVec.ofBool x) (BitVec.ofBool y) 5#6)
  | .fcmp p a b x y c => some (wordR 42#6 (0#3 ++ p) a b (BitVec.ofBool x) (BitVec.ofBool y) (0#3 ++ c.code))
  | .saadd a b x y => some (wordR 43#6 0#6 a b (BitVec.ofBool x) (BitVec.ofBool y) 0#6)
  | .saaddh a b x y => some (wordR 43#6 0#6 a b (BitVec.ofBool x) (BitVec.ofBool y) 1#6)
  | .sard d a x => some (wordR 43#6 d a 0#6 (BitVec.ofBool x) 0#1 2#6)
  | .sardh d a x => some (wordR 43#6 d a 0#6 (BitVec.ofBool x) 0#1 3#6)
  | .sardq d a x => some (wordR 43#6 d a 0#6 (BitVec.ofBool x) 0#1 4#6)
  | .sawait a x => some (wordR 43#6 0#6 a 0#6 (BitVec.ofBool x) 0#1 5#6)
  | .sacnt d a x => some (wordR 43#6 d a 0#6 (BitVec.ofBool x) 0#1 6#6)
  | .ladd d a b => some (wordL 44#6 d a b 0#8)
  | .lsub d a b => some (wordL 44#6 d a b 1#8)
  | .land d a b => some (wordL 44#6 d a b 2#8)
  | .lor d a b => some (wordL 44#6 d a b 3#8)
  | .lxor d a b => some (wordL 44#6 d a b 4#8)
  | .landn d a b => some (wordL 44#6 d a b 5#8)
  | .lshl d a b => some (wordL 44#6 d a b 6#8)
  | .lshr d a b => some (wordL 44#6 d a b 7#8)
  | .lsar d a b => some (wordL 44#6 d a b 8#8)
  | .lmin d a b => some (wordL 44#6 d a b 9#8)
  | .lmax d a b => some (wordL 44#6 d a b 10#8)
  | .lminu d a b => some (wordL 44#6 d a b 11#8)
  | .lmaxu d a b => some (wordL 44#6 d a b 12#8)
  | .lmul d a b => some (wordL 44#6 d a b 13#8)
  | .lmulh d a b => some (wordL 44#6 d a b 14#8)
  | .lmulhu d a b => some (wordL 44#6 d a b 15#8)
  | .lmov d a => some (wordL 44#6 d a 0#6 16#8)
  | .lnot d a => some (wordL 44#6 d a 0#6 17#8)
  | .lneg d a => some (wordL 44#6 d a 0#6 18#8)
  | .lclz d a => some (wordL 44#6 d a 0#6 19#8)
  | .lpopc d a => some (wordL 44#6 d a 0#6 20#8)
  | .lcmp p a b c => some (wordL 44#6 (0#3 ++ p) a b (2#4 ++ c.code4))
  | .lsel d a b k => some (wordL 44#6 d a b (6#5 ++ k))
  | .lpand d a b => some (wordL 44#6 (0#3 ++ d) (0#3 ++ a) (0#3 ++ b) 56#8)
  | .lpor d a b => some (wordL 44#6 (0#3 ++ d) (0#3 ++ a) (0#3 ++ b) 57#8)
  | .lpxor d a b => some (wordL 44#6 (0#3 ++ d) (0#3 ++ a) (0#3 ++ b) 58#8)
  | .lpnot d a => some (wordL 44#6 (0#3 ++ d) (0#3 ++ a) 0#6 59#8)
  | .lsrd d n m => some (wordL 44#6 d n m 64#8)
  | .lbara k => some (wordL 44#6 0#6 (0#2 ++ k) 0#6 65#8)
  | .lbarw k => some (wordL 44#6 0#6 (0#2 ++ k) 0#6 66#8)
  | .lmovi d i => some (wordLI 45#6 d 0#6 0#3 i)
  | .laddi d a i => some (wordLI 45#6 d a 1#3 i)
  | .landi d a i => some (wordLI 45#6 d a 2#3 i)
  | .lori d a i => some (wordLI 45#6 d a 3#3 i)
  | .lshli d a n => some (wordLI 45#6 d a 4#3 (0#5 ++ n))
  | .lshri d a n => some (wordLI 45#6 d a 5#3 (0#5 ++ n))
  | .lsari d a n => some (wordLI 45#6 d a 6#3 (0#5 ++ n))
  | .lshin d i => some (wordLI 45#6 d 0#6 7#3 i)
  | .lbr s => some (wordLB 46#6 0#3 0#3 0#1 s)
  | .lbrp p s => some (wordLB 46#6 1#3 p 0#1 s)
  | .lbrn p s => some (wordLB 46#6 2#3 p 0#1 s)
  | .lend => some (wordLB 46#6 3#3 0#3 0#1 0#19)
  | .lld d a z o => some (wordM 47#6 d a 0#1 z.code o)
  | .lst d a z o => some (wordM 47#6 d a 1#1 z.code o)
  | .mcfg a => some (wordL 48#6 0#6 a 0#6 0#8)
  | .mldw a b => some (wordL 48#6 0#6 a b 1#8)
  | .mswap => some (wordL 48#6 0#6 0#6 0#6 2#8)
  | .mstrm d a b => some (wordL 48#6 d a b 3#8)
  | .mzero d b => some (wordL 48#6 d 0#6 b 4#8)
  | .mwait => some (wordL 48#6 0#6 0#6 0#6 5#8)
  | .cpyin d a b v i k => some (wordL 49#6 d a b (0#3 ++ BitVec.ofBool v ++ BitVec.ofBool i ++ k))
  | .cpyout d a b v i k => some (wordL 49#6 d a b (1#3 ++ BitVec.ofBool v ++ BitVec.ofBool i ++ k))
  | .cpyg d a b v k => some (wordL 49#6 d a b (2#3 ++ BitVec.ofBool v ++ 0#1 ++ k))
  | .gath d a b v k => some (wordL 49#6 d a b (3#3 ++ BitVec.ofBool v ++ 0#1 ++ k))
  | .publ a => some (wordL 49#6 0#6 a 0#6 128#8)
  | .cpwait => some (wordL 49#6 0#6 0#6 0#6 160#8)
  | .saalloc d a => some (wordL 50#6 d a 0#6 0#8)
  | .saopen a b => some (wordL 50#6 0#6 a b 1#8)
  | .saclr a => some (wordL 50#6 0#6 a 0#6 2#8)
  | .safree a => some (wordL 50#6 0#6 a 0#6 3#8)
  | .saevict d a => some (wordL 50#6 d a 0#6 4#8)
  | .saload d a => some (wordL 50#6 d a 0#6 5#8)
  | .samerge d a => some (wordL 50#6 d a 0#6 6#8)
  | .spawn d a b => some (wordL 51#6 d a b 0#8)
  | .spawnW d a b => some (wordL 51#6 d a b 1#8)
  | .join d a => some (wordL 51#6 d a 0#6 2#8)
  | .tstat d a => some (wordL 51#6 d a 0#6 3#8)
  | .alwadd d a b => some (wordL 51#6 d a b 4#8)
  | .unwind a => some (wordL 51#6 0#6 a 0#6 5#8)
  | .alwrd d a => some (wordL 51#6 d a 0#6 6#8)
  | .qsend a => some (wordL 52#6 0#6 a 0#6 0#8)
  | .tload a => some (wordL 53#6 0#6 a 0#6 0#8)
  | .tswap => some (wordL 53#6 0#6 0#6 0#6 1#8)
  | .csrr d h l => some (wordR 54#6 d h l 0#1 0#1 0#6)
  | .csrw d h l => some (wordR 54#6 d h l 0#1 0#1 1#6)
  | .rft => some (wordR 54#6 0#6 0#6 0#6 0#1 0#1 2#6)
  | .tlbi a x => some (wordR 54#6 0#6 a 0#6 (BitVec.ofBool x) 0#1 3#6)
  | .halt => some (wordR 54#6 0#6 0#6 0#6 0#1 0#1 4#6)
  | .sleep a x => some (wordR 54#6 0#6 a 0#6 (BitVec.ofBool x) 0#1 5#6)
  | .clauseHeaderIssue => none
  | .longLatencyResult _ _ _ => none
  | .teamRetirement _ => none
  | .leadStop _ => none
  | .taskCompletion _ => none
  | .queueEntryFill _ => none
  | .qsendAppend _ => none
  | .widePhaseArrival _ _ => none
  | .barrierWaitRelease _ _ => none
  | .sendAcceptance _ => none
  | .nextDelivery _ => none
  | .copyDelivery _ _ _ => none
  | .copyUnitBegin _ _ => none
  | .copyLateDiscard _ _ _ => none
  | .cpwaitRelease _ => none
  | .publSelectorFlip _ => none
  | .matArrayAcquire _ => none
  | .mldwArrayLoad _ => none
  | .mstrmArrayPass _ => none
  | .mwaitRelease _ => none
  | .tableLoad _ => none
  | .saAddApply _ _ => none
  | .saReadRequest _ _ => none
  | .saReadAnswer _ _ _ => none
  | .saCommandPerform _ _ => none
  | .homePacketArrival _ _ _ => none
  | .homeApply _ _ => none
  | .homeReadAnswer _ _ => none
  | .readResponseArrival _ _ _ => none
  | .tokenVisit _ _ => none
  | .beatArrival _ _ => none
  | .linkRetransmission _ _ _ => none
  | .tokenTimeout _ => none
  | .resyncStart _ => none
  | .resyncDrainEnd => none
  | .goldenPass _ => none
  | .meshDeliveryTimeout _ => none
  | .ferrClear _ _ => none
  | .leaseRequest _ _ => none
  | .failingRequest _ _ => none
  | .starvationTimeout _ => none
  | .homeUnitAnswer _ => none
  | .unwindAccept _ => none
  | .unwindEnd _ => none
  | .spawnWAdmission _ => none
  | .spawnWTimeout _ => none
  | .slotConsume _ => none
  | .consumerPeriodicCheck _ => none
  | .teamPlacement _ _ _ => none
  | .clauseArbitration _ => none
  | .swapOut _ _ => none
  | .contextImageWrite _ => none
  | .teamReentry _ _ _ => none
  | .sleepExpiry _ => none
  | .doorbell _ _ => none
  | .preemptRequest _ => none
  | .resetRequest _ => none
  | .preemptT1Expiry _ => none
  | .preemptT2Expiry _ => none
  | .preemptDone _ => none
  | .registerWrite _ _ _ => none
  | .hostWrite _ _ _ => none
  | .hostRead _ _ _ => none
  | .mapq _ _ _ _ _ _ => none
  | .revoke _ => none
  | .enableq _ => none
  | .loadobj _ _ _ _ => none
  | .policy _ => none
  | .report _ => none
  | .inval _ _ _ => none
  | .invalComplete _ => none
  | .faultdone _ _ _ => none
  | .remap _ _ => none
  | .debug _ => none
  | .podbar => none
  | .power _ => none
  | .bringUp _ => none
  | .recoveryImage _ => none
  | .meterMirror => none
  | .orderlyPowerDown => none
  | .channelRetrain _ => none
  | .thermalStop => none
  | .thermalResume => none
  | .fibreTraining _ _ _ => none
  | .fibreFlitRetry _ _ => none
  | .fibrePark _ => none
  | .fibreWake _ => none
  | .powerLoss => none
  | .fibreFlitReceive _ => none
  | .hostLinkCompletion _ _ => none

/-- The word of an encoded instruction; 0 for a step without an encoding. -/
def wordOf (i : Instr) : Word := (encode i).getD 0#32

end Sys2Proof
end

