-- ==== Sys2Proof/Config.lean ====
section
/-!
DEFINITION. What one part fixes (R1) and the free values: what the spec leaves open, as opaque
constants without a value.  Each free value is named in the assumption log.
-/
namespace Sys2Proof.Config

/-- Lanes of a core, the group width WID (R1, R11). -/
def lanes : Nat := 64
/-- Slots of a core, and lead contexts of a core (R11, R328). -/
def slots : Nat := 8
/-- Compute dies of the package (R1). -/
def dies : Nat := 8
/-- Cores of the package (R12). -/
def cores : Nat := 768
/-- Hedgerow nodes: eight compute dies and two IO dies (R271). -/
def nodes : Nat := 10
/-- The IO node at which host memory and I/O space are homed (R261, R352). -/
def ioNode : Nat := 8
/-- Entries of a die's task table (R294). -/
def taskEntries : Nat := 8192
/-- The most a lease holds, in AU (R300). -/
def leaseMax : Nat := 4096
/-- A charge that leaves a lease below this asks for a refill (R300). -/
def leaseLow : Nat := 1024
/-- Bytes of a granule of a core's SRAM pool (R1). -/
def granule : Nat := 16384
/-- Granules of a core's SRAM pool (R132). -/
def corePool : Nat := 128
/-- Entries of a node's early buffer and the reserved ones among them (R282). -/
def earlyEntries : Nat := 2048
def earlyReserved : Nat := 9
/-- Held stream-accumulator requests of a die (R230). -/
def heldMax : Nat := 16384
/-- Bytes of GDDR 7 and of Sward (R376). -/
def farBytes : Nat := 384 * 2 ^ 30
def nearBytes : Nat := 16 * 2 ^ 30

/-- FREE VALUE (DESIGN CHOICE, assumption 8): whether an access between a change of a translation and its
invalidation uses the cached entry (R356). -/
opaque freeStale : Nat → Bool
/-- FREE VALUE (DESIGN CHOICE, assumption 9): the GEN that a task-table entry holds when it is first used (R294). -/
opaque freeGen : Nat → BitVec 16
/-- FREE VALUE (DESIGN CHOICE, assumption 9): which free entry of a task table a new task receives (R294). -/
opaque freeEntry : Nat → Nat
/-- FREE VALUE (DESIGN CHOICE, assumption 10): the bytes of an image's array section, whose layout the spec leaves to the Z8 (R335). -/
opaque freeArray : Nat → BitVec 8
/-- FREE VALUE (DESIGN CHOICE, assumption 13): t1 of a trap at a word that could not be fetched, for which R344 states no value. -/
opaque freeTrapWord : Nat → BitVec 32
/-- FREE VALUE (DESIGN CHOICE, assumption 11): the CODEID that Ling assigns (R365). -/
opaque freeCodeId : Nat → BitVec 16
/-- FREE VALUE (DESIGN CHOICE, assumption 11): the pod barrier identifier that Ling assigns (R138, R369). -/
opaque freePodId : Nat → BitVec 16
/-- FREE VALUE (DESIGN CHOICE, assumption 12): SHA-512 of a byte string, as a 512-bit number (R365); the digest is
that of an outside standard, which the spec names and does not define. -/
opaque sha512 : List (BitVec 8) → BitVec 512
/-- FREE VALUE (DESIGN CHOICE, assumption 12): an Ed25519 signature under the device key (R368). -/
opaque ed25519Sign : List (BitVec 8) → BitVec 512
/-- FREE VALUE (DESIGN CHOICE, assumption 12): whether an Ed25519 signature holds (R357, R366): key, message, signature. -/
opaque ed25519Ok : BitVec 256 → List (BitVec 8) → BitVec 512 → Bool
/-- FREE VALUE (DESIGN CHOICE, assumption 12): the key held in ROM (R357). -/
opaque romKey : BitVec 256
/-- FREE VALUE (DESIGN CHOICE, assumption 12): the device identifier (R368). -/
opaque deviceId : BitVec 64
/-- FREE VALUE (DESIGN CHOICE, assumption 17): the number of the unit within a node that an error-log entry of a code names (R375). -/
opaque freeUnit : Nat → BitVec 12
/-- FREE VALUE (DESIGN CHOICE, assumption 17): DETAIL of an error-log entry of a code for which the spec names none (R375). -/
opaque freeDetail : Nat → BitVec 96
/-- The version of the host interface (R359, R360). -/
def hostVersion : Nat := 1
/-- FREE VALUE (PRESUMED, assumption 69): the rate to which the host link trains, 0 to 2 for PCIe 5.0 to 7.0 (R357, R358). -/
opaque freeLinkGen : Nat → Fin 3
/-- FREE VALUE (PRESUMED, assumption 69): the width to which it trains, 0 to 3 for x1, x4, x8 and x16 (R358). -/
opaque freeLinkWidth : Nat → Fin 4
/-- FREE VALUE (DESIGN CHOICE, assumption 5): the spare-row map that the self-test fixes for a core (R113, R357). -/
opaque freeSpare : Nat → BitVec 32

end Sys2Proof.Config
end

