-- ==== Sys2Proof/Machine/Map.lean ====
section
/-!
DEFINITION. Sparse data by number, and byte memory, as lists in one canonical form: keys strictly rising, and no
entry equal to what an unlisted key reads as.
-/
namespace Sys2Proof.Machine

/-- A finite map from numbers, as a list with strictly rising keys. -/
abbrev SMap (β : Type) := List (Nat × β)

/-- The entry of a key, if there is one. -/
def SMap.find {β : Type} : SMap β → Nat → Option β
  | [], _ => none
  | (k, v) :: m, j => if j = k then some v else SMap.find m j

/-- The value of a key; `d` where the map has no entry. -/
def SMap.get {β : Type} (m : SMap β) (k : Nat) (d : β) : β := (m.find k).getD d

/-- Set the entry of a key, keeping the keys rising. -/
def SMap.put {β : Type} : SMap β → Nat → β → SMap β
  | [], j, w => [(j, w)]
  | (k, v) :: m, j, w =>
    if j < k then (j, w) :: (k, v) :: m
    else if j = k then (j, w) :: m
    else (k, v) :: SMap.put m j w

/-- Remove the entry of a key. -/
def SMap.del {β : Type} : SMap β → Nat → SMap β
  | [], _ => []
  | (k, v) :: m, j => if j = k then SMap.del m j else (k, v) :: SMap.del m j

/-- Set a key's value, where an unlisted key reads as `d`: the default is not listed. -/
def SMap.set {β : Type} [DecidableEq β] (m : SMap β) (k : Nat) (v d : β) : SMap β :=
  if v = d then m.del k else m.put k v

/-- Change the entry of a key, if there is one. -/
def SMap.mod {β : Type} (m : SMap β) (k : Nat) (f : β → β) : SMap β :=
  match m.find k with
  | some v => m.put k (f v)
  | none => m

/-- Whether the map has an entry for a key. -/
def SMap.has {β : Type} (m : SMap β) (k : Nat) : Bool := (m.find k).isSome

/-- The keys rise strictly. -/
def SMap.sorted {β : Type} : SMap β → Bool
  | [] => true
  | [_] => true
  | (k, _) :: (j, w) :: m => decide (k < j) && SMap.sorted ((j, w) :: m)

/-- Byte memory: the cells that do not hold what an unlisted cell reads as. -/
abbrev Memory := List Host.Cell

/-- What a byte of memory that nothing has written reads as (DESIGN CHOICE, assumption 4). -/
def memDefault : Byte := 0#8

/-- The byte at an address. -/
def Memory.byte (m : Memory) (a : Nat) : Byte := SMap.get m a memDefault
/-- Write one byte. -/
def Memory.setByte (m : Memory) (a : Nat) (b : Byte) : Memory := SMap.set m a b memDefault

/-- The `n` bytes from an address, lowest address first. -/
def Memory.bytes (m : Memory) (a : Nat) : Nat → List Byte
  | 0 => []
  | n + 1 => m.byte a :: Memory.bytes m (a + 1) n
/-- Write bytes from an address on, lowest address first. -/
def Memory.setBytes (m : Memory) (a : Nat) : List Byte → Memory
  | [] => m
  | b :: bs => Memory.setBytes (m.setByte a b) (a + 1) bs

/-- The little-endian number of a list of bytes (R2). -/
def natOfBytes : List Byte → Nat
  | [] => 0
  | b :: bs => b.toNat + 256 * natOfBytes bs
/-- The `n` little-endian bytes of a number (R2). -/
def bytesOfNat : Nat → Nat → List Byte
  | 0, _ => []
  | n + 1, v => BitVec.ofNat 8 v :: bytesOfNat n (v / 256)

/-- The little-endian number in `n` bytes from an address. -/
def Memory.nat (m : Memory) (a n : Nat) : Nat := natOfBytes (m.bytes a n)
/-- Write a number into `n` bytes from an address. -/
def Memory.setNat (m : Memory) (a n v : Nat) : Memory := m.setBytes a (bytesOfNat n v)

/-- The canonical form: addresses strictly rising, no entry equal to what an unlisted address reads as. -/
def Memory.wf (m : Memory) : Bool := SMap.sorted m && m.all (fun c => c.2 != memDefault)

/-- Bits `hi` down to `lo` of a number. -/
def natBits (v hi lo : Nat) : Nat := v / 2 ^ lo % 2 ^ (hi + 1 - lo)

/-- The first element that satisfies `p`, with its place. -/
def findIdx {α : Type} (p : α → Bool) : List α → Nat → Option (Nat × α)
  | [], _ => none
  | a :: l, n => if p a then some (n, a) else findIdx p l (n + 1)

/-- The list without its element number `n`. -/
def dropAt {α : Type} : List α → Nat → List α
  | [], _ => []
  | _ :: l, 0 => l
  | a :: l, n + 1 => a :: dropAt l n

/-- The list with its element number `n` changed. -/
def modAt {α : Type} (f : α → α) : List α → Nat → List α
  | [], _ => []
  | a :: l, 0 => f a :: l
  | a :: l, n + 1 => a :: modAt f l n

/-- The bytes of a list put into a sparse map from a key on. -/
def SMap.setBytes (m : SMap Byte) (a : Nat) : List Byte → SMap Byte
  | [] => m
  | b :: bs => SMap.setBytes (SMap.set m a b 0#8) (a + 1) bs
/-- The `n` bytes of a sparse map from a key on. -/
def SMap.bytes (m : SMap Byte) (a : Nat) : Nat → List Byte
  | 0 => []
  | n + 1 => m.get a 0#8 :: SMap.bytes m (a + 1) n

end Sys2Proof.Machine
end

