-- ==== Sys2Proof/Machine/State.lean ====
section
/-!
DEFINITION. The state of the package: everything spec/ gives the machine, as plain data, and `State.reset`.
INVENTORY.md lists every piece with its rule and its reset value.
-/
namespace Sys2Proof.Machine

/-- Why a run of the model stops with a fault. -/
inductive Fault where
  /-- The host or Ling names a physical address beyond its space (R376): raised by HOST_WRITE, HOST_READ,
  MAPQ and FIBRE_FLIT_RECEIVE.  Safe: the spec gives such an address no contents. -/
  | noSuchAddress
  deriving DecidableEq, Repr

/-- Why a run of the model stops without a meaning. -/
inductive Refusal where
  /-- Raised by an arm of `exec` whose instruction has no meaning yet.  Safe. -/
  | notModelled (mnemonic : String)
  /-- A step without an encoding that cannot occur in the present state; raised by the meanings of those steps
  (DESIGN CHOICE, assumption 6).  Safe: the machine does not make that step there. -/
  | notEnabled
  /-- An encoded instruction with no party to execute it (no running path, no lead); raised by the shared
  operations of the encoded instructions (DESIGN CHOICE, assumption 6).  Safe: no hardware state corresponds to it. -/
  | noParty
  deriving DecidableEq, Repr

/-- The trap causes of R341. -/
inductive Cause where
  | illegalHeader | illegalOp | clauseClass | branchTarget | emptyRead | qClosed | indexBounds | align
  | permission | format | regionDenied | regionRaw | saRange | saInvalid | saScope | saCount | trap | brk
  | fabricLoss | memErr | unmapped | reset
  deriving DecidableEq, Repr

/-- The classes of R44, in code order; codes 6 and 7 are reserved. -/
inductive Cls where
  | int | flt | mem | sa | lead | sys
  deriving DecidableEq, Repr

/-- A vector of ten 16-bit sequence values (R271, R273); an unlisted entry is 0. -/
abbrev Stamp := SMap (BitVec 16)

/-- Why a register is not full: its producer will fill it, or can no longer do so (R17, R35, R231). -/
inductive Fill where
  | pending
  | closed (cause : Cause) (addr : Word)
  deriving DecidableEq, Repr

/-- A long-latency result on its way to registers (R16); the value is there once it has been produced. -/
structure Pend where
  id : Nat
  dst : List Nat
  val : Option (List Word)
  deriving DecidableEq, Repr

/-- A group thread (R13); `gen` is the activation-table generation of the clause it runs (R202).  Registers are named by number: 0 to 63 are v0..v63 and 64 to 71 are t0..t7. -/
structure Thread where
  v : SMap Word
  e : SMap Word
  xb : SMap Word
  xl : SMap Word
  p : BitVec 8
  t : SMap Word
  empty : SMap Fill
  waitb : BitVec 16
  arr : SMap Nat
  qrd : BitVec 16
  qpend : List (Nat × BitVec 16)
  trapMode : Bool
  timeh : BitVec 16
  traps : BitVec 32
  live : Bool
  gen : Bool
  pend : List Pend
  ops : Nat
  deriving DecidableEq, Repr

/-- A REP under execution (R108): execution `j` is pending of `count`, with the step mask and the stride code. -/
structure Rep where
  j : Nat
  count : Nat
  step : BitVec 3
  stride : BitVec 3
  deriving DecidableEq, Repr

/-- Where a path stands (R21, R43): the next word, the words of the clause still to run (0: the word is a header),
the clause's class, its Y, a REP under execution, and the execution with
which a REP word reached by RFT goes on (R347). -/
structure Pos where
  pc : DWord
  remain : Nat
  cls : Cls
  y : Bool
  rep : Option Rep
  repFrom : Option Nat
  deriving DecidableEq, Repr

/-- What a member's home-answered request or atomic came to (R229). -/
inductive Answer where
  | waiting
  | done
  | refused (cause : Cause) (addr : Word)
  deriving DecidableEq, Repr

/-- What a path waits for between its instructions. -/
inductive PWait where
  | none
  /-- BARW: the members whose wait has not ended (R138). -/
  | barw (bar : Nat) (lanes : List Nat)
  /-- XCONV at this address (R27). -/
  | xconv (pc : DWord)
  /-- FENCE: the writes issued before this number, within the scope (R264). -/
  | fence (scope : Net) (upto : Nat)
  /-- Answers of one request per member (lane, request); the place, the word and the cost of the instruction
  (R229, R266). -/
  | answers (reqs : List (Nat × Nat × Answer)) (at_ : Pos) (word : Word) (cost : Nat)
  /-- SLEEP until this value of the time counter (R350). -/
  | sleep (until_ : Nat)
  deriving DecidableEq, Repr

/-- A path of a group (R22). -/
structure Path where
  park : Nat
  lanes : List Nat
  pos : Pos
  wait : PWait
  deriving DecidableEq, Repr

/-- A group in a slot (R11): the team's lead context, its index in the team, its running path, its parked paths, and
the park counter (R22). -/
structure Group where
  team : Nat
  gid : Nat
  running : Option Path
  parked : List Path
  parkCtr : Nat
  halted : Bool
  deriving DecidableEq, Repr

/-- Where a byte of global memory stands: KIND, physical address, and for a page with PUB set its size (else 0); the
physical address is then the one in the buffer's lower frame (R160). -/
structure Loc where
  kind : Nat
  pa : Nat
  pub : Nat
  deriving DecidableEq, Repr

/-- A stretch of virtual addresses with where its bytes stand, fixed when a command issued (R149, R239). -/
structure Seg where
  va : Nat
  size : Nat
  loc : Loc
  deriving DecidableEq, Repr

/-- A SALOAD whose image is being read (R246, R317): its number, its destination register, the image's address and pieces, the bytes that
have been read, the units that have not begun, its word, and its charge. -/
structure ImageLoad where
  id : Nat
  sd : Nat
  va : DWord
  segs : List Seg
  bytes : List Byte
  left : Nat
  word : Word
  cost : Nat
  deriving DecidableEq, Repr

/-- What a lead waits for at an instruction it has issued, or at which it stalls with a command outstanding. -/
inductive LWait where
  | none
  | barw (bar : Nat)
  /-- The ARV arrival of a copy that waits for the next phase (R151). -/
  | arv (bar : Nat)
  /-- QSEND on a full queue: the register that holds its value (R115). -/
  | qsend (sa : Nat)
  /-- JOIN, TSTAT or ALWRD at the child's home unit (R307): the command's fn8, destination, the child's handle. -/
  | unit (fn : Nat) (sd : Nat) (child : BitVec 32)
  | unwind (child : BitVec 32)
  /-- SPAWN.W not admitted: descriptor, placement, destination, allowance, the clk of its issue (R309, R325). -/
  | spawnW (desc : List Byte) (place : DWord) (sd : Nat) (allow : Nat) (since : Nat)
  | mwait (upto : Nat)
  | cpwait (upto : Nat)
  /-- A lead-side SA command on its way to its home: its number, its word, its charge, and what an unwind refunds (R237,
  R317). -/
  | saCmd (id : Nat) (word : Word) (cost : Nat) (back : Nat)
  | saload (l : ImageLoad)
  deriving DecidableEq, Repr

/-- A lead (R29). -/
structure Lead where
  s : SMap DWord
  empty : SMap Bool
  p : BitVec 8
  waitb : BitVec 16
  pc : DWord
  remain : Nat
  ended : Bool
  stopped : Bool
  halted : Bool
  wait : LWait
  /-- the word of the command at which it waits (R335) -/
  cmd : Word
  pend : List (Nat × Nat × Option DWord)
  ops : Nat
  deriving DecidableEq, Repr

/-- A barrier of a team (R133).  Bit g of `members` and `here` is group g, bit 8 the lead; `here` are the parties
that have arrived in the current phase.  For a wider network `phase` is the PHASE as the core sees it (R135). -/
structure Barrier where
  net : Net
  n : Nat
  members : BitVec 16
  here : BitVec 16
  arr : Nat
  pend : BitVec 48
  touched : Bool
  phase : Bool
  pod : BitVec 16
  deriving DecidableEq, Repr

/-- A barrier at team start (R133). -/
def Barrier.initial : Barrier :=
  { net := .core, n := 1, members := 0#16, here := 0#16, arr := 0, pend := 0#48, touched := false, phase := false,
    pod := 0#16 }

/-- A barrier instance of a wider network (R133), with the knowledge that its arrivals brought (R137). -/
structure WideBar where
  task : Nat
  net : Net
  n : Nat
  members : List Nat
  arr : Nat
  touched : Bool
  phase : Bool
  know : Stamp
  /-- teams whose core has still to see the present PHASE (R135) -/
  unseen : List Nat
  deriving DecidableEq, Repr

/-- A leaf translation (R351): what the two stages gave together. -/
structure Leaf where
  r : Bool
  w : Bool
  x : Bool
  u : Bool
  pub : Bool
  sab : Bool
  glob : Bool
  fmt : Nat
  geo : Nat
  pscale : Nat
  scalePa : Nat
  scaleKind : Nat
  kind : Nat
  region : Nat
  pa : Nat
  size : Nat
  deriving DecidableEq, Repr

/-- One signed power of two in the array (R179). -/
structure Term where
  neg : Bool
  exp : Int
  deriving DecidableEq, Repr

/-- A plane set of an array (R205): P, the region, and the non-zero terms of weight 128n + c. -/
structure PlaneSet where
  p : Nat
  region : Nat
  terms : SMap (List Term)
  deriving DecidableEq, Repr

/-- The matrix array of a core (R205, R207). -/
structure ArraySt where
  holder : Option Nat
  afmt : Nat
  active : PlaneSet
  shadow : PlaneSet
  deriving DecidableEq, Repr

/-- A command of the matrix array (R206). -/
inductive MatOp where
  | mcfg (afmt : Nat)
  /-- the tile's element 0, FMT, GEO, PSCALE, the scale byte of element 0, REGION, and the smoothing vector -/
  | mldw (tile : Loc) (fmt geo pscale : Nat) (scale : Loc) (region : Nat) (smooth : Option Nat)
  | mswap
  | mzero (word n : Nat)
  /-- accumulator word, scratchpad address, rows, AFMT, P, next row, next block, and once its first block has been taken the bytes of
  the row's activations -/
  | mstrm (word addr rows afmt p row blk : Nat) (acts : List Byte)
  deriving DecidableEq, Repr

/-- Where a lead's command stands, for a report that names it (R31): its word, its address, and the words of its clause that
remain. -/
structure CmdAt where
  pc : DWord
  word : Word
  remain : Nat
  deriving DecidableEq, Repr

/-- A MAT command issued and not complete; `left` is the charge of its units not begun (R317). -/
structure MatCmd where
  id : Nat
  op : MatOp
  left : Nat
  place : CmdAt
  deriving DecidableEq, Repr

/-- A TLOAD issued and not complete (R201). -/
structure TLoad where
  id : Nat
  image : List Seg
  place : CmdAt
  deriving DecidableEq, Repr

/-- A held SA read that is recorded when its team is saved (R248, R335). -/
structure HeldSa where
  id : Nat
  gid : Nat
  lane : Nat
  fn : Nat
  addr : Word
  dst : Nat
  trapPol : Bool
  deriving DecidableEq, Repr

/-- A fault record (R355), field by field. -/
structure FaultRec where
  seq : Nat
  time : Nat
  team : Nat
  taskh : BitVec 32
  malf : Bool
  level : Nat
  acc : Nat
  stage : Nat
  pasid : BitVec 20
  va : DWord
  uid : Nat
  deriving DecidableEq, Repr

/-- A team on a core (R11), with its lead. -/
structure Team where
  uid : Nat
  task : Nat
  index : Nat
  core : Nat
  slots : List Nat
  ngroups : Nat
  regs : Nat
  regg : Nat
  spadg : Nat
  accg : Nat
  quadg : Nat
  lead : Lead
  spad : SMap Byte
  absent : SMap Nat
  acc : SMap Word
  bars : SMap Barrier
  dq : List DWord
  dqFirst : BitVec 16
  qsent : BitVec 16
  producer : Bool
  tab0 : SMap Byte
  tab1 : SMap Byte
  gen : Bool
  mats : List MatCmd
  /-- the array's sets and configuration, saved when the team was swapped out as its holder, until it holds it again (R205) -/
  array : Option ArraySt
  tloads : List TLoad
  heldSa : List HeldSa
  /-- the whole team is halted by a debugger (R340) -/
  thalt : Bool
  /-- walks that ended without a translation, oldest first, until the swap-out that they cause (R331, R355) -/
  faults : List FaultRec
  swap : Option (BitVec 4)
  /-- the stage and the SEQ of each fault record whose service the team awaits (R355) -/
  faultSeqs : List (Nat × Nat)
  /-- the number of its latest placement on a core (R330) -/
  since : Nat
  deriving DecidableEq, Repr

/-- A cached translation (R356): the space, the page and the leaf it was read from. -/
structure TlbEntry where
  space : Nat
  page : Nat
  leaf : Leaf
  deriving DecidableEq, Repr

/-- A core (R11, R113, R330).  `spare` is SPARE; `cached` are the translations it caches; `gHold` and `lHold` are
the holders of its issue slots, `gWins` and `lWins` who won them, latest first. -/
structure Core where
  spare : BitVec 32
  array : ArraySt
  cached : List TlbEntry
  gHold : Option Nat
  lHold : Option Nat
  gIssued : Bool
  lIssued : Bool
  gWins : List Nat
  lWins : List Nat
  deriving DecidableEq, Repr

/-- Which party executes the present step (the model's own field; DESIGN CHOICE, assumption 1). -/
inductive Party where
  | none
  | group (g : Nat)
  | lead (t : Nat)
  deriving DecidableEq, Repr

/-- Who is charged for an instruction: the party, its threads (none for a lead), and the place of the instruction
(R300, R303). -/
structure Payer where
  who : Party
  lanes : List Nat
  pc : DWord
  deriving DecidableEq, Repr

/-- A request that a core has outstanding at the home unit for a lease (R300, R303). -/
inductive LeaseReq where
  | lease
  | refill
  | failing (who : Payer) (amount : Nat)
  deriving DecidableEq, Repr

/-- A lease of a task on a core (R300); `paid` are the charges that failing requests have paid, each for the instruction that
issues with it (R303). -/
structure Lease where
  bal : Nat
  req : Option LeaseReq
  paid : List (Payer × Nat)
  deriving DecidableEq, Repr

/-- The task states of R298, in code order. -/
inductive TaskState where
  | queued | running | starved | draining | unwinding | completed | failed | unwound
  deriving DecidableEq, Repr

/-- A task's record at its home unit (R294 to R299, R307). -/
structure Task where
  gen : BitVec 16
  state : TaskState
  pool : Nat
  parent : Option Nat
  children : List Nat
  desc : List Byte
  place : DWord
  queue : Nat
  ticket : Nat
  admitted : Nat
  ready : Bool
  placed : Nat
  retired : Nat
  teams : Nat
  inst : Option Nat
  late : Bool
  drop : Bool
  dropb : BitVec 32
  cause : Nat
  remainder : Nat
  starvedAt : Option Nat
  space : Nat
  priv : Bool
  know : Stamp
  codeid : Nat
  deriving DecidableEq, Repr

/-- Who makes an access to global memory. -/
inductive Who where
  | thread (uid gid lane : Nat)
  | lead (uid : Nat)
  | host
  deriving DecidableEq, Repr

/-- How the bytes of a load become register values: a size of R55 into v registers, elements of a format with a
scale (R204), or a size into a lead register (R120). -/
inductive LoadForm where
  | size (z : Size)
  | elems (fmt scale m : Nat)
  | lead (z : Size)
  deriving DecidableEq, Repr

/-- What a read of a thread has found: bytes of global memory, of a team's scratchpad, or of the quad pools. -/
inductive Sight where
  | mem (loc : Loc) (bytes : List Byte)
  | spad (team addr : Nat) (bytes : List Byte)
  | pool (at_ : Nat) (bytes : List Byte)
  deriving DecidableEq, Repr

/-- What an access does. -/
inductive OpKind where
  | load (form : LoadForm) (dst : List Nat)
  | store (bytes : List Byte)
  | atom (o : AtomOp) (b c : Nat) (dst : List Nat)
  /-- no access: what the thread awaits from a decision queue (`true`) or from a stream accumulator stands here in program order
  (R253, R281); once later events have gone past it, with the reads among them (the model's own field; DEDUCED, assumption 19) -/
  | edge (dq : Bool) (seen : Option (List Sight))
  deriving DecidableEq, Repr

/-- An access of a thread or lead that is not complete (R281): where it is, its size in bytes, whether its packet has been
sent, and the answer with its stamp once it has arrived. -/
structure MemOp where
  id : Nat
  loc : Loc
  n : Nat
  kind : OpKind
  sent : Bool
  got : Option (Stamp × List Byte)
  deriving DecidableEq, Repr

/-- The accesses of one party in program order, the node it runs on, and M of R281. -/
structure OpQ where
  who : Who
  task : Nat
  node : Nat
  m : Stamp
  ops : List MemOp
  deriving DecidableEq, Repr

/-- The operations of the vector side of SA (R232), SEND's SA consumer included. -/
inductive SaOp where
  | add (x : Word)
  | addh (x : Word)
  | rd | rdh | rdq | wait | cnt
  deriving DecidableEq, Repr

/-- The consumers of SEND (R143), without SA. -/
inductive Consumer where
  | lead | spad | next | stage
  deriving DecidableEq, Repr

/-- A request of one member to a row's home (R229); `rest` are a SEND's other consumers with the destination word. -/
structure SaReq where
  id : Nat
  uid : Nat
  gid : Nat
  lane : Nat
  node : Nat
  core : Nat
  task : Nat
  op : SaOp
  addr : Word
  trapPol : Bool
  dst : Nat
  rest : List Consumer
  word : Word
  dest : Word
  deriving DecidableEq, Repr

/-- A lead-side SA command at a home (R237). -/
inductive SaCmd where
  | open_ (row : Nat) (t : Nat)
  | clear (row : Nat)
  | free (row : Nat)
  | evict (row : Nat) (image : List Seg) (addr : Nat)
  | merge (src dst : Nat)
  | mergeIn (dst : Nat) (values : List (BitVec 64))
  deriving DecidableEq, Repr

/-- What a causal packet carries (R272). -/
inductive Body where
  | read (q op : Nat) (loc : Loc) (n : Nat)
  | write (q op : Nat) (loc : Loc) (bytes : List Byte)
  | atom (q op : Nat) (loc : Loc) (n : Nat) (o : AtomOp) (b c : Nat)
  | copyRead (cmd word : Nat) (loc : Loc)
  | copyWrite (cmd word : Nat) (loc : Loc) (bytes : List Byte)
  | publ (cmd : Nat) (block : Loc)
  | saReq (r : SaReq)
  | saCmd (id uid task node : Nat) (c : SaCmd)
  | arrive (inst : Nat) (team : Nat)
  deriving DecidableEq, Repr

/-- A causal packet with its sequence and its stamp (R272, R273). -/
structure Packet where
  src : Nat
  dst : Nat
  seq : BitVec 16
  stamp : Stamp
  epoch : BitVec 8
  body : Body
  deriving DecidableEq, Repr

/-- What a response carries. -/
inductive RBody where
  | mem (q op : Nat) (bytes : List Byte)
  | copy (cmd word : Nat) (bytes : List Byte)
  | sa (r : SaReq) (ans : Answer) (val : List Word) (held : Bool)
  /-- a lead-side SA command has been performed or refused (R237) -/
  | saDone (uid id : Nat) (ans : Answer)
  deriving DecidableEq, Repr

/-- A response from a home (R280). -/
structure Resp where
  src : Nat
  dst : Nat
  stamp : Stamp
  epoch : BitVec 8
  body : RBody
  deriving DecidableEq, Repr

/-- What one node sends another: a causal packet or a response, which are stamped (R275). -/
inductive Item where
  | pkt (p : Packet)
  | resp (r : Resp)
  deriving DecidableEq, Repr

/-- A stamp as the link carries it (R273, R275). -/
inductive Enc where
  | full (bits : BitVec 192)
  | delta (head : BitVec 24) (entries : List (BitVec 16))
  /-- the form 3, which no node sends (R275) -/
  | reserved
  deriving DecidableEq, Repr

/-- What is under way on a home channel, in order. -/
inductive Flight where
  | item (src : Nat) (enc : Enc) (i : Item)
  | beat (src : Nat) (c a : BitVec 16)
  deriving DecidableEq, Repr

/-- A node's home channel (R277): the node that the token visits next, what is under way, the clk of the token's
last passage, and whether a lasting fault has frozen the sends on it (R285). -/
structure Chan where
  pos : Nat
  flights : List Flight
  lastPass : Nat
  frozen : Bool
  deriving DecidableEq, Repr

/-- The fabric error record of a node (R289), field by field. -/
structure Ferr where
  v : Bool
  code : Nat
  epoch : BitVec 8
  src : Nat
  dst : Nat
  more : Nat
  time : BitVec 32
  deriving DecidableEq, Repr

/-- A packet or response on a die's mesh (R284): the clk at which it was injected, and its injection point. -/
structure MeshItem where
  at_ : Nat
  point : Nat
  item : Item
  deriving DecidableEq, Repr

/-- A Hedgerow node (R271). `out` are items not yet sent, oldest first; `mesh` are the node's packets and responses to
itself: of each injection point the first eight are in flight, the others wait to be injected (R284); `early` are arrived packets not yet applied or answered; `held` what an error
holds back (R285), with its code; `reports` the entries of A that beats have brought since F was last formed (R278). -/
structure Node where
  epoch : BitVec 8
  c : BitVec 16
  k : Stamp
  rcv : Stamp
  a : Stamp
  saveOut : SMap (BitVec 192)
  saveIn : SMap (BitVec 192)
  f : BitVec 16
  reports : SMap (BitVec 16)
  early : List Packet
  ferr : Ferr
  out : List Item
  mesh : List MeshItem
  held : List (Nat × Item)
  deriving DecidableEq, Repr

/-- A row of a stream accumulator (R219), without the elements that are 0.  `gain` is where the gain vector stands,
`factor` the factor r while the row is sealed (R227). -/
structure Row where
  n : Nat
  e : Int
  scope : Nat
  ofmt : Nat
  eps : Word
  gain : List Seg
  t : Nat
  count : Nat
  q2 : BitVec 128
  owner : Nat
  q : SMap (BitVec 64)
  factor : Option Word
  /-- its storage has an uncorrectable error (R249) -/
  bad : Bool
  deriving DecidableEq, Repr

/-- A request held at a home until its row seals (R230), with its stamp; or a SAMERGE that waits there (R243). -/
inductive Held where
  | req (r : SaReq) (stamp : Stamp)
  | merge (id uid task node src dst : Nat)
  deriving DecidableEq, Repr

/-- A SEND on its way to a consumer (R145). -/
structure SendItem where
  id : Nat
  uid : Nat
  core : Nat
  task : Nat
  gid : Nat
  lane : Nat
  dest_ : Consumer
  word : Word
  dest : Word
  deriving DecidableEq, Repr

/-- A word of a copy (R153): its value once it has been read, and the cores to which it has been delivered. -/
structure CpWord where
  val : Option Word
  sent : List Nat
  done : Bool
  deriving DecidableEq, Repr

/-- The copy commands (R148). -/
inductive CopyOp where
  | cpyin | cpyout | cpyg | gath | gathg | publ
  deriving DecidableEq, Repr

/-- A copy command or PUBL that has issued (R148 to R161).  `addr` is the scratchpad address of its source or
destination; `cores` are the cores that scratchpad bytes go to, `recv` the team that receives on each core it has reached
(0: dropped); `srcs` and `dsts` are the stretches of global memory, row after row; `begun` are the units begun (for PUBL:
its packet has been sent), `waits` the commands that a PUBL waits for; `freed` says that its team has been freed by an
unwind (R291). -/
structure Copy where
  id : Nat
  uid : Nat
  task : Nat
  core : Nat
  op : CopyOp
  addr : Nat
  bar : Nat
  cores : List Nat
  recv : SMap Nat
  srcs : List Seg
  dsts : List Seg
  words : SMap CpWord
  begun : List Nat
  nwords : Nat
  waits : List Nat
  freed : Bool
  deriving DecidableEq, Repr

/-- A delivery to a team that is swapped out (R147): scratchpad address, bytes, the barrier that counts them, and what the
die knew when it arrived, which comes with it (R253, R259). -/
structure Delivery where
  addr : Nat
  bytes : List Byte
  bar : Option Nat
  know : Stamp
  deriving DecidableEq, Repr

/-- A saved team (R331 to R336).  Threads are keyed 64g + l. -/
structure Saved where
  team : Team
  groups : SMap Group
  threads : SMap Thread
  reason : BitVec 4
  ready : Bool
  savetime : Nat
  k : Stamp
  epoch : BitVec 8
  held : List Delivery
  /-- the lead's SA command that was withdrawn, with its number and its home (R331) -/
  cmd : Option (Nat × SaCmd × Nat)
  deriving DecidableEq, Repr

/-- A queue (R319 to R325, R337 to R339, R360): 0 to 15 the device queues, 16 + n interface n. -/
structure Queue where
  block : Option Place
  /-- Ling has enabled the queue since it placed it (R296) -/
  opened : Bool
  enabled : Bool
  pre : Bool
  done : Bool
  rst : Bool
  rung : Nat
  seq : BitVec 16
  bell : DWord
  /-- an examination of the slot HEAD is due (R323) -/
  due : Bool
  statusSeq : Nat
  t1 : Nat
  t2 : Nat
  reqAt : Nat
  rung2At : Nat
  resetting : Bool
  cut : SMap (BitVec 16)
  pasid : BitVec 20
  space : Nat
  priv : Bool
  ictl : DWord
  debugger : Bool
  deriving DecidableEq, Repr

/-- An address space (R353, R354): the level-0 root of stage 1, the root of stage 2, and its fault rings, for records of stage 1 and
of stage 2 (R355). -/
structure Space where
  root : Nat
  stage2 : Option Nat
  pasid : BitVec 20
  ring : List FaultRec
  ring2 : List FaultRec
  deriving DecidableEq, Repr

/-- An invalidation that system software has asked for (R356). -/
structure Inval where
  space : Nat
  page : Nat
  glob : Bool
  upto : Nat
  /-- the selectors of the publishable buffers whose mapping it takes away (R160) -/
  blocks : List Nat
  deriving DecidableEq, Repr

/-- A code object (R365): its measurement, and the address space, first page and page count of its sealed pages. -/
structure CodeObj where
  meas : BitVec 512
  space : Nat
  base : Nat
  pages : Nat
  deriving DecidableEq, Repr

/-- An installed region policy (R366). -/
structure Policy where
  raw : Bool
  pver : BitVec 32
  owner : BitVec 256
  meas : List (BitVec 512)
  deriving DecidableEq, Repr

/-- What the secure flash holds (R367). -/
structure Mirror where
  decb : SMap (BitVec 64)
  macs : SMap (BitVec 64)
  seq : BitVec 64
  boot : BitVec 32
  clean : Bool
  deriving DecidableEq, Repr

/-- An entry of the error log (R375). -/
structure ErrEntry where
  seq : Nat
  time : Nat
  transient : Bool
  code : Nat
  src : Nat
  detail : BitVec 96
  deriving DecidableEq, Repr

/-- An answer of Ling's command ring (R369): the command's code, a status word, and what it returned. -/
structure LingAns where
  code : Nat
  status : Nat
  payload : List Byte
  deriving DecidableEq, Repr

/-- A PCIe transaction that node 8 has sent (R352, R261): a write with its bytes, or a read of `n` bytes for the access `op` of the
queue `q`, or for the word `op` of the copy `q`, of node `src`. -/
inductive LinkTxn where
  | write (place : Place) (bytes : List Byte)
  | read (id : Nat) (place : Place) (n : Nat) (copy : Bool) (q op : Nat) (src : Nat)
  | interrupt (addr : DWord) (data : BitVec 32)
  deriving DecidableEq, Repr

/-- A fibre (R370 to R372): up, its lit pairs, the clk from which it counts as idle, and the flits that the other module has not
acknowledged. -/
structure Fibre where
  up : Bool
  lit : Nat
  idleFrom : Nat
  waiting : List (Nat × Flit)
  /-- the flits of the other module that this one has acknowledged, latest first -/
  acks : List Nat
  deriving DecidableEq, Repr

/-- A read of the host that node 8 has taken in and not answered (R261), or its answer. -/
structure HostRead where
  id : Nat
  place : Place
  n : Nat
  answer : Option (List Byte)
  deriving DecidableEq, Repr

/-- Ling, the metering counters and the rest of the platform (R357 to R375). -/
structure Platform where
  /-- the steps of R357 that have succeeded -/
  bringUp : Nat
  recovery : Bool
  linkUp : Bool
  /-- link training has failed (R357) -/
  linkDown : Bool
  /-- the rate and the width that the host link has trained to, as the link status registers show them (R358) -/
  linkGen : Nat
  linkWidth : Nat
  image : List Byte
  boot : BitVec 32
  mirror : Mirror
  abrupt : Bool
  decb : SMap (BitVec 64)
  macs : SMap (BitVec 64)
  policies : SMap Policy
  owners : SMap (BitVec 256)
  codeObjs : SMap CodeObj
  reportSeq : BitVec 64
  revoked : List (BitVec 20)
  remap : SMap QWord
  errLog : List ErrEntry
  errSeq : Nat
  answers : List LingAns
  podIds : List (BitVec 16)
  powerCap : Nat
  thermal : Bool
  trained : SMap Nat
  lastMirror : Nat
  invals : List Inval
  halts : List (Nat × List Byte)
  deriving DecidableEq, Repr

/-- The resynchronisation under way (R287): the step reached, the die that is removed, and the clk from which no buffered packet
has become applicable. -/
structure Resync where
  step : Nat
  removed : Option Nat
  calmFrom : Nat
  deriving DecidableEq, Repr

/-- A turn of the schedule (the model's own; DESIGN CHOICE, assumption 1): the group or the lead of a core issues, a step without an
encoding takes place, a clk ends, memory has an error, or Ling sets what R222 and R337 let it set. -/
inductive Turn where
  | issueGroup (core : Nat)
  | issueLead (core : Nat)
  | event (i : Instr)
  | clk
  /-- A memory error at a physical address (R123, R165, R373): one that is corrected, or one in data of a task, or of a unit of a
  copy of it. -/
  | memError (corrected : Bool) (task cmd unit : Nat) (kind pa : Nat)
  /-- The storage of a stream accumulator's row has an uncorrectable error (R249). -/
  | rowError (row : Nat)
  /-- A unit of an engine command begins (R317): of the array's first command of a team, or of a lead's SA command. -/
  | unitBegin (team : Nat) (sa : Bool)
  /-- A fault that Ling finds while it executes a command (R369, R375): its code, and the command that it answers with it. -/
  | lingFault (code cmd : Nat)
  /-- What comes later in a thread goes past a decision-queue entry, or a held read, that it awaits (R229, R253). -/
  | passEdge (queue : Nat)
  /-- Ling takes the present clk from a core, above a temperature limit (R374). -/
  | throttle (core : Nat)
  /-- Ling sets QSAG and SSAR at bring-up (R222). -/
  | setRegions (qsag ssar : Nat)
  /-- Ling sets T1 and T2 of a queue (R337). -/
  | setLadder (queue t1 t2 : Nat)
  deriving DecidableEq, Repr, Inhabited

/-- What has happened since the present clk began, where a rule orders the events of one clk or has them take effect in the next
(the model's own field; DESIGN CHOICE, assumption 52). -/
structure Fresh where
  /-- access queues a store or an atomic of which has been applied (R49) -/
  stores : List Nat
  /-- team, group and lane of threads a SEND of which has been accepted (R49) -/
  sends : List (Nat × Nat × Nat)
  /-- teams and barriers whose PHASE a wider network has changed (R49) -/
  phases : List (Nat × Nat)
  /-- teams that have taken a TSWAP (R202) -/
  swaps : List Nat
  /-- teams whose last group has retired (R37) -/
  retired : List Nat
  /-- teams whose swap-out has been decided (R332) -/
  saves : List Nat
  /-- how far a task's home unit has come in the steps of R307 -/
  units : SMap Nat
  /-- how far a row's home has come in the steps of R223 -/
  rows : SMap Nat
  /-- teams and indices of decision-queue entries that have been made (R115) -/
  entries : List (Nat × BitVec 16)
  /-- teams and registers of leads that a SEND has reached (R145) -/
  inbox : List (Nat × Nat)
  /-- nodes whose error record has been set (R289) -/
  errs : List Nat
  /-- how far the arrivals over a node's mesh have come in the order that golden status gives them (R284) -/
  mesh : SMap Nat
  /-- root tasks that have been admitted from a queue (R363) -/
  roots : List Nat
  deriving DecidableEq, Repr

/-- The beginning of a clk. -/
def Fresh.none : Fresh :=
  { stores := [], sends := [], phases := [], swaps := [], retired := [], saves := [], units := [], rows := [], entries := [],
    inbox := [], errs := [], mesh := [], roots := [] }

/-- The state of the package. -/
structure State where
  /-- the schedule of turns to come (model; DESIGN CHOICE, assumption 1) -/
  turns : List Turn
  /-- how many free values have been used (model; DESIGN CHOICE, assumption 2) -/
  freeCtr : Nat
  /-- the number that the next team, command or request receives (model; DESIGN CHOICE, assumption 1) -/
  nextId : Nat
  /-- the party that executes the present step (model; DESIGN CHOICE, assumption 1) -/
  cur : Party
  /-- what has happened in the present clk (model; DESIGN CHOICE, assumption 52) -/
  fresh : Fresh
  /-- the time counter, TIME (R7, R112) -/
  time : BitVec 48
  /-- threads, keyed 64 x (8 x core + slot) + lane (R11, R13) -/
  threads : SMap Thread
  /-- groups, keyed 8 x core + slot -/
  groups : SMap Group
  /-- teams with their leads, keyed 8 x core + lead context -/
  teams : SMap Team
  /-- cores -/
  cores : SMap Core
  /-- leases, keyed 65536 x core + task (R300) -/
  leases : SMap Lease
  /-- the charges of a task within its last 65,536 AU, latest first: AU, and the byte part of them (R329) -/
  hist : SMap (List (Nat × Nat))
  /-- tasks, keyed 8192 x die + entry (R294) -/
  tasks : SMap Task
  /-- GEN of task-table entries that have been used (R294) -/
  gens : SMap (BitVec 16)
  /-- quad pools of tasks: bytes keyed 2^23 x (192 x task + quad) + offset (R129) -/
  quadPool : SMap Byte
  /-- quad-pool allocations in granules, keyed 192 x task + quad (R129) -/
  quadAlloc : SMap Nat
  /-- barrier instances of wider networks (R133) -/
  wides : SMap WideBar
  /-- saved teams, keyed by team number (R334) -/
  images : SMap Saved
  /-- accesses to global memory that are not complete (R281) -/
  opqs : SMap OpQ
  /-- copies and PUBLs that are not complete (R148) -/
  copies : SMap Copy
  /-- SENDs not accepted (R145) -/
  sends : List SendItem
  /-- rows of stream accumulators, keyed by row id (R219, R220) -/
  rows : SMap Row
  /-- requests held at rows' homes (R230) -/
  heldReqs : List Held
  /-- gain vectors that an eviction image names by their place in this list (model; DESIGN CHOICE, assumption 16) -/
  gainTab : List (List Seg)
  /-- granules of a quad pool's SA part, and bytes of a die's Sward SA region (R222) -/
  qsag : Nat
  ssar : Nat
  /-- GDDR 7 (KIND 0), Sward (KIND 1) and host memory (KIND 2) (R376, R352) -/
  far : Memory
  near : Memory
  hostMem : Memory
  /-- PCIe transactions sent by node 8 and reads awaiting their completion (R352) -/
  link : List LinkTxn
  linkReads : List LinkTxn
  /-- reads of the host (R261) -/
  hostReads : List HostRead
  /-- selectors of publishable buffers, keyed 4 x block address + KIND (R160) -/
  selectors : SMap Bool
  /-- Hedgerow nodes and home channels (R271, R277) -/
  nodes : SMap Node
  chans : SMap Chan
  /-- the resynchronisation under way, and the removed nodes (R287) -/
  resync : Option Resync
  removed : List Nat
  /-- the golden injection point of each die's mesh (R284) -/
  golden : SMap Nat
  /-- queues (R319) -/
  queues : SMap Queue
  /-- address spaces (R353) -/
  spaces : SMap Space
  /-- Ling and the platform -/
  plat : Platform
  /-- fibres (R370) -/
  fibres : SMap Fibre
  deriving DecidableEq, Repr

/-- An array that no team holds (R205, R207). -/
def ArraySt.initial : ArraySt :=
  { holder := none, afmt := 3, active := { p := 0, region := 0, terms := [] },
    shadow := { p := 0, region := 0, terms := [] } }

/-- A core before bring-up: SPARE 0 (DESIGN CHOICE, assumption 5), nobody in its slots. -/
def Core.initial : Core :=
  { spare := 0#32, array := ArraySt.initial, cached := [], gHold := none, lHold := none, gIssued := false,
    lIssued := false, gWins := [], lWins := [] }

/-- A clear fabric error record (R289). -/
def Ferr.clear : Ferr := { v := false, code := 0, epoch := 0#8, src := 0, dst := 0, more := 0, time := 0#32 }

/-- A node at power-up (R271). -/
def Node.initial : Node :=
  { epoch := 0#8, c := 0#16, k := [], rcv := [], a := [], saveOut := [], saveIn := [], f := 0#16, reports := [],
    early := [], ferr := Ferr.clear, out := [], mesh := [], held := [] }

/-- The home channel of node `k` with its token about to visit the next node (R277).  (DESIGN CHOICE, assumption 49) -/
def Chan.initial (k : Nat) : Chan := { pos := (k + 1) % 10, flights := [], lastPass := 0, frozen := false }

/-- A queue that Ling has not placed (R338: QSTAT 0; R337: the default T1 and T2; R360: DOORBELL and ICTL 0). -/
def Queue.initial : Queue :=
  { block := none, opened := false, enabled := false, pre := false, done := false, rst := false, rung := 0, seq := 0#16, bell := 0#64,
    due := false, statusSeq := 0, t1 := 40000, t2 := 160000, reqAt := 0, rung2At := 0,
    resetting := false, cut := [], pasid := 0#20, space := 0, priv := false, ictl := 0#64, debugger := false }

/-- A fibre that has not trained (R371). -/
def Fibre.initial : Fibre := { up := false, lit := 0, idleFrom := 0, waiting := [], acks := [] }

/-- The platform at the first power-good of a part: nothing brought up, nothing mirrored, no error logged; no image
in the flash (DESIGN CHOICE, assumption 39), and the module's own figure as power cap (DESIGN CHOICE, assumption 50). -/
def Platform.initial : Platform :=
  { bringUp := 0, recovery := false, linkUp := false, linkDown := false, linkGen := 0, linkWidth := 0, image := [], boot := 0#32,
    mirror := { decb := [], macs := [], seq := 0#64, boot := 0#32, clean := true }, abrupt := false,
    decb := [], macs := [], policies := [], owners := [], codeObjs := [], reportSeq := 0#64, revoked := [],
    remap := [], errLog := [], errSeq := 0, answers := [], podIds := [], powerCap := 1800, thermal := false,
    trained := [], lastMirror := 0, invals := [], halts := [] }

/-- The package at power-good, before Ling's first bring-up step (R357).  (DESIGN CHOICE, assumption 3) -/
def State.reset : State :=
  { turns := [], freeCtr := 0, nextId := 1, cur := .none, fresh := Fresh.none, time := 0#48,
    threads := [], groups := [], teams := [], cores := [], leases := [], hist := [], tasks := [], gens := [],
    quadPool := [], quadAlloc := [], wides := [], images := [], opqs := [], copies := [], sends := [],
    rows := [], heldReqs := [], gainTab := [], qsag := 64, ssar := 256 * 2 ^ 20,
    far := [], near := [], hostMem := [], link := [], linkReads := [], hostReads := [], selectors := [],
    nodes := [], chans := [], resync := none, removed := [], golden := [], queues := [], spaces := [],
    plat := Platform.initial, fibres := [] }

end Sys2Proof.Machine
end

