-- ==== Sys2Proof/Machine/Operands.lean ====
section
/-!
DEFINITION. The operand forms of the encoded instructions: the registers each reads, in the order of R17, with their
policy bits (R54), the registers it writes (R18), its class (R44, R45) and its cost (R302, R329).
-/
namespace Sys2Proof
open Sys2Proof.Machine (Cls)

/-- Registers that an instruction reads: `n` registers named by a field, under a policy (`trap`: raise when empty,
R17); or the v register of a number whatever the thread's mode is (CSRR of VSHk, R346). -/
inductive Src where
  | v (r : BitVec 6) (n : Nat) (trap : Bool)
  | phys (n : Nat)
  deriving DecidableEq, Repr

/-- Registers that an instruction writes (R18). -/
inductive Dst where
  | v (r : BitVec 6) (n : Nat)
  | phys (n : Nat)
  deriving DecidableEq, Repr

/-- Registers that hold the data of a store of size `z` (R55). -/
def storeRegs (z : Size) : Nat := match z with | .d => 2 | .q => 4 | _ => 1
/-- Registers that a load of size `z` writes (R55). -/
def loadRegs (z : Size) : Nat := match z with | .d => 2 | .q => 4 | _ => 1
/-- Elements, and registers, of an LDF of size `z` (R204). -/
def ldfCount (z : Size) : Nat := match z with | .d => 2 | .q => 4 | _ => 1
/-- Bytes of an access of size `z` (R55). -/
def sizeBytes (z : Size) : Nat :=
  match z with | .b | .sb => 1 | .h | .sh => 2 | .w | .sw => 4 | .d => 8 | .q => 16
/-- Registers of an atomic's operand of `n` registers: twice as many for CAS (R65). -/
def casRegs (o : AtomOp) (n : Nat) : Nat := match o with | .cas => 2 * n | _ => n
/-- CSRR of VSHk waits while v(56 + k) is empty (R346). -/
def csrSrc (n : Nat) : List Src := if 0x038 ≤ n && n ≤ 0x03F then [.phys (n - 0x038 + 56)] else []
/-- CSRW of VSHk writes v(56 + k) (R346). -/
def csrDst (n : Nat) : List Dst := if 0x038 ≤ n && n ≤ 0x03F then [.phys (n - 0x038 + 56)] else []

/-- The registers a group instruction reads, in the order field a, field b, then the register read through d (R17, R54). -/
def Instr.srcs : Instr → List Src
  | .add _ a b x y | .sub _ a b x y | .and _ a b x y | .or _ a b x y | .xor _ a b x y | .andn _ a b x y
  | .shl _ a b x y | .shr _ a b x y | .sar _ a b x y | .rol _ a b x y | .min _ a b x y | .max _ a b x y
  | .minu _ a b x y | .maxu _ a b x y | .mul _ a b x y | .mulh _ a b x y | .mulhu _ a b x y | .adds _ a b x y
  | .subs _ a b x y | .absd _ a b x y | .mul64 _ a b x y | .mulu64 _ a b x y | .cmp _ a b x y _
  | .sel _ a b x y _ | .xset _ a b x y | .wrx _ a b x y | .xperm _ a b x y | .xup _ a b x y | .xdown _ a b x y
  | .xxor _ a b x y | .send a b x y _ | .fadd _ a b x y _ | .fsub _ a b x y _ | .fmul _ a b x y _
  | .fmin _ a b x y | .fmax _ a b x y | .fcvtsmE4 _ a b x y _ | .fcvtsmE5 _ a b x y _ | .ftab _ a b x y
  | .fdiv _ a b x y _ | .hadd2 _ a b x y _ | .hsub2 _ a b x y _ | .hmul2 _ a b x y _ | .hmax2 _ a b x y
  | .hmin2 _ a b x y | .fcmp _ a b x y _ | .saadd a b x y | .saaddh a b x y => [.v a 1 x, .v b 1 y]
  | .mad d a b x y | .ffma d a b x y _ | .hfma2 d a b x y _ => [.v a 1 x, .v b 1 y, .v d 1 false]
  | .add64 _ a b x y | .sub64 _ a b x y => [.v a 2 x, .v b 2 y]
  | .shl64 _ a b x y | .shr64 _ a b x y | .sar64 _ a b x y | .lea64 _ a b x y => [.v a 2 x, .v b 1 y]
  | .mad64 d a b x y => [.v a 1 x, .v b 1 y, .v d 2 false]
  | .mov _ a x | .not _ a x | .neg _ a x | .abs _ a x | .clz _ a x | .ctz _ a x | .popc _ a x | .brev _ a x
  | .sext8 _ a x | .sext16 _ a x | .zext8 _ a x | .zext16 _ a x | .bfxu _ a x _ _ | .bfxs _ a x _ _
  | .addi _ a x _ | .andi _ a x _ | .ori _ a x _ | .xori _ a x _ | .shli _ a x _ | .shri _ a x _ | .sari _ a x _
  | .roli _ a x _ | .cmpi _ _ a x _ | .bz a x _ | .bnz a x _ | .lds _ a x _ _ | .ldq _ a x _ _
  | .ldacc _ a x _ _ | .xredadd _ a x | .xredmax _ a x | .xredmin _ a x | .xredand _ a x | .xredor _ a x
  | .xredfadd _ a x | .xredfmax _ a x | .xscanadd _ a x | .xstep _ a x | .fabs _ a x | .fneg _ a x
  | .fcvtif _ a x _ | .fcvtuf _ a x _ | .fcvtfi _ a x _ | .fcvtfu _ a x _ | .fcvtbf _ a x _ | .fcvtfb _ a x
  | .fcvte4 _ a x _ | .fcvte5 _ a x _ | .fcvtf4 _ a x | .fcvtf5 _ a x | .frcp _ a x _ | .frsq _ a x _
  | .fsqrt _ a x _ | .fexp2 _ a x _ | .flog2 _ a x _ | .sard _ a x | .sardh _ a x | .sardq _ a x | .sawait a x
  | .sacnt _ a x | .sleep a x => [.v a 1 x]
  | .mov64 _ a x | .jr a x | .jrl a x | .ld _ a x _ _ | .ldf _ a x _ _ | .tlbi a x => [.v a 2 x]
  | .bfi d a x _ _ => [.v a 1 x, .v d 1 false]
  | .ret => [.v 62#6 2 false]
  | .rdx _ _ b y | .barab _ _ b y | .bars _ _ b y => [.v b 1 y]
  | .st d a x z _ => [.v a 2 x, .v d (storeRegs z) false]
  | .sts d a x z _ | .stq d a x z _ => [.v a 1 x, .v d (storeRegs z) false]
  | .atom32 _ a b x y o _ => [.v a 2 x, .v b (casRegs o 1) y]
  | .atom64 _ a b x y o _ => [.v a 2 x, .v b (casRegs o 2) y]
  | .atoms _ a b x y o => [.v a 1 x, .v b (casRegs o 1) y]
  | .csrr _ h l => csrSrc (num12 h l)
  | .csrw d _ _ => [.v d 1 false]
  | _ => []

/-- The registers a group instruction writes, where `p8` are the thread's predicates: CALLP writes its link only when it is taken (R56). -/
def Instr.dsts (p8 : BitVec 8) : Instr → List Dst
  | .add d _ _ _ _ | .sub d _ _ _ _ | .and d _ _ _ _ | .or d _ _ _ _ | .xor d _ _ _ _ | .andn d _ _ _ _
  | .shl d _ _ _ _ | .shr d _ _ _ _ | .sar d _ _ _ _ | .rol d _ _ _ _ | .min d _ _ _ _ | .max d _ _ _ _
  | .minu d _ _ _ _ | .maxu d _ _ _ _ | .mul d _ _ _ _ | .mulh d _ _ _ _ | .mulhu d _ _ _ _ | .mad d _ _ _ _
  | .adds d _ _ _ _ | .subs d _ _ _ _ | .absd d _ _ _ _ | .mov d _ _ | .not d _ _ | .neg d _ _ | .abs d _ _
  | .clz d _ _ | .ctz d _ _ | .popc d _ _ | .brev d _ _ | .sext8 d _ _ | .sext16 d _ _ | .zext8 d _ _
  | .zext16 d _ _ | .bfxu d _ _ _ _ | .bfxs d _ _ _ _ | .bfi d _ _ _ _ | .addi d _ _ _ | .andi d _ _ _
  | .ori d _ _ _ | .xori d _ _ _ | .shli d _ _ _ | .shri d _ _ _ | .sari d _ _ _ | .roli d _ _ _ | .movi d _
  | .lui d _ | .ptor d | .sel d _ _ _ _ _ | .rdx d _ _ _ | .srd d _ | .atom32 d _ _ _ _ _ _ | .atoms d _ _ _ _ _
  | .xperm d _ _ _ _ | .xup d _ _ _ _ | .xdown d _ _ _ _ | .xxor d _ _ _ _ | .xredadd d _ _ | .xredmax d _ _
  | .xredmin d _ _ | .xredand d _ _ | .xredor d _ _ | .xredfadd d _ _ | .xredfmax d _ _ | .xscanadd d _ _
  | .xbal d _ | .xstep d _ _ | .fadd d _ _ _ _ _ | .fsub d _ _ _ _ _ | .fmul d _ _ _ _ _ | .ffma d _ _ _ _ _
  | .fmin d _ _ _ _ | .fmax d _ _ _ _ | .fabs d _ _ | .fneg d _ _ | .fcvtif d _ _ _ | .fcvtuf d _ _ _
  | .fcvtfi d _ _ _ | .fcvtfu d _ _ _ | .fcvtbf d _ _ _ | .fcvtfb d _ _ | .fcvte4 d _ _ _ | .fcvte5 d _ _ _
  | .fcvtf4 d _ _ | .fcvtf5 d _ _ | .fcvtsmE4 d _ _ _ _ _ | .fcvtsmE5 d _ _ _ _ _ | .frcp d _ _ _
  | .frsq d _ _ _ | .fsqrt d _ _ _ | .fexp2 d _ _ _ | .flog2 d _ _ _ | .ftab d _ _ _ _ | .fdiv d _ _ _ _ _
  | .hadd2 d _ _ _ _ _ | .hsub2 d _ _ _ _ _ | .hmul2 d _ _ _ _ _ | .hfma2 d _ _ _ _ _ | .hmax2 d _ _ _ _
  | .hmin2 d _ _ _ _ | .sard d _ _ | .sardh d _ _ | .sardq d _ _ | .sacnt d _ _ | .csrr d _ _ => [.v d 1]
  | .add64 d _ _ _ _ | .sub64 d _ _ _ _ | .shl64 d _ _ _ _ | .shr64 d _ _ _ _ | .sar64 d _ _ _ _
  | .mul64 d _ _ _ _ | .mulu64 d _ _ _ _ | .mad64 d _ _ _ _ | .lea64 d _ _ _ _ | .mov64 d _ _
  | .atom64 d _ _ _ _ _ _ | .qget d => [.v d 2]
  | .call _ | .jrl _ _ => [.v 62#6 2]
  | .callp p _ => if p8.getLsbD p.toNat then [.v 62#6 2] else []
  | .ld d _ _ z _ | .lds d _ _ z _ | .ldq d _ _ z _ => [.v d (loadRegs z)]
  | .ldf d _ _ z _ => [.v d (ldfCount z)]
  | .ldacc d _ _ c _ => [.v d (c.toNat + 1)]
  | .csrw _ h l => csrDst (num12 h l)
  | _ => []

/-- The lead registers a lead instruction reads (R54, R116). -/
def Instr.lsrcs : Instr → List (BitVec 6)
  | .ladd _ a b | .lsub _ a b | .land _ a b | .lor _ a b | .lxor _ a b | .landn _ a b | .lshl _ a b
  | .lshr _ a b | .lsar _ a b | .lmin _ a b | .lmax _ a b | .lminu _ a b | .lmaxu _ a b | .lmul _ a b
  | .lmulh _ a b | .lmulhu _ a b | .lcmp _ a b _ | .lsel _ a b _ | .saopen a b | .spawn _ a b | .spawnW _ a b
  | .alwadd _ a b => [a, b]
  | .lmov _ a | .lnot _ a | .lneg _ a | .lclz _ a | .lpopc _ a | .laddi _ a _ | .landi _ a _ | .lori _ a _
  | .lshli _ a _ | .lshri _ a _ | .lsari _ a _ | .lld _ a _ _ | .mcfg a | .publ a | .saalloc _ a | .saclr a
  | .safree a | .saload _ a | .join _ a | .tstat _ a | .unwind a | .alwrd _ a | .qsend a | .tload a => [a]
  | .lshin d _ => [d]
  | .lst d a _ _ => [a, d]
  | .mldw a b => if b = 0#6 then [a] else [a, b]
  | .mstrm d a b => [d, a, b]
  | .mzero d b => [d, b]
  | .cpyin d a b _ i _ | .cpyout d a b _ i _ => if i then [d, a] else [d, a, b, b + 1#6]
  | .cpyg d a b _ _ | .gath d a b _ _ => [d, a, b, b + 1#6]
  | .saevict d a | .samerge d a => [d, a]
  | _ => []

/-- The lead registers a lead instruction writes (R18). -/
def Instr.ldsts : Instr → List (BitVec 6)
  | .ladd d _ _ | .lsub d _ _ | .land d _ _ | .lor d _ _ | .lxor d _ _ | .landn d _ _ | .lshl d _ _
  | .lshr d _ _ | .lsar d _ _ | .lmin d _ _ | .lmax d _ _ | .lminu d _ _ | .lmaxu d _ _ | .lmul d _ _
  | .lmulh d _ _ | .lmulhu d _ _ | .lmov d _ | .lnot d _ | .lneg d _ | .lclz d _ | .lpopc d _ | .lsel d _ _ _
  | .lsrd d _ _ | .lmovi d _ | .laddi d _ _ | .landi d _ _ | .lori d _ _ | .lshli d _ _ | .lshri d _ _
  | .lsari d _ _ | .lshin d _ | .lld d _ _ _ | .saalloc d _ | .saload d _ | .spawn d _ _ | .spawnW d _ _
  | .alwadd d _ _ | .alwrd d _ => [d]
  | .join d _ | .tstat d _ => [d, d + 1#6]
  | _ => []

/-- The cost in AU of a group instruction for each executing thread, and of a lead scalar instruction 1 (R302); the commands with other costs name them in their meanings. -/
def Instr.cost : Instr → Nat
  | .nop | .add _ _ _ _ _ | .sub _ _ _ _ _ | .and _ _ _ _ _ | .or _ _ _ _ _ | .xor _ _ _ _ _ | .andn _ _ _ _ _
  | .shl _ _ _ _ _ | .shr _ _ _ _ _ | .sar _ _ _ _ _ | .rol _ _ _ _ _ | .min _ _ _ _ _ | .max _ _ _ _ _
  | .minu _ _ _ _ _ | .maxu _ _ _ _ _ | .adds _ _ _ _ _ | .subs _ _ _ _ _ | .absd _ _ _ _ _ | .add64 _ _ _ _ _
  | .sub64 _ _ _ _ _ | .shl64 _ _ _ _ _ | .shr64 _ _ _ _ _ | .sar64 _ _ _ _ _ | .lea64 _ _ _ _ _ | .mov _ _ _
  | .not _ _ _ | .neg _ _ _ | .abs _ _ _ | .clz _ _ _ | .ctz _ _ _ | .popc _ _ _ | .brev _ _ _ | .sext8 _ _ _
  | .sext16 _ _ _ | .zext8 _ _ _ | .zext16 _ _ _ | .mov64 _ _ _ | .bfxu _ _ _ _ _ | .bfxs _ _ _ _ _
  | .bfi _ _ _ _ _ | .addi _ _ _ _ | .andi _ _ _ _ | .ori _ _ _ _ | .xori _ _ _ _ | .shli _ _ _ _
  | .shri _ _ _ _ | .sari _ _ _ _ | .roli _ _ _ _ | .movi _ _ | .lui _ _ | .cmp _ _ _ _ _ _ | .cmpi _ _ _ _ _
  | .pand _ _ _ | .por _ _ _ | .pxor _ _ _ | .pnot _ _ | .ptor _ | .sel _ _ _ _ _ _ | .br _ | .brp _ _
  | .brn _ _ | .bz _ _ _ | .bnz _ _ _ | .call _ | .callp _ _ | .jr _ _ | .jrl _ _ | .ret | .yield | .exit
  | .trap _ | .brk _ | .xconv | .xset _ _ _ _ _ | .rdx _ _ _ _ | .wrx _ _ _ _ _ | .srd _ _ | .fence _
  | .bara _ _ | .barw _ _ | .barab _ _ _ _ | .bari _ _ _ | .bars _ _ _ _ | .qget _ | .sawait _ _ | .sacnt _ _ _
  | .csrr _ _ _ | .csrw _ _ _ | .rft | .tlbi _ _ | .halt | .sleep _ _ => 1
  | .mul _ _ _ _ _ | .mulh _ _ _ _ _ | .mulhu _ _ _ _ _ | .mad _ _ _ _ _ | .mul64 _ _ _ _ _ | .mulu64 _ _ _ _ _
  | .mad64 _ _ _ _ _ | .fadd _ _ _ _ _ _ | .fsub _ _ _ _ _ _ | .fmul _ _ _ _ _ _ | .ffma _ _ _ _ _ _
  | .fmin _ _ _ _ _ | .fmax _ _ _ _ _ | .fabs _ _ _ | .fneg _ _ _ | .fcvtif _ _ _ _ | .fcvtuf _ _ _ _
  | .fcvtfi _ _ _ _ | .fcvtfu _ _ _ _ | .fcvtbf _ _ _ _ | .fcvtfb _ _ _ | .fcvte4 _ _ _ _ | .fcvte5 _ _ _ _
  | .fcvtf4 _ _ _ | .fcvtf5 _ _ _ | .fcvtsmE4 _ _ _ _ _ _ | .fcvtsmE5 _ _ _ _ _ _ | .hadd2 _ _ _ _ _ _
  | .hsub2 _ _ _ _ _ _ | .hmul2 _ _ _ _ _ _ | .hfma2 _ _ _ _ _ _ | .hmax2 _ _ _ _ _ | .hmin2 _ _ _ _ _
  | .fcmp _ _ _ _ _ _ => 2
  | .rep _ _ _ => 0
  | .ld _ _ _ _ _ | .st _ _ _ _ _ | .lds _ _ _ _ _ | .sts _ _ _ _ _ | .ldq _ _ _ _ _ | .stq _ _ _ _ _
  | .ldf _ _ _ _ _ | .atoms _ _ _ _ _ _ | .send _ _ _ _ _ => 3
  | .ldacc _ _ _ c _ => 2 + (c.toNat + 1)
  | .atom32 _ _ _ _ _ _ _ | .atom64 _ _ _ _ _ _ _ | .frcp _ _ _ _ | .frsq _ _ _ _ | .fsqrt _ _ _ _
  | .fexp2 _ _ _ _ | .flog2 _ _ _ _ | .ftab _ _ _ _ _ | .fdiv _ _ _ _ _ _ | .saaddh _ _ _ _ | .sardh _ _ _ => 8
  | .xperm _ _ _ _ _ | .xup _ _ _ _ _ | .xdown _ _ _ _ _ | .xxor _ _ _ _ _ | .xredadd _ _ _ | .xredmax _ _ _
  | .xredmin _ _ _ | .xredand _ _ _ | .xredor _ _ _ | .xredfadd _ _ _ | .xredfmax _ _ _ | .xscanadd _ _ _
  | .xbal _ _ | .xany _ _ | .xall _ _ | .xstep _ _ _ | .saadd _ _ _ _ | .sard _ _ _ => 4
  | .sardq _ _ _ => 16
  | _ => 1

/-- The byte part of that cost (R329). -/
def Instr.byteCost : Instr → Nat
  | .ld _ _ _ _ _ | .st _ _ _ _ _ | .lds _ _ _ _ _ | .sts _ _ _ _ _ | .ldq _ _ _ _ _ | .stq _ _ _ _ _
  | .ldf _ _ _ _ _ | .atoms _ _ _ _ _ _ | .send _ _ _ _ _ | .lld _ _ _ _ | .lst _ _ _ _ => 1
  | .saadd _ _ _ _ | .sard _ _ _ => 4
  | .saaddh _ _ _ _ | .sardh _ _ _ => 8
  | .sardq _ _ _ => 16
  | _ => 0

/-- The class of an instruction, by its major opcode (R44). -/
def Instr.cls : Instr → Cls
  | .nop | .add _ _ _ _ _ | .sub _ _ _ _ _ | .and _ _ _ _ _ | .or _ _ _ _ _ | .xor _ _ _ _ _ | .andn _ _ _ _ _
  | .shl _ _ _ _ _ | .shr _ _ _ _ _ | .sar _ _ _ _ _ | .rol _ _ _ _ _ | .min _ _ _ _ _ | .max _ _ _ _ _
  | .minu _ _ _ _ _ | .maxu _ _ _ _ _ | .mul _ _ _ _ _ | .mulh _ _ _ _ _ | .mulhu _ _ _ _ _ | .mad _ _ _ _ _
  | .adds _ _ _ _ _ | .subs _ _ _ _ _ | .absd _ _ _ _ _ | .add64 _ _ _ _ _ | .sub64 _ _ _ _ _ | .shl64 _ _ _ _ _
  | .shr64 _ _ _ _ _ | .sar64 _ _ _ _ _ | .mul64 _ _ _ _ _ | .mulu64 _ _ _ _ _ | .mad64 _ _ _ _ _
  | .lea64 _ _ _ _ _ | .mov _ _ _ | .not _ _ _ | .neg _ _ _ | .abs _ _ _ | .clz _ _ _ | .ctz _ _ _ | .popc _ _ _
  | .brev _ _ _ | .sext8 _ _ _ | .sext16 _ _ _ | .zext8 _ _ _ | .zext16 _ _ _ | .mov64 _ _ _ | .bfxu _ _ _ _ _
  | .bfxs _ _ _ _ _ | .bfi _ _ _ _ _ | .addi _ _ _ _ | .andi _ _ _ _ | .ori _ _ _ _ | .xori _ _ _ _
  | .shli _ _ _ _ | .shri _ _ _ _ | .sari _ _ _ _ | .roli _ _ _ _ | .movi _ _ | .lui _ _ | .cmp _ _ _ _ _ _
  | .cmpi _ _ _ _ _ | .pand _ _ _ | .por _ _ _ | .pxor _ _ _ | .pnot _ _ | .ptor _ | .sel _ _ _ _ _ _ | .br _
  | .brp _ _ | .brn _ _ | .bz _ _ _ | .bnz _ _ _ | .call _ | .callp _ _ | .jr _ _ | .jrl _ _ | .ret | .yield
  | .exit | .trap _ | .brk _ | .xconv | .xset _ _ _ _ _ | .rdx _ _ _ _ | .wrx _ _ _ _ _ | .srd _ _ | .rep _ _ _
  | .xperm _ _ _ _ _ | .xup _ _ _ _ _ | .xdown _ _ _ _ _ | .xxor _ _ _ _ _ | .xredadd _ _ _ | .xredmax _ _ _
  | .xredmin _ _ _ | .xredand _ _ _ | .xredor _ _ _ | .xredfadd _ _ _ | .xredfmax _ _ _ | .xscanadd _ _ _
  | .xbal _ _ | .xany _ _ | .xall _ _ | .xstep _ _ _ => .int
  | .ld _ _ _ _ _ | .st _ _ _ _ _ | .lds _ _ _ _ _ | .sts _ _ _ _ _ | .ldq _ _ _ _ _ | .stq _ _ _ _ _
  | .ldf _ _ _ _ _ | .ldacc _ _ _ _ _ | .atom32 _ _ _ _ _ _ _ | .atom64 _ _ _ _ _ _ _ | .atoms _ _ _ _ _ _
  | .fence _ | .bara _ _ | .barw _ _ | .barab _ _ _ _ | .bari _ _ _ | .bars _ _ _ _ | .send _ _ _ _ _ | .qget _ => .mem
  | .fadd _ _ _ _ _ _ | .fsub _ _ _ _ _ _ | .fmul _ _ _ _ _ _ | .ffma _ _ _ _ _ _ | .fmin _ _ _ _ _
  | .fmax _ _ _ _ _ | .fabs _ _ _ | .fneg _ _ _ | .fcvtif _ _ _ _ | .fcvtuf _ _ _ _ | .fcvtfi _ _ _ _
  | .fcvtfu _ _ _ _ | .fcvtbf _ _ _ _ | .fcvtfb _ _ _ | .fcvte4 _ _ _ _ | .fcvte5 _ _ _ _ | .fcvtf4 _ _ _
  | .fcvtf5 _ _ _ | .fcvtsmE4 _ _ _ _ _ _ | .fcvtsmE5 _ _ _ _ _ _ | .frcp _ _ _ _ | .frsq _ _ _ _
  | .fsqrt _ _ _ _ | .fexp2 _ _ _ _ | .flog2 _ _ _ _ | .ftab _ _ _ _ _ | .fdiv _ _ _ _ _ _ | .hadd2 _ _ _ _ _ _
  | .hsub2 _ _ _ _ _ _ | .hmul2 _ _ _ _ _ _ | .hfma2 _ _ _ _ _ _ | .hmax2 _ _ _ _ _ | .hmin2 _ _ _ _ _
  | .fcmp _ _ _ _ _ _ => .flt
  | .saadd _ _ _ _ | .saaddh _ _ _ _ | .sard _ _ _ | .sardh _ _ _ | .sardq _ _ _ | .sawait _ _ | .sacnt _ _ _ => .sa
  | .ladd _ _ _ | .lsub _ _ _ | .land _ _ _ | .lor _ _ _ | .lxor _ _ _ | .landn _ _ _ | .lshl _ _ _
  | .lshr _ _ _ | .lsar _ _ _ | .lmin _ _ _ | .lmax _ _ _ | .lminu _ _ _ | .lmaxu _ _ _ | .lmul _ _ _
  | .lmulh _ _ _ | .lmulhu _ _ _ | .lmov _ _ | .lnot _ _ | .lneg _ _ | .lclz _ _ | .lpopc _ _ | .lcmp _ _ _ _
  | .lsel _ _ _ _ | .lpand _ _ _ | .lpor _ _ _ | .lpxor _ _ _ | .lpnot _ _ | .lsrd _ _ _ | .lbara _ | .lbarw _
  | .lmovi _ _ | .laddi _ _ _ | .landi _ _ _ | .lori _ _ _ | .lshli _ _ _ | .lshri _ _ _ | .lsari _ _ _
  | .lshin _ _ | .lbr _ | .lbrp _ _ | .lbrn _ _ | .lend | .lld _ _ _ _ | .lst _ _ _ _ | .mcfg _ | .mldw _ _
  | .mswap | .mstrm _ _ _ | .mzero _ _ | .mwait | .cpyin _ _ _ _ _ _ | .cpyout _ _ _ _ _ _ | .cpyg _ _ _ _ _
  | .gath _ _ _ _ _ | .publ _ | .cpwait | .saalloc _ _ | .saopen _ _ | .saclr _ | .safree _ | .saevict _ _
  | .saload _ _ | .samerge _ _ | .spawn _ _ _ | .spawnW _ _ _ | .join _ _ | .tstat _ _ | .alwadd _ _ _
  | .unwind _ | .alwrd _ _ | .qsend _ | .tload _ | .tswap => .lead
  | .csrr _ _ _ | .csrw _ _ _ | .rft | .tlbi _ _ | .halt | .sleep _ _ => .sys
  | _ => .int

/-- The instructions that may stand in a clause of any group class (R45); REP is a prefix that may too. -/
def Instr.anyClass : Instr → Bool
  | .nop | .mov _ _ _ | .pand _ _ _ | .por _ _ _ | .pxor _ _ _ | .pnot _ _ | .ptor _ | .sel _ _ _ _ _ _ | .br _
  | .brp _ _ | .brn _ _ | .bz _ _ _ | .bnz _ _ _ | .call _ | .callp _ _ | .jr _ _ | .jrl _ _ | .ret | .yield
  | .exit | .trap _ | .brk _ | .xconv | .srd _ _ | .rep _ _ _ | .qget _ => true
  | _ => false

/-- Check 3 of R46: whether an instruction may stand in a clause of class `c` (R44, R45). -/
def Instr.classOk (i : Instr) (c : Cls) : Bool :=
  match c with
  | .lead => i.cls = .lead || i = .nop
  | _ => i.anyClass || i.cls = c

end Sys2Proof
end

