-- ==== Sys2Proof/Machine/Regs.lean ====
section
/-!
DEFINITION. Registers of threads and leads: the one home of each, and the accessors through which every read and
write goes (R13, R16 to R18, R29, R93, R342).
-/
namespace Sys2Proof.Machine

/-- The code of a trap cause (R341). -/
def Cause.code : Cause → Nat
  | .illegalHeader => 1 | .illegalOp => 2 | .clauseClass => 3 | .branchTarget => 4 | .emptyRead => 5
  | .qClosed => 6 | .indexBounds => 7 | .align => 8 | .permission => 9 | .format => 10 | .regionDenied => 11
  | .regionRaw => 12 | .saRange => 13 | .saInvalid => 14 | .saScope => 15 | .saCount => 16 | .trap => 17
  | .brk => 18 | .fabricLoss => 19 | .memErr => 32 | .unmapped => 33 | .reset => 34

/-- The code of a class (R41, R44). -/
def Cls.code : Cls → BitVec 3
  | .int => 0#3 | .flt => 1#3 | .mem => 2#3 | .sa => 3#3 | .lead => 4#3 | .sys => 5#3
/-- The class of a code; 6 and 7 are reserved. -/
def Cls.ofCode (c : BitVec 3) : Option Cls :=
  if c = 0#3 then some .int else if c = 1#3 then some .flt else if c = 2#3 then some .mem
  else if c = 3#3 then some .sa else if c = 4#3 then some .lead else if c = 5#3 then some .sys else none
/-- The classes a group executes (R44). -/
def Cls.group : Cls → Bool
  | .lead => false | .int => true | .flt => true | .mem => true | .sa => true | .sys => true

/-- A thread with nothing in it: what a lane without a thread reads as.  (DESIGN CHOICE, assumption 51) -/
def Thread.none : Thread :=
  { v := [], e := [], xb := [], xl := [], p := 0#8, t := [], empty := [], waitb := 0#16, arr := [], qrd := 0#16,
    qpend := [], trapMode := false, timeh := 0#16, traps := 0#32, live := false, gen := false, pend := [], ops := 0 }

/-- The register that a field names: in trap mode fields 56 to 63 name t0 to t7 (R342), numbers 64 to 71. -/
def Thread.ix (th : Thread) (r : BitVec 6) : Nat :=
  if th.trapMode && 56 ≤ r.toNat then r.toNat + 8 else r.toNat
/-- The value of a register by number. -/
def Thread.reg (th : Thread) (n : Nat) : Word := if n < 64 then th.v.get n 0#32 else th.t.get (n - 64) 0#32
/-- Write a register within the instruction's own issue: it is full afterwards (R16, R35). -/
def Thread.setReg (th : Thread) (n : Nat) (w : Word) : Thread :=
  if n < 64 then { th with v := th.v.set n w 0#32, empty := th.empty.del n }
  else { th with t := th.t.set (n - 64) w 0#32 }
/-- Mark a register empty; t registers have no full/empty bit (R342). -/
def Thread.markEmpty (th : Thread) (n : Nat) : Thread :=
  if n < 64 then { th with empty := th.empty.put n .pending } else th
/-- Mark a register full with the value it has. -/
def Thread.markFull (th : Thread) (n : Nat) : Thread := { th with empty := th.empty.del n }
/-- Close a register (R17). -/
def Thread.close (th : Thread) (n : Nat) (c : Cause) (a : Word) : Thread :=
  if n < 64 then { th with empty := th.empty.put n (.closed c a) } else th

/-- The word a field names. -/
def Thread.rd (th : Thread) (r : BitVec 6) : Word := th.reg (th.ix r)
/-- The 64-bit value of an even-odd pair: bits 31:0 in the even register (R93). -/
def Thread.rd2 (th : Thread) (r : BitVec 6) : DWord := th.reg (th.ix r + 1) ++ th.reg (th.ix r)
/-- Write the word a field names. -/
def Thread.wr (th : Thread) (r : BitVec 6) (w : Word) : Thread := th.setReg (th.ix r) w
/-- Write an even-odd pair (R93). -/
def Thread.wr2 (th : Thread) (r : BitVec 6) (w : DWord) : Thread :=
  (th.setReg (th.ix r) (w.extractLsb' 0 32)).setReg (th.ix r + 1) (w.extractLsb' 32 32)
/-- The values of `n` registers from the one a field names. -/
def Thread.rdN (th : Thread) (r : BitVec 6) (n : Nat) : List Word :=
  (List.range n).map (fun k => th.reg (th.ix r + k))
/-- Write consecutive registers by number. -/
def Thread.setRegs (th : Thread) (n : Nat) : List Word → Thread
  | [] => th
  | w :: ws => Thread.setRegs (th.setReg n w) (n + 1) ws
/-- The numbers of `n` registers from the one a field names. -/
def Thread.ixs (th : Thread) (r : BitVec 6) (n : Nat) : List Nat := (List.range n).map (fun k => th.ix r + k)
/-- The numbers of the registers of a source. -/
def Thread.srcIxs (th : Thread) : Src → List Nat
  | .v r n _ => th.ixs r n
  | .phys n => [n]
/-- The numbers of the registers of a destination. -/
def Thread.dstIxs (th : Thread) : Dst → List Nat
  | .v r n => th.ixs r n
  | .phys n => [n]
/-- Whether a source traps when it is empty. -/
def srcTraps : Src → Bool
  | .v _ _ t => t
  | .phys _ => false

/-- A predicate of a thread. -/
def Thread.pred (th : Thread) (k : BitVec 3) : Bool := th.p.getLsbD k.toNat
/-- Set one bit of a bit vector. -/
def setBit {w : Nat} (v : BitVec w) (k : Nat) (b : Bool) : BitVec w :=
  if b then v ||| (1#w <<< k) else v &&& ~~~(1#w <<< k)
/-- Write a predicate of a thread. -/
def Thread.setPred (th : Thread) (k : BitVec 3) (b : Bool) : Thread := { th with p := setBit th.p k.toNat b }

/-- R17 in one thread: the first register read, in the order of the sources, that is closed or is empty under the trap
policy, with the cause to raise and the address that goes with it. -/
def Thread.raises (th : Thread) : List Src → Option (Cause × Nat × Word)
  | [] => Option.none
  | s :: ss =>
    match (th.srcIxs s).findSome? (fun n =>
      match th.empty.find n with
      | some (.closed c a) => some (c, n, a)
      | some .pending => if srcTraps s then some (Cause.emptyRead, n, 0#32) else Option.none
      | Option.none => Option.none) with
    | some x => some x
    | Option.none => Thread.raises th ss
/-- R17: some register read is empty. -/
def Thread.srcEmpty (th : Thread) (ss : List Src) : Bool :=
  ss.any (fun s => (th.srcIxs s).any (fun n => th.empty.has n))
/-- R18: some destination awaits an earlier producer; a t register, always full, does so while a result or a decision-queue entry is on
its way. -/
def Thread.dstPending (th : Thread) (ds : List Dst) : Bool :=
  ds.any (fun d => (th.dstIxs d).any (fun n => th.empty.find n == some .pending || th.pend.any (fun q => q.dst.contains n)
    || th.qpend.any (fun q => q.1 == n || q.1 + 1 == n)))

/-- The value of a lead register. -/
def Lead.reg (l : Lead) (r : BitVec 6) : DWord := l.s.get r.toNat 0#64
/-- Write a lead register; it is full afterwards. -/
def Lead.setReg (l : Lead) (r : Nat) (w : DWord) : Lead :=
  { l with s := l.s.set r w 0#64, empty := l.empty.del r }
/-- Mark a lead register empty (R16). -/
def Lead.markEmpty (l : Lead) (r : Nat) : Lead := { l with empty := l.empty.put r true }
/-- A lead register is full. -/
def Lead.full (l : Lead) (r : BitVec 6) : Bool := !l.empty.has r.toNat
/-- A predicate of a lead. -/
def Lead.pred (l : Lead) (k : BitVec 3) : Bool := l.p.getLsbD k.toNat
/-- Write a predicate of a lead. -/
def Lead.setPred (l : Lead) (k : BitVec 3) (b : Bool) : Lead := { l with p := setBit l.p k.toNat b }

/-- The key of the thread in a lane of a group. -/
def tkey (gk lane : Nat) : Nat := gk * 64 + lane

/-- Change the entries of a map whose keys satisfy `p`, each by its key. -/
def SMap.mapIf {β : Type} (m : SMap β) (p : Nat → Bool) (f : Nat → β → β) : SMap β :=
  m.map (fun e => if p e.1 then (e.1, f e.1 e.2) else e)

/-- The thread in a lane of a group. -/
def State.thread (s : State) (gk lane : Nat) : Thread := s.threads.get (tkey gk lane) Thread.none
/-- Change the threads in some lanes of a group. -/
def State.onLanes (s : State) (gk : Nat) (lanes : List Nat) (f : Nat → Thread → Thread) : State :=
  { s with threads := s.threads.mapIf (fun k => decide (k / 64 = gk) && lanes.contains (k % 64)) (fun k => f (k % 64)) }
/-- Change one thread. -/
def State.modThread (s : State) (k : Nat) (f : Thread → Thread) : State :=
  { s with threads := s.threads.mod k f }
/-- Change a team. -/
def State.modTeam (s : State) (tk : Nat) (f : Team → Team) : State := { s with teams := s.teams.mod tk f }
/-- Change a team's lead. -/
def State.modLead (s : State) (tk : Nat) (f : Lead → Lead) : State :=
  s.modTeam tk (fun t => { t with lead := f t.lead })
/-- Change a task. -/
def State.modTask (s : State) (k : Nat) (f : Task → Task) : State := { s with tasks := s.tasks.mod k f }
/-- Change a group. -/
def State.modGroup (s : State) (k : Nat) (f : Group → Group) : State := { s with groups := s.groups.mod k f }
/-- A core; one that nothing has changed is as before bring-up. -/
def State.core (s : State) (k : Nat) : Core := s.cores.get k Core.initial
/-- Change a core. -/
def State.modCore (s : State) (k : Nat) (f : Core → Core) : State :=
  { s with cores := s.cores.set k (f (s.core k)) Core.initial }
/-- A Hedgerow node. -/
def State.node (s : State) (k : Nat) : Node := s.nodes.get k Node.initial
/-- Change a Hedgerow node. -/
def State.modNode (s : State) (k : Nat) (f : Node → Node) : State :=
  { s with nodes := s.nodes.set k (f (s.node k)) Node.initial }
/-- A home channel. -/
def State.chan (s : State) (k : Nat) : Chan := s.chans.get k (Chan.initial k)
/-- Change a home channel. -/
def State.modChan (s : State) (k : Nat) (f : Chan → Chan) : State :=
  { s with chans := s.chans.set k (f (s.chan k)) (Chan.initial k) }
/-- A queue. -/
def State.queue (s : State) (k : Nat) : Queue := s.queues.get k Queue.initial
/-- Change a queue. -/
def State.modQueue (s : State) (k : Nat) (f : Queue → Queue) : State :=
  { s with queues := s.queues.set k (f (s.queue k)) Queue.initial }
/-- Change the platform. -/
def State.modPlat (s : State) (f : Platform → Platform) : State := { s with plat := f s.plat }

/-- The die of a core (R12). -/
def dieOf (core : Nat) : Nat := core / 96
/-- The package-wide quad of a core (R12). -/
def quadOf (core : Nat) : Nat := core / 4
/-- The core of a group or team key. -/
def coreOf (key : Nat) : Nat := key / 8

end Sys2Proof.Machine
end

