-- ==== Sys2Proof/Machine/Flags.lean ====
section
/-!
DEFINITION. The conditions that write predicates (R100, R117): the machine has no flags (R94).
-/
namespace Sys2Proof.Machine

/-- A condition of R100 on two values of one width. -/
def condHolds {w : Nat} (c : Cond) (a b : BitVec w) : Bool :=
  match c with
  | .eq => a == b
  | .ne => a != b
  | .lt => BitVec.slt a b
  | .le => BitVec.sle a b
  | .gt => BitVec.slt b a
  | .ge => BitVec.sle b a
  | .ltu => BitVec.ult a b
  | .leu => BitVec.ule a b
  | .gtu => BitVec.ult b a
  | .geu => BitVec.ule b a
  | .tst => (a &&& b) != 0#w

end Sys2Proof.Machine
end

