-- ==== Sys2Proof/Machine/Desc.lean ====
section
/-!
DEFINITION. The words that stand for a task: handle (R294), descriptor (R295), placement (R297), status (R315) and the
partition word (R131); the queue control block and slot (R319, R320).
-/
namespace Sys2Proof.Machine

/-- A field of a descriptor of R295. -/
def descField (d : List Byte) (hi lo : Nat) : Nat := natBits (natOfBytes d) hi lo
/-- An address field of a descriptor: bits 47:0 of a canonical address. -/
def descAddr (d : List Byte) (hi lo : Nat) : DWord := (BitVec.ofNat 48 (descField d hi lo)).signExtend 64
/-- VER. -/
def descVer (d : List Byte) : Nat := descField d 7 0
/-- DV: the deadline holds. -/
def descDv (d : List Byte) : Bool := descField d 8 8 == 1
/-- HV: the handler holds. -/
def descHv (d : List Byte) : Bool := descField d 9 9 == 1
/-- Groups per team, 1 to 8. -/
def descGroups (d : List Byte) : Nat := descField d 18 16 + 1
/-- Registers per thread (R14). -/
def descRegs (d : List Byte) : Nat := 64 + 16 * descField d 22 19
/-- The span limit: CORE, QUAD, DIE, PKG. -/
def descSpan (d : List Byte) : Nat := descField d 25 24
/-- The priority class. -/
def descPrio (d : List Byte) : Nat := descField d 27 26
/-- STV: starvation unwinds. -/
def descStv (d : List Byte) : Bool := descField d 28 28 == 1
/-- Scratchpad granules per team. -/
def descSpadg (d : List Byte) : Nat := descField d 38 32
/-- Accumulator granules per team. -/
def descAccg (d : List Byte) : Nat := descField d 46 40
/-- Quad-pool granules per quad. -/
def descQuadg (d : List Byte) : Nat := descField d 57 48
/-- The allowance carved for the task. -/
def descAllowance (d : List Byte) : Nat := descField d 127 64
/-- The group entry. -/
def descGentry (d : List Byte) : DWord := descAddr d 175 128
/-- Teams of the task, 1 to 65,536. -/
def descTeams (d : List Byte) : Nat := descField d 191 176 + 1
/-- The lead entry. -/
def descLentry (d : List Byte) : DWord := descAddr d 239 192
/-- The device queue of the task's own SPAWNs. -/
def descQueue (d : List Byte) : Nat := descField d 243 240
/-- The arguments address. -/
def descArgs (d : List Byte) : DWord := descAddr d 303 256
/-- The code object. -/
def descCodeid (d : List Byte) : Nat := descField d 319 304
/-- The group trap handler. -/
def descHandler (d : List Byte) : DWord := descAddr d 367 320
/-- DEADLINE. -/
def descDeadline (d : List Byte) : Nat := descField d 431 384
/-- STVCYC. -/
def descStvcyc (d : List Byte) : Nat := descField d 479 448

/-- The register granules of a team: groups x 64 x registers x 4 bytes, rounded up (R15). -/
def regGranules (groups regs : Nat) : Nat := (groups * 64 * regs * 4 + (Config.granule - 1)) / Config.granule

/-- The fields of a descriptor that are marked Zero are zero (R295, R6). -/
def descZeros (d : List Byte) : Bool :=
  descField d 15 10 == 0 && descField d 23 23 == 0 && descField d 31 29 == 0 && descField d 39 39 == 0
  && descField d 47 47 == 0 && descField d 63 58 == 0 && descField d 255 244 == 0 && descField d 383 368 == 0
  && descField d 447 432 == 0 && descField d 511 480 == 0

/-- A placement within the range of R297. -/
def placementOk (span : Nat) (p : DWord) : Bool :=
  p == BitVec.allOnes 64 || span == 3 || (span == 0 && p.toNat < 768) || (span == 1 && p.toNat < 192)
  || (span == 2 && p.toNat < 8)

/-- The code of a task state (R298). -/
def TaskState.code : TaskState → Nat
  | .queued => 0 | .running => 1 | .starved => 2 | .draining => 3 | .unwinding => 4 | .completed => 5
  | .failed => 6 | .unwound => 7
/-- The final states (R298). -/
def TaskState.final : TaskState → Bool
  | .completed | .failed | .unwound => true
  | .queued | .running | .starved | .draining | .unwinding => false

/-- The handle of the task in an entry (R294). -/
def handleOf (gen : BitVec 16) (k : Nat) : BitVec 32 := gen ++ BitVec.ofNat 16 k
/-- The task entry that a handle names: HOME x 8192 + ENTRY. -/
def handleEntry (h : BitVec 32) : Nat := (h.extractLsb' 0 16).toNat
/-- GEN of a handle. -/
def handleGen (h : BitVec 32) : BitVec 16 := h.extractLsb' 16 16

/-- The status word of R315. -/
def statusWord (dropb : BitVec 32) (late drop : Bool) (cause state : Nat) : DWord :=
  dropb ++ BitVec.ofNat 14 0 ++ BitVec.ofBool late ++ BitVec.ofBool drop ++ BitVec.ofNat 8 cause
    ++ BitVec.ofNat 4 0 ++ BitVec.ofNat 4 state
/-- The status word of a task. -/
def Task.status (t : Task) : DWord := statusWord t.dropb t.late t.drop t.cause t.state.code
/-- A task's own handle. -/
def Task.handle (t : Task) (k : Nat) : BitVec 32 := handleOf t.gen k

/-- PARTW of a team (R131). -/
def Team.partw (t : Team) : Word :=
  BitVec.ofNat 1 0 ++ BitVec.ofNat 10 t.quadg ++ BitVec.ofNat 8 t.accg ++ BitVec.ofNat 7 t.spadg
    ++ BitVec.ofNat 6 t.regg

/-- The key of a lease. -/
def leaseKey (core task : Nat) : Nat := 65536 * core + task
/-- The balances of a task's leases together (R310, R314). -/
def leasesOf (s : State) (task : Nat) : Nat :=
  s.leases.foldl (fun n e => if e.1 % 65536 = task then n + e.2.bal else n) 0
/-- A task's unspent allowance: its pool and the balances of its leases (R300). -/
def unspent (s : State) (task : Nat) : Nat :=
  match s.tasks.find task with
  | some t => if t.state.final then t.remainder else t.pool + leasesOf s task
  | none => 0

/-- The whole subtree of a task, the task first; `fuel` bounds the depth. -/
def subtree (s : State) : Nat → Nat → List Nat
  | 0, k => [k]
  | fuel + 1, k =>
    match s.tasks.find k with
    | some t => k :: t.children.flatMap (fun c => subtree s fuel c)
    | none => [k]
/-- Bound on the depth of a task tree: there are no more tasks than this. -/
def treeFuel (s : State) : Nat := s.tasks.length
/-- Task `k` belongs to the task tree of task `o`: it is `o` or descends from it (R11, R229); `fuel` bounds the depth. -/
def inTree (s : State) : Nat → Nat → Nat → Bool
  | 0, o, k => o == k
  | fuel + 1, o, k =>
    o == k || match s.tasks.find k with
      | some t => match t.parent with
        | some p => inTree s fuel o p
        | none => false
      | none => false

/-- The queues that a task and its ancestors have come through (R309, R337). -/
def queuesOf (s : State) : Nat → Nat → List Nat
  | 0, _ => []
  | fuel + 1, k =>
    match s.tasks.find k with
    | some t => t.queue :: (match t.parent with
      | some p => queuesOf s fuel p
      | none => [])
    | none => []
/-- A queue concerns a task: the task, or one that it descends from, came through it (R337).  (DEDUCED, assumption 34) -/
def concerned (s : State) (q k : Nat) : Bool := (queuesOf s (treeFuel s + 1) k).contains q

/-- Every team of a task, by key. -/
def teamsOf (s : State) (task : Nat) : List (Nat × Team) := s.teams.filter (fun e => e.2.task == task)
/-- The resident team with a number. -/
def teamByUid (s : State) (uid : Nat) : Option (Nat × Team) :=
  List.find? (fun e => e.2.uid == uid) s.teams
/-- The live lanes of a group. -/
def liveLanes (s : State) (gk : Nat) : List Nat :=
  (List.range Config.lanes).filter (fun l => (s.thread gk l).live)
/-- The groups of a team that have not retired, by key. -/
def groupsOf (s : State) (tk : Nat) : List (Nat × Group) := s.groups.filter (fun e => e.2.team == tk)

end Sys2Proof.Machine
end

