-- ==== Sys2Proof/Machine/Net.lean ====
section
/-!
DEFINITION. Hedgerow (R271 to R283) and the access queues of threads and leads (R281): stamps, the issue of causal
packets, what a home knows, and where each byte of global memory stands.
-/
namespace Sys2Proof.Machine

/-- `a` is at or before `b`, modulo 2^16 in a window of 2^15 (R274). -/
def le16 (a b : BitVec 16) : Bool := (b - a).toNat < 2 ^ 15
/-- The later of two sequence values (R274). -/
def max16 (a b : BitVec 16) : BitVec 16 := if le16 a b then b else a
/-- An entry of a vector of sequence values. -/
def Stamp.at (v : Stamp) (k : Nat) : BitVec 16 := SMap.get v k 0#16
/-- Element-wise comparison (R274). -/
def Stamp.le (v w : Stamp) : Bool := (List.range Config.nodes).all (fun k => le16 (Stamp.at v k) (Stamp.at w k))
/-- Element-wise comparison except for one entry (R279). -/
def Stamp.leBut (j : Nat) (v w : Stamp) : Bool :=
  (List.range Config.nodes).all (fun k => k == j || le16 (Stamp.at v k) (Stamp.at w k))
/-- Element-wise merge (R274). -/
def Stamp.merge (v w : Stamp) : Stamp :=
  (List.range Config.nodes).foldl (fun r k => SMap.set r k (max16 (Stamp.at v k) (Stamp.at w k)) 0#16) []

/-- The home node of a place (R376, R352). -/
def homeOf (l : Loc) : Nat :=
  if l.kind = 0 then l.pa / 1024 % 32 / 4 else if l.kind = 1 then l.pa / 2 ^ 31 % 8 else Config.ioNode

/-- Where a place of a PUB page stands in its block: the key of the buffer's selector (R160). -/
def selKey (l : Loc) : Nat := 4 * (l.pa / (2 * l.pub) * (2 * l.pub)) + l.kind
/-- The physical address of a place: for a PUB page in the live frame, or in the shadow frame (R160). -/
def framePa (s : State) (l : Loc) (shadow : Bool) : Nat :=
  if l.pub = 0 then l.pa
  else if s.selectors.get (selKey l) false = shadow then l.pa else l.pa + l.pub

/-- The `n` bytes at a place as its home holds them. -/
def State.readLoc (s : State) (l : Loc) (n : Nat) : List Byte :=
  let pa := framePa s l false
  if l.kind = 0 then Memory.bytes s.far pa n else if l.kind = 1 then Memory.bytes s.near pa n
  else Memory.bytes s.hostMem pa n
/-- Write bytes at a physical address of a kind. -/
def State.writePa (s : State) (kind pa : Nat) (bs : List Byte) : State :=
  if kind = 0 then { s with far := Memory.setBytes s.far pa bs }
  else if kind = 1 then { s with near := Memory.setBytes s.near pa bs }
  else { s with hostMem := Memory.setBytes s.hostMem pa bs }
/-- Write bytes at a place; those of a PUB page go to the shadow frame (R156). -/
def State.writeLoc (s : State) (l : Loc) (bs : List Byte) : State := s.writePa l.kind (framePa s l true) bs

/-- A packet that does not count as applied by arriving: a write, an atomic or a command, but no read (R278). -/
def Body.waits : Body → Bool
  | .read _ _ _ _ => false
  | .copyRead _ _ _ => false
  | .saReq r => match r.op with
    | .add _ => true
    | .addh _ => true
    | .rd => false
    | .rdh => false
    | .rdq => false
    | .wait => false
    | .cnt => false
  | .write _ _ _ _ => true
  | .atom _ _ _ _ _ _ _ => true
  | .copyWrite _ _ _ _ => true
  | .publ _ _ => true
  | .saCmd _ _ _ _ _ => true
  | .arrive _ _ => true
/-- Whether a packet writes memory. -/
def Body.writes : Body → Bool
  | .write _ _ _ _ => true
  | .atom _ _ _ _ _ _ _ => true
  | .copyWrite _ _ _ _ => true
  | .publ _ _ => true
  | .read _ _ _ _ => false
  | .copyRead _ _ _ => false
  | .saReq _ => false
  | .saCmd _ _ _ _ _ => false
  | .arrive _ _ => false
/-- The packet of an item. -/
def Item.pkt? : Item → Option Packet
  | .pkt p => some p
  | .resp _ => none
/-- The earlier of a sequence and a possible one. -/
def seqMin (a : Option (BitVec 16)) (b : BitVec 16) : Option (BitVec 16) :=
  match a with
  | none => some b
  | some x => some (if le16 x b then x else b)
/-- The sequences from node `j` that hold A_k[j] back at a node (R278); of its own packets also those on the mesh. -/
def Node.holding (n : Node) (k j : Nat) : List (BitVec 16) :=
  ((n.early ++ n.held.filterMap (fun e => e.2.pkt?)).filter (fun p => p.src == j && p.body.waits)).map Packet.seq
    ++ (if j = k then (n.mesh.filterMap (fun e => e.item.pkt?)).map Packet.seq else [])
/-- A_k[j] as R278 gives it. -/
def Node.applied (n : Node) (k j : Nat) : BitVec 16 :=
  match (n.holding k j).foldl seqMin none with
  | some q => q - 1#16
  | none => if j = k then n.c else Stamp.at n.rcv j
/-- Bring A of a node up to date (R278). -/
def State.refreshA (s : State) (k : Nat) : State :=
  s.modNode k (fun n =>
    { n with a := (List.range Config.nodes).foldl (fun r j => SMap.set r j (n.applied k j) 0#16) [] })

/-- A node may issue a causal packet: the window is open and no resynchronisation is under way (R283, R287). -/
def canSend (s : State) (i : Nat) : Bool :=
  s.resync.isNone && ((s.node i).c - (s.node i).f).toNat < 16384

/-! ## The mesh of a die -/

/-- The core of a team, resident or saved. -/
def uidCore (s : State) (uid : Nat) : Option Nat :=
  match s.teams.find? (fun e => e.2.uid == uid) with
  | some e => some e.2.core
  | none => (s.images.find? (fun e => e.2.team.uid == uid)).map (fun e => e.2.team.core)
/-- The core that a packet comes from, where it still names one. -/
def Body.core (s : State) (b : Body) : Option Nat :=
  let ofQ : Nat → Option Nat := fun q => match (s.opqs.find q).map OpQ.who with
    | some (.thread uid _ _) => uidCore s uid
    | some (.lead uid) => uidCore s uid
    | some .host => none
    | none => none
  let ofC : Nat → Option Nat := fun c => (s.copies.find c).map Copy.core
  match b with
  | .read q _ _ _ => ofQ q
  | .write q _ _ _ => ofQ q
  | .atom q _ _ _ _ _ _ => ofQ q
  | .copyRead c _ _ => ofC c
  | .copyWrite c _ _ _ => ofC c
  | .publ c _ => ofC c
  | .saReq r => some r.core
  | .saCmd _ uid _ _ _ => uidCore s uid
  | .arrive _ team => uidCore s team
/-- The injection point of a packet on its die's mesh (R284): 0 to 95 its core.  (DESIGN CHOICE, assumption 53) -/
def Body.point (s : State) (b : Body) : Nat := ((b.core s).getD 0) % 96
/-- The injection point of a response (R284): 120 to 127 a Sward slice.  (DESIGN CHOICE, assumption 53) -/
def RBody.point (s : State) (b : RBody) : Nat :=
  match b with
  | .mem q op _ => 120 + (match s.opqs.find q with
    | some oq => ((oq.ops.find? (fun o => o.id == op)).map (fun o => o.loc.pa / 64 % 8)).getD 0
    | none => 0)
  | .copy _ word _ => 120 + word / 16 % 8
  | .sa r _ _ _ => 120 + r.addr.toNat / 2 ^ 15 % 8
  | .saDone _ _ _ => 120
/-- How many of some entries of a mesh are from an injection point. -/
def ofPoint (point : Nat) (m : List MeshItem) : Nat := (m.filter (fun e => e.point == point)).length
/-- Entry `idx` of a mesh is in flight: fewer than eight of its injection point stand before it (R284). -/
def onMesh (m : List MeshItem) (idx : Nat) : Bool :=
  match m[idx]? with
  | some e => decide (ofPoint e.point (m.take idx) < 8)
  | none => false
/-- The eighth entry of an injection point is injected now; `n` of its point have gone before. -/
def injectNext (now point : Nat) : Nat → List MeshItem → List MeshItem
  | _, [] => []
  | n, e :: es =>
    if e.point = point then
      if n = 7 then { e with at_ := now } :: es else e :: injectNext now point (n + 1) es
    else e :: injectNext now point n es
/-- Entry `idx` has reached its destination; the next of its injection point is injected (R284). -/
def leaveMesh (now : Nat) (m : List MeshItem) (idx : Nat) : List MeshItem :=
  match m[idx]? with
  | some e => injectNext now e.point 0 (dropAt m idx)
  | none => m

/-- Issue a causal packet from node `i` to its home `dst` (R271 to R273). -/
def State.sendCausal (s : State) (i dst : Nat) (b : Body) : State :=
  (s.modNode i (fun n =>
    let c := n.c + 1#16
    let k := SMap.set n.k i c 0#16
    let p : Packet := { src := i, dst := dst, seq := c, stamp := k, epoch := n.epoch, body := b }
    let n := { n with c := c, k := k }
    if dst = i then { n with mesh := n.mesh ++ [{ at_ := s.time.toNat, point := b.point s, item := .pkt p }] } else { n with out := n.out ++ [.pkt p] })).refreshA i
/-- Send a response from node `k` to `dst`; it carries A_k (R273, R280). -/
def State.sendResp (s : State) (k dst : Nat) (b : RBody) : State :=
  s.modNode k (fun n =>
    let r : Resp := { src := k, dst := dst, stamp := n.a, epoch := n.epoch, body := b }
    if dst = k then { n with mesh := n.mesh ++ [{ at_ := s.time.toNat, point := b.point s, item := .resp r }] } else { n with out := n.out ++ [.resp r] })
/-- Merge knowledge into a node's vector; its own entry stays C (R271, R280). -/
def State.learn (s : State) (i : Nat) (v : Stamp) : State :=
  s.modNode i (fun n => { n with k := SMap.set (Stamp.merge n.k v) i n.c 0#16 })
/-- Whether an access is a load, or stands for an answer that the thread awaits. -/
def OpKind.isLoad : OpKind → Bool
  | .load _ _ => true
  | .edge _ _ => true
  | .store _ => false
  | .atom _ _ _ _ => false
/-- A load that travels alone: KIND 3 (R352), and a load of a PUB page (R162). -/
def MemOp.alone (o : MemOp) : Bool := o.loc.kind == 3 || o.loc.pub != 0
/-- Something that the thread awaits and that later events have gone past. -/
def MemOp.passed (o : MemOp) : Bool :=
  match o.kind with
  | .edge _ seen => seen.isSome
  | .load _ _ => false
  | .store _ => false
  | .atom _ _ _ _ => false
/-- Later writes, requests and arrivals of the party do not wait for this: the answer of a stream accumulator, after which the set goes
on (R229), or what later events have gone past.  (DEDUCED, assumption 19) -/
def MemOp.lets (o : MemOp) : Bool :=
  match o.kind with
  | .edge dq seen => !dq || seen.isSome
  | .load _ _ => false
  | .store _ => false
  | .atom _ _ _ _ => false
/-- Whether the access can be sent after the accesses before it in its queue (R281, R352). -/
def MemOp.sendable (before : List MemOp) (o : MemOp) : Bool :=
  !o.sent && before.all (fun b => b.sent
    && (!b.kind.isLoad || b.passed || (if o.kind.isLoad then !b.alone && !o.alone else b.lets)))
/-- The packet of an access. -/
def MemOp.body (q : Nat) (o : MemOp) : Body :=
  match o.kind with
  | .load _ _ => .read q o.id o.loc o.n
  | .edge _ _ => .read q o.id o.loc 0
  | .store bs => .write q o.id o.loc bs
  | .atom op b c _ => .atom q o.id o.loc o.n op b c

/-- Send what a queue can send, in program order; `before` are the accesses already passed. -/
def sendOps (s : State) (q node : Nat) : List MemOp → List MemOp → State × List MemOp
  | before, [] => (s, before)
  | before, o :: os =>
    if o.sendable before && canSend s node then
      sendOps (s.sendCausal node (homeOf o.loc) (o.body q)) q node (before ++ [{ o with sent := true }]) os
    else sendOps s q node (before ++ [o]) os
/-- Send what the queue of number `q` can send. -/
def State.flushOps (s : State) (q : Nat) : State :=
  match s.opqs.find q with
  | none => s
  | some oq =>
    let r := sendOps s q oq.node [] oq.ops
    { r.1 with opqs := r.1.opqs.put q { oq with ops := r.2 } }
/-- Put an access into the queue `q` of a party, and send what can be sent. -/
def State.addOp (s : State) (q : Nat) (who : Who) (task node : Nat) (o : MemOp) : State :=
  let oq := s.opqs.get q { who := who, task := task, node := node, m := [], ops := [] }
  ({ s with opqs := s.opqs.put q { oq with ops := oq.ops ++ [o] } } : State).flushOps q
/-- Remove an access from its queue. -/
def State.delOp (s : State) (q op : Nat) : State :=
  { s with opqs := s.opqs.mod q (fun oq => { oq with ops := oq.ops.filter (fun o => o.id != op) }) }
/-- A store or atomic of a queue has been applied in this clk, which headers see from the next one on (R49). -/
def State.storeOver (s : State) (q : Nat) : State := { s with fresh := { s.fresh with stores := q :: s.fresh.stores } }
/-- The place in a party's program order at which an answer that is not one of memory will have come (R253, R281).  Later accesses
of the party are not answered, or not sent, before it. -/
def State.addEdge (s : State) (q : Nat) (who : Who) (task node id : Nat) (dq : Bool) : State :=
  s.addOp q who task node { id := id, loc := { kind := 0, pa := 0, pub := 0 }, n := 0, kind := .edge dq none, sent := true, got := none }
/-- The access stands for a decision-queue entry that has not come. -/
def MemOp.awaitsEntry (o : MemOp) : Bool :=
  match o.kind with
  | .edge dq _ => dq && o.got.isNone
  | .load _ _ => false
  | .store _ => false
  | .atom _ _ _ _ => false
/-- An edge of a queue has come, with what its source knew; `hit` names it. -/
def State.gotEdge (s : State) (q : Nat) (hit : MemOp → Bool) (know : Stamp) : State :=
  { s with opqs := s.opqs.mod q (fun oq =>
      match findIdx hit oq.ops 0 with
      | some (i, o) => { oq with ops := oq.ops.set i { o with got := some (know, []) } }
      | none => oq) }
/-- The accesses of a queue. -/
def opsOf (s : State) (q : Nat) : List MemOp := match s.opqs.find q with | some oq => oq.ops | none => []
/-- A party has no load unanswered and no store unsent: what leaves it by another way may follow (R253, R254).  (DEDUCED, assumption 19) -/
def quiet (s : State) (q : Nat) : Bool := (opsOf s q).all (fun o => o.sent && !o.kind.isLoad)
/-- The same for a read of a local memory: it may follow what later events go past.  (DEDUCED, assumption 19) -/
def quietRead (s : State) (q : Nat) : Bool := (opsOf s q).all (fun o => o.sent && (!o.kind.isLoad || o.passed))
/-- The same for a write, a request or an arrival.  (DEDUCED, assumption 19) -/
def quietOn (s : State) (q : Nat) : Bool := (opsOf s q).all (fun o => o.sent && (!o.kind.isLoad || o.lets))
/-- A party's stores and atomics to global memory are all applied (R48, R264). -/
def storesDone (s : State) (q : Nat) : Bool := (opsOf s q).all (fun o => o.kind.isLoad)

end Sys2Proof.Machine
end

