-- ==== Sys2Proof/Machine/Translate.lean ====
section
/-!
DEFINITION. Translation (R351 to R356), the checks of an access to global memory (R123, R352, R354), the fetch of a
word (R42, R46 check 1) and the check of a transfer's target (R57, R103).
-/
namespace Sys2Proof.Machine

/-- A canonical address: bits 63:48 equal bit 47 (R103). -/
def canonical (a : DWord) : Bool := (a.extractLsb' 0 48).signExtend 64 == a
/-- The 48 bits of an address that the walk uses (R353). -/
def va48 (a : DWord) : Nat := (a.extractLsb' 0 48).toNat

/-- A walk that ended without a translation (R355): malformed or missing, the level, the stage, the address. -/
structure Miss where
  malf : Bool
  level : Nat
  stage : Nat
  va : DWord
  deriving DecidableEq, Repr

/-- Bytes of a leaf's page at a level (R353). -/
def leafSize (level : Nat) : Nat := if level = 1 then 2 ^ 30 else if level = 2 then 2 ^ 21 else 2 ^ 16
/-- The index of an address at a level (R353). -/
def walkIndex (level va : Nat) : Nat :=
  if level = 0 then natBits va 47 39 else if level = 1 then natBits va 38 30 else if level = 2 then natBits va 29 21
  else natBits va 20 16
/-- The leaf that an entry's two words are (R351). -/
def leafOf (w0 w1 size : Nat) : Leaf :=
  { r := natBits w0 1 1 == 1, w := natBits w0 2 2 == 1, x := natBits w0 3 3 == 1, u := natBits w0 4 4 == 1,
    pub := natBits w0 5 5 == 1, sab := natBits w0 6 6 == 1, glob := natBits w0 7 7 == 1, fmt := natBits w0 11 8,
    geo := natBits w0 14 12, pscale := natBits w1 7 0, scalePa := natBits w1 47 11 * 2 ^ 11,
    scaleKind := natBits w1 63 60, kind := natBits w1 63 60,
    region := natBits w1 59 48, pa := natBits w0 47 16 * 2 ^ 16, size := size }
/-- The translation that a leaf gives: the block of a publishable buffer starts at its lower frame, a multiple of twice the page size
(R160); the low bit of a PA that names its upper half is not looked at (DESIGN CHOICE, assumption 55). -/
def Leaf.framed (l : Leaf) : Leaf := if l.pub then { l with pa := l.pa / (2 * l.size) * (2 * l.size) } else l
/-- Bytes of the space of a kind (R376); the spec bounds no other kind. -/
def kindBytes (kind : Nat) : Nat :=
  if kind = 0 then Config.farBytes else if kind = 1 then Config.nearBytes else 2 ^ 48
/-- A leaf is well formed (R351, R353); `bound` asks for the page to lie in its kind's space (R376). FMT and GEO are
checked by the decoding accesses (R169).  (DEDUCED, assumption 24) -/
def leafOk (w0 w1 size : Nat) (bound : Bool) : Bool :=
  let l := leafOf w0 w1 size
  natBits w0 63 48 == 0 && natBits w1 10 8 == 0 && l.kind < 4 && natBits w0 47 16 * 2 ^ 16 % size == 0
  && (!bound || l.pa + size ≤ kindBytes l.kind)

/-- The walk from a table (R353); `n` levels come after this one.  The answer without a leaf says malformed, level.  (PRESUMED, assumption 22) -/
def walkFrom (s : State) (bound : Bool) (va : Nat) : Nat → Nat → Except (Bool × Nat) Leaf
  | 0, table =>
    let e := table + 16 * walkIndex 3 va
    let w0 := Memory.nat s.far e 8
    let w1 := Memory.nat s.far (e + 8) 8
    if natBits w0 0 0 = 0 then .error (false, 3)
    else if natBits w0 15 15 = 1 || !leafOk w0 w1 (leafSize 3) bound then .error (true, 3)
    else .ok (leafOf w0 w1 (leafSize 3))
  | n + 1, table =>
    let level := 3 - (n + 1)
    let e := table + 16 * walkIndex level va
    let w0 := Memory.nat s.far e 8
    let w1 := Memory.nat s.far (e + 8) 8
    if natBits w0 0 0 = 0 then .error (false, level)
    else if natBits w0 15 15 = 1 then
      if w0 ≠ 0x8001 || natBits w1 63 48 ≠ 0 || natBits w1 8 0 ≠ 0 || (n ≠ 0 && natBits w1 12 9 ≠ 0) then
        .error (true, level)
      else walkFrom s bound va n w1
    else if level = 0 || !leafOk w0 w1 (leafSize level) bound then .error (true, level)
    else .ok (leafOf w0 w1 (leafSize level))

/-- The bytes of an element of a format code (R168): 4, 2 or 1. -/
def fmtBytes (fmt : Nat) : Nat := if fmt = 1 then 4 else if fmt = 2 || fmt = 7 then 2 else 1

/-- The two stages together (R354); the scale area stands at `scalePa` of `scaleKind`.  With unequal page sizes the elements are counted
from the base of the stage-1 page, and the area is one stretch from the translation of its first byte (DESIGN CHOICE, assumption 56). -/
def combineLeaf (l1 l2 : Leaf) (va scalePa scaleKind : Nat) : Leaf :=
  let size := Nat.min l1.size l2.size
  let ia := l1.pa + va % l1.size
  { r := l1.r && l2.r, w := l1.w && l2.w, x := l1.x && l2.x, u := l1.u && l2.u, pub := l1.pub, sab := l2.sab,
    glob := l2.glob, fmt := l1.fmt, geo := l1.geo, pscale := l1.pscale,
    scalePa := scalePa + (va % l1.size - va % size) / fmtBytes l1.fmt / 32,
    scaleKind := scaleKind, kind := l2.kind, region := l2.region, pa := l2.pa + ia % l2.size - va % size, size := size }

/-- The translation of a 48-bit address in an address space (R353 to R355). -/
def translate (s : State) (space va : Nat) : Except Miss Leaf :=
  match s.spaces.find space with
  | none => .error { malf := false, level := 0, stage := 0, va := (BitVec.ofNat 48 va).signExtend 64 }
  | some sp =>
    match walkFrom s sp.stage2.isNone va 3 sp.root with
    | .error e => .error { malf := e.1, level := e.2, stage := 0, va := (BitVec.ofNat 48 va).signExtend 64 }
    | .ok l1 =>
      match sp.stage2 with
      | none => .ok l1.framed
      | some root2 =>
        let ia := l1.pa + va % l1.size
        match walkFrom s true ia 3 root2 with
        | .error e => .error { malf := e.1, level := e.2, stage := 1, va := BitVec.ofNat 64 ia }
        | .ok l2 =>
          if l1.geo = 2 then
            match walkFrom s true l1.scalePa 3 root2 with
            | .error e => .error { malf := e.1, level := e.2, stage := 1, va := BitVec.ofNat 64 l1.scalePa }
            | .ok l3 => .ok (combineLeaf l1 l2 va (l3.pa + l1.scalePa % l3.size) l3.kind).framed
          else .ok (combineLeaf l1 l2 va l1.scalePa l2.kind).framed

/-- The number of a 64 KiB page, the smallest size. -/
def pageOf (va : Nat) : Nat := va / 2 ^ 16
/-- The translation a core uses: between a change and its invalidation a cached one may still serve (R356).  (DESIGN CHOICE, assumption 8) -/
def lookup (s : State) (core space : Nat) (va : Nat) : Except Miss Leaf :=
  match List.find? (fun e => (e.space == space || e.leaf.glob) && e.page == pageOf va) (s.core core).cached with
  | none => translate s space va
  | some e =>
    if translate s space va = .ok e.leaf then .ok e.leaf
    else if Config.freeStale (2 ^ 32 * s.freeCtr + pageOf va) then .ok e.leaf else translate s space va
/-- A core caches a translation that it has used (R356). -/
def State.noteTlb (s : State) (core space va : Nat) : State :=
  match lookup s core space va with
  | .ok l =>
    s.modCore core (fun c =>
      if c.cached.any (fun e => e.space == space && e.page == pageOf va && e.leaf == l) then c
      else { c with cached := { space := space, page := pageOf va, leaf := l } ::
              c.cached.filter (fun e => !(e.space == space && e.page == pageOf va)) })
  | .error _ => s

/-- Where the byte at an address stands under a leaf. -/
def Leaf.loc (l : Leaf) (va : Nat) : Loc :=
  { kind := l.kind, pa := l.pa + va % l.size, pub := if l.pub then l.size else 0 }

/-- The direction of an access (R355: ACC). -/
inductive Acc where
  | read | write | exec | atomic
  deriving DecidableEq, Repr
/-- The code of ACC in a fault record (R355). -/
def Acc.code : Acc → Nat
  | .read => 0 | .write => 1 | .exec => 2 | .atomic => 3

/-- The region's policy grants raw access, or there is no region (R123, R366). -/
def rawOk (s : State) (region : Nat) : Bool :=
  region == 0 || match s.plat.policies.find region with
    | some p => p.raw
    | none => false
/-- Orders 2 to 5 of R123 for an access of a task; `kindOk` says that the page's KIND allows it (R352), `pubOk` that a
write may meet a PUB page (R149), `rawNeed` that it is not a decoding access. -/
def accessTrap (s : State) (priv : Bool) (l : Leaf) (a : Acc) (kindOk pubOk rawNeed : Bool) : Option Cause :=
  let dir := match a with
    | .read => l.r
    | .write => l.w
    | .exec => l.x
    | .atomic => l.r && l.w
  let stores := match a with
    | .read => false
    | .write => true
    | .exec => false
    | .atomic => true
  if !dir || !(priv || l.u) || !kindOk then some .permission
  else if l.sab then some .permission
  else if l.pub && stores && !pubOk then some .permission
  else if rawNeed && !rawOk s l.region then some .regionRaw
  else none

/-- What a fetch gives (R42, R46 check 1). -/
inductive Fetched where
  | word (w : Word)
  | miss (m : Miss)
  | denied
  deriving DecidableEq, Repr
/-- Fetch the word at an address for a task (R46, R352, R354). -/
def fetch (s : State) (core space : Nat) (priv : Bool) (pc : DWord) : Fetched :=
  if !canonical pc then .denied
  else
    match lookup s core space (va48 pc) with
    | .error m => .miss m
    | .ok l =>
      if !l.x || !(priv || l.u) || l.kind == 3 then .denied
      else .word (BitVec.ofNat 32 (natOfBytes (s.readLoc (l.loc (va48 pc)) 4)))

/-- A word with the mark of a clause header (R41). -/
def isHeader (w : Word) : Bool := w.extractLsb' 26 6 == 0x3F#6

/-- What the check of a transfer's target gives (R103). -/
inductive Target where
  | ok
  | trap (c : Cause) (addr : DWord)
  | miss (m : Miss)
  deriving DecidableEq, Repr
/-- CheckTarget of R103. -/
def checkTarget (s : State) (core space : Nat) (priv : Bool) (t : DWord) : Target :=
  if !canonical t || t.toNat % 4 ≠ 0 then .trap .branchTarget 0#64
  else
    match fetch s core space priv t with
    | .miss m => .miss m
    | .denied => .trap .permission t
    | .word w => if isHeader w then .ok else .trap .branchTarget 0#64

end Sys2Proof.Machine
end

