-- ==== Sys2Proof/Machine/Barrier.lean ====
section
/-!
DEFINITION. Barriers (R133 to R137, R151): arrivals, the end of a party, and the completion of phases at the end of
a clk.
-/
namespace Sys2Proof.Machine

/-- The bit of the lead among the parties of a barrier at CORE. -/
def leadBit : Nat := 8
/-- A barrier of a team. -/
def Team.bar (t : Team) (k : Nat) : Barrier := t.bars.get k Barrier.initial
/-- Change a barrier of a team. -/
def Team.modBar (t : Team) (k : Nat) (f : Barrier → Barrier) : Team :=
  { t with bars := t.bars.set k (f (t.bar k)) Barrier.initial }

/-- A party arrives at a barrier at CORE (R133, R134). -/
def Barrier.arrive (b : Barrier) (bit : Nat) : Barrier :=
  { b with arr := b.arr + 1, here := setBit b.here bit true, members := setBit b.members bit true, touched := true }
/-- Bytes are counted into a barrier, or off it (R133, R151). -/
def Barrier.count (b : Barrier) (bytes : BitVec 48) : Barrier :=
  if bytes = 0#48 then b else { b with pend := b.pend + bytes, touched := true }
/-- A party of a barrier at CORE ends (R136). -/
def Barrier.partyEnd (b : Barrier) (bit : Nat) : Barrier :=
  if b.net = .core && b.members.getLsbD bit then { b with n := b.n - 1, members := setBit b.members bit false } else b
/-- A party of all barriers of a team ends (R32, R36, R37). -/
def Team.partyEnd (t : Team) (bit : Nat) : Team := { t with bars := t.bars.map (fun e => (e.1, e.2.partyEnd bit)) }

/-- The SENDs of a thread, or of its team's other threads, that have not been accepted (R134, R145). -/
def sendsOf (s : State) (uid gid lane : Nat) : List SendItem :=
  s.sends.filter (fun i => i.uid == uid && i.gid == gid && i.lane == lane)
/-- What must precede an arrival of a thread is done (R134). -/
def threadClean (s : State) (uid gid gk lane : Nat) : Bool :=
  (sendsOf s uid gid lane).isEmpty && quietOn s (s.thread gk lane).ops
/-- The PHASE of a team's barrier as headers and BARW see it: one that a wider network has changed in this clk is seen from the next clk
on (R49, R135). -/
def phaseSeen (s : State) (t : Team) (k : Nat) : Bool := (t.bar k).phase != s.fresh.phases.contains (t.uid, k)
/-- Every live thread of a group has arrived at barrier `k` in the current phase (R134). -/
def groupHere (s : State) (uid gid gk k : Nat) : Bool :=
  let lanes := liveLanes s gk
  !lanes.isEmpty && lanes.all (fun l => (s.thread gk l).arr.get k 0 != 0 && threadClean s uid gid gk l)

/-- The instance of a wider network that a team's barrier `k` refers to (R133): one per task and scope instance; for
POD one per identifier. -/
def wideKey (t : Team) (net : Net) (pod : BitVec 16) (k : Nat) : Nat :=
  match net with
  | .pod => 2 ^ 60 + pod.toNat
  | .pkg => (t.task * 4 + 3) * 2 ^ 20 + k
  | .die => (t.task * 4 + 2) * 2 ^ 20 + dieOf t.core * 16 + k
  | .quad => (t.task * 4 + 1) * 2 ^ 20 + quadOf t.core * 16 + k
  | .core => (t.task * 4) * 2 ^ 20 + k
/-- The count of a task's teams that have arrived at a pod barrier. -/
def podKey (task : Nat) (pod : BitVec 16) : Nat := 2 ^ 61 + task * 2 ^ 16 + pod.toNat
/-- A party arrives at an instance, with what it knows (R134, R137). -/
def WideBar.arrive (w : WideBar) (party : Nat) (know : Stamp) : WideBar :=
  { w with
    arr := w.arr + 1, touched := true,
    members := if w.members.contains party then w.members else party :: w.members,
    know := if w.arr = 0 && w.unseen.isEmpty then know else Stamp.merge w.know know }
/-- Change an instance. -/
def State.modWide (s : State) (k : Nat) (f : WideBar → WideBar) : State := { s with wides := s.wides.mod k f }

/-- The teams of a task that have not retired. -/
def teamsLeft (s : State) (task : Nat) : Nat :=
  match s.tasks.find task with
  | some t => t.teams - t.retired
  | none => 0
/-- A task arrives at a pod barrier once every team of it that has not retired has (R134); the other modules are told.  `w` are its
teams that have arrived. -/
def podCount (s : State) (task : Nat) (pod : BitVec 16) (w : WideBar) : State :=
  if w.members.isEmpty then { s with wides := s.wides.del (podKey task pod) }
  else if teamsLeft s task ≤ w.members.length then
    let s : State := { s with wides := s.wides.del (podKey task pod) }
    let s := s.modWide (2 ^ 60 + pod.toNat) (fun v => v.arrive task w.know)
    { s with
      fibres := s.fibres.map (fun e =>
        if e.2.up then (e.1, { e.2 with waiting := e.2.waiting ++ [(s.nextId, Flit.podArrival pod)] }) else e),
      nextId := s.nextId + 1 }
  else { s with wides := s.wides.put (podKey task pod) w }
/-- A team arrives at a pod barrier (R134). -/
def podArrive (s : State) (t : Team) (pod : BitVec 16) (know : Stamp) : State :=
  let w : WideBar := s.wides.get (podKey t.task pod)
    { task := t.task, net := .pod, n := 0, members := [], arr := 0, touched := false, phase := false, know := [], unseen := [] }
  podCount s t.task pod (w.arrive t.uid know)
/-- A team arrives at a wider network (R134): within its die at once; for PKG by a causal packet to the die that holds
the task's record, when that is another node (R272), once that node may send one (R283, R287). -/
def wideArrive (s : State) (t : Team) (b : Barrier) (k : Nat) : State :=
  let die := dieOf t.core
  match b.net with
  | .core => s
  | .pod => podArrive s t b.pod (s.node die).k
  | .pkg =>
    if t.task / Config.taskEntries = die then s.modWide (wideKey t .pkg b.pod k) (fun w => w.arrive t.uid (s.node die).k)
    else s.sendCausal die (t.task / Config.taskEntries) (.arrive (wideKey t .pkg b.pod k) t.uid)
  | .quad => s.modWide (wideKey t .quad b.pod k) (fun w => w.arrive t.uid (s.node die).k)
  | .die => s.modWide (wideKey t .die b.pod k) (fun w => w.arrive t.uid (s.node die).k)

/-- Count the arrival of a group at barrier `k` of its team, if it is complete and not yet counted. -/
def countGroup (s : State) (tk gk gid k : Nat) : State :=
  match s.teams.find tk with
  | none => s
  | some t =>
    if (t.bar k).here.getLsbD gid || !groupHere s t.uid gid gk k then s
    else
      match (t.bar k).net with
      | .core => s.modTeam tk (fun t => t.modBar k (fun b => b.arrive gid))
      | .quad | .die | .pkg | .pod =>
        s.modTeam tk (fun t => t.modBar k (fun b => { b with here := setBit b.here gid true }))
/-- The team arrives at barrier `k` of a wider network once every group that has not retired has arrived (R134); bit 9
of `here` says that it has. -/
def countTeam (s : State) (tk k : Nat) : State :=
  match s.teams.find tk with
  | none => s
  | some t =>
    let b := t.bar k
    if b.net = .core || b.here.getLsbD 9 || b.here == 0#16 || !(groupsOf s tk).all (fun e => b.here.getLsbD e.2.gid) then s
    else if b.net = .pkg && t.task / Config.taskEntries != dieOf t.core && !canSend s (dieOf t.core) then s
    else wideArrive (s.modTeam tk (fun t => t.modBar k (fun b => { b with here := setBit b.here 9 true }))) t b k
/-- Count every complete arrival of a team's groups (R134, R38: exits come first). -/
def countArrivals (s : State) (tk : Nat) : State :=
  let s := (groupsOf s tk).foldl (fun s e => (List.range 16).foldl (fun s k => countGroup s tk e.1 e.2.gid k) s) s
  (List.range 16).foldl (fun s k => countTeam s tk k) s

/-- The phase of a barrier is complete (R135). -/
def Barrier.complete (b : Barrier) : Bool := b.n ≤ b.arr && b.pend == 0#48 && b.touched
/-- The threads of a team forget their arrivals at barrier `k`: a new phase begins. -/
def forgetArrivals (s : State) (tk k : Nat) : State :=
  (groupsOf s tk).foldl (fun s e => s.onLanes e.1 (List.range Config.lanes) (fun _ th => { th with arr := th.arr.del k })) s
/-- Complete the phase of barrier `k` of a team, if it is complete, and make a held ARV arrival (R135, R151). -/
def completeBar (s : State) (tk k : Nat) : State :=
  match s.teams.find tk with
  | none => s
  | some t =>
    let b := t.bar k
    if b.net = .core && b.complete then
      let s := s.modTeam tk (fun t => t.modBar k (fun b => { b with arr := 0, here := 0#16, touched := false, phase := !b.phase }))
      let s := forgetArrivals s tk k
      if t.lead.wait = .arv k then
        s.modTeam tk (fun t => { t.modBar k (fun b => b.arrive leadBit) with lead := { t.lead with wait := .none } })
      else s
    else s
/-- Complete the phase of an instance of a wider network (R135). -/
def completeWide (s : State) (key : Nat) (w : WideBar) : State :=
  if w.net ≠ .core && w.n ≤ w.arr && w.touched && key < 2 ^ 61 then
    let uids := (s.teams.filter (fun e => e.2.bars.any (fun b => b.2.net ≠ .core && wideKey e.2 b.2.net b.2.pod b.1 == key))).map
        (fun e => e.2.uid)
      ++ (s.images.filter (fun e => e.2.team.bars.any (fun b => b.2.net ≠ .core && wideKey e.2.team b.2.net b.2.pod b.1 == key))).map
        (fun e => e.2.team.uid)
    s.modWide key (fun w => { w with arr := 0, touched := false, phase := !w.phase, unseen := w.unseen ++ uids })
  else s
/-- The end of a clk at the barriers (R135, R151): arrivals are counted, then phases complete. -/
def completePhases (s : State) : State :=
  let s := s.teams.foldl (fun s e => countArrivals s e.1) s
  let s := s.teams.foldl (fun s e => (List.range 16).foldl (fun s k => completeBar s e.1 k) s) s
  s.wides.foldl (fun s e => completeWide s e.1 e.2) s

/-- BARW in a group (R138, R49): each waiting member whose wait is met inverts its wait bit; when none waits, the path goes
on. -/
def releaseGroup (s : State) (tk gk : Nat) : State :=
  match s.teams.find tk, s.groups.find gk with
  | some t, some g =>
    let met : Nat → Nat → Bool := fun k l => phaseSeen s t k != (s.thread gk l).waitb.getLsbD k
    let flips : List (Nat × List Nat) := g.parked.filterMap (fun p => match p.wait with
      | .barw k ls => some (k, ls.filter (met k))
      | .none | .xconv _ | .fence _ _ | .answers _ _ _ _ | .sleep _ => none)
    let cut : Path → Path := fun p => match p.wait with
      | .barw k ls =>
        let rest := ls.filter (fun l => !met k l)
        { p with wait := if rest.isEmpty then .none else .barw k rest }
      | .none | .xconv _ | .fence _ _ | .answers _ _ _ _ | .sleep _ => p
    let s := flips.foldl (fun s f => s.onLanes gk f.2 (fun _ th => { th with waitb := th.waitb ^^^ (1#16 <<< f.1) })) s
    s.modGroup gk (fun g => { g with parked := g.parked.map cut })
  | _, _ => s
/-- LBARW (R117): the lead's wait is met. -/
def leadMet (s : State) (t : Team) : Bool :=
  match t.lead.wait with
  | .barw k => phaseSeen s t k != t.lead.waitb.getLsbD k
  | .none | .arv _ | .qsend _ | .unit _ _ _ | .unwind _ | .spawnW _ _ _ _ _ | .mwait _ | .cpwait _ | .saCmd _ _ _ _ | .saload _ => false
/-- The lead's wait at a barrier is over. -/
def Team.leadRelease (t : Team) : Team :=
  match t.lead.wait with
  | .barw k => { t with lead := { t.lead with wait := .none, waitb := t.lead.waitb ^^^ (1#16 <<< k) } }
  | .none | .arv _ | .qsend _ | .unit _ _ _ | .unwind _ | .spawnW _ _ _ _ _ | .mwait _ | .cpwait _ | .saCmd _ _ _ _ | .saload _ => t
/-- The lead's wait, if it is met, is over. -/
def releaseLeadWait (s : State) (tk : Nat) : State := s.modTeam tk (fun t => if leadMet s t then t.leadRelease else t)
/-- Every wait of a team at a barrier that is met is over. -/
def releaseTeam (s : State) (tk : Nat) : State :=
  releaseLeadWait ((groupsOf s tk).foldl (fun s e => releaseGroup s tk e.1) s) tk
/-- Waits are met in each clk (R49, R138), before the phases of its end complete. -/
def releaseWaits (s : State) : State := s.teams.foldl (fun s e => releaseTeam s e.1) s

/-- A party leaves an instance (R136). -/
def WideBar.partyEnd (w : WideBar) (party : Nat) : WideBar :=
  if w.members.contains party then { w with n := w.n - 1, members := w.members.filter (fun m => m != party) } else w
/-- A retired or freed team leaves the instances of wider networks (R136); it is no member of its task's arrival at a pod barrier any
more, which the others may now complete (R134). -/
def wideTeamEnd (s : State) (uid : Nat) : State :=
  let s := { s with wides := s.wides.map (fun (e : Nat × WideBar) => if e.1 < 2 ^ 60 || 2 ^ 61 ≤ e.1 then (e.1, e.2.partyEnd uid) else e) }
  s.wides.foldl (fun (s : State) (e : Nat × WideBar) => if 2 ^ 61 ≤ e.1 then podCount s e.2.task (BitVec.ofNat 16 e.1) e.2 else s) s
/-- A barrier of a team, resident or saved, is bound to a pod barrier. -/
def podBound (s : State) (pod : Nat) : Bool :=
  (s.teams.map (fun e => e.2) ++ s.images.map (fun e => e.2.team)).any (fun t =>
    t.bars.any (fun b => b.2.net == .pod && b.2.pod.toNat == pod))
/-- The last team of a task has gone: the task leaves the pod barriers, its own instances of wider networks are no more, and no more is
a pod barrier to which no team is bound (R133, R136). -/
def wideTaskEnd (s : State) (task : Nat) : State :=
  { s with
    wides := (s.wides.map (fun (e : Nat × WideBar) =>
      if 2 ^ 60 ≤ e.1 && e.1 < 2 ^ 61 then (e.1, e.2.partyEnd task) else e)).filter (fun e =>
        if 2 ^ 60 ≤ e.1 && e.1 < 2 ^ 61 then podBound s (e.1 - 2 ^ 60) else e.2.task != task) }

end Sys2Proof.Machine
end

