-- ==== Sys2Proof/Machine/Unwind.lean ====
section
/-!
DEFINITION. How work ends (R36, R37), and how a task is unwound or fails (R298, R316, R317): the teams, rows, leases and
engine commands of a task are taken back, and the task's record goes on.
-/
namespace Sys2Proof.Machine

/-- Return a task's lease on a core to its pool (R300). -/
def returnLease (s : State) (core task : Nat) : State :=
  match s.leases.find (leaseKey core task) with
  | none => s
  | some l =>
    ({ s with leases := s.leases.del (leaseKey core task) } : State).modTask task
      (fun t => { t with pool := t.pool + l.bal + (l.paid.map Prod.snd).sum })
/-- Return every lease of a task to its pool (R303, R316). -/
def recallLeases (s : State) (task : Nat) : State :=
  s.leases.foldl (fun s e => if e.1 % 65536 = task then returnLease s (e.1 / 65536) task else s) s

/-- Whether a held request is held at a row. -/
def Held.atRow (row : Nat) : Held → Bool
  | .req r _ => r.addr.toNat / 2 ^ 15 == row
  | .merge _ _ _ _ src _ => src == row
/-- Refuse the requests held at a row, after their acceptance (R231, R242). -/
def refuseHeld (s : State) (home row : Nat) (cause : Cause) : State :=
  let mine := s.heldReqs.filter (Held.atRow row)
  mine.foldl (fun s h => match h with
    | .req r _ => s.sendResp home r.node (.sa r (.refused cause r.addr) [] true)
    | .merge id uid _ node src _ => s.sendResp home node (.saDone uid id (.refused cause (BitVec.ofNat 32 (src * 2 ^ 15)))))
    { s with heldReqs := s.heldReqs.filter (fun h => !h.atRow row) }
/-- The die that is the home of a row (R220). -/
def rowHome (row : Nat) : Nat := row / 2 ^ 14 % 8
/-- Free a row (R242). -/
def freeRow (s : State) (row : Nat) : State :=
  refuseHeld { s with rows := s.rows.del row } (rowHome row) row .saScope

/-- AU refunded for the units of a copy that have not begun (R150, R317). -/
def copyRefund (c : Copy) : Nat := if c.op = .publ then 0 else (c.nwords + 3) / 4 - c.begun.length
/-- Cancel a copy (R317): units not begun are dropped, begun units stay; `freed` says that the team is gone (R291). -/
def cancelCopy (c : Copy) : Copy :=
  { c with words := c.words.filter (fun e => c.begun.contains (e.1 / 4)), nwords := 0, freed := true }
/-- A cancelled copy that still owes bytes to global memory or has bytes under way. -/
def copyLives (c : Copy) : Bool := c.op != .publ && c.words.any (fun e => !e.2.done)

/-- Take back what a team has outstanding in the engines; the refund (R317). -/
def teamRefund (t : Team) : Nat :=
  (t.mats.map MatCmd.left).sum + (match t.lead.wait with
    | .saCmd _ _ _ back => back
    | .saload l => l.left
    | .spawnW _ _ _ allow _ => allow
    | .none | .barw _ | .arv _ | .qsend _ | .unit _ _ _ | .unwind _ | .mwait _ | .cpwait _ => 0)
/-- Withdraw the unanswered loads of a team (R262); what the queue still holds goes on. -/
def withdrawLoads (s : State) (uid : Nat) : State :=
  let mine : OpQ → Bool := fun q => match q.who with
    | .thread u _ _ => u == uid
    | .lead u => u == uid
    | .host => false
  let s := { s with opqs := s.opqs.map (fun (e : Nat × OpQ) =>
    if mine e.2 then (e.1, { e.2 with ops := e.2.ops.filter (fun o => !o.kind.isLoad) }) else e) }
  s.opqs.foldl (fun s e => if mine e.2 then s.flushOps e.1 else s) s
/-- Free a team's place on its core: slots, lead context, partition, array, scratchpad (R36, R316). -/
def dropTeam (s : State) (tk : Nat) : State :=
  match s.teams.find tk with
  | none => s
  | some t =>
    let gks := (groupsOf s tk).map Prod.fst
    let s := { s with
      teams := s.teams.del tk,
      groups := s.groups.filter (fun e => e.2.team != tk),
      threads := s.threads.filter (fun e => !gks.contains (e.1 / 64)) }
    s.modCore t.core (fun c =>
      { c with
        array := if c.array.holder == some t.uid then ArraySt.initial else c.array,
        gHold := if gks.contains (c.gHold.getD (2 ^ 64)) then none else c.gHold,
        lHold := if c.lHold == some tk then none else c.lHold })
/-- The task has another team on a core, or a saved one is not counted (R300). -/
def hasTeamOn (s : State) (task core : Nat) : Bool := s.teams.any (fun e => e.2.task == task && e.2.core == core)
/-- Release a task's quad pool on a quad when it has no team left there (R36). -/
def releaseQuad (s : State) (task quad : Nat) : State :=
  if s.teams.any (fun e => e.2.task == task && quadOf e.2.core == quad)
    || s.images.any (fun e => e.2.team.task == task && quadOf e.2.team.core == quad) then s
  else
    { s with
      quadAlloc := s.quadAlloc.del (192 * task + quad),
      quadPool := s.quadPool.filter (fun e => e.1 / 2 ^ 23 != 192 * task + quad) }
/-- Record dropped bytes of deliveries of a task (R147, R315). -/
def recordDrop (s : State) (task n : Nat) : State :=
  s.modTask task (fun t =>
    { t with drop := true, dropb := BitVec.ofNat 32 (Nat.min (t.dropb.toNat + n) (2 ^ 32 - 1)) })
/-- SENDs that wait for the inbox of a lead that has ended or been stopped are accepted and dropped (R145). -/
def dropInbox (s : State) (uid : Nat) : State :=
  let gone := s.sends.filter (fun i => i.uid == uid && i.dest_ == Consumer.lead)
  let s := { s with sends := s.sends.filter (fun i => !(i.uid == uid && i.dest_ == Consumer.lead)) }
  gone.foldl (fun s i => recordDrop s i.task 4) s
/-- Free one team of a task that is unwound, fails or is reset (R316 steps 1 to 3, R339).  Its SENDs still go (R262): those to its
stopped lead are dropped (R145); those to its scratchpad and quad pool land in storage that is freed with it. -/
def freeTeam (s : State) (tk : Nat) : State :=
  match s.teams.find tk with
  | none => s
  | some t =>
    let s := dropInbox (withdrawLoads s t.uid) t.uid
    let s := { s with
      heldReqs := s.heldReqs.filter (fun h => match h with
        | .req r _ => r.uid != t.uid
        | .merge _ u _ _ _ _ => u != t.uid),
      sends := s.sends.filter (fun i => i.uid != t.uid || i.dest_ == Consumer.next) }
    let s := s.modTask t.task (fun k => { k with pool := k.pool + teamRefund t, know := Stamp.merge k.know (s.node (dieOf t.core)).k })
    let s := wideTeamEnd (dropTeam s tk) t.uid
    let s := if hasTeamOn s t.task t.core then s else returnLease s t.core t.task
    releaseQuad s t.task (quadOf t.core)
/-- Stop a task and take back everything of it (R316 steps 1 to 4); its refunds go to its pool. -/
def cancelTask (s : State) (k : Nat) : State :=
  let s := (teamsOf s k).foldl (fun s e => freeTeam s e.1) s
  let refund := ((s.copies.filter (fun e => e.2.task == k)).map (fun e => copyRefund e.2)).sum
    + ((s.images.filter (fun e => e.2.team.task == k)).map (fun e => teamRefund e.2.team)).sum
  let know := (s.images.filter (fun e => e.2.team.task == k)).foldl (fun v e => Stamp.merge v e.2.k) []
  let gone := (s.images.filter (fun e => e.2.team.task == k)).map (fun e => e.2.team.uid)
  let s := { s with
    copies := (s.copies.map (fun (e : Nat × Copy) => if e.2.task == k then (e.1, cancelCopy e.2) else e)).filter
      (fun (e : Nat × Copy) => e.2.task != k || copyLives e.2),
    images := s.images.filter (fun e => e.2.team.task != k) }
  let s := (s.rows.filter (fun e => e.2.owner == k)).foldl (fun s e => freeRow s e.1) s
  let s := recallLeases s k
  let s := { s with
    quadAlloc := s.quadAlloc.filter (fun e => e.1 / 192 != k),
    quadPool := s.quadPool.filter (fun e => e.1 / 2 ^ 23 / 192 != k) }
  wideTaskEnd (gone.foldl (fun s u => wideTeamEnd (withdrawLoads s u) u) (s.modTask k (fun t =>
    { t with state := .unwinding, pool := t.pool + refund, ready := false, know := Stamp.merge t.know know }))) k
/-- Unwind a task with its whole subtree (R316); tasks that are final contribute their remainder unchanged. -/
def unwindTask (s : State) (k : Nat) : State :=
  (subtree s (treeFuel s) k).foldl (fun s j =>
    match s.tasks.find j with
    | some t => if t.state.final || t.state == .unwinding then s else cancelTask s j
    | none => s) s
/-- A task fails with a cause (R298): it is unwound, and becomes FAILED when the unwind has ended; one that is being unwound already has
its first cause recorded. -/
def failTask (s : State) (k cause : Nat) : State :=
  match s.tasks.find k with
  | none => s
  | some t =>
    if t.state.final then s
    else if t.state == .unwinding then s.modTask k (fun t => if t.cause = 0 then { t with cause := cause } else t)
    else unwindTask (s.modTask k (fun t => { t with cause := cause })) k

end Sys2Proof.Machine
end

