-- ==== Sys2Proof/Machine/Ops.lean ====
section
/-!
DEFINITION. The shared operations of every instruction: charging (R300 to R303), taking a trap and returning from one
(R28, R341 to R347), the paths of a group (R22 to R28) and the pipeline of checks of R46 for a group instruction and a
lead instruction.
-/
namespace Sys2Proof.Machine

/-- The answer of a meaning. -/
abbrev Out := Host.Outcome State Fault Refusal

/-! ## Charging -/

/-- The charges of a task that lie within its last 65,536 AU (R329).  (DEDUCED, assumption 33) -/
def trimHist : Nat → List (Nat × Nat) → List (Nat × Nat)
  | _, [] => []
  | n, e :: es => if n ≥ 65536 then [] else e :: trimHist (n + e.1) es
/-- Take an amount from a lease that covers it, and ask for a refill below 1,024 AU (R300). -/
def takeCharge (s : State) (core task amount bytes : Nat) (l : Lease) : State :=
  let bal := l.bal - amount
  let req := if bal < Config.leaseLow && l.req.isNone then some LeaseReq.refill else l.req
  { s with
    leases := s.leases.put (leaseKey core task) { bal := bal, req := req, paid := l.paid },
    hist := s.hist.put task (trimHist 0 ((amount, bytes) :: s.hist.get task [])) }
/-- A payment for `p` serves `who`: the same instruction of a lead, or of a set that holds one of its threads (R303). -/
def Payer.serves (p who : Payer) : Bool :=
  p.who == who.who && p.pc == who.pc && (p.lanes.isEmpty || p.lanes.any (fun l => who.lanes.contains l))
/-- What failing requests have paid for an instruction (R303). -/
def Lease.paidFor (l : Lease) (who : Payer) : Nat := ((l.paid.filter (fun p => p.1.serves who)).map Prod.snd).sum
/-- What was paid for an instruction stands in the balance. -/
def Lease.usePaid (l : Lease) (who : Payer) : Lease :=
  { l with bal := l.bal + l.paidFor who, paid := l.paid.filter (fun p => !p.1.serves who) }
/-- No further charge is taken until the home unit has answered (R300, R303). -/
def Lease.held (l : Lease) : Bool :=
  match l.req with
  | some (.failing _ _) => true
  | some .lease => true
  | some .refill => false
  | none => false
/-- Charge a task on a core for an instruction (R300, R301, R303, R304): whether the charge is taken, and the state afterwards; a
charge that is not taken leaves the request for it at the home unit. -/
def charge (s : State) (core task : Nat) (who : Payer) (amount bytes : Nat) : Bool × State :=
  if amount = 0 then (true, s)
  else
    match s.tasks.find task with
    | none => (false, s)
    | some t =>
      match s.leases.find (leaseKey core task) with
      | none =>
        if t.state ≠ .running then (false, s)
        else (false, { s with leases := s.leases.put (leaseKey core task) { bal := 0, req := some .lease, paid := [] } })
      | some l =>
        if t.state ≠ .running then (false, s)
        else if amount ≤ l.paidFor who then (true, takeCharge s core task amount bytes (l.usePaid who))
        else if l.held then (false, s)
        else if amount ≤ (l.usePaid who).bal then (true, takeCharge s core task amount bytes (l.usePaid who))
        else
          (false, { s with leases := s.leases.put (leaseKey core task) { l.usePaid who with req := some (.failing who amount) } })
/-- Give a charge back (R229, R309). -/
def refund (s : State) (task amount : Nat) : State := s.modTask task (fun t => { t with pool := t.pool + amount })

/-! ## Who executes -/

/-- A group that executes: its key, core, team and task, and its running path. -/
structure GCtx where
  gk : Nat
  core : Nat
  tk : Nat
  group : Group
  path : Path
  team : Team
  task : Task
  deriving DecidableEq, Repr
/-- The set of a group that executes, as it pays for its instruction. -/
def GCtx.payer (c : GCtx) : Payer := { who := .group c.gk, lanes := c.path.lanes, pc := c.path.pos.pc }
/-- The group that executes the present step. -/
def gctx (s : State) : Option GCtx :=
  match s.cur with
  | .group gk =>
    match s.groups.find gk with
    | some g =>
      match g.running, s.teams.find g.team with
      | some p, some t =>
        match s.tasks.find t.task with
        | some k => some { gk := gk, core := coreOf gk, tk := g.team, group := g, path := p, team := t, task := k }
        | none => none
      | _, _ => none
    | none => none
  | .lead _ => none
  | .none => none
/-- A lead that executes. -/
structure LCtx where
  tk : Nat
  core : Nat
  team : Team
  task : Task
  deriving DecidableEq, Repr
/-- A lead that executes, as it pays for its instruction. -/
def LCtx.payer (c : LCtx) : Payer := { who := .lead c.tk, lanes := [], pc := c.team.lead.pc }
/-- The lead of the team in a lead context, when its task has a record. -/
def lctxOf (s : State) (tk : Nat) : Option LCtx :=
  match s.teams.find tk with
  | some t =>
    match s.tasks.find t.task with
    | some k => some { tk := tk, core := coreOf tk, team := t, task := k }
    | none => none
  | none => none
/-- The lead that executes the present step. -/
def lctx (s : State) : Option LCtx :=
  match s.cur with
  | .lead tk => lctxOf s tk
  | .group _ => none
  | .none => none

/-! ## Paths -/

/-- Give the group issue slot up (R330). -/
def releaseG (s : State) (core : Nat) : State := s.modCore core (fun c => { c with gHold := none })
/-- Give the lead issue slot up. -/
def releaseL (s : State) (core : Nat) : State := s.modCore core (fun c => { c with lHold := none })
/-- Set the running path of a group. -/
def setRunning (s : State) (gk : Nat) (p : Option Path) : State := s.modGroup gk (fun g => { g with running := p })
/-- Park a path with the next park number (R22); a path without threads is none. -/
def parkPath (s : State) (gk : Nat) (p : Path) : State :=
  if p.lanes.isEmpty then s
  else s.modGroup gk (fun g =>
    { g with parked := g.parked ++ [{ p with park := g.parkCtr }], parkCtr := g.parkCtr + 1 })
/-- The running path leaves the issue and is parked as `p`. -/
def parkRunning (s : State) (gk core : Nat) (p : Path) : State := releaseG (parkPath (setRunning s gk none) gk p) core
/-- The place after an execution that makes no transfer (R43, R108, R110). -/
def Pos.next (p : Pos) : Pos :=
  match p.rep with
  | some r =>
    if r.j + 1 < r.count then { p with rep := some { r with j := r.j + 1 }, repFrom := none }
    else { p with pc := p.pc + 8#64, remain := p.remain - 2, rep := none, repFrom := none }
  | none => { p with pc := p.pc + 4#64, remain := p.remain - 1, repFrom := none }
/-- Go on after an instruction: to the next word, to the next header (a switch point when Y is set, R51), or to a wait
before the next instruction (R21). -/
def goOn (c : GCtx) (w : PWait) (s : State) : State :=
  let p := { c.path with pos := c.path.pos.next, wait := w }
  if w ≠ .none then parkRunning s c.gk c.core p
  else if p.pos.remain = 0 then
    if p.pos.y then parkRunning s c.gk c.core p else releaseG (setRunning s c.gk (some p)) c.core
  else setRunning s c.gk (some p)
/-- Go on after a switch point (R23); under REP it is taken once, after the last execution (R110). -/
def goSwitch (c : GCtx) (s : State) : State :=
  if c.path.pos.next.rep.isSome then goOn c .none s
  else parkRunning s c.gk c.core { c.path with pos := c.path.pos.next, wait := .none }
/-- The running path stalls where it stands (R21, R24).  (DEDUCED, assumption 25) -/
def stallPath (c : GCtx) (s : State) : State := parkRunning s c.gk c.core c.path

/-! ## Traps -/

/-- What a thread traps for: cause, CODE, and the address of t4:t5 (R343, R344). -/
structure TrapInfo where
  cause : Cause
  code : Nat
  addr : DWord
  deriving DecidableEq, Repr
/-- t0 of the trap record (R343). -/
def trapT0 (y gen : Bool) (cls : BitVec 3) (remain : Nat) (rep : Option Nat) (i : TrapInfo) : Word :=
  BitVec.ofNat 2 0 ++ BitVec.ofBool y ++ BitVec.ofBool gen ++ cls ++ BitVec.ofNat 4 remain ++ BitVec.ofBool rep.isSome
    ++ BitVec.ofNat 6 (rep.getD 0) ++ BitVec.ofNat 6 i.code ++ BitVec.ofNat 8 i.cause.code
/-- t0 of a thread that traps (R343): at a header (`hdr`) it records zeros; `p` is the place of t2:t3. -/
def trapRecord (th : Thread) (hdr : Bool) (p : Pos) (i : TrapInfo) : Word :=
  if hdr then trapT0 false false 0#3 0 none i
  else trapT0 p.y th.gen p.cls.code p.remain (p.rep.map (fun r => r.j)) i
/-- Taking a trap in one thread (R342 step 2, R343, R344): `t0` is the record, `word` the word as executed, `resume`
the resume address. -/
def Thread.trap (th : Thread) (t0 word : Word) (resume : DWord) (i : TrapInfo) : Thread :=
  { th with
    t := ((((((((th.t.set 0 t0 0#32).set 1 word 0#32).set 2 (resume.extractLsb' 0 32) 0#32).set 3
          (resume.extractLsb' 32 32) 0#32).set 4 (i.addr.extractLsb' 0 32) 0#32).set 5 (i.addr.extractLsb' 32 32) 0#32).del 6).del 7),
    trapMode := true, traps := th.traps + 1#32 }
/-- The system handler (R31, R342): the team halts, its task fails with the cause, and Ling has the report. -/
def systemHandler (s : State) (task cause : Nat) (t0 word : Word) (pc addr : DWord) : State :=
  failTask (s.modPlat (fun p =>
    { p with halts := p.halts ++ [(task, bytesOfNat 4 t0.toNat ++ bytesOfNat 4 word.toNat ++ bytesOfNat 8 pc.toNat
        ++ bytesOfNat 8 addr.toNat)] })) task cause
/-- The trap of a lead goes to the system handler (R31). -/
def leadTrap (c : LCtx) (word : Word) (i : TrapInfo) (s : State) : State :=
  systemHandler s c.team.task i.cause.code
    (trapT0 false false (if c.team.lead.remain = 0 then 0#3 else Cls.lead.code) c.team.lead.remain none i) word
    c.team.lead.pc i.addr
/-- The handler of the descriptor takes the trap of a thread (R342 step 3). -/
def handled (c : GCtx) (th : Thread) : Bool := descHv c.task.desc && !th.trapMode
/-- The threads of the running path that trap leave it (R28, R342).  The trap is taken in each, and those that the
handler takes form a path parked at it.  `p` is the place that the record names, `resume` the resume address. -/
def trapLanes (c : GCtx) (word : Word) (p : Pos) (resume : DWord) (ts : List (Nat × TrapInfo)) (s : State) : State :=
  let infoOf : Nat → TrapInfo := fun l => ((List.find? (fun t => t.1 == l) ts).map Prod.snd).getD { cause := Cause.trap, code := 0, addr := 0#64 }
  let lanes := ts.map Prod.fst
  let s' := s.onLanes c.gk lanes (fun l th => th.trap (trapRecord th (c.path.pos.remain == 0) p (infoOf l)) word resume (infoOf l))
  let up := lanes.filter (fun l => handled c (s.thread c.gk l))
  parkPath s' c.gk
    { park := 0, lanes := up, wait := .none,
      pos := { pc := descHandler c.task.desc, remain := 0, cls := .int, y := false, rep := none, repFrom := none } }
/-- The first trap of a set that the system handler takes (R342 step 4). -/
def unhandled (c : GCtx) (ts : List (Nat × TrapInfo)) (s : State) : Option (Nat × TrapInfo) :=
  List.find? (fun t => !handled c (s.thread c.gk t.1)) ts
/-- Report the trap that no handler takes, if there is one. -/
def sysTrap (c : GCtx) (word : Word) (p : Pos) (t : Option (Nat × TrapInfo)) (s : State) : State :=
  match t with
  | none => s
  | some x => systemHandler s c.team.task x.2.cause.code (trapRecord (s.thread c.gk x.1) (c.path.pos.remain == 0) p x.2) word p.pc x.2.addr

/-! ## Swap-out on a missing translation -/

/-- A walk ended without a translation (R123 order 1, R355): the team will be swapped out.  (DEDUCED, assumption 26) -/
def noteMiss (s : State) (tk : Nat) (t : Team) (k : Task) (m : Miss) (a : Acc) : State :=
  let pasid := match s.spaces.find k.space with
    | some sp => sp.pasid
    | none => 0#20
  let r : FaultRec :=
    { seq := 0, time := s.time.toNat, team := t.index, taskh := k.handle t.task, malf := m.malf, level := m.level,
      acc := a.code, stage := m.stage, pasid := pasid, va := m.va, uid := t.uid }
  let known : FaultRec → Bool := fun q => q.va == r.va && q.stage == r.stage && q.acc == r.acc
  s.modTeam tk (fun tm => if tm.faults.any known then tm else { tm with faults := tm.faults ++ [r] })

/-! ## A group instruction -/

/-- What the checks of an instruction give in one thread (R46 checks 4 and 5). -/
inductive Verdict where
  | ok
  | trap (i : TrapInfo)
  /-- its scratchpad line is absent (R377) -/
  | absent
  /-- no translation (R123 order 1) -/
  | miss (m : Miss) (a : Acc)
  /-- it names a home on a removed die (R263) -/
  | lost
  deriving DecidableEq, Repr
/-- A trap with CODE 0 and no address. -/
def Verdict.of (c : Cause) : Verdict := .trap { cause := c, code := 0, addr := 0#64 }
/-- A trap that names an address. -/
def Verdict.at (c : Cause) (a : DWord) : Verdict := .trap { cause := c, code := 0, addr := a }

/-- Check 4 of R46 in one thread: the register it raises for (R17). -/
def operandTrap (i : Instr) (th : Thread) : Option TrapInfo :=
  match th.raises i.srcs with
  | some x => some { cause := x.1, code := x.2.1 % 64, addr := x.2.2.zeroExtend 64 }
  | none => none
/-- Check 4 of R46 in one thread: it waits for an operand or for an earlier result (R17, R18). -/
def operandWait (i : Instr) (th : Thread) : Bool := th.srcEmpty i.srcs || th.dstPending (i.dsts th.p)

/-- The running path keeps only some lanes. -/
def GCtx.keep (c : GCtx) (lanes : List Nat) : GCtx := { c with path := { c.path with lanes := lanes } }
/-- The traps among verdicts. -/
def trapsOf (vs : List (Nat × Verdict)) : List (Nat × TrapInfo) :=
  vs.filterMap (fun v => match v.2 with
    | .trap i => some (v.1, i)
    | .ok | .absent | .miss _ _ | .lost => none)
/-- The lanes whose verdict is `ok`. -/
def okLanes (vs : List (Nat × Verdict)) : List Nat := (vs.filter (fun v => v.2 == .ok)).map Prod.fst
/-- The first missing translation among verdicts. -/
def missOf (vs : List (Nat × Verdict)) : Option (Miss × Acc) :=
  vs.findSome? (fun v => match v.2 with
    | .miss m a => some (m, a)
    | .ok | .absent | .trap _ | .lost => none)

/-- The set divides at an instruction (R28, R377): the threads of `ts` trap, those of `away` stand parked at the
instruction, and the running path keeps `here`. -/
def splitSet (c : GCtx) (word : Word) (ts : List (Nat × TrapInfo)) (away here : List Nat) (s : State) : State :=
  if ts.isEmpty && away.isEmpty && here == c.path.lanes then s
  else
    let s := trapLanes c word c.path.pos c.path.pos.pc ts s
    let s := parkPath s c.gk { c.path with lanes := away }
    if here.isEmpty then releaseG (setRunning s c.gk none) c.core
    else setRunning s c.gk (some { c.path with lanes := here })
/-- After the effect in the threads that did not trap, their path is parked too (R28).  When a transfer has divided it without a backward
target, its higher parts have been parked by R105 and the part that R105 keeps running is parked last (DESIGN CHOICE, assumption 57). -/
def parkAfterTrap (c : GCtx) (ts : List (Nat × TrapInfo)) (s : State) : State :=
  if ts.isEmpty then s
  else
    match s.groups.find c.gk with
    | some g =>
      match g.running with
      | some p => parkRunning s c.gk c.core p
      | none => s
    | none => s

/-- The issue of a group instruction in the threads that pass, after the checks.  `hold` says that it waits for a
resource; `fin` is its effect in the threads that execute it, with the path's going on. -/
def issueGroup (i : Instr) (hold : State → GCtx → Bool) (fin : GCtx → List Nat → State → State) (c : GCtx)
    (ts : List (Nat × TrapInfo)) (vs : List (Nat × Verdict)) (s : State) : State :=
  let word := wordOf i
  let ts := ts ++ trapsOf vs
  let away := (vs.filter (fun v => v.2 == .absent)).map Prod.fst
  let oks := okLanes vs
  let bad := unhandled c ts s
  if vs.any (fun v => v.2 == .lost) then failTask s c.team.task Cause.fabricLoss.code
  else
    match missOf vs with
    | some m => stallPath c (noteMiss s c.tk c.team c.task m.1 m.2)
    | none =>
      if oks.isEmpty then sysTrap c word c.path.pos bad (splitSet c word ts away [] s)
      else if hold s c then sysTrap c word c.path.pos bad (splitSet c word ts (away ++ oks) [] s)
      else
        let p := charge s c.core c.team.task (c.keep oks).payer (oks.length * i.cost) (oks.length * i.byteCost)
        if p.1 then
          let s := splitSet c word ts away oks p.2
          sysTrap c word c.path.pos bad (parkAfterTrap c ts (fin (c.keep oks) oks s))
        else sysTrap c word c.path.pos bad (splitSet c word ts (away ++ oks) [] p.2)

/-- A group instruction (R46, R92): class, operands (R17, R18), the instruction's own checks `chk`, then its issue.  A
lead that reaches it is in the wrong class. -/
def groupOp (i : Instr) (chk : State → GCtx → Nat → Verdict) (hold : State → GCtx → Bool)
    (fin : GCtx → List Nat → State → State) (s : State) : Out :=
  match gctx s with
  | none =>
    match lctx s with
    | none => .refused .noParty
    | some c => .next (leadTrap c (wordOf i) { cause := .clauseClass, code := 0, addr := 0#64 } s)
  | some c =>
    if i.classOk c.path.pos.cls then
      let ts := c.path.lanes.filterMap (fun l => (operandTrap i (s.thread c.gk l)).map (fun t => (l, t)))
      let rest := c.path.lanes.filter (fun l => (operandTrap i (s.thread c.gk l)).isNone)
      if rest.any (fun l => operandWait i (s.thread c.gk l)) then
        .next (sysTrap c (wordOf i) c.path.pos (unhandled c ts s) (splitSet c (wordOf i) ts rest [] s))
      else .next (issueGroup i hold fin c ts (rest.map (fun l => (l, chk s c l))) s)
    else
      let ts := c.path.lanes.map (fun l => (l, { cause := Cause.clauseClass, code := 0, addr := 0#64 : TrapInfo }))
      .next (sysTrap c (wordOf i) c.path.pos (unhandled c ts s) (splitSet c (wordOf i) ts [] [] s))

/-- No check of its own. -/
def noCheck (_ : State) (_ : GCtx) (_ : Nat) : Verdict := .ok
/-- No resource to wait for. -/
def noHold (_ : State) (_ : GCtx) : Bool := false
/-- The effect of an instruction that changes each executing thread by itself, after which the path goes on. -/
def eachThread (f : Thread → Thread) (c : GCtx) (lanes : List Nat) (s : State) : State :=
  goOn c .none (s.onLanes c.gk lanes (fun _ th => f th))
/-- An instruction that only changes each executing thread (R92). -/
def threadOp (i : Instr) (f : Thread → Thread) (s : State) : Out := groupOp i noCheck noHold (eachThread f) s

/-! ## A lead instruction -/

/-- What the checks of a lead instruction give. -/
inductive LVerdict where
  | ok
  | trap (i : TrapInfo)
  | miss (m : Miss) (a : Acc)
  | wait
  | lost
  deriving DecidableEq, Repr
/-- A lead trap without an address. -/
def LVerdict.of (c : Cause) : LVerdict := .trap { cause := c, code := 0, addr := 0#64 }
/-- A lead trap that names an address. -/
def LVerdict.at (c : Cause) (a : DWord) : LVerdict := .trap { cause := c, code := 0, addr := a }

/-- The lead goes to its next word, or to the next header, where it gives the issue up. -/
def leadOn (c : LCtx) (s : State) : State :=
  let s := s.modLead c.tk (fun l => { l with pc := l.pc + 4#64, remain := l.remain - 1 })
  if c.team.lead.remain ≤ 1 then releaseL s c.core else s
/-- The lead goes on and then waits at the command `i`. -/
def leadOnWait (i : Instr) (c : LCtx) (w : LWait) (s : State) : State :=
  releaseL ((leadOn c s).modLead c.tk (fun l => { l with wait := w, cmd := wordOf i })) c.core
/-- The lead can take its next word: it has not ended, is not halted and waits for nothing. -/
def Lead.free (l : Lead) : Bool := !l.ended && !l.stopped && !l.halted && l.wait == .none

/-- A lead instruction (R46, R116): class, operands (R54), the checks `chk`, the charge `cost` with its byte part, and
the effect `fin`, with the lead's going on.  A group that reaches it is in the wrong class. -/
def leadOp (i : Instr) (chk : State → LCtx → LVerdict) (cost : State → LCtx → Nat × Nat) (fin : LCtx → State → State)
    (s : State) : Out :=
  match lctx s with
  | none =>
    match gctx s with
    | none => .refused .noParty
    | some c =>
      let ts := c.path.lanes.map (fun l => (l, { cause := Cause.clauseClass, code := 0, addr := 0#64 : TrapInfo }))
      .next (sysTrap c (wordOf i) c.path.pos (unhandled c ts s) (splitSet c (wordOf i) ts [] [] s))
  | some c =>
    if !c.team.lead.free then .next (releaseL s c.core)
    else if i.lsrcs.any (fun r => !c.team.lead.full r) || i.ldsts.any (fun r => !c.team.lead.full r) then
      .next (releaseL s c.core)
    else
      match chk s c with
      | .trap t => .next (leadTrap c (wordOf i) t s)
      | .miss m a => .next (releaseL (noteMiss s c.tk c.team c.task m a) c.core)
      | .wait => .next (releaseL s c.core)
      | .lost => .next (failTask s c.team.task Cause.fabricLoss.code)
      | .ok =>
        let n := cost s c
        let p := charge s c.core c.team.task c.payer n.1 n.2
        if p.1 then .next (fin c p.2) else .next (releaseL p.2 c.core)

/-- No check of its own. -/
def noLCheck (_ : State) (_ : LCtx) : LVerdict := .ok
/-- A lead instruction that changes only the lead's registers and predicates, for 1 AU (R116). -/
def scalarOp (i : Instr) (f : Lead → Lead) (s : State) : Out :=
  leadOp i noLCheck (fun _ _ => (1, 0)) (fun c s => leadOn c (s.modLead c.tk f)) s

end Sys2Proof.Machine
end

