-- ==== Sys2Proof/Machine/Issue.lean ====
section
/-!
DEFINITION. The issue of clauses: headers (R41, R42, R47 to R50, R26), the fetch of an instruction word (R46 checks 1
and 2), REP (R63, R108 to R110), and convergence (R27).
-/
namespace Sys2Proof.Machine

/-! ## Headers -/

/-- The number of words of a header (R41). -/
def headerN (w : Word) : Nat := (w.extractLsb' 22 4).toNat
/-- The class of a header. -/
def headerCls (w : Word) : Option Cls := Cls.ofCode (w.extractLsb' 19 3)
/-- Y of a header. -/
def headerY (w : Word) : Bool := w.getLsbD 18
/-- WAIT of a header, for b0 to b7. -/
def headerWait (w : Word) : BitVec 16 := (w.extractLsb' 10 8).zeroExtend 16
/-- D of a header. -/
def headerD (w : Word) : Bool := w.getLsbD 9
/-- R42: the word serves as a header. -/
def headerOk (w : Word) : Bool :=
  isHeader w && headerN w != 0 && (headerCls w).isSome && w.extractLsb' 0 9 == 0#9

/-- The barriers of a mask whose wait is not met: PHASE does not differ from the wait bit (R47). -/
def unmet (s : State) (t : Team) (mask waitb : BitVec 16) : Bool :=
  (List.range 16).any (fun k => mask.getLsbD k && phaseSeen s t k == waitb.getLsbD k)
/-- The stores of a thread are all applied, and its SENDs accepted (R48), since before the present clk (R49). -/
def drained (s : State) (t : Team) (g : Group) (gk lane : Nat) : Bool :=
  storesDone s (s.thread gk lane).ops && !s.fresh.stores.contains (s.thread gk lane).ops
  && (sendsOf s t.uid g.gid lane).isEmpty && !s.fresh.sends.contains (t.uid, g.gid, lane)
/-- The stores of a lead are all applied (R48), since before the present clk (R49). -/
def leadDrained (s : State) (l : Lead) : Bool := storesDone s l.ops && !s.fresh.stores.contains l.ops
/-- A header's WAIT and D are met for a thread (R47 to R50). -/
def headerMet (s : State) (t : Team) (g : Group) (gk : Nat) (w : Word) (lane : Nat) : Bool :=
  !unmet s t (headerWait w) (s.thread gk lane).waitb && (!headerD w || drained s t g gk lane)
/-- The generation of the table that a clause issued now uses: one that a TSWAP has chosen in this clk serves from the next (R202). -/
def clauseGen (s : State) (t : Team) : Bool := t.gen != s.fresh.swaps.contains t.uid
/-- A store or atomic that a fence of a scope waits for (R264). -/
def fenceOp (scope : Net) (die : Nat) (o : MemOp) : Bool :=
  match scope with
  | .core => false
  | .quad => false
  | .die => !o.kind.isLoad && homeOf o.loc == die
  | .pkg => !o.kind.isLoad
  | .pod => !o.kind.isLoad
/-- A SEND that a fence of a scope waits for (R264). -/
def fenceSend (scope : Net) (i : SendItem) : Bool := scope != .core || i.dest_ != Consumer.next
/-- The condition of a fence holds for a thread: the writes it made before number `upto` are applied (R264). -/
def fenceMet (s : State) (t : Team) (g : Group) (gk : Nat) (scope : Net) (upto lane : Nat) : Bool :=
  (opsOf s (s.thread gk lane).ops).all (fun o => upto ≤ o.id || !fenceOp scope (dieOf t.core) o)
  && (sendsOf s t.uid g.gid lane).all (fun i => upto ≤ i.id || !fenceSend scope i)
  && (scope != .pod || s.fibres.all (fun e => e.2.waiting.all (fun f => match f.2 with
    | .write _ _ _ => false
    | .podArrival _ => true
    | .ack _ => true)))
/-- Nothing stands between a path and its next instruction: it waits for nothing, or for a fence whose condition holds (R26, R264). -/
def waitOver (s : State) (t : Team) (g : Group) (gk : Nat) (p : Path) : Bool :=
  match p.wait with
  | .none => true
  | .fence n upto => p.lanes.all (fenceMet s t g gk n upto)
  | .barw _ _ | .xconv _ | .answers _ _ _ _ | .sleep _ => false

/-- The parked lanes that join at a header (R26). -/
def joiners (s : State) (c : GCtx) (w : Word) (pc : DWord) : List Nat :=
  (c.group.parked.filter (fun p => p.pos.remain = 0 && p.pos.pc == pc && waitOver s c.team c.group c.gk p)).flatMap
    (fun p => p.lanes.filter (fun l => !(s.thread c.gk l).trapMode && headerMet s c.team c.group c.gk w l))
/-- Parked paths without some lanes. -/
def Group.without (g : Group) (lanes : List Nat) : Group :=
  let keep : Path → Path := fun p => { p with lanes := p.lanes.filter (fun l => !lanes.contains l) }
  { g with parked := (g.parked.map keep).filter (fun p => !p.lanes.isEmpty) }
/-- A trap of a whole path at its header (R42, R50, R343). -/
def headerTrap (c : GCtx) (w : Word) (cause : Cause) (addr : DWord) (s : State) : State :=
  let ts := c.path.lanes.map (fun l => (l, { cause := cause, code := 0, addr := addr : TrapInfo }))
  sysTrap c w c.path.pos (unhandled c ts s) (splitSet c w ts [] [] s)
/-- A running path at a header whose word is `w` (R50). -/
def headerWord (c : GCtx) (w : Word) (s : State) : State :=
  match headerCls w with
  | none => headerTrap c w .illegalHeader 0#64 s
  | some cls =>
    if !headerOk w then headerTrap c w .illegalHeader 0#64 s
    else if !cls.group then headerTrap c w .clauseClass 0#64 s
    else if c.team.swap.isSome || c.task.state == .starved then stallPath c s
    else
      let met := c.path.lanes.filter (headerMet s c.team c.group c.gk w)
      let left := c.path.lanes.filter (fun l => !headerMet s c.team c.group c.gk w l)
      if met.isEmpty then stallPath c s
      else
        let s := parkPath s c.gk { c.path with lanes := left }
        let more := joiners s { c with group := (s.groups.find c.gk).getD c.group } w c.path.pos.pc
        let more := more.filter (fun l => !left.contains l)
        let set := met ++ more
        let s := s.modGroup c.gk (fun g => g.without more)
        let s := s.onLanes c.gk set (fun _ th => { th with waitb := th.waitb ^^^ headerWait w, gen := clauseGen s c.team })
        setRunning s c.gk (some
          { c.path with lanes := set, pos := { pc := c.path.pos.pc + 4#64, remain := headerN w, cls := cls, y := headerY w, rep := none, repFrom := none } })
/-- CLAUSE_HEADER_ISSUE in a group: the fetch of the header, then R50.  (DESIGN CHOICE, assumption 13) -/
def groupHeader (c : GCtx) (s : State) : State :=
  match fetch s c.core c.task.space c.task.priv c.path.pos.pc with
  | .miss m => stallPath c (noteMiss s c.tk c.team c.task m .exec)
  | .denied => headerTrap c (Config.freeTrapWord s.freeCtr) .permission c.path.pos.pc s
  | .word w => headerWord c w (s.noteTlb c.core c.task.space (va48 c.path.pos.pc))
/-- A lead at a header whose word is `w` (R50, R30). -/
def leadHeaderWord (c : LCtx) (w : Word) (s : State) : State :=
  if !headerOk w then leadTrap c w { cause := .illegalHeader, code := 0, addr := 0#64 } s
  else if headerCls w ≠ some .lead then leadTrap c w { cause := .clauseClass, code := 0, addr := 0#64 } s
  else if c.team.swap.isSome || c.task.state == .starved || unmet s c.team (headerWait w) c.team.lead.waitb
      || (headerD w && !leadDrained s c.team.lead) then releaseL s c.core
  else s.modLead c.tk (fun l => { l with pc := l.pc + 4#64, remain := headerN w, waitb := l.waitb ^^^ headerWait w })
/-- CLAUSE_HEADER_ISSUE in a lead.  (DESIGN CHOICE, assumption 13) -/
def leadHeader (c : LCtx) (s : State) : State :=
  if !c.team.lead.free then releaseL s c.core
  else
    match fetch s c.core c.task.space c.task.priv c.team.lead.pc with
    | .miss m => releaseL (noteMiss s c.tk c.team c.task m .exec) c.core
    | .denied => leadTrap c (Config.freeTrapWord s.freeCtr) { cause := .permission, code := 0, addr := c.team.lead.pc } s
    | .word w => leadHeaderWord c w (s.noteTlb c.core c.task.space (va48 c.team.lead.pc))

/-! ## REP -/

/-- A register field of a word as a number: bit 2 of `f` is d, bit 1 a, bit 0 b (R52). -/
def fieldLo (f : Nat) : Nat := if f = 2 then 20 else if f = 1 then 14 else 8
/-- The stride of a code (R52). -/
def strideOf (c : BitVec 3) : Int :=
  let m : Int := 2 ^ (c.toNat % 4)
  if c.toNat < 4 then m else -m
/-- The word with one register field moved by `n`; none when the field leaves 0 to 63 (R53). -/
def moveField (w : Word) (f : Nat) (n : Int) : Option Word :=
  let v := ((w.toNat / 2 ^ fieldLo f % 64 : Nat) : Int) + n
  if 0 ≤ v ∧ v < 64 then some ((w &&& ~~~(0x3F#32 <<< fieldLo f)) ||| (BitVec.ofNat 32 v.toNat <<< fieldLo f)) else none
/-- W_j of R108. -/
def formWord (w : Word) (step stride : BitVec 3) (j : Nat) : Option Word :=
  [2, 1, 0].foldl (fun o f =>
    match o with
    | none => none
    | some w => if step.getLsbD f then moveField w f (strideOf stride * j) else some w) (some w)
/-- The step bits of the fields that a word's format lacks (R109): I and M lack b, J lacks a and b. -/
def lackedSteps (w : Word) : BitVec 3 :=
  let op := (w.extractLsb' 26 6).toNat
  if op = 0x05 ∨ (0x08 ≤ op ∧ op ≤ 0x0C) ∨ op = 0x0F ∨ (0x18 ≤ op ∧ op ≤ 0x1F) ∨ op = 0x2D ∨ op = 0x2F then 1#3
  else if op = 0x0D ∨ op = 0x0E ∨ op = 0x37 then 3#3
  else if op = 0x2E then 7#3
  else 0#3
/-- The words that REP may not repeat (R63): NOP, REP, branches, CTRL, QGET and SEND. -/
def noRep : Instr → Bool
  | .nop | .rep _ _ _ | .br _ | .brp _ _ | .brn _ _ | .bz _ _ _ | .bnz _ _ _ | .call _ | .callp _ _ | .jr _ _ | .jrl _ _
  | .ret | .yield | .exit | .trap _ | .brk _ | .xconv | .qget _ | .send _ _ _ _ _ => true
  | _ => false
/-- A predicate field that a stepped CMPI forms stays below p8 (R109). -/
def cmpiSteps (w : Word) (step stride : BitVec 3) (j : Nat) : Bool :=
  (w.extractLsb' 26 6).toNat ≠ 0x0F || !step.getLsbD 2 ||
    (let p := ((w.toNat / 2 ^ 20 % 8 : Nat) : Int) + strideOf stride * j
     decide (0 ≤ p ∧ p < 8))
/-- R63 and R109: the word may be repeated, in every execution.  A word that does not decode is refused at its REP, whatever makes it
undecodable (DESIGN CHOICE, assumption 58). -/
def repOk (w : Word) (count : Nat) (step stride : BitVec 3) : Bool :=
  step != 0#3 && (step &&& lackedSteps w) == 0#3 && !isHeader w &&
  (List.range count).all (fun j =>
    cmpiSteps w step stride j &&
    match formWord w step stride j with
    | none => false
    | some v =>
      match decode v with
      | .ok i => !noRep i
      | .error _ => false)

/-! ## The next instruction -/

/-- What the fetch of the next instruction word of a path or a lead gives. -/
inductive NextInstr where
  | run (i : Instr)
  | illegal (w : Word)
  | denied (a : DWord)
  | miss (m : Miss)
  deriving DecidableEq, Repr
/-- The next instruction at a place: under REP the formed word (R46 checks 1 and 2, R108). -/
def nextInstr (s : State) (core space : Nat) (priv : Bool) (p : Pos) : NextInstr :=
  let pc := if p.rep.isSome then p.pc + 4#64 else p.pc
  match fetch s core space priv pc with
  | .miss m => .miss m
  | .denied => .denied pc
  | .word w =>
    let v := match p.rep with
      | some r => (formWord w r.step r.stride r.j).getD w
      | none => w
    match decode v with
    | .ok i => .run i
    | .error _ => .illegal v
/-- A trap of a whole path at its present word. -/
def wordTrap (c : GCtx) (w : Word) (cause : Cause) (addr : DWord) (s : State) : State :=
  let ts := c.path.lanes.map (fun l => (l, { cause := cause, code := 0, addr := addr : TrapInfo }))
  sysTrap c w c.path.pos (unhandled c ts s) (splitSet c w ts [] [] s)

/-! ## Convergence and the end of threads -/

/-- The paths of a group, the running one first. -/
def Group.paths (g : Group) : List Path := g.running.toList ++ g.parked
/-- The last live thread has arrived at an XCONV: all become one path (R27). -/
def convergeAt (s : State) (gk : Nat) : State :=
  match s.groups.find gk with
  | none => s
  | some g =>
    match g.paths with
    | [] => s
    | p :: ps =>
      match p.wait with
      | .xconv pc =>
        if (p :: ps).all (fun q => q.wait == .xconv pc && q.lanes.all (fun l => !(s.thread gk l).trapMode)) then
          parkPath (s.modGroup gk (fun g => { g with running := none, parked := [] })) gk
            { p with lanes := (p :: ps).flatMap Path.lanes, wait := .none }
        else s
      | .none | .barw _ _ | .fence _ _ | .answers _ _ _ _ | .sleep _ => s
/-- The order of the lanes of a set does not matter; keep it ascending. -/
def sortLanes (ls : List Nat) : List Nat := (List.range Config.lanes).filter (fun l => ls.contains l)
/-- A group of a team has retired; with the last one the queue has no producer any more (R35), and the lead is stopped from the next clk
on (R37). -/
def noteRetired (s : State) (tk : Nat) : State :=
  if (groupsOf s tk).isEmpty then
    match s.teams.find tk with
    | some t => { s.modTeam tk (fun t => { t with producer := false }) with fresh := { s.fresh with retired := t.uid :: s.fresh.retired } }
    | none => s
  else s
/-- The lead of a team is to be stopped (R37). -/
def Team.stopDue (t : Team) (s : State) (tk : Nat) : Bool :=
  (groupsOf s tk).isEmpty && !t.lead.ended && !t.lead.stopped && !s.fresh.retired.contains t.uid
/-- The lead of a team issues nothing in this clk: it is to be stopped (R37), or a SEND has reached one of its registers, which its own
writes of the clk come before (R145). -/
def leadBarred (s : State) (tk : Nat) : Bool :=
  match s.teams.find tk with
  | some t => t.stopDue s tk || s.fresh.inbox.any (fun e => e.1 == t.uid)
  | none => false
/-- A group retires when its last live thread has exited (R36): its slot is free, and it is no party any more (R136). -/
def retireGroup (s : State) (gk : Nat) : State :=
  match s.groups.find gk with
  | none => s
  | some g =>
    if (liveLanes s gk).isEmpty then
      let s := { s with
        groups := s.groups.del gk, threads := s.threads.filter (fun e => e.1 / 64 != gk) }
      noteRetired (countArrivals (s.modTeam g.team (fun t => t.partyEnd g.gid)) g.team) g.team
    else s
/-- Threads exit (R36, R38): what they await is discarded, what they have issued goes on. -/
def exitLanes (s : State) (gk : Nat) (lanes : List Nat) : State :=
  match s.groups.find gk with
  | none => s
  | some g =>
    let qs := lanes.map (fun l => (s.thread gk l).ops)
    let s := s.onLanes gk lanes (fun _ th => { th with live := false, pend := [], qpend := [] })
    let s := { s with opqs := s.opqs.map (fun (e : Nat × OpQ) =>
      if qs.contains e.1 then (e.1, { e.2 with ops := e.2.ops.filter (fun o => !o.kind.isLoad) }) else e) }
    let s := qs.foldl (fun s q => s.flushOps q) s
    let s := convergeAt s gk
    retireGroup (countArrivals s g.team) gk

end Sys2Proof.Machine
end

