-- ==== Sys2Proof/Machine/Schedule.lean ====
section
/-!
DEFINITION. The turns of the machine (DESIGN CHOICE, assumption 1), the end of a clk, and what the issue of a group or of a lead comes to
before the meaning of its instruction.
-/
/-- FREE VALUE (DESIGN CHOICE, assumption 1): what the next turn of the machine is when its schedule names none. -/
opaque Sys2Proof.Config.freeTurn : Nat → Sys2Proof.Machine.Turn

namespace Sys2Proof.Machine

/-- The end of a clk: the time counter rises (R7), barrier waits that are met are over (R49), phases complete (R135), every core may issue again (R20), the queues
of accesses send what they can, and what the clk has brought is no longer new.  (DESIGN CHOICE, assumption 7) -/
def endClk (s : State) : State :=
  let s := completePhases (releaseWaits s)
  let s := s.opqs.foldl (fun s e => s.flushOps e.1) s
  let idle : Core → Core := fun c => { c with gIssued := false, lIssued := false }
  { s with time := s.time + 1#48, cores := s.cores.map (fun e => (e.1, idle e.2)), fresh := Fresh.none }

/-- What the issue of a group on a core comes to before the meaning of its instruction (R20, R21, R46 checks 1 and 2):
the instruction to execute, in the state in which it executes, or the state that the check leaves. -/
inductive Issue where
  | run (i : Instr) (s : State)
  | done (s : State)
  deriving DecidableEq, Repr
/-- The turn of a core's group slot.  (DESIGN CHOICE, assumption 13) -/
def groupTurn (core : Nat) (s : State) : Issue :=
  match (s.core core).gHold with
  | none => .done s
  | some gk =>
    if (s.core core).gIssued || s.plat.thermal then .done s
    else
      let s : State := { s.modCore core (fun c => { c with gIssued := true }) with cur := .group gk }
      match gctx s with
      | none => .done (releaseG s core)
      | some c =>
        if c.path.wait ≠ .none then .done (stallPath c s)
        else if c.path.pos.remain = 0 then .run .clauseHeaderIssue s
        else
          match nextInstr s c.core c.task.space c.task.priv c.path.pos with
          | .run i => .run i s
          | .illegal w => .done (wordTrap c w .illegalOp 0#64 s)
          | .denied a => .done (wordTrap c (Config.freeTrapWord s.freeCtr) .permission a s)
          | .miss m => .done (stallPath c (noteMiss s c.tk c.team c.task m .exec))
/-- The turn of a core's lead slot.  (DESIGN CHOICE, assumption 13) -/
def leadTurn (core : Nat) (s : State) : Issue :=
  match (s.core core).lHold with
  | none => .done s
  | some tk =>
    if (s.core core).lIssued || s.plat.thermal then .done s
    else
      let s : State := { s.modCore core (fun c => { c with lIssued := true }) with cur := .lead tk }
      match lctx s with
      | none => .done (releaseL s core)
      | some c =>
        if leadBarred s tk then .done s
        else if !c.team.lead.free then .done (releaseL s core)
        else if c.team.lead.remain = 0 then .run .clauseHeaderIssue s
        else
          match nextInstr s c.core c.task.space c.task.priv
            { pc := c.team.lead.pc, remain := c.team.lead.remain, cls := .lead, y := false, rep := none, repFrom := none } with
          | .run i => .run i s
          | .illegal w => .done (leadTrap c w { cause := .illegalOp, code := 0, addr := 0#64 } s)
          | .denied a =>
            .done (leadTrap c (Config.freeTrapWord s.freeCtr) { cause := .permission, code := 0, addr := a } s)
          | .miss m => .done (releaseL (noteMiss s c.tk c.team c.task m .exec) c.core)

end Sys2Proof.Machine
end

