-- ==== Sys2Proof/Machine/Load.lean ====
section
/-!
DEFINITION. How an instruction is put where the next step fetches it (DESIGN CHOICE, assumption 14): a task with one team of one group
on core 0, in the middle of a clause whose next word is the instruction.
-/
namespace Sys2Proof.Machine

/-- The descriptor of that task: one team of one group of 80 registers, one granule of scratchpad, accumulators and quad
pool, span PKG, no handler (R295). -/
def probeDesc : List Byte :=
  bytesOfNat 64 (1 + 1 * 2 ^ 19 + 3 * 2 ^ 24 + 1 * 2 ^ 32 + 1 * 2 ^ 40 + 1 * 2 ^ 48 + 4096 * 2 ^ 64 + 0x10000 * 2 ^ 128 + 0x10000 * 2 ^ 192)
/-- That task, running. -/
def probeTask : Task :=
  { gen := 1#16, state := .running, pool := 4096, parent := none, children := [], desc := probeDesc,
    place := BitVec.allOnes 64, queue := 16, ticket := 0, admitted := 0, ready := false, placed := 1, retired := 0,
    teams := 1, inst := none, late := false, drop := false, dropb := 0#32, cause := 0, remainder := 0, starvedAt := none,
    space := 0, priv := false, know := [], codeid := 0 }
/-- Its lead, in a clause of 15 words at address 0x10000. -/
def probeLead (ops : Nat) : Lead :=
  { s := [], empty := [], p := 0#8, waitb := 0#16, pc := 0x10000#64, remain := 15, ended := false, stopped := false,
    halted := false, wait := .none, cmd := 0#32, pend := [], ops := ops }
/-- Its team on core 0. -/
def probeTeam (uid ops : Nat) : Team :=
  { uid := uid, task := 0, index := 0, core := 0, slots := [0], ngroups := 1, regs := 80, regg := 2, spadg := 1, accg := 1,
    quadg := 1, lead := probeLead ops, spad := [], absent := [], acc := [], bars := [], dq := [], dqFirst := 0#16,
    qsent := 0#16, producer := true, tab0 := [], tab1 := [], gen := false, mats := [], array := none, tloads := [], heldSa := [],
    thalt := false, faults := [], swap := none, faultSeqs := [], since := uid }
/-- Its group, whose running path is lane 0 in a clause of class `cls` of 15 words at address 0x10000. -/
def probeGroup (cls : Cls) : Group :=
  let pos : Pos := { pc := 0x10000#64, remain := 15, cls := cls, y := false, rep := none, repFrom := none }
  let p : Path := { park := 0, lanes := [0], wait := .none, pos := pos }
  { team := 0, gid := 0, parked := [], parkCtr := 0, halted := false, running := some p }
/-- The thread in lane 0. -/
def probeThread (ops : Nat) : Thread := { Thread.none with live := true, ops := ops }
/-- The page table of that task at 0x2000 and 0x4000 maps the first GiB to itself for execution (R351, R353), and the
instruction stands at 0x10000. -/
def probeMemory (m : Memory) (w : Word) : Memory :=
  Memory.setBytes (Memory.setNat (Memory.setNat (Memory.setNat (Memory.setNat m 0x2000 8 0x8001) 0x2008 8 0x4000)
    0x4000 8 0x19) 0x4008 8 0) 0x10000 (bytesOfWord w)
/-- The class of the instruction that a word is; INT where it is none. -/
def probeClass (w : Word) : Cls := match decode w with | .ok i => i.cls | .error _ => .int
/-- A state in which the next step fetches and runs the word `w`, as the word of a group or, for a word of class LEAD, of
a lead. -/
def placeWord (s : State) (w : Word) : State :=
  let lead := probeClass w == .lead
  { s with
    turns := [if lead then .issueLead 0 else .issueGroup 0],
    nextId := s.nextId + 3,
    tasks := s.tasks.put 0 probeTask,
    teams := s.teams.put 0 (probeTeam s.nextId (s.nextId + 2)),
    groups := s.groups.put 0 (probeGroup (probeClass w)),
    threads := s.threads.put 0 (probeThread (s.nextId + 1)),
    leases := s.leases.put 0 { bal := 4096, req := none, paid := [] },
    spaces := s.spaces.put 0 { root := 0x2000, stage2 := none, pasid := 0#20, ring := [], ring2 := [] },
    quadAlloc := s.quadAlloc.put 0 1,
    cores := s.cores.put 0 { s.core 0 with cached := [], gHold := some 0, lHold := some 0, gIssued := false, lIssued := false },
    far := probeMemory s.far w,
    resync := none, fresh := Fresh.none }

end Sys2Proof.Machine
end

