-- ==== Sys2Proof/Machine/Integer.lean ====
section
/-!
DEFINITION. The integer and predicate instructions of a group (R92 to R101).
-/
namespace Sys2Proof.Machine

/-! ## Arithmetic -/

/-- A shift count that reaches the width gives no bit of the source (R95, R96). -/
def shlBy {w : Nat} (a : BitVec w) (n : Nat) : BitVec w := if n < w then a <<< n else 0#w
/-- Right shift with zero fill (R95, R96). -/
def shrBy {w : Nat} (a : BitVec w) (n : Nat) : BitVec w := if n < w then a >>> n else 0#w
/-- Right shift with sign fill: `w` copies of the sign from `w` on (R95, R96). -/
def sarBy {w : Nat} (a : BitVec w) (n : Nat) : BitVec w := a.sshiftRight (Nat.min n w)
/-- The smaller and the larger of two values, signed and unsigned (R95, R117). -/
def sMin {w : Nat} (a b : BitVec w) : BitVec w := if BitVec.sle a b then a else b
/-- The larger signed value. -/
def sMax {w : Nat} (a b : BitVec w) : BitVec w := if BitVec.sle a b then b else a
/-- The smaller unsigned value. -/
def uMin {w : Nat} (a b : BitVec w) : BitVec w := if BitVec.ule a b then a else b
/-- The larger unsigned value. -/
def uMax {w : Nat} (a b : BitVec w) : BitVec w := if BitVec.ule a b then b else a
/-- The high half of the signed product (R95, R117). -/
def mulHigh {w : Nat} (a b : BitVec w) : BitVec w := BitVec.ofInt w (a.toInt * b.toInt / 2 ^ w)
/-- The high half of the unsigned product. -/
def mulHighU {w : Nat} (a b : BitVec w) : BitVec w := BitVec.ofNat w (a.toNat * b.toNat / 2 ^ w)
/-- An integer saturated to 32 bits (R95). -/
def saturate (v : Int) : Word :=
  if v > 2 ^ 31 - 1 then 0x7FFFFFFF#32 else if v < -(2 ^ 31) then 0x80000000#32 else BitVec.ofInt 32 v
/-- The exact distance of two signed values (R95: ABSD). -/
def absDiff (a b : Word) : Word := BitVec.ofNat 32 (a.toInt - b.toInt).natAbs
/-- The number of leading zeros (R97, R117): the width for 0. -/
def leadingZeros {w : Nat} (a : BitVec w) : Nat := if a = 0#w then w else w - 1 - a.toNat.log2
/-- The number of trailing zeros (R97): the width for 0. -/
def trailingZeros {w : Nat} (a : BitVec w) : Nat :=
  (List.range w).foldr (fun k n => if a.getLsbD k then k else n) w
/-- The number of one bits (R97, R117). -/
def onesCount {w : Nat} (a : BitVec w) : Nat := ((List.range w).filter (fun k => a.getLsbD k)).length
/-- Bit `k` of the result is bit 31 - k (R97). -/
def reverseBits (a : Word) : Word :=
  (List.range 32).foldl (fun r k => setBit r k (a.getLsbD (31 - k))) 0#32
/-- The `len` bits of a word from `pos` on (R98). -/
def fieldOf (a : Word) (pos len : Nat) : Word := (a >>> pos) &&& ((1#32 <<< len) - 1#32)
/-- A field of `len` bits sign-extended (R98). -/
def signField (a : Word) (pos len : Nat) : Word := ((a >>> pos) <<< (32 - len)).sshiftRight (32 - len)
/-- The low `len` bits of a word put into another from `pos` on (R98). -/
def insertField (d a : Word) (pos len : Nat) : Word :=
  let m := ((1#32 <<< len) - 1#32) <<< pos
  (d &&& ~~~m) ||| ((a <<< pos) &&& m)

/-! ## The forms -/

/-- An instruction that writes v[d] from the word v[a]. -/
def unaryOp (i : Instr) (d a : BitVec 6) (f : Word → Word) (s : State) : Out :=
  threadOp i (fun th => th.wr d (f (th.rd a))) s
/-- An instruction that writes v[d] from the words v[a] and v[b]. -/
def binaryOp (i : Instr) (d a b : BitVec 6) (f : Word → Word → Word) (s : State) : Out :=
  threadOp i (fun th => th.wr d (f (th.rd a) (th.rd b))) s
/-- An instruction that writes the pair d from the pairs a and b. -/
def pairOp (i : Instr) (d a b : BitVec 6) (f : DWord → DWord → DWord) (s : State) : Out :=
  threadOp i (fun th => th.wr2 d (f (th.rd2 a) (th.rd2 b))) s
/-- An instruction that writes the pair d from the pair a and the word b. -/
def pairWordOp (i : Instr) (d a b : BitVec 6) (f : DWord → Word → DWord) (s : State) : Out :=
  threadOp i (fun th => th.wr2 d (f (th.rd2 a) (th.rd b))) s
/-- An instruction that writes the pair d from the words a and b. -/
def wideOp (i : Instr) (d a b : BitVec 6) (f : Word → Word → DWord) (s : State) : Out :=
  threadOp i (fun th => th.wr2 d (f (th.rd a) (th.rd b))) s
/-- An instruction that writes a predicate. -/
def predOp (i : Instr) (p : BitVec 3) (f : Thread → Bool) (s : State) : Out :=
  threadOp i (fun th => th.setPred p (f th)) s

/-! ## The instructions -/

/-- NOP (R58): nothing, in a group or in a lead. -/
def execNop (s : State) : Out :=
  match s.cur with
  | .lead _ => scalarOp .nop (fun l => l) s
  | .group _ => threadOp .nop (fun th => th) s
  | .none => threadOp .nop (fun th => th) s
/-- ADD (R95): the sum modulo 2^32. -/
def execAdd (d a b : BitVec 6) (x y : Bool) (s : State) : Out :=
  binaryOp (.add d a b x y) d a b (fun u v => u + v) s
/-- SUB (R95): the difference modulo 2^32. -/
def execSub (d a b : BitVec 6) (x y : Bool) (s : State) : Out :=
  binaryOp (.sub d a b x y) d a b (fun u v => u - v) s
/-- AND (R95): bitwise. -/
def execAnd (d a b : BitVec 6) (x y : Bool) (s : State) : Out :=
  binaryOp (.and d a b x y) d a b (fun u v => u &&& v) s
/-- OR (R95): bitwise. -/
def execOr (d a b : BitVec 6) (x y : Bool) (s : State) : Out :=
  binaryOp (.or d a b x y) d a b (fun u v => u ||| v) s
/-- XOR (R95): bitwise. -/
def execXor (d a b : BitVec 6) (x y : Bool) (s : State) : Out :=
  binaryOp (.xor d a b x y) d a b (fun u v => u ^^^ v) s
/-- ANDN (R95): a AND NOT b. -/
def execAndn (d a b : BitVec 6) (x y : Bool) (s : State) : Out :=
  binaryOp (.andn d a b x y) d a b (fun u v => u &&& ~~~v) s
/-- SHL (R95): 0 from a count of 32 on. -/
def execShl (d a b : BitVec 6) (x y : Bool) (s : State) : Out :=
  binaryOp (.shl d a b x y) d a b (fun u v => shlBy u v.toNat) s
/-- SHR (R95): 0 from a count of 32 on. -/
def execShr (d a b : BitVec 6) (x y : Bool) (s : State) : Out :=
  binaryOp (.shr d a b x y) d a b (fun u v => shrBy u v.toNat) s
/-- SAR (R95): copies of the sign from a count of 32 on. -/
def execSar (d a b : BitVec 6) (x y : Bool) (s : State) : Out :=
  binaryOp (.sar d a b x y) d a b (fun u v => sarBy u v.toNat) s
/-- ROL (R95): rotation by b[4:0]. -/
def execRol (d a b : BitVec 6) (x y : Bool) (s : State) : Out :=
  binaryOp (.rol d a b x y) d a b (fun u v => u.rotateLeft (v.toNat % 32)) s
/-- MIN (R95): signed. -/
def execMin (d a b : BitVec 6) (x y : Bool) (s : State) : Out :=
  binaryOp (.min d a b x y) d a b sMin s
/-- MAX (R95): signed. -/
def execMax (d a b : BitVec 6) (x y : Bool) (s : State) : Out :=
  binaryOp (.max d a b x y) d a b sMax s
/-- MINU (R95): unsigned. -/
def execMinu (d a b : BitVec 6) (x y : Bool) (s : State) : Out :=
  binaryOp (.minu d a b x y) d a b uMin s
/-- MAXU (R95): unsigned. -/
def execMaxu (d a b : BitVec 6) (x y : Bool) (s : State) : Out :=
  binaryOp (.maxu d a b x y) d a b uMax s
/-- MUL (R95): the product modulo 2^32. -/
def execMul (d a b : BitVec 6) (x y : Bool) (s : State) : Out :=
  binaryOp (.mul d a b x y) d a b (fun u v => u * v) s
/-- MULH (R95): the high word of the signed product. -/
def execMulh (d a b : BitVec 6) (x y : Bool) (s : State) : Out :=
  binaryOp (.mulh d a b x y) d a b mulHigh s
/-- MULHU (R95): the high word of the unsigned product. -/
def execMulhu (d a b : BitVec 6) (x y : Bool) (s : State) : Out :=
  binaryOp (.mulhu d a b x y) d a b mulHighU s
/-- MAD (R95): v[d] is read, blocking, as the addend. -/
def execMad (d a b : BitVec 6) (x y : Bool) (s : State) : Out :=
  threadOp (.mad d a b x y) (fun th => th.wr d (th.rd d + th.rd a * th.rd b)) s
/-- ADDS (R95): the signed sum, saturated. -/
def execAdds (d a b : BitVec 6) (x y : Bool) (s : State) : Out :=
  binaryOp (.adds d a b x y) d a b (fun u v => saturate (u.toInt + v.toInt)) s
/-- SUBS (R95): the signed difference, saturated. -/
def execSubs (d a b : BitVec 6) (x y : Bool) (s : State) : Out :=
  binaryOp (.subs d a b x y) d a b (fun u v => saturate (u.toInt - v.toInt)) s
/-- ABSD (R95): the exact signed distance, unsigned. -/
def execAbsd (d a b : BitVec 6) (x y : Bool) (s : State) : Out :=
  binaryOp (.absd d a b x y) d a b absDiff s
/-- ADD64 (R96): modulo 2^64. -/
def execAdd64 (d a b : BitVec 6) (x y : Bool) (s : State) : Out :=
  pairOp (.add64 d a b x y) d a b (fun u v => u + v) s
/-- SUB64 (R96): modulo 2^64. -/
def execSub64 (d a b : BitVec 6) (x y : Bool) (s : State) : Out :=
  pairOp (.sub64 d a b x y) d a b (fun u v => u - v) s
/-- SHL64 (R96): 0 from a count of 64 on. -/
def execShl64 (d a b : BitVec 6) (x y : Bool) (s : State) : Out :=
  pairWordOp (.shl64 d a b x y) d a b (fun u v => shlBy u v.toNat) s
/-- SHR64 (R96): 0 from a count of 64 on. -/
def execShr64 (d a b : BitVec 6) (x y : Bool) (s : State) : Out :=
  pairWordOp (.shr64 d a b x y) d a b (fun u v => shrBy u v.toNat) s
/-- SAR64 (R96): copies of the sign from a count of 64 on. -/
def execSar64 (d a b : BitVec 6) (x y : Bool) (s : State) : Out :=
  pairWordOp (.sar64 d a b x y) d a b (fun u v => sarBy u v.toNat) s
/-- MUL64 (R96): the exact signed product. -/
def execMul64 (d a b : BitVec 6) (x y : Bool) (s : State) : Out :=
  wideOp (.mul64 d a b x y) d a b (fun u v => BitVec.ofInt 64 (u.toInt * v.toInt)) s
/-- MULU64 (R96): the exact unsigned product. -/
def execMulu64 (d a b : BitVec 6) (x y : Bool) (s : State) : Out :=
  wideOp (.mulu64 d a b x y) d a b (fun u v => BitVec.ofNat 64 (u.toNat * v.toNat)) s
/-- MAD64 (R96): the pair d plus the signed product, modulo 2^64. -/
def execMad64 (d a b : BitVec 6) (x y : Bool) (s : State) : Out :=
  threadOp (.mad64 d a b x y) (fun th => th.wr2 d (th.rd2 d + BitVec.ofInt 64 ((th.rd a).toInt * (th.rd b).toInt))) s
/-- LEA64 (R96): the pair a plus the word b, zero-extended, modulo 2^64. -/
def execLea64 (d a b : BitVec 6) (x y : Bool) (s : State) : Out :=
  pairWordOp (.lea64 d a b x y) d a b (fun u v => u + v.zeroExtend 64) s
/-- MOV (R97): v[a]. -/
def execMov (d a : BitVec 6) (x : Bool) (s : State) : Out := unaryOp (.mov d a x) d a (fun u => u) s
/-- NOT (R97): the complement. -/
def execNot (d a : BitVec 6) (x : Bool) (s : State) : Out := unaryOp (.not d a x) d a (fun u => ~~~u) s
/-- NEG (R97): 0 - a modulo 2^32. -/
def execNeg (d a : BitVec 6) (x : Bool) (s : State) : Out := unaryOp (.neg d a x) d a (fun u => 0#32 - u) s
/-- ABS (R97): the magnitude modulo 2^32. -/
def execAbs (d a : BitVec 6) (x : Bool) (s : State) : Out := unaryOp (.abs d a x) d a (fun u => BitVec.ofNat 32 u.toInt.natAbs) s
/-- CLZ (R97): leading zeros, 32 for 0. -/
def execClz (d a : BitVec 6) (x : Bool) (s : State) : Out := unaryOp (.clz d a x) d a (fun u => BitVec.ofNat 32 (leadingZeros u)) s
/-- CTZ (R97): trailing zeros, 32 for 0. -/
def execCtz (d a : BitVec 6) (x : Bool) (s : State) : Out := unaryOp (.ctz d a x) d a (fun u => BitVec.ofNat 32 (trailingZeros u)) s
/-- POPC (R97): the number of ones. -/
def execPopc (d a : BitVec 6) (x : Bool) (s : State) : Out := unaryOp (.popc d a x) d a (fun u => BitVec.ofNat 32 (onesCount u)) s
/-- BREV (R97): the bits in reverse order. -/
def execBrev (d a : BitVec 6) (x : Bool) (s : State) : Out := unaryOp (.brev d a x) d a reverseBits s
/-- SEXT8 (R97): a[7:0] sign-extended. -/
def execSext8 (d a : BitVec 6) (x : Bool) (s : State) : Out := unaryOp (.sext8 d a x) d a (fun u => (u.extractLsb' 0 8).signExtend 32) s
/-- SEXT16 (R97): a[15:0] sign-extended. -/
def execSext16 (d a : BitVec 6) (x : Bool) (s : State) : Out := unaryOp (.sext16 d a x) d a (fun u => (u.extractLsb' 0 16).signExtend 32) s
/-- ZEXT8 (R97): a[7:0] zero-extended. -/
def execZext8 (d a : BitVec 6) (x : Bool) (s : State) : Out := unaryOp (.zext8 d a x) d a (fun u => (u.extractLsb' 0 8).zeroExtend 32) s
/-- ZEXT16 (R97): a[15:0] zero-extended. -/
def execZext16 (d a : BitVec 6) (x : Bool) (s : State) : Out := unaryOp (.zext16 d a x) d a (fun u => (u.extractLsb' 0 16).zeroExtend 32) s
/-- MOV64 (R97): the pair a. -/
def execMov64 (d a : BitVec 6) (x : Bool) (s : State) : Out :=
  threadOp (.mov64 d a x) (fun th => th.wr2 d (th.rd2 a)) s
/-- BFXU (R98): the field of `l` + 1 bits from `p` on, zero-extended. -/
def execBfxu (d a : BitVec 6) (x : Bool) (p l : BitVec 5) (s : State) : Out :=
  unaryOp (.bfxu d a x p l) d a (fun u => fieldOf u p.toNat (l.toNat + 1)) s
/-- BFXS (R98): the field sign-extended. -/
def execBfxs (d a : BitVec 6) (x : Bool) (p l : BitVec 5) (s : State) : Out :=
  unaryOp (.bfxs d a x p l) d a (fun u => signField u p.toNat (l.toNat + 1)) s
/-- BFI (R98): the low bits of a into the field of d. -/
def execBfi (d a : BitVec 6) (x : Bool) (p l : BitVec 5) (s : State) : Out :=
  threadOp (.bfi d a x p l) (fun th => th.wr d (insertField (th.rd d) (th.rd a) p.toNat (l.toNat + 1))) s
/-- ADDI (R99): plus the immediate modulo 2^32. -/
def execAddi (d a : BitVec 6) (x : Bool) (i : BitVec 13) (s : State) : Out :=
  unaryOp (.addi d a x i) d a (fun u => u + i.signExtend 32) s
/-- ANDI (R99): AND the sign-extended immediate. -/
def execAndi (d a : BitVec 6) (x : Bool) (i : BitVec 13) (s : State) : Out :=
  unaryOp (.andi d a x i) d a (fun u => u &&& i.signExtend 32) s
/-- ORI (R99): OR the sign-extended immediate. -/
def execOri (d a : BitVec 6) (x : Bool) (i : BitVec 13) (s : State) : Out :=
  unaryOp (.ori d a x i) d a (fun u => u ||| i.signExtend 32) s
/-- XORI (R99): XOR the sign-extended immediate. -/
def execXori (d a : BitVec 6) (x : Bool) (i : BitVec 13) (s : State) : Out :=
  unaryOp (.xori d a x i) d a (fun u => u ^^^ i.signExtend 32) s
/-- SHLI (R99): as SHL by the amount of the word. -/
def execShli (d a : BitVec 6) (x : Bool) (n : BitVec 5) (s : State) : Out :=
  unaryOp (.shli d a x n) d a (fun u => shlBy u n.toNat) s
/-- SHRI (R99): as SHR by the amount of the word. -/
def execShri (d a : BitVec 6) (x : Bool) (n : BitVec 5) (s : State) : Out :=
  unaryOp (.shri d a x n) d a (fun u => shrBy u n.toNat) s
/-- SARI (R99): as SAR by the amount of the word. -/
def execSari (d a : BitVec 6) (x : Bool) (n : BitVec 5) (s : State) : Out :=
  unaryOp (.sari d a x n) d a (fun u => sarBy u n.toNat) s
/-- ROLI (R99): as ROL by the amount of the word. -/
def execRoli (d a : BitVec 6) (x : Bool) (n : BitVec 5) (s : State) : Out :=
  unaryOp (.roli d a x n) d a (fun u => u.rotateLeft n.toNat) s
/-- MOVI (R99): the sign-extended immediate. -/
def execMovi (d : BitVec 6) (i : BitVec 20) (s : State) : Out := threadOp (.movi d i) (fun th => th.wr d (i.signExtend 32)) s
/-- LUI (R99): the immediate in bits 31:12. -/
def execLui (d : BitVec 6) (i : BitVec 20) (s : State) : Out := threadOp (.lui d i) (fun th => th.wr d (i ++ 0#12)) s
/-- CMP (R100): the condition on v[a] and v[b]. -/
def execCmp (p : BitVec 3) (a b : BitVec 6) (x y : Bool) (c : Cond) (s : State) : Out :=
  predOp (.cmp p a b x y c) p (fun th => condHolds c (th.rd a) (th.rd b)) s
/-- CMPI (R100): the condition on v[a] and the sign-extended immediate. -/
def execCmpi (c : Cond) (p : BitVec 3) (a : BitVec 6) (x : Bool) (i : BitVec 13) (s : State) : Out :=
  predOp (.cmpi c p a x i) p (fun th => condHolds c (th.rd a) (i.signExtend 32)) s
/-- PAND (R101). -/
def execPand (d a b : BitVec 3) (s : State) : Out := predOp (.pand d a b) d (fun th => th.pred a && th.pred b) s
/-- POR (R101). -/
def execPor (d a b : BitVec 3) (s : State) : Out := predOp (.por d a b) d (fun th => th.pred a || th.pred b) s
/-- PXOR (R101). -/
def execPxor (d a b : BitVec 3) (s : State) : Out := predOp (.pxor d a b) d (fun th => th.pred a ^^ th.pred b) s
/-- PNOT (R101). -/
def execPnot (d a : BitVec 3) (s : State) : Out := predOp (.pnot d a) d (fun th => !th.pred a) s
/-- PTOR (R101): p7 to p0 zero-extended. -/
def execPtor (d : BitVec 6) (s : State) : Out := threadOp (.ptor d) (fun th => th.wr d (th.p.zeroExtend 32)) s
/-- SEL (R101): v[a] when pk is 1, else v[b]; both are read. -/
def execSel (d a b : BitVec 6) (x y : Bool) (k : BitVec 3) (s : State) : Out :=
  threadOp (.sel d a b x y k) (fun th => th.wr d (if th.pred k then th.rd a else th.rd b)) s

end Sys2Proof.Machine
end

