-- ==== Sys2Proof/Machine/Number.lean ====
section
/-!
DEFINITION. The number formats (R168 to R187): decoding, the one rounding of R172 and R173, exact sums and products,
term planes (R179), and the block sums of the matrix array (R182 to R185).
-/
namespace Sys2Proof.Machine

/-- A floating-point format (R170): exponent bits, fraction bits, bias, and whether its largest exponent code holds
infinities and NaNs (E4M3 has one NaN instead). -/
structure Fmt where
  e : Nat
  m : Nat
  bias : Nat
  inf : Bool
  deriving DecidableEq, Repr
/-- FP32. -/
def fp32 : Fmt := { e := 8, m := 23, bias := 127, inf := true }
/-- BF16. -/
def bf16 : Fmt := { e := 8, m := 7, bias := 127, inf := true }
/-- E4M3. -/
def e4m3 : Fmt := { e := 4, m := 3, bias := 7, inf := false }
/-- E5M2. -/
def e5m2 : Fmt := { e := 5, m := 2, bias := 15, inf := true }

/-- An exact value: NaN, an infinity, or (-1)^neg x mant x 2^exp; a zero keeps its sign. -/
inductive Fp where
  | nan
  | inf (neg : Bool)
  | fin (neg : Bool) (mant : Nat) (exp : Int)
  deriving DecidableEq, Repr

/-- The exponent of a format's smallest subnormal. -/
def Fmt.qmin (f : Fmt) : Int := 1 - (f.bias : Int) - (f.m : Int)
/-- The largest exponent code. -/
def Fmt.top (f : Fmt) : Nat := 2 ^ f.e - 1
/-- The code of the largest finite value, without sign. -/
def Fmt.maxCode (f : Fmt) : Nat := if f.inf then f.top * 2 ^ f.m - 1 else 2 ^ (f.e + f.m) - 2
/-- The sign bit of a code, as a number. -/
def Fmt.sign (f : Fmt) (neg : Bool) : Nat := if neg then 2 ^ (f.e + f.m) else 0
/-- The canonical NaN (R171). -/
def Fmt.nan (f : Fmt) : Nat := if f.inf then f.top * 2 ^ f.m + 2 ^ (f.m - 1) else 2 ^ (f.e + f.m) - 1
/-- The value of a code (R170). -/
def Fmt.decode (f : Fmt) (code : Nat) : Fp :=
  let frac := code % 2 ^ f.m
  let ex := code / 2 ^ f.m % 2 ^ f.e
  let neg := code / 2 ^ (f.e + f.m) % 2 = 1
  if ex = 0 then .fin neg frac f.qmin
  else if ex = f.top && f.inf then (if frac = 0 then .inf neg else .nan)
  else if ex = f.top && frac = 2 ^ f.m - 1 then .nan
  else .fin neg (2 ^ f.m + frac) (f.qmin + (ex - 1 : Nat))

/-- Whether the magnitude is rounded up (R172): `q` is the truncated significand, `lo` and `half` the rest and half
the spacing. -/
def roundUp (mode : RMode) (neg : Bool) (q lo half : Nat) : Bool :=
  match mode with
  | .rn => decide (half < lo) || (lo == half && q % 2 == 1)
  | .rz => false
  | .rd => neg && lo != 0
  | .ru => !neg && lo != 0
/-- The result of an overflow (R173). -/
def Fmt.overflow (f : Fmt) (mode : RMode) (neg : Bool) : Nat :=
  let toInf := match mode with
    | .rn => true
    | .rz => false
    | .rd => neg
    | .ru => !neg
  if f.inf && toInf then f.maxCode + 1 else f.maxCode
/-- Round (-1)^neg x mant x 2^exp, with `mant` not 0, into a format (R172, R173). -/
def Fmt.roundFin (f : Fmt) (mode : RMode) (neg : Bool) (mant : Nat) (exp : Int) : Nat :=
  let top : Int := (Nat.log2 mant : Int) + exp
  let qe := max (top - f.m) f.qmin
  let shift := min (qe - exp) (Nat.log2 mant + 2 : Nat)
  let d := 2 ^ shift.toNat
  let q := mant * 2 ^ (-shift).toNat / d
  let lo := mant * 2 ^ (-shift).toNat % d
  let q := if roundUp mode neg q (2 * lo) d then q + 1 else q
  let code := (qe - f.qmin).toNat * 2 ^ f.m + q
  f.sign neg + if code ≤ f.maxCode then code else f.overflow mode neg
/-- Round an exact value into a format: the code (R171 to R173). -/
def Fmt.round (f : Fmt) (mode : RMode) : Fp → Nat
  | .nan => f.nan
  | .inf neg => f.sign neg + if f.inf then f.top * 2 ^ f.m else f.maxCode
  | .fin neg mant exp => if mant = 0 then f.sign neg else f.roundFin mode neg mant exp
/-- Round a value that lies strictly above (-1)^neg x mant x 2^exp in magnitude, by less than 2^exp, when `more` is set,
and is equal to it when not; the rounding grid is not finer than 2^exp. -/
def Fmt.roundSticky (f : Fmt) (mode : RMode) (neg : Bool) (mant : Nat) (exp : Int) (more : Bool) : Nat :=
  f.round mode (.fin neg (2 * mant + if more then 1 else 0) (exp - 1))

/-- The sign of a value. -/
def Fp.neg? : Fp → Bool
  | .nan => false
  | .inf n => n
  | .fin n _ _ => n
/-- The negative of a value. -/
def Fp.negate : Fp → Fp
  | .nan => .nan
  | .inf n => .inf (!n)
  | .fin n m e => .fin (!n) m e
/-- The value times 2^k, exactly; a NaN or an infinity keeps its value (R176). -/
def Fp.scale (k : Int) : Fp → Fp
  | .nan => .nan
  | .inf n => .inf n
  | .fin n m e => .fin n m (e + k)
/-- A finite value as an integer multiple of 2^e, where `e` is not above its exponent. -/
def scaled (neg : Bool) (m : Nat) (ex e : Int) : Int :=
  let v : Int := (m * 2 ^ (ex - e).toNat : Nat)
  if neg then -v else v
/-- An integer multiple of 2^e; a zero is given the sign `z`. -/
def ofScaled (v : Int) (e : Int) (z : Bool) : Fp := if v = 0 then .fin z 0 e else .fin (decide (v < 0)) v.natAbs e
/-- The exact product (R190). -/
def Fp.mul : Fp → Fp → Fp
  | .nan, _ => .nan
  | _, .nan => .nan
  | .inf n, .inf k => .inf (n != k)
  | .inf n, .fin k m _ => if m = 0 then .nan else .inf (n != k)
  | .fin n m _, .inf k => if m = 0 then .nan else .inf (n != k)
  | .fin n m e, .fin k m' e' => .fin (n != k) (m * m') (e + e')
/-- The exact sum, with the sign of a zero sum under a mode (R172, R190). -/
def Fp.add (mode : RMode) : Fp → Fp → Fp
  | .nan, _ => .nan
  | _, .nan => .nan
  | .inf n, .inf k => if n = k then .inf n else .nan
  | .inf n, .fin _ _ _ => .inf n
  | .fin _ _ _, .inf k => .inf k
  | .fin n m e, .fin k m' e' =>
    let lo := min e e'
    ofScaled (scaled n m e lo + scaled k m' e' lo) lo (if m = 0 && m' = 0 && n = k then n else decide (mode = .rd))
/-- The order of two values: none when one is a NaN; zeros compare equal. -/
def Fp.cmp : Fp → Fp → Option Ordering
  | .nan, _ => none
  | _, .nan => none
  | .inf n, .inf k => some (if n = k then .eq else if n then .lt else .gt)
  | .inf n, .fin _ _ _ => some (if n then .lt else .gt)
  | .fin _ _ _, .inf k => some (if k then .gt else .lt)
  | .fin n m e, .fin k m' e' =>
    let lo := min e e'
    some (compare (scaled n m e lo) (scaled k m' e' lo))
/-- `a` is the smaller, with -0 less than +0 (R191). -/
def Fp.below (a b : Fp) : Bool :=
  match a.cmp b with
  | some .lt => true
  | some .eq => a.neg?
  | some .gt => false
  | none => false

/-- The integer part of a square root, by its bits from `n` down; `r` is what the bits above give. -/
def sqrtBits (v : Nat) : Nat → Nat → Nat
  | 0, r => r
  | n + 1, r => sqrtBits v n (if (r + 2 ^ n) * (r + 2 ^ n) ≤ v then r + 2 ^ n else r)
/-- The square root of mant x 2^exp, rounded (R197). -/
def Fmt.sqrt (f : Fmt) (mode : RMode) (mant : Nat) (exp : Int) : Nat :=
  let e := (exp - 64) / 2
  let v := mant * 2 ^ (exp - 2 * e).toNat
  let r := sqrtBits v 64 0
  f.roundSticky mode false r e (r * r != v)
/-- 1 over that square root, rounded (R197). -/
def Fmt.rsqrt (f : Fmt) (mode : RMode) (mant : Nat) (exp : Int) : Nat :=
  let k : Nat := if exp % 2 = 0 then 128 else 129
  let r := sqrtBits (2 ^ k / mant) 66 0
  f.roundSticky mode false r (-((k + exp) / 2)) (mant * r * r != 2 ^ k)
/-- The quotient of mant x 2^exp by mant' x 2^exp', rounded (R197). -/
def Fmt.quot (f : Fmt) (mode : RMode) (neg : Bool) (m : Nat) (e : Int) (m' : Nat) (e' : Int) : Nat :=
  f.roundSticky mode neg (m * 2 ^ 64 / m') (e - e' - 64) (m * 2 ^ 64 % m' != 0)

/-- Fraction bits of the fixed-point sums of 2^x and log2 x (DESIGN CHOICE, assumption 15). -/
def seriesBits : Nat := 256
/-- ln 2 as the sum of 1 / (k 2^k) over k from 1 to `n`, in units of 2^-256. -/
def ln2Sum : Nat → Nat
  | 0 => 0
  | n + 1 => ln2Sum n + 2 ^ seriesBits / ((n + 1) * 2 ^ (n + 1))
/-- The terms x^k / k! from `t` on, in units of 2^-256. -/
def expSum (x : Nat) : Nat → Nat → Nat → Nat
  | 0, _, _ => 0
  | n + 1, k, t => t + expSum x n (k + 1) (t * x / 2 ^ seriesBits / (k + 1))
/-- 2^(v 2^e), rounded, for a finite operand that is not 0 (R197).  (DESIGN CHOICE, assumption 15) -/
def Fmt.exp2 (f : Fmt) (mode : RMode) (v : Int) (e : Int) : Nat :=
  if 0 ≤ e then f.roundFin mode false 1 (v * 2 ^ e.toNat)
  else
    let d : Int := 2 ^ (-e).toNat
    let n := v / d
    let fr := (v % d).toNat * 2 ^ (seriesBits - (-e).toNat)
    if v % d = 0 then f.roundFin mode false 1 n
    else f.roundSticky mode false (expSum (fr * ln2Sum 280 / 2 ^ seriesBits) 70 0 (2 ^ seriesBits)) (n - seriesBits) true
/-- Binary digits of log2 y for y in [1, 2), in units of 2^-128, by repeated squaring. -/
def log2Bits : Nat → Nat → Nat → Nat
  | 0, _, r => r
  | n + 1, y, r =>
    let q := y * y / 2 ^ 128
    if 2 ^ 129 ≤ q then log2Bits n (q / 2) (2 * r + 1) else log2Bits n q (2 * r)
/-- log2 of mant x 2^exp, rounded (R197, R198).  (DESIGN CHOICE, assumption 15) -/
def Fmt.log2 (f : Fmt) (mode : RMode) (mant : Nat) (exp : Int) : Nat :=
  let k := Nat.log2 mant
  let n : Int := k + exp
  if mant = 2 ^ k then f.round mode (ofScaled n 0 false)
  else
    let total : Int := n * 2 ^ 100 + log2Bits 100 (mant * 2 ^ 128 / 2 ^ k) 0
    let down := decide (total < 0)
    f.roundSticky mode down (if down then (total + 1).natAbs else total.natAbs) (-100) true
/-- The integer that a finite value rounds to (R195). -/
def roundInt (mode : RMode) (neg : Bool) (m : Nat) (e : Int) : Int :=
  let d := 2 ^ (-e).toNat
  let v := m * 2 ^ e.toNat
  let q := v / d
  let r : Int := (if roundUp mode neg q (2 * (v % d)) d then q + 1 else q : Nat)
  if neg then -r else r

/-! ## Elements of pages -/

/-- The value of a DP term code (R177, R178). -/
def dpTerm (neg : Bool) (exp : Int) (zero : Bool) : Option Term := if zero then none else some { neg := neg, exp := exp }
/-- The two terms of a DP8 code (R177). -/
def dp8Terms (c : Nat) : List Term :=
  (dpTerm (c / 128 % 2 == 1) (-((c / 16 % 8 : Nat) : Int)) (c / 16 % 8 == 7)).toList
    ++ (dpTerm (c / 8 % 2 == 1) (-((c % 8 : Nat) : Int)) (c % 8 == 7)).toList
/-- A seven-bit two's complement exponent. -/
def dp16Exp (c : Nat) : Int := if 64 ≤ c then (c : Int) - 128 else c
/-- The two terms of a DP16 code (R178). -/
def dp16Terms (c : Nat) : List Term :=
  (dpTerm (c / 2 ^ 15 % 2 == 1) (dp16Exp (c / 256 % 128)) (c / 256 % 128 == 64)).toList
    ++ (dpTerm (c / 128 % 2 == 1) (dp16Exp (c % 128)) (c % 128 == 64)).toList
/-- The value of a term. -/
def Term.value (t : Term) : Fp := .fin t.neg 1 t.exp
/-- The exact sum of terms. -/
def termSum (ts : List Term) : Fp := ts.foldl (fun v t => v.add .rn t.value) (.fin false 0 0)
/-- The integer of an INT8 code (R174). -/
def int8 (c : Nat) : Int := (BitVec.ofNat 8 c).toInt
/-- The floating-point format of a page format code. -/
def fmtOf (fmt : Nat) : Fmt := if fmt = 1 then fp32 else if fmt = 2 then bf16 else if fmt = 3 then e4m3 else e5m2
/-- The decoded value of an element (R174 to R178): its code under its format, times 2^(S - 127). -/
def elemValue (fmt code scale : Nat) : Fp :=
  let v := if fmt = 5 then ofScaled (int8 code) 0 false
    else if fmt = 6 then termSum (dp8Terms code) else if fmt = 7 then termSum (dp16Terms code)
    else (fmtOf fmt).decode code
  v.scale ((scale : Int) - 127)
/-- ToFP32 of R204. -/
def toFp32 (v : Fp) : Word := BitVec.ofNat 32 (fp32.round .rn v)

/-- The non-zero digits of the non-adjacent form of `m`, from digit `j` up (R179): place and sign. -/
def naf : Nat → Nat → Nat → List (Nat × Bool)
  | 0, _, _ => []
  | n + 1, m, j =>
    if m = 0 then []
    else if m % 2 = 0 then naf n (m / 2) (j + 1)
    else if m % 4 = 1 then (j, false) :: naf n ((m - 1) / 2) (j + 1)
    else (j, true) :: naf n ((m + 1) / 2) (j + 1)
/-- The terms of a significand times 2^f, in descending order. -/
def nafTerms (neg : Bool) (m : Nat) (f : Int) : List Term :=
  (naf 12 m 0).reverse.map (fun d => { neg := neg != d.2, exp := (d.1 : Int) + f })
/-- The terms of a weight (R179); none for a NaN or an infinity. -/
def weightTerms (fmt code : Nat) : Option (List Term) :=
  if fmt = 6 then some (dp8Terms code) else if fmt = 7 then some (dp16Terms code)
  else if fmt = 5 then some (nafTerms (int8 code < 0) (int8 code).natAbs 0)
  else
    match (fmtOf fmt).decode code with
    | .fin neg m e => some (nafTerms neg m e)
    | .inf _ => none
    | .nan => none
/-- Planes of a weight format (R179). -/
def weightPlanes (fmt : Nat) : Nat := if fmt = 6 || fmt = 7 then 1 else if fmt = 2 then 3 else 2

/-! ## Block sums -/

/-- The product of a term and an activation (R182). -/
def Term.times (t : Term) (a : Fp) : Fp := t.value.mul a
/-- The largest binary exponent among products, if one is finite and not 0. -/
def topExp (ps : List Fp) : Option Int :=
  ps.foldl (fun o p => match p with
    | .fin _ m e =>
      if m = 0 then o
      else match o with
        | none => some (Nat.log2 m + e)
        | some t => some (max t (Nat.log2 m + e))
    | .inf _ => o
    | .nan => o) none
/-- Floor(p / 2^u) and whether it is not exact. -/
def floorAt (u : Int) (p : Fp) : Int × Bool :=
  match p with
  | .fin n m e =>
    let v := scaled n m e (min e u)
    let d : Int := 2 ^ (u - min e u).toNat
    (v / d, v % d != 0)
  | .inf _ => (0, false)
  | .nan => (0, false)
/-- The block sum of R183, as an FP32 value. -/
def blockSum (ps : List Fp) : Fp :=
  let infs := ps.filter (fun p => match p with | .inf _ => true | .fin _ _ _ => false | .nan => false)
  if ps.contains .nan || (infs.contains (.inf true) && infs.contains (.inf false)) then .nan
  else
    match infs with
    | p :: _ => p
    | [] =>
      match topExp ps with
      | none => .fin false 0 0
      | some m =>
        let u := m - 54
        let w := ps.foldl (fun n p => n + (floorAt u p).1) 0
        let st : Int := if ps.any (fun p => (floorAt u p).2) then 1 else 0
        fp32.decode (fp32.round .rn (ofScaled (2 * w + st) (u - 1) false))
/-- A block sum added into an accumulator word (R185).  Block sums are never -0, and a word that holds -0 keeps it when +0 is
added: R185 says so in its own words, against the sign that R172 gives to the sum of zeros (DEDUCED, assumption 46). -/
def accAdd (acc : Word) (b : Fp) : Word :=
  match fp32.decode acc.toNat, b with
  | .fin true 0 _, .fin _ 0 _ => acc
  | a, b => BitVec.ofNat 32 (fp32.round .rn (a.add .rn b))

end Sys2Proof.Machine
end

