-- ==== Sys2Proof/Machine/Spad.lean ====
section
/-!
DEFINITION. A team's scratchpad and its presence bits (R121, R125 to R127), its accumulators (R214) and the limits of
both.
-/
namespace Sys2Proof.Machine

/-- Bytes of a team's scratchpad (R122). -/
def Team.spadLimit (t : Team) : Nat := t.spadg * Config.granule
/-- Words of a team's accumulators (R211, R214). -/
def Team.accLimit (t : Team) : Nat := t.accg * 4096
/-- The line of a scratchpad address is absent (R126). -/
def Team.lineAbsent (t : Team) (addr : Nat) : Bool := t.absent.has (addr / 64)
/-- Some line of a stretch of scratchpad is absent. -/
def Team.absentIn (t : Team) (addr n : Nat) : Bool :=
  t.absent.any (fun e => decide (addr / 64 ≤ e.1) && decide (64 * e.1 < addr + n))
/-- A byte of the scratchpad. -/
def Team.spadByte (t : Team) (addr : Nat) : Byte := t.spad.get addr 0#8
/-- Bytes of the scratchpad. -/
def Team.spadBytes (t : Team) (addr n : Nat) : List Byte := SMap.bytes t.spad addr n
/-- Write bytes of the scratchpad. -/
def Team.setSpad (t : Team) (addr : Nat) (bs : List Byte) : Team := { t with spad := SMap.setBytes t.spad addr bs }
/-- One more delivery is outstanding for a line (R127). -/
def Team.lineAdd (t : Team) (line : Nat) : Team := { t with absent := t.absent.put line (t.absent.get line 0 + 1) }
/-- One delivery fewer is outstanding for a line; at 0 it is present (R127). -/
def Team.lineSub (t : Team) (line : Nat) : Team := { t with absent := SMap.set t.absent line (t.absent.get line 0 - 1) 0 }
/-- The lines of a stretch of scratchpad. -/
def linesOf (addr n : Nat) : List Nat :=
  if n = 0 then [] else (List.range ((addr + n - 1) / 64 - addr / 64 + 1)).map (fun k => addr / 64 + k)
/-- An accumulator word; it is +0 when the team starts (R214). -/
def Team.accWord (t : Team) (i : Nat) : Word := t.acc.get i 0#32
/-- Write an accumulator word. -/
def Team.setAcc (t : Team) (i : Nat) (w : Word) : Team := { t with acc := SMap.set t.acc i w 0#32 }

end Sys2Proof.Machine
end

