-- ==== Sys2Proof/Machine/Access.lean ====
section
/-!
DEFINITION. Accesses to global memory (R122 to R124, R204, R264 to R266, R281): their checks, their issue into the queue
of a thread or lead, the delivery of their answers, and reads made in one step.
-/
namespace Sys2Proof.Machine

/-- What the checks of an access to global memory give: the leaf it uses, a trap, a missing translation, or a home on a
removed die. -/
inductive Access where
  | ok (l : Leaf)
  | trap (c : Cause) (addr : DWord)
  | miss (m : Miss)
  | lost
  deriving DecidableEq, Repr
/-- Order 1 of R123 for an access at a canonical address, then the checks `trap` of its leaf, then its home. -/
def accessBy (s : State) (core : Nat) (k : Task) (va : DWord) (trap : Leaf → Option Cause) : Access :=
  match lookup s core k.space (va48 va) with
  | .error m => .miss m
  | .ok l =>
    match trap l with
    | some c => .trap c va
    | none => if s.removed.contains (homeOf (l.loc (va48 va))) then .lost else .ok l
/-- Orders 2 to 5 of R123 under a leaf; `kindOk` says which KINDs allow the access. -/
def leafTrap (s : State) (k : Task) (a : Acc) (kindOk : Nat → Bool) (pubOk rawNeed : Bool) (l : Leaf) : Option Cause :=
  accessTrap s k.priv l a (kindOk l.kind) pubOk rawNeed
/-- The checks of R123 for an access at a canonical address. -/
def access (s : State) (core : Nat) (k : Task) (va : DWord) (a : Acc) (kindOk : Nat → Bool) (pubOk rawNeed : Bool) : Access :=
  accessBy s core k va (leafTrap s k a kindOk pubOk rawNeed)
/-- The checks of a naturally aligned access of `n` bytes (R122): canonical, aligned, then R123. -/
def alignedAccess (s : State) (core : Nat) (k : Task) (va : DWord) (n : Nat) (a : Acc) (kindOk : Nat → Bool)
    (pubOk rawNeed : Bool) : Access :=
  if !canonical va then .trap .permission va
  else if va.toNat % n ≠ 0 then .trap .align va
  else access s core k va a kindOk pubOk rawNeed
/-- As a group thread's verdict. -/
def Access.verdict (a : Acc) : Access → Verdict
  | .ok _ => .ok
  | .trap c va => .at c va
  | .miss m => .miss m a
  | .lost => .lost
/-- As a lead's verdict. -/
def Access.lverdict (a : Acc) : Access → LVerdict
  | .ok _ => .ok
  | .trap c va => .at c va
  | .miss m => .miss m a
  | .lost => .lost
/-- KIND 3 takes accesses of up to 8 bytes (R352). -/
def ioKind (n : Nat) (kind : Nat) : Bool := kind != 3 || decide (n ≤ 8)
/-- Every KIND but 3 (R352). -/
def memKind (kind : Nat) : Bool := kind != 3
/-- The KINDs that allow atomics (R352). -/
def atomKind (kind : Nat) : Bool := decide (kind < 2)
/-- Where an address stands, if it has a translation. -/
def placeOf (s : State) (core space : Nat) (va : DWord) : Option Loc :=
  match lookup s core space (va48 va) with
  | .ok l => some (l.loc (va48 va))
  | .error _ => none

/-- A node may issue `n` causal packets now (R283). -/
def roomFor (s : State) (i n : Nat) : Bool :=
  canSend s i && ((s.node i).c - (s.node i).f).toNat + n ≤ 16384
/-- The threads of the running path have no load unanswered and no store unsent (R253, R254). -/
def allQuiet (s : State) (c : GCtx) : Bool := c.path.lanes.all (fun l => quiet s (s.thread c.gk l).ops)
/-- A thread has a SEND to its team's scratchpad that has not been accepted. -/
def sendsOwn (s : State) (uid gid lane : Nat) : Bool :=
  (sendsOf s uid gid lane).any (fun i => i.dest_ == Consumer.spad || i.dest_ == Consumer.stage)
/-- What reads or changes more than bytes waits for all that the thread awaits (R253, R254, R281).  (DEDUCED, assumption 19) -/
def holdQuiet (s : State) (c : GCtx) : Bool := !allQuiet s c
/-- A read of a local memory waits for the thread's earlier loads (R253, R254, R281).  (DEDUCED, assumption 19) -/
def holdRead (s : State) (c : GCtx) : Bool := !c.path.lanes.all (fun l => quietRead s (s.thread c.gk l).ops)
/-- What leaves a thread for somebody else waits for the thread's earlier loads (R253, R254, R281).  (DEDUCED, assumption 19) -/
def holdWrite (s : State) (c : GCtx) : Bool := !c.path.lanes.all (fun l => quietOn s (s.thread c.gk l).ops)
/-- The same, with room in the window (R283).  (DEDUCED, assumption 19) -/
def holdStore (s : State) (c : GCtx) : Bool := holdWrite s c || !roomFor s (dieOf c.core) c.path.lanes.length
/-- What a thread does at its team's scratchpad waits for its earlier SENDs there (R255, R257). -/
def holdSends (s : State) (c : GCtx) : Bool := c.path.lanes.any (sendsOwn s c.team.uid c.group.gid)
/-- What reads and changes a scratchpad, or reads it into an engine, waits for both.  (DEDUCED, assumption 19) -/
def holdSpad (s : State) (c : GCtx) : Bool := holdQuiet s c || holdSends s c
/-- Room in the window for loads (R283). -/
def holdLoad (s : State) (c : GCtx) : Bool := !roomFor s (dieOf c.core) c.path.lanes.length

/-- Put an access of a thread into its queue. -/
def threadAccess (c : GCtx) (lane : Nat) (loc : Loc) (n : Nat) (k : OpKind) (s : State) : State :=
  ({ s with nextId := s.nextId + 1 } : State).addOp (s.thread c.gk lane).ops (.thread c.team.uid c.group.gid lane) c.team.task
    (dieOf c.core) { id := s.nextId, loc := loc, n := n, kind := k, sent := false, got := none }
/-- Mark registers empty (R16). -/
def Thread.markEmpties (th : Thread) (rs : List Nat) : Thread := rs.foldl Thread.markEmpty th
/-- A long-latency producer in a thread: its destinations are empty until the value is there and is written (R16). -/
def Thread.await (th : Thread) (id : Nat) (rs : List Nat) (v : Option (List Word)) : Thread :=
  { th.markEmpties rs with pend := th.pend ++ [{ id := id, dst := rs, val := v }] }
/-- A load of a thread: its destinations await the answer. -/
def threadLoad (c : GCtx) (lane : Nat) (loc : Loc) (n : Nat) (form : LoadForm) (rs : List Nat) (s : State) : State :=
  threadAccess c lane loc n (.load form rs) (s.onLanes c.gk [lane] (fun _ th => th.await s.nextId rs none))
/-- An effect made lane by lane in ascending order. -/
def eachLane (f : Nat → State → State) (lanes : List Nat) (s : State) : State := (sortLanes lanes).foldl (fun s l => f l s) s

/-- Bytes of registers, lowest register first (R55, R93). -/
def wordsBytes (ws : List Word) : List Byte := ws.flatMap (fun w => bytesOfNat 4 w.toNat)
/-- Words of bytes. -/
def bytesWords : Nat → List Byte → List Word
  | 0, _ => []
  | n + 1, bs => BitVec.ofNat 32 (natOfBytes (bs.take 4)) :: bytesWords n (bs.drop 4)
/-- What a load of a size gives in registers (R55). -/
def sizeWords (z : Size) (bs : List Byte) : List Word :=
  match z with
  | .sb => [(BitVec.ofNat 8 (natOfBytes bs)).signExtend 32]
  | .sh => [(BitVec.ofNat 16 (natOfBytes bs)).signExtend 32]
  | .d => bytesWords 2 bs
  | .q => bytesWords 4 bs
  | .b => [BitVec.ofNat 32 (natOfBytes bs)]
  | .h => [BitVec.ofNat 32 (natOfBytes bs)]
  | .w => [BitVec.ofNat 32 (natOfBytes bs)]
  | .sw => [BitVec.ofNat 32 (natOfBytes bs)]
/-- What an LLD of a size gives (R120). -/
def leadWord (z : Size) (bs : List Byte) : DWord :=
  match z with
  | .sb => (BitVec.ofNat 8 (natOfBytes bs)).signExtend 64
  | .sh => (BitVec.ofNat 16 (natOfBytes bs)).signExtend 64
  | .sw => (BitVec.ofNat 32 (natOfBytes bs)).signExtend 64
  | .b => BitVec.ofNat 64 (natOfBytes bs)
  | .h => BitVec.ofNat 64 (natOfBytes bs)
  | .w => BitVec.ofNat 64 (natOfBytes bs)
  | .d => BitVec.ofNat 64 (natOfBytes bs)
  | .q => BitVec.ofNat 64 (natOfBytes bs)
/-- The elements of an LDF (R204). -/
def elemWords (fmt scale : Nat) : Nat → List Byte → List Word
  | 0, _ => []
  | n + 1, bs =>
    toFp32 (elemValue fmt (natOfBytes (bs.take (fmtBytes fmt))) scale) :: elemWords fmt scale n (bs.drop (fmtBytes fmt))
/-- The register values of an answer. -/
def LoadForm.words (f : LoadForm) (bs : List Byte) : List Word :=
  match f with
  | .size z => sizeWords z bs
  | .elems fmt scale m => elemWords fmt scale m bs
  | .lead z => [(leadWord z bs).extractLsb' 0 32, (leadWord z bs).extractLsb' 32 32]

/-- The new value of an atomic's `n` bytes (R130, R266). -/
def atomNew (o : AtomOp) (n old b c : Nat) : Nat :=
  let sgn : Nat → Int := fun v => (BitVec.ofNat (8 * n) v).toInt
  match o with
  | .add => (old + b) % 2 ^ (8 * n)
  | .min => if sgn b < sgn old then b else old
  | .max => if sgn old < sgn b then b else old
  | .and => old &&& b
  | .or => old ||| b
  | .xor => old ^^^ b
  | .xch => b
  | .cas => if old = b then c else old

/-! ## Answers -/

/-- The group of a resident team by its number and index, with the team's key. -/
def groupByUid (s : State) (uid gid : Nat) : Option (Nat × Nat) :=
  match teamByUid s uid with
  | none => none
  | some t =>
    match List.find? (fun e => e.2.team == t.1 && e.2.gid == gid) s.groups with
    | some g => some (t.1, g.1)
    | none => none
/-- Give a long-latency producer of a thread its value. -/
def Thread.gotVal (th : Thread) (id : Nat) (ws : List Word) : Thread :=
  { th with pend := th.pend.map (fun q => if q.id = id then { q with val := some ws } else q) }
/-- The requests of a path with one answered. -/
def setAnswer (id : Nat) (a : Answer) (rs : List (Nat × Nat × Answer)) : List (Nat × Nat × Answer) :=
  rs.map (fun r => if r.2.1 = id then (r.1, r.2.1, a) else r)
/-- The members whose request was refused, with their traps (R229). -/
def refusals (rs : List (Nat × Nat × Answer)) : List (Nat × TrapInfo) :=
  rs.filterMap (fun r => match r.2.2 with
    | .refused c a => some (r.1, { cause := c, code := 0, addr := a.zeroExtend 64 })
    | .done => none
    | .waiting => none)
/-- A path whose members have all been answered goes on; a refused member traps at the instruction and its charge is
given back (R229): the trapping members are parked first, the others after them (R28). -/
def settle (s : State) (tk gk : Nat) (p : Path) : State :=
  match s.groups.find gk, s.teams.find tk, p.wait with
  | some g, some t, .answers rs pos word cost =>
    if rs.all (fun r => r.2.2 != .waiting) then
      match s.tasks.find t.task with
      | none => s
      | some k =>
        let bad := refusals rs
        let good := p.lanes.filter (fun l => !(bad.map Prod.fst).contains l)
        let freed : Path := { p with lanes := good, wait := .none }
        let go : Path → Path := fun q => if q.park = p.park then freed else q
        if bad.isEmpty then s.modGroup gk (fun g => { g with parked := (g.parked.map go).filter (fun q => !q.lanes.isEmpty) })
        else
          let s := s.modGroup gk (fun g => { g with parked := g.parked.filter (fun q => q.park != p.park) })
          let q : Path := { p with pos := pos, lanes := bad.map Prod.fst }
          let c : GCtx := { gk := gk, core := coreOf gk, tk := tk, group := g, path := q, team := t, task := k }
          let s := refund s t.task (bad.length * cost)
          sysTrap c word pos (unhandled c bad s) (parkPath (trapLanes c word pos pos.pc bad s) gk freed)
    else s
  | _, _, _ => s
/-- A request of a member of a path is answered (R229, R266). -/
def answerPath (s : State) (uid gid id : Nat) (a : Answer) : State :=
  match groupByUid s uid gid with
  | none => s
  | some (tk, gk) =>
    let hit : Path → Bool := fun p => match p.wait with
      | .answers rs _ _ _ => rs.any (fun r => r.2.1 = id)
      | .none | .barw _ _ | .xconv _ | .fence _ _ | .sleep _ => false
    let mark : Path → Path := fun p => match p.wait with
      | .answers rs pos word cost => { p with wait := .answers (setAnswer id a rs) pos word cost }
      | .none | .barw _ _ | .xconv _ | .fence _ _ | .sleep _ => p
    let s := s.modGroup gk (fun g => { g with parked := g.parked.map (fun p => if hit p then mark p else p) })
    match s.groups.find gk with
    | none => s
    | some g =>
      match List.find? hit g.parked with
      | some p => settle s tk gk p
      | none => s
/-- The answer of an access reaches its thread or lead (R281): a load's value is there, an atomic's old value is
written. -/
def deliver (s : State) (oq : OpQ) (o : MemOp) (bs : List Byte) : State :=
  match oq.who, o.kind with
  | .thread uid gid lane, .load form _ =>
    match groupByUid s uid gid with
    | some g => s.onLanes g.2 [lane] (fun _ th => th.gotVal o.id (form.words bs))
    | none => s
  | .thread uid gid lane, .atom _ _ _ dst =>
    match groupByUid s uid gid with
    | some g =>
      let ws := bytesWords dst.length bs
      answerPath (s.onLanes g.2 [lane] (fun _ th => (dst.zip ws).foldl (fun th e => th.setReg e.1 e.2) th)) uid gid o.id .done
    | none => s
  | .lead uid, .load form dst =>
    match teamByUid s uid with
    | some t =>
      let ws := form.words bs
      s.modLead t.1 (fun l => { l with pend := l.pend.map (fun (q : Nat × Nat × Option DWord) =>
        if q.1 = o.id then (q.1, dst.headD 0, some (ws.getD 1 0#32 ++ ws.getD 0 0#32)) else q) })
    | none => s
  | .lead _, .atom _ _ _ _ => s
  | .lead _, .store _ => s
  | .thread _ _ _, .store _ => s
  | .host, .load _ _ =>
    { s with hostReads := s.hostReads.map (fun r => if r.id = o.id then { r with answer := some bs } else r) }
  | .host, .store _ => s
  | .thread _ _ _, .edge _ _ => s
  | .lead _, .edge _ _ => s
  | .host, .edge _ _ => s
  | .host, .atom _ _ _ _ => s

/-- The first access of a queue that awaits an answer, but for what later ones have gone past. -/
def firstOwed (ops : List MemOp) : Option MemOp :=
  ops.find? (fun o => match o.kind with
    | .load _ _ => true
    | .atom _ _ _ _ => true
    | .edge _ seen => o.got.isSome || seen.isNone
    | .store _ => false)
/-- A read behind what it has gone past is noted there: what it found must still stand when that comes (R254). -/
def MemOp.note (x : Sight) (o : MemOp) : MemOp :=
  match o.kind with
  | .edge dq (some xs) => if o.got.isSome then o else { o with kind := .edge dq (some (x :: xs)) }
  | .edge _ none => o
  | .load _ _ => o
  | .store _ => o
  | .atom _ _ _ _ => o
/-- A read of local memory is noted in its thread's queue `q`. -/
def State.see (s : State) (q : Nat) (x : Sight) : State :=
  if (opsOf s q).any MemOp.passed then { s with opqs := s.opqs.mod q (fun oq => { oq with ops := oq.ops.map (MemOp.note x) }) } else s
/-- The accesses of a queue with the answer of one of them noted at those before it. -/
def noteBefore (id : Nat) (x : Sight) : List MemOp → List MemOp
  | [] => []
  | o :: os => if o.id = id then o :: os else o.note x :: noteBefore id x os
/-- What a load of a queue has found is noted at what it has gone past. -/
def noteLoad (o : MemOp) (bs : List Byte) (ops : List MemOp) : List MemOp :=
  match o.kind with
  | .load _ _ => noteBefore o.id (.mem o.loc bs) ops
  | .edge _ _ => ops
  | .store _ => ops
  | .atom _ _ _ _ => ops
/-- What a read has found still stands there; of I/O space it is not asked. -/
def stands (s : State) : Sight → Bool
  | .mem l bs => l.kind == 3 || s.readLoc l bs.length == bs
  | .spad team addr bs => match teamByUid s team with
    | some t => t.2.spadBytes addr bs.length == bs
    | none => false
  | .pool a bs => SMap.bytes s.quadPool a bs.length == bs
/-- What a thread awaits may come: every read that has gone past it returned what the read would still return now (R254).
(DEDUCED, assumption 19) -/
def MemOp.mayCome (s : State) (o : MemOp) : Bool :=
  match o.kind with
  | .edge _ (some xs) => xs.all (stands s)
  | .edge _ none => true
  | .load _ _ => true
  | .store _ => true
  | .atom _ _ _ _ => true
/-- The first access of a queue that `hit` names may come, if there is one. -/
def edgeMay (s : State) (q : Nat) (hit : MemOp → Bool) : Bool := ((opsOf s q).find? hit).all (MemOp.mayCome s)
/-- Whether an answer may be delivered after what the queue has delivered (R281); an edge only follows. -/
def MemOp.inOrder (o : MemOp) (m st : Stamp) : Bool :=
  match o.kind with
  | .edge _ _ => true
  | .load _ _ => Stamp.le m st
  | .atom _ _ _ _ => Stamp.le m st
  | .store _ => Stamp.le m st
/-- The access has its answer and leaves its queue. -/
def State.endOp (s : State) (q : Nat) (o : MemOp) : State :=
  let s := s.delOp q o.id
  if o.kind.isLoad then s else s.storeOver q
/-- Deliver a queue's answers in program order (R281); an answer that is too old is discarded and its access sent again;
`fuel` bounds the answers. -/
def deliverQueue : Nat → State → Nat → State
  | 0, s, _ => s
  | fuel + 1, s, q =>
    match s.opqs.find q with
    | none => s
    | some oq =>
      match firstOwed oq.ops with
      | none => s
      | some o =>
        match o.got with
        | none => s
        | some (st, bs) =>
          if o.inOrder oq.m st then
            let s : State := { s with opqs := s.opqs.put q { oq with m := Stamp.merge oq.m st, ops := noteLoad o bs oq.ops } }
            deliverQueue fuel ((deliver s oq o bs).endOp q o) q
          else
            let again : MemOp → MemOp := fun x => if x.id = o.id then { x with sent := false, got := none } else x
            let s : State := { s with opqs := s.opqs.put q { oq with ops := oq.ops.map again } }
            s.learn oq.node oq.m
/-- Deliver what a queue has, and send what can be sent after it. -/
def runQueue (s : State) (q : Nat) : State := (deliverQueue (opsOf s q).length s q).flushOps q
/-- An answer reaches the queue of its access. -/
def gotAnswer (s : State) (q op : Nat) (st : Stamp) (bs : List Byte) : State :=
  let mark : MemOp → MemOp := fun x => if x.id = op then { x with got := some (st, bs) } else x
  runQueue { s with opqs := s.opqs.mod q (fun oq => { oq with ops := oq.ops.map mark }) } q
/-- What the first edge that `hit` names stood for has come, with the knowledge of its source (R253): what is behind it follows. -/
def edgeCame (s : State) (q : Nat) (hit : MemOp → Bool) (know : Stamp) : State := runQueue (s.gotEdge q hit know) q
/-- The first of the things that a queue's thread awaits and that nothing has gone past is passed by what comes later. -/
def passFirst : List MemOp → List MemOp
  | [] => []
  | o :: os => match o.kind with
    | .edge dq none => if o.got.isSome then o :: passFirst os else { o with kind := .edge dq (some []) } :: os
    | .edge _ (some _) => o :: passFirst os
    | .load _ _ => o :: passFirst os
    | .store _ => o :: passFirst os
    | .atom _ _ _ _ => o :: passFirst os
/-- Later events of a thread go past a decision-queue entry, or the answer to a held read, that it awaits: it comes only if what they have
read still stands.  (DEDUCED, assumption 19) -/
def passEdge (q : Nat) (s : State) : State :=
  runQueue { s with opqs := s.opqs.mod q (fun oq => { oq with ops := passFirst oq.ops }) } q

/-! ## Reads of more than one location made in one step -/

/-- A node takes the next sequence, for a read that is answered in the same step (R272, R278). -/
def State.takeSeq (s : State) (node : Nat) : State :=
  (s.modNode node (fun n => { n with c := n.c + 1#16, k := SMap.set n.k node (n.c + 1#16) 0#16 })).refreshA node
/-- A node reads some places: one read goes to each of their homes (R272), and everything that has been applied there becomes known at
the node (R280). -/
def State.absorb (s : State) (node : Nat) (ls : List Loc) : State :=
  (ls.map homeOf).eraseDups.foldl (fun s h => (s.takeSeq node).learn node (s.node h).a) s
/-- No write to some places that may be applied at their homes still waits there (R280). -/
def writesOver (s : State) (ls : List Loc) : Bool :=
  (ls.map homeOf).all (fun h => (s.node h).early.all (fun p =>
    !p.body.writes || !(Stamp.leBut p.src p.stamp (s.node h).a && (s.node h).applied h p.src == p.seq - 1#16)))
/-- What the homes of some places hold may be read for a node: the node may send its reads (R283), the homes have applied everything that
it knows of, and the writes that they may apply come first (R280).  (DESIGN CHOICE, assumption 20) -/
def readable (s : State) (node : Nat) (ls : List Loc) : Bool :=
  ls.isEmpty || (roomFor s node (ls.map homeOf).eraseDups.length
    && (ls.map homeOf).all (fun h => Stamp.le (s.node node).k (s.node h).a) && writesOver s ls)
/-- The pieces of the stretch of `n` bytes at a virtual address, page by page, each checked as an access (R123): each with
its leaf, or the first thing that fails; `fuel` bounds them. -/
def pieces (s : State) (core : Nat) (k : Task) (trap : Leaf → Option Cause) : Nat → Nat → Nat → Except Access (List (Seg × Leaf))
  | 0, _, _ => .ok []
  | fuel + 1, va, n =>
    if n = 0 then .ok []
    else
      match accessBy s core k (BitVec.ofNat 64 va) trap with
      | .trap c va => .error (.trap c va)
      | .miss m => .error (.miss m)
      | .lost => .error .lost
      | .ok l =>
        let size := Nat.min n (l.size - va % 2 ^ 48 % l.size)
        match pieces s core k trap fuel (va + size) (n - size) with
        | .error e => .error e
        | .ok ps => .ok (({ va := va, size := size, loc := l.loc (va % 2 ^ 48) }, l) :: ps)
/-- The stretch of `n` bytes at a virtual address, checked as an access (R123, R149): its pieces, or what fails. -/
def spanAccess (s : State) (core : Nat) (k : Task) (va : DWord) (n : Nat) (trap : Leaf → Option Cause) :
    Except Access (List (Seg × Leaf)) :=
  if n = 0 then .ok []
  else if !canonical va || !canonical (va + BitVec.ofNat 64 (n - 1)) then .error (.trap .permission va)
  else pieces s core k trap (n / 2 ^ 16 + 2) va.toNat n
/-- The byte places of a stretch, from its pieces: where byte `i` of it stands. -/
def segLoc : List Seg → Nat → Option Loc
  | [], _ => none
  | g :: gs, i => if i < g.size then some { g.loc with pa := g.loc.pa + i } else segLoc gs (i - g.size)
/-- The places of a stretch at every home change: one for each 1,024 bytes. -/
def segLocs (gs : List Seg) : List Loc :=
  gs.flatMap (fun g => (List.range (g.size / 1024 + 2)).map (fun i =>
    { g.loc with pa := g.loc.pa + Nat.min (1024 * i) (g.size - 1) }))
/-- The bytes of a stretch as the homes hold them.  (DESIGN CHOICE, assumption 20) -/
def readSegs (s : State) (gs : List Seg) : List Byte := gs.flatMap (fun g => s.readLoc g.loc g.size)
/-- A core notes the translations of a stretch. -/
def noteSegs (s : State) (core space : Nat) (gs : List Seg) : State :=
  gs.foldl (fun s g => s.noteTlb core space (g.va % 2 ^ 48)) s

end Sys2Proof.Machine
end

