-- ==== Sys2Proof/Machine/Control.lean ====
section
/-!
DEFINITION. Control transfers, YIELD, EXIT, TRAP, BRK, XCONV and REP (R22, R23, R27, R51, R56, R57, R63, R102 to R105,
R108), and CLAUSE_HEADER_ISSUE.
-/
namespace Sys2Proof.Machine

/-- What CheckTarget gives, as a verdict (R57, R103). -/
def targetVerdict (s : State) (c : GCtx) (t : DWord) : Verdict :=
  match checkTarget s c.core c.task.space c.task.priv t with
  | .ok => .ok
  | .trap k a => .at k a
  | .miss m => .miss m .exec
/-- The place of a path that has taken a transfer: it is at a header (R43). -/
def Pos.target (t : DWord) : Pos := { pc := t, remain := 0, cls := .int, y := false, rep := none, repFrom := none }
/-- The target of a B-format word at `pc` (R56). -/
def branchTarget (pc : DWord) (disp : BitVec 19) : DWord := pc + (disp.signExtend 64 <<< 2)
/-- A transfer is backward when its target is at or below its own word (R23). -/
def backward (pc t : DWord) : Bool := BitVec.ule t pc
/-- The link: the address of the word after the transfer, in v62:v63 (R56). -/
def linkTo (pc : DWord) (th : Thread) : Thread := th.wr2 62#6 (pc + 4#64)
/-- Where the paths go after a transfer to one target, taken by `taken`, while `fall` goes on (R22, R23, R51). -/
def transferTo (c : GCtx) (t : DWord) (taken fall : List Nat) (s : State) : State :=
  let dest : Path := { c.path with lanes := taken, pos := Pos.target t, wait := .none }
  if taken.isEmpty then goOn c .none s
  else if fall.isEmpty then
    if backward c.path.pos.pc t || c.path.pos.y then parkRunning s c.gk c.core dest
    else releaseG (setRunning s c.gk (some dest)) c.core
  else if backward c.path.pos.pc t then
    releaseG (parkPath (parkPath (setRunning s c.gk none) c.gk { c.path with lanes := fall, pos := c.path.pos.next, wait := .none }) c.gk dest) c.core
  else goOn (c.keep fall) .none (parkPath s c.gk dest)
/-- A B-format transfer (R102): `taken` tests each thread, `link` says that it writes the link. -/
def branchOp (i : Instr) (disp : BitVec 19) (link : Bool) (taken : Thread → Bool) (s : State) : Out :=
  groupOp i
    (fun s c l => if taken (s.thread c.gk l) then targetVerdict s c (branchTarget c.path.pos.pc disp) else .ok) noHold
    (fun c lanes s =>
      let t := branchTarget c.path.pos.pc disp
      let go := lanes.filter (fun l => taken (s.thread c.gk l))
      let fall := lanes.filter (fun l => !taken (s.thread c.gk l))
      transferTo c t go fall (if link then s.onLanes c.gk go (fun _ th => linkTo c.path.pos.pc th) else s)) s

/-- BR (R102). -/
def execBr (s_ : BitVec 19) (s : State) : Out := branchOp (.br s_) s_ false (fun _ => true) s
/-- BRP (R102): taken when pk is 1. -/
def execBrp (p : BitVec 3) (s_ : BitVec 19) (s : State) : Out := branchOp (.brp p s_) s_ false (fun th => th.pred p) s
/-- BRN (R102): taken when pk is 0. -/
def execBrn (p : BitVec 3) (s_ : BitVec 19) (s : State) : Out := branchOp (.brn p s_) s_ false (fun th => !th.pred p) s
/-- BZ (R102): taken when v[a] is 0. -/
def execBz (a : BitVec 6) (x : Bool) (s_ : BitVec 19) (s : State) : Out :=
  branchOp (.bz a x s_) s_ false (fun th => th.rd a == 0#32) s
/-- BNZ (R102): taken when v[a] is not 0. -/
def execBnz (a : BitVec 6) (x : Bool) (s_ : BitVec 19) (s : State) : Out :=
  branchOp (.bnz a x s_) s_ false (fun th => th.rd a != 0#32) s
/-- CALL (R102): always, with the link. -/
def execCall (s_ : BitVec 19) (s : State) : Out := branchOp (.call s_) s_ true (fun _ => true) s
/-- CALLP (R102): with the link, when pk is 1. -/
def execCallp (p : BitVec 3) (s_ : BitVec 19) (s : State) : Out := branchOp (.callp p s_) s_ true (fun th => th.pred p) s

/-- Put a number into an ascending list without repeats. -/
def insertAsc (n : Nat) : List Nat → List Nat
  | [] => [n]
  | m :: l => if n < m then n :: m :: l else if n = m then m :: l else m :: insertAsc n l
/-- The distinct targets of a set, ascending (R105). -/
def targetsOf (ts : List (Nat × DWord)) : List Nat := ts.foldl (fun r t => insertAsc t.2.toNat r) []
/-- The parts of a set after a register transfer, by ascending target (R105). -/
def partsOf (c : GCtx) (ts : List (Nat × DWord)) : List Path :=
  (targetsOf ts).map (fun t =>
    { c.path with
      lanes := (ts.filter (fun x => x.2.toNat = t)).map Prod.fst, pos := Pos.target (BitVec.ofNat 64 t), wait := .none })
/-- Where the paths go after JR, JRL or RET (R105). -/
def transferEach (c : GCtx) (ts : List (Nat × DWord)) (s : State) : State :=
  match partsOf c ts with
  | [] => s
  | p :: ps =>
    if ts.any (fun t => backward c.path.pos.pc t.2) || c.path.pos.y then
      releaseG ((p :: ps).foldl (fun s q => parkPath s c.gk q) (setRunning s c.gk none)) c.core
    else releaseG (ps.foldl (fun s q => parkPath s c.gk q) (setRunning s c.gk (some p))) c.core
/-- JR, JRL and RET (R104, R105): the target is the pair of a field. -/
def jumpOp (i : Instr) (a : BitVec 6) (link : Bool) (s : State) : Out :=
  groupOp i (fun s c l => targetVerdict s c ((s.thread c.gk l).rd2 a)) noHold
    (fun c lanes s =>
      transferEach c (lanes.map (fun l => (l, (s.thread c.gk l).rd2 a)))
        (if link then s.onLanes c.gk lanes (fun _ th => linkTo c.path.pos.pc th) else s)) s
/-- JR (R104). -/
def execJr (a : BitVec 6) (x : Bool) (s : State) : Out := jumpOp (.jr a x) a false s
/-- JRL (R104): the link is written after the pair is read. -/
def execJrl (a : BitVec 6) (x : Bool) (s : State) : Out := jumpOp (.jrl a x) a true s
/-- RET (R104): the target is v62:v63. -/
def execRet (s : State) : Out := jumpOp .ret 62#6 false s
/-- YIELD (R104): a switch point. -/
def execYield (s : State) : Out := groupOp .yield noCheck noHold (fun c _ s => goSwitch c s) s
/-- EXIT (R104): the threads exit (R36, R38). -/
def execExit (s : State) : Out :=
  groupOp .exit noCheck noHold
    (fun c lanes s => exitLanes (releaseG (setRunning s c.gk none) c.core) c.gk lanes) s
/-- A trap that is the effect of its instruction (R92, R104): it is charged, its record names the word with the code
`n`, and the word after it is where RFT resumes. -/
def raiseOp (i : Instr) (cause : Cause) (n : BitVec 6) (after : GCtx → State → State) (s : State) : Out :=
  groupOp i noCheck noHold
    (fun c lanes s =>
      let ts := lanes.map (fun l => (l, { cause := cause, code := n.toNat, addr := 0#64 : TrapInfo }))
      let p := { c.path.pos with pc := c.path.pos.pc + 4#64, remain := c.path.pos.remain - 1 }
      let bad := unhandled c ts s
      let s := trapLanes c (wordOf i) p p.pc ts (releaseG (setRunning s c.gk none) c.core)
      after c (sysTrap c (wordOf i) p bad s)) s
/-- TRAP (R104). -/
def execTrap (n : BitVec 6) (s : State) : Out := raiseOp (.trap n) .trap n (fun _ s => s) s
/-- A debugger is attached to a queue of a task (R340). -/
def debuggerOn (s : State) (task : Nat) : Bool := (queuesOf s (treeFuel s + 1) task).any (fun q => (s.queue q).debugger)
/-- BRK (R104, R340): with a debugger attached the group halts before the handler's first instruction. -/
def execBrk (n : BitVec 6) (s : State) : Out :=
  raiseOp (.brk n) .brk n
    (fun c s => if debuggerOn s c.team.task then s.modGroup c.gk (fun g => { g with halted := true }) else s) s
/-- XCONV (R27): the path waits until every live thread of the group stands there. -/
def execXconv (s : State) : Out :=
  groupOp .xconv noCheck noHold (fun c _ s => convergeAt (goOn c (.xconv c.path.pos.pc) s) c.gk) s

/-- The checks of REP on the word after it (R63, R109). -/
def repCheck (count : Nat) (step stride : BitVec 3) (s : State) (c : GCtx) (_ : Nat) : Verdict :=
  if c.path.pos.remain < 2 then .of .illegalOp
  else
    match fetch s c.core c.task.space c.task.priv (c.path.pos.pc + 4#64) with
    | .miss m => .miss m .exec
    | .denied => .at .permission (c.path.pos.pc + 4#64)
    | .word w => if repOk w count step stride then .ok else .of .illegalOp
/-- REP (R108): the word after it executes `c` + 1 times; an RFT goes on with the execution that its record names. -/
def execRep (c : BitVec 6) (s_ : BitVec 3) (t : BitVec 3) (s : State) : Out :=
  groupOp (.rep c s_ t) (repCheck (c.toNat + 1) s_ t) noHold
    (fun g _ s =>
      let j := g.path.pos.repFrom.getD 0
      if j ≤ c.toNat then
        setRunning s g.gk (some { g.path with pos := { g.path.pos with
          rep := some { j := j, count := c.toNat + 1, step := s_, stride := t }, repFrom := none } })
      else
        goOn { g with path := { g.path with pos := { g.path.pos with
          rep := some { j := j, count := 0, step := s_, stride := t } } } } .none s) s

/-- CLAUSE_HEADER_ISSUE (R50): the running path, or the lead, is at a header. -/
def execClauseHeaderIssue (s : State) : Out :=
  match gctx s with
  | some c => if c.path.pos.remain = 0 then .next (groupHeader c s) else .refused .notEnabled
  | none =>
    match lctx s with
    | some c => if c.team.lead.remain = 0 then .next (leadHeader c s) else .refused .notEnabled
    | none => .refused .notEnabled

end Sys2Proof.Machine
end

