-- ==== Sys2Proof/Machine/Special.lean ====
section
/-!
DEFINITION. Index registers and e-space (R106, R107), special registers (R111 to R113), the decision queue's QGET
(R33 to R35, R114), and the SYS instructions (R345 to R350).
-/
namespace Sys2Proof.Machine

/-- An instruction whose effect on a thread depends on the state, the set and the lane. -/
def laneOp (i : Instr) (chk : State → GCtx → Nat → Verdict) (f : State → GCtx → Nat → Thread → Thread) (s : State) : Out :=
  groupOp i chk noHold (fun c lanes s => goOn c .none (s.onLanes c.gk lanes (f s c))) s

/-! ## Index registers -/

/-- A trap INDEX_BOUNDS with the number of the index register (R343). -/
def boundsTrap (k : Nat) : Verdict := .trap { cause := .indexBounds, code := k, addr := 0#64 }
/-- Set an index register. -/
def Thread.setX (th : Thread) (k : Nat) (base limit : Word) : Thread :=
  { th with xb := th.xb.set k base 0#32, xl := th.xl.set k limit 0#32 }
/-- E, the number of e-space registers of a team's threads (R106). -/
def Team.espace (t : Team) : Nat := t.regs - 64
/-- XSET (R106): the sum of base and limit must not exceed E. -/
def execXset (k : BitVec 2) (a b : BitVec 6) (x y : Bool) (s : State) : Out :=
  laneOp (.xset k a b x y)
    (fun s c l => let th := s.thread c.gk l
      if (th.rd a).toNat + (th.rd b).toNat > c.team.espace then boundsTrap k.toNat else .ok)
    (fun _ _ _ th => th.setX k.toNat (th.rd a) (th.rd b)) s
/-- The check of RDX and WRX (R106). -/
def indexCheck (k : BitVec 2) (b : BitVec 6) (s : State) (c : GCtx) (l : Nat) : Verdict :=
  let th := s.thread c.gk l
  if (th.xl.get k.toNat 0#32).toNat ≤ (th.rd b).toNat then boundsTrap k.toNat else .ok
/-- The e-space register that RDX and WRX reach. -/
def Thread.eIndex (th : Thread) (k : BitVec 2) (b : BitVec 6) : Nat := (th.xb.get k.toNat 0#32).toNat + (th.rd b).toNat
/-- RDX (R106, R107). -/
def execRdx (d : BitVec 6) (k : BitVec 2) (b : BitVec 6) (y : Bool) (s : State) : Out :=
  laneOp (.rdx d k b y) (indexCheck k b) (fun _ _ _ th => th.wr d (th.e.get (th.eIndex k b) 0#32)) s
/-- WRX (R106, R107). -/
def execWrx (k : BitVec 2) (a b : BitVec 6) (x y : Bool) (s : State) : Out :=
  laneOp (.wrx k a b x y) (indexCheck k b)
    (fun _ _ _ th => { th with e := th.e.set (th.eIndex k b) (th.rd a) 0#32 }) s

/-! ## Special registers -/

/-- The balance of the lease from which a core's charges for a task are taken (R111: LEASE). -/
def leaseOf (s : State) (core task : Nat) : Nat :=
  match s.leases.find (leaseKey core task) with
  | some l => l.bal
  | none => 0
/-- The specials that groups and leads both read (R111, R12): all but TIME and TIMEH. -/
def sharedSpecial (s : State) (t : Team) (task : Task) (n : Nat) : Word :=
  if n = 0x02 then 64#32 else if n = 0x05 then BitVec.ofNat 32 t.index
  else if n = 0x06 then BitVec.ofNat 32 (t.core % 96) else if n = 0x07 then BitVec.ofNat 32 (t.core % 96 / 4)
  else if n = 0x08 then BitVec.ofNat 32 (dieOf t.core) else if n = 0x09 then BitVec.ofNat 32 t.ngroups
  else if n = 0x0A then BitVec.ofNat 32 task.teams else if n = 0x0B then BitVec.ofNat 32 t.regs
  else if n = 0x12 then task.handle t.task else if n = 0x13 then t.partw
  else if n = 0x14 then BitVec.ofNat 32 (leaseOf s t.core t.task)
  else if n = 0x15 then (s.core t.core).spare else 0#32
/-- The value of a special in a thread (R111, R112, R12). -/
def special (s : State) (c : GCtx) (l n : Nat) (th : Thread) : Word :=
  if n = 0x00 then BitVec.ofNat 32 l else if n = 0x01 then BitVec.ofNat 32 (c.gk % 8)
  else if n = 0x03 then BitVec.ofNat 32 c.group.gid else if n = 0x04 then BitVec.ofNat 32 (c.group.gid * 64 + l)
  else if n = 0x10 then s.time.extractLsb' 0 32 else if n = 0x11 then th.timeh.zeroExtend 32
  else if n = 0x16 then th.qrd.zeroExtend 32 else if n = 0x17 then (BitVec.ofBool th.trapMode).zeroExtend 32
  else sharedSpecial s c.team c.task n
/-- SRD (R111): a read of TIME latches bits 47:32 for TIMEH (R112). -/
def execSrd (d : BitVec 6) (n : BitVec 8) (s : State) : Out :=
  laneOp (.srd d n) noCheck
    (fun s c l th =>
      let th := th.wr d (special s c l n.toNat th)
      if n = 0x10#8 then { th with timeh := s.time.extractLsb' 32 16 } else th) s

/-! ## The decision queue -/

/-- Entry `n` of a team's decision queue, while it is held (R33). -/
def Team.entry (t : Team) (n : BitVec 16) : Option DWord := t.dq[(n - t.dqFirst).toNat]?
/-- Entry `n` has not been made (R35): it is not before QSENT in the window of held entries. -/
def Team.unmade (t : Team) (n : BitVec 16) : Bool := t.dq.length ≤ (n - t.dqFirst).toNat
/-- Every live thread of a team has read the entry `n` (R33). -/
def entryRead (s : State) (tk : Nat) (n : BitVec 16) : Bool :=
  (groupsOf s tk).all (fun e => (liveLanes s e.1).all (fun l =>
    let th := s.thread e.1 l
    th.qrd != n && !th.qpend.any (fun q => q.2 == n)))
/-- Release the oldest entries that every live thread has read (R33, R38). -/
def releaseEntries (s : State) (tk : Nat) : Nat → State
  | 0 => s
  | fuel + 1 =>
    match s.teams.find tk with
    | none => s
    | some t =>
      match t.dq with
      | [] => s
      | _ :: rest =>
        if entryRead s tk t.dqFirst then
          releaseEntries (s.modTeam tk (fun t => { t with dq := rest, dqFirst := t.dqFirst + 1#16 })) tk fuel
        else s
/-- The entries of a team's queue that are held (R33). -/
def State.dqRelease (s : State) (tk : Nat) : State := releaseEntries s tk 64
/-- QGET in one thread (R114): the pair is empty and awaits the thread's next entry; it is closed when the producer is
gone and the entry was never made (R35). -/
def qgetThread (t : Team) (d : BitVec 6) (th : Thread) : Thread :=
  let r := th.ix d
  let n := th.qrd
  if !t.producer && t.unmade n then
    { (th.close r .qClosed 0#32).close (r + 1) .qClosed 0#32 with qrd := n + 1#16 }
  else
    { (th.markEmpty r).markEmpty (r + 1) with qrd := n + 1#16, qpend := th.qpend ++ [(r, n)] }
/-- A thread that awaits its next entry awaits it in program order (R34, R253). -/
def qgetEdge (c : GCtx) (l : Nat) (s : State) : State :=
  let th := s.thread c.gk l
  if !c.team.producer && c.team.unmade th.qrd then s
  else
    ({ s with nextId := s.nextId + 1 } : State).addEdge th.ops (.thread c.team.uid c.group.gid l) c.team.task (dieOf c.core) s.nextId true
/-- QGET (R114). -/
def execQget (d : BitVec 6) (s : State) : Out :=
  groupOp (.qget d) noCheck noHold
    (fun c lanes s =>
      goOn c .none ((lanes.foldl (fun s l => qgetEdge c l s) s).onLanes c.gk lanes (fun _ th => qgetThread c.team d th))) s
/-- The team of the group of a thread key. -/
def teamOfThread (s : State) (key : Nat) : Option (Nat × Team) :=
  match s.groups.find (key / 64) with
  | some g => match s.teams.find g.team with
    | some t => some (g.team, t)
    | none => none
  | none => none
/-- A pair fills with the entry that it awaits (R114), from the clk after the one that made it (R115); what the lead knew comes with it
(R34). -/
def fillPair (thread : Nat) (s : State) : Option State :=
  match s.threads.find thread, teamOfThread s thread with
  | some th, some t =>
    match th.qpend with
    | [] => none
    | q :: rest =>
      match t.2.entry q.2 with
      | none => none
      | some v =>
        if s.fresh.entries.contains (t.2.uid, q.2) then none
        else
          let fill : Thread → Thread := fun th =>
            { (th.setReg q.1 (v.extractLsb' 0 32)).setReg (q.1 + 1) (v.extractLsb' 32 32) with qpend := rest }
          some (((s.modThread thread fill).dqRelease t.1).gotEdge th.ops MemOp.awaitsEntry (s.node (dieOf t.2.core)).k)
  | _, _ => none

/-! ## SYS -/

/-- PERMISSION outside trap mode (R345). -/
def trapModeOnly (s : State) (c : GCtx) (l : Nat) : Verdict :=
  if (s.thread c.gk l).trapMode then .ok else .of .permission
/-- The full/empty bits of 32 registers (R346). -/
def Thread.feWord (th : Thread) (base : Nat) : Word :=
  (List.range 32).foldl (fun w k => setBit w k (!th.empty.has (base + k))) 0#32
/-- The value of a control and status register (R346). -/
def Thread.csr (th : Thread) (n : Nat) : Word :=
  if n = 0 then th.traps else if n = 1 then th.waitb.zeroExtend 32
  else if n = 2 then th.feWord 0 else if n = 3 then th.feWord 32
  else if n < 0x018 then (if n % 2 = 0 then th.xb.get ((n - 0x010) / 2) 0#32 else th.xl.get ((n - 0x010) / 2) 0#32)
  else th.reg (n - 0x038 + 56)
/-- CSRR (R346). -/
def execCsrr (d h l : BitVec 6) (s : State) : Out :=
  laneOp (.csrr d h l)
    (fun s c k => if 0x038 ≤ num12 h l && !(s.thread c.gk k).trapMode then .of .permission else .ok)
    (fun _ _ _ th => th.wr d (th.csr (num12 h l))) s
/-- A write of an index register as CSRW makes it: base or limit, checked as XSET (R346). -/
def csrwBounds (t : Team) (th : Thread) (n : Nat) (w : Word) : Bool :=
  let k := (n - 0x010) / 2
  if n % 2 = 0 then w.toNat + (th.xl.get k 0#32).toNat ≤ t.espace else (th.xb.get k 0#32).toNat + w.toNat ≤ t.espace
/-- The effect of CSRW; a write of a read-only register is ignored (R5, R346). -/
def Thread.csrWrite (th : Thread) (n : Nat) (w : Word) : Thread :=
  if n = 1 then { th with waitb := w.extractLsb' 0 16 }
  else if n < 0x010 then th
  else if n < 0x018 then
    (if n % 2 = 0 then th.setX ((n - 0x010) / 2) w (th.xl.get ((n - 0x010) / 2) 0#32)
     else th.setX ((n - 0x010) / 2) (th.xb.get ((n - 0x010) / 2) 0#32) w)
  else th.setReg (n - 0x038 + 56) w
/-- CSRW (R346). -/
def execCsrw (d h l : BitVec 6) (s : State) : Out :=
  laneOp (.csrw d h l)
    (fun s c k =>
      let th := s.thread c.gk k
      if !th.trapMode then .of .permission
      else if 0x010 ≤ num12 h l && num12 h l < 0x018 && !csrwBounds c.team th (num12 h l) (th.rd d) then
        boundsTrap ((num12 h l - 0x010) / 2)
      else .ok)
    (fun _ _ _ th => th.csrWrite (num12 h l) (th.rd d)) s

/-- The fields of t0 that RFT reads (R343): CLASS, REMAIN, Y, CGEN, REPV, REPJ. -/
def t0Cls (t0 : Word) : Option Cls := Cls.ofCode (t0.extractLsb' 25 3)
/-- REMAIN. -/
def t0Remain (t0 : Word) : Nat := (t0.extractLsb' 21 4).toNat
/-- The place at which RFT resumes a thread (R347). -/
def Thread.resumeAt (th : Thread) : Pos :=
  let t0 := th.t.get 0 0#32
  { pc := th.t.get 3 0#32 ++ th.t.get 2 0#32, remain := t0Remain t0,
    cls := if t0Remain t0 = 0 then .int else (t0Cls t0).getD .int, y := t0Remain t0 != 0 && t0.getLsbD 29, rep := Option.none,
    repFrom := if t0.getLsbD 20 && t0Remain t0 != 0 then some (t0.extractLsb' 14 6).toNat else Option.none }
/-- The checks of RFT in order (R347). -/
def rftCheck (s : State) (c : GCtx) (l : Nat) : Verdict :=
  let th := s.thread c.gk l
  let t0 := th.t.get 0 0#32
  let p := th.resumeAt
  if !th.trapMode then .of .permission
  else if t0.extractLsb' 30 2 ≠ 0#2 || !(match t0Cls t0 with | some k => k.group | none => false) then .of .illegalOp
  else if !canonical p.pc || p.pc.toNat % 4 ≠ 0 then .of .branchTarget
  else if p.remain = 0 then targetVerdict s c p.pc
  else .ok
/-- A thread leaves trap mode (R347). -/
def Thread.rft (th : Thread) : Thread :=
  { th with
    trapMode := false,
    gen := if t0Remain (th.t.get 0 0#32) = 0 then th.gen else (th.t.get 0 0#32).getLsbD 28 }
/-- Divide lanes by where they resume, in ascending order of the lowest lane. -/
def partsAt (s : State) (gk : Nat) : Nat → List Nat → List (Pos × List Nat)
  | 0, _ => []
  | _, [] => []
  | fuel + 1, l :: ls =>
    let p := (s.thread gk l).resumeAt
    let same := (l :: ls).filter (fun k => (s.thread gk k).resumeAt == p)
    (p, same) :: partsAt s gk fuel ((l :: ls).filter (fun k => (s.thread gk k).resumeAt != p))
/-- RFT (R347): returning from a trap.  Threads that resume at different places form paths of their own. -/
def execRft (s : State) : Out :=
  groupOp .rft rftCheck noHold
    (fun c lanes s =>
      let parts := partsAt s c.gk 64 lanes
      let s := s.onLanes c.gk lanes (fun _ th => th.rft)
      let path : Pos × List Nat → Path := fun x => { park := 0, lanes := x.2, pos := x.1, wait := .none }
      match parts with
      | [] => s
      | x :: xs =>
        let s := if c.path.pos.y then parkPath (setRunning s c.gk none) c.gk (path x) else setRunning s c.gk (some (path x))
        releaseG (xs.foldl (fun s q => parkPath s c.gk (path q)) s) c.core) s
/-- TLBI (R348): the core drops its cached translations of the page in the thread's address space, the global ones that serve it
included. -/
def execTlbi (a : BitVec 6) (x : Bool) (s : State) : Out :=
  groupOp (.tlbi a x) trapModeOnly noHold
    (fun c lanes s =>
      let vas := lanes.map (fun l => va48 ((s.thread c.gk l).rd2 a))
      goOn c .none (s.modCore c.core (fun k =>
        { k with cached := k.cached.filter (fun e => !((e.space == c.task.space || e.leaf.glob)
            && vas.any (fun v => e.page * 2 ^ 16 / e.leaf.size == v / e.leaf.size))) }))) s
/-- HALT (R349): the group halts as for a debugger, and Ling receives the threads' trap records.  (DEDUCED, assumption 48) -/
def execHalt (s : State) : Out :=
  groupOp .halt trapModeOnly noHold
    (fun c lanes s =>
      let record : Nat → List Byte := fun l =>
        (List.range 8).flatMap (fun k => bytesOfNat 4 ((s.thread c.gk l).t.get k 0#32).toNat)
      let s := s.modPlat (fun p => { p with halts := p.halts ++ lanes.map (fun l => (c.team.task, record l)) })
      goOn c .none (s.modGroup c.gk (fun g => { g with halted := true }))) s
/-- SLEEP (R350): the path waits until the longest of its threads' waits is over, and it is a switch point. -/
def execSleep (a : BitVec 6) (x : Bool) (s : State) : Out :=
  groupOp (.sleep a x) noCheck noHold
    (fun c lanes s =>
      let n := lanes.foldl (fun m l => Nat.max m ((s.thread c.gk l).rd a).toNat) 0
      goOn c (.sleep (s.time.toNat + n)) s) s
/-- SLEEP_EXPIRY (R350): the wait of the group's sleeping paths whose time has come is over. -/
def execSleepExpiry (group : Nat) (s : State) : Out :=
  match s.groups.find group with
  | none => .refused .notEnabled
  | some g =>
    let done : Path → Bool := fun p => match p.wait with
      | .sleep t => (s.time - BitVec.ofNat 48 t).toNat < 2 ^ 47
      | .none | .barw _ _ | .xconv _ | .fence _ _ | .answers _ _ _ _ => false
    if g.parked.any done then
      let wake : Path → Path := fun p => if done p then { p with wait := .none } else p
      .next (s.modGroup group (fun g => { g with parked := g.parked.map wake }))
    else .refused .notEnabled

end Sys2Proof.Machine
end

