-- ==== Sys2Proof/Machine/Mem.lean ====
section
/-!
DEFINITION. Loads and stores (R120, R122 to R126), LDF (R204), LDACC (R214), the atomics (R130, R265, R266), FENCE (R264)
and the arrival of long-latency results (R16).
-/
namespace Sys2Proof.Machine

/-! ## LD and ST -/

/-- The address of LD, ST (R122) and, with their own unit, LDF. -/
def Thread.globalAddr (th : Thread) (a : BitVec 6) (o : BitVec 10) (n : Nat) : DWord :=
  th.rd2 a + o.signExtend 64 * BitVec.ofNat 64 n
/-- The checks of LD (R122, R123). -/
def ldCheck (a : BitVec 6) (z : Size) (o : BitVec 10) (s : State) (c : GCtx) (l : Nat) : Verdict :=
  (alignedAccess s c.core c.task ((s.thread c.gk l).globalAddr a o (sizeBytes z)) (sizeBytes z) .read
    (ioKind (sizeBytes z)) true true).verdict .read
/-- The effect of LD in one lane. -/
def ldLane (d a : BitVec 6) (z : Size) (o : BitVec 10) (c : GCtx) (l : Nat) (s : State) : State :=
  let th := s.thread c.gk l
  let va := th.globalAddr a o (sizeBytes z)
  match placeOf s c.core c.task.space va with
  | some loc =>
    threadLoad c l loc (sizeBytes z) (.size z) (th.ixs d (loadRegs z)) (s.noteTlb c.core c.task.space (va48 va))
  | none => s
/-- LD (R122). -/
def execLd (d a : BitVec 6) (x : Bool) (z : Size) (o : BitVec 10) (s : State) : Out :=
  groupOp (.ld d a x z o) (ldCheck a z o) holdLoad
    (fun c lanes s => goOn c .none (eachLane (ldLane d a z o c) lanes s)) s
/-- The checks of ST (R122, R123). -/
def stCheck (a : BitVec 6) (z : Size) (o : BitVec 10) (s : State) (c : GCtx) (l : Nat) : Verdict :=
  (alignedAccess s c.core c.task ((s.thread c.gk l).globalAddr a o (sizeBytes z)) (sizeBytes z) .write
    (ioKind (sizeBytes z)) false true).verdict .write
/-- The bytes that a store of size `z` sends (R122). -/
def Thread.storeBytes (th : Thread) (d : BitVec 6) (z : Size) : List Byte :=
  (wordsBytes (th.rdN d (storeRegs z))).take (sizeBytes z)
/-- The effect of ST in one lane. -/
def stLane (d a : BitVec 6) (z : Size) (o : BitVec 10) (c : GCtx) (l : Nat) (s : State) : State :=
  let th := s.thread c.gk l
  let va := th.globalAddr a o (sizeBytes z)
  match placeOf s c.core c.task.space va with
  | some loc =>
    threadAccess c l loc (sizeBytes z) (.store (th.storeBytes d z)) (s.noteTlb c.core c.task.space (va48 va))
  | none => s
/-- ST (R122). -/
def execSt (d a : BitVec 6) (x : Bool) (z : Size) (o : BitVec 10) (s : State) : Out :=
  groupOp (.st d a x z o) (stCheck a z o) holdStore
    (fun c lanes s => goOn c .none (eachLane (stLane d a z o c) lanes s)) s

/-! ## Scratchpad and quad pool -/

/-- The address of LDS, STS, LDQ and STQ (R122). -/
def Thread.localAddr (th : Thread) (a : BitVec 6) (o : BitVec 10) (n : Nat) : Nat :=
  (th.rd a + o.signExtend 32 * BitVec.ofNat 32 n).toNat
/-- The limit and alignment checks of an access to a space of `limit` bytes (R122). -/
def localCheck (limit addr n : Nat) : Verdict :=
  if addr + n > limit then .at .permission (BitVec.ofNat 64 addr)
  else if addr % n ≠ 0 then .at .align (BitVec.ofNat 64 addr)
  else .ok
/-- The checks of a scratchpad access, with the presence of its line (R122, R126). -/
def spadCheck (t : Team) (addr n : Nat) : Verdict :=
  match localCheck t.spadLimit addr n with
  | .ok => if t.lineAbsent addr then .absent else .ok
  | v => v
/-- Bytes of the task's quad pool (R121, R129). -/
def Team.quadLimit (t : Team) : Nat := t.quadg * Config.granule
/-- The key of byte 0 of a task's quad pool on a quad. -/
def quadBase (task quad : Nat) : Nat := 2 ^ 23 * (192 * task + quad)

/-- What LDS finds in one lane is noted. -/
def ldsSee (a : BitVec 6) (z : Size) (o : BitVec 10) (c : GCtx) (l : Nat) (s : State) : State :=
  let th := s.thread c.gk l
  let at_ := th.localAddr a o (sizeBytes z)
  s.see th.ops (.spad c.team.uid at_ (c.team.spadBytes at_ (sizeBytes z)))
/-- What LDQ finds in one lane is noted. -/
def ldqSee (a : BitVec 6) (z : Size) (o : BitVec 10) (c : GCtx) (l : Nat) (s : State) : State :=
  let th := s.thread c.gk l
  let at_ := quadBase c.team.task (quadOf c.core) + th.localAddr a o (sizeBytes z)
  s.see th.ops (.pool at_ (SMap.bytes s.quadPool at_ (sizeBytes z)))
/-- LDS (R122): each load returns what the location held before the issue (R124). -/
def execLds (d a : BitVec 6) (x : Bool) (z : Size) (o : BitVec 10) (s : State) : Out :=
  groupOp (.lds d a x z o)
    (fun s c l => spadCheck c.team ((s.thread c.gk l).localAddr a o (sizeBytes z)) (sizeBytes z)) (fun s c => holdRead s c || holdSends s c)
    (fun c lanes s => goOn c .none ((eachLane (ldsSee a z o c) lanes s).onLanes c.gk lanes (fun _ th =>
      th.await 0 (th.ixs d (loadRegs z)) (some (sizeWords z (c.team.spadBytes (th.localAddr a o (sizeBytes z)) (sizeBytes z))))))) s
/-- STS (R122). -/
def execSts (d a : BitVec 6) (x : Bool) (z : Size) (o : BitVec 10) (s : State) : Out :=
  groupOp (.sts d a x z o)
    (fun s c l => spadCheck c.team ((s.thread c.gk l).localAddr a o (sizeBytes z)) (sizeBytes z)) (fun s c => holdWrite s c || holdSends s c)
    (fun c lanes s => goOn c .none (eachLane (fun l s =>
      let th := s.thread c.gk l
      s.modTeam c.tk (fun t => t.setSpad (th.localAddr a o (sizeBytes z)) (th.storeBytes d z))) lanes s)) s
/-- LDQ (R122). -/
def execLdq (d a : BitVec 6) (x : Bool) (z : Size) (o : BitVec 10) (s : State) : Out :=
  groupOp (.ldq d a x z o)
    (fun s c l => localCheck c.team.quadLimit ((s.thread c.gk l).localAddr a o (sizeBytes z)) (sizeBytes z)) holdRead
    (fun c lanes s =>
      let base := quadBase c.team.task (quadOf c.core)
      goOn c .none ((eachLane (ldqSee a z o c) lanes s).onLanes c.gk lanes (fun _ th =>
        th.await 0 (th.ixs d (loadRegs z))
          (some (sizeWords z (SMap.bytes s.quadPool (base + th.localAddr a o (sizeBytes z)) (sizeBytes z))))))) s
/-- STQ (R122). -/
def execStq (d a : BitVec 6) (x : Bool) (z : Size) (o : BitVec 10) (s : State) : Out :=
  groupOp (.stq d a x z o)
    (fun s c l => localCheck c.team.quadLimit ((s.thread c.gk l).localAddr a o (sizeBytes z)) (sizeBytes z)) holdWrite
    (fun c lanes s =>
      let base := quadBase c.team.task (quadOf c.core)
      goOn c .none (eachLane (fun l s =>
        let th := s.thread c.gk l
        { s with quadPool := SMap.setBytes s.quadPool (base + th.localAddr a o (sizeBytes z)) (th.storeBytes d z) }) lanes s)) s

/-! ## LDF and LDACC -/

/-- Bytes of an element of a format, if it is one that decodes (R168, R169). -/
def elemBytes (fmt : Nat) : Option Nat := if fmt = 0 || 8 ≤ fmt then none else some (fmtBytes fmt)
/-- Where the scale byte of an element stands (R175).  (DEDUCED, assumption 24) -/
def scaleLoc (l : Leaf) (va : Nat) : Loc :=
  { kind := l.scaleKind, pa := l.scalePa + va % l.size / fmtBytes l.fmt / 32, pub := 0 }
/-- The scale S of the element at an address (R175). -/
def scaleAt (s : State) (l : Leaf) (va : Nat) : Nat :=
  if l.geo = 0 then 127 else if l.geo = 1 then l.pscale else natOfBytes (s.readLoc (scaleLoc l va) 1)
/-- The measurement of a task's code, if it has a code object (R365). -/
def measOf (s : State) (codeid : Nat) : Option (BitVec 512) :=
  match s.plat.codeObjs.find codeid with
  | some c => some c.meas
  | none => none
/-- The policy of a region lists the measurement of a task's code (R366). -/
def regionAllows (s : State) (region codeid : Nat) : Bool :=
  region == 0 || match s.plat.policies.find region, measOf s codeid with
    | some p, some m => p.meas.contains m
    | _, _ => false
/-- A counter of a region rises, and stays at 2^64 - 1 when it would pass it (R364). -/
def countUp (c : DWord) (n : Nat) : DWord := BitVec.ofNat 64 (Nat.min (c.toNat + n) (2 ^ 64 - 1))
/-- Add to the decoded-byte count of a region (R364). -/
def addDecb (s : State) (region n : Nat) : State :=
  if region = 0 then s
  else s.modPlat (fun p => { p with decb := SMap.set p.decb region (countUp (p.decb.get region 0#64) n) 0#64 })
/-- Add to the MAC count of a region (R364). -/
def addMacs (s : State) (region n : Nat) : State :=
  if region = 0 then s
  else s.modPlat (fun p => { p with macs := SMap.set p.macs region (countUp (p.macs.get region 0#64) n) 0#64 })

/-- The leaf of the page of an address. -/
def leafAt (s : State) (core space : Nat) (va : DWord) : Option Leaf :=
  match lookup s core space (va48 va) with
  | .ok l => some l
  | .error _ => none
/-- The address of LDF: the page of the base scales the offset (R204). -/
def ldfAddr (base : DWord) (o : BitVec 10) (m fmt : Nat) : DWord := base + o.signExtend 64 * BitVec.ofNat 64 (m * fmtBytes fmt)
/-- The scale bytes that LDF reads. -/
def ldfScales (a : BitVec 6) (z : Size) (o : BitVec 10) (s : State) (c : GCtx) : List Loc :=
  c.path.lanes.filterMap (fun l =>
    let base := (s.thread c.gk l).rd2 a
    match leafAt s c.core c.task.space base with
    | none => none
    | some b =>
      let va := ldfAddr base o (ldfCount z) b.fmt
      match leafAt s c.core c.task.space va with
      | some p => if p.geo = 2 then some (scaleLoc p (va48 va)) else none
      | none => none)
/-- LDF must wait before it reads a scale byte: for its threads' earlier loads, and for the byte to be readable (R254, R280). -/
def ldfWait (a : BitVec 6) (z : Size) (o : BitVec 10) (s : State) (c : GCtx) : Bool :=
  !(ldfScales a z o s c).isEmpty && (!allQuiet s c || !readable s (dieOf c.core) (ldfScales a z o s c))
/-- The checks of LDF at the address, after those of its base (R204); `wait` says that no scale byte is read yet. -/
def ldfTail (s : State) (c : GCtx) (fmt m : Nat) (va : DWord) (wait : Bool) : Verdict :=
  match alignedAccess s c.core c.task va (m * fmtBytes fmt) .read memKind true false with
  | .ok l =>
    if l.fmt ≠ fmt || 3 ≤ l.geo then .at .format va
    else if !regionAllows s l.region c.task.codeid then .at .regionDenied va
    else if !(wait && l.geo == 2) && scaleAt s l (va48 va) == 255 then .at .format va
    else .ok
  | v => v.verdict .read
/-- The checks of LDF in order (R204).  (DEDUCED, assumption 24) -/
def ldfCheck (a : BitVec 6) (z : Size) (o : BitVec 10) (s : State) (c : GCtx) (l : Nat) : Verdict :=
  let base := (s.thread c.gk l).rd2 a
  if !canonical base then .at .permission base
  else
    match lookup s c.core c.task.space (va48 base) with
    | .error m => .miss m .read
    | .ok b =>
      if (elemBytes b.fmt).isNone then .at (if b.kind = 3 then .permission else .format) base
      else ldfTail s c b.fmt (ldfCount z) (ldfAddr base o (ldfCount z) b.fmt) (ldfWait a z o s c)
/-- The effect of LDF in one lane (R204, R364). -/
def ldfLane (d a : BitVec 6) (z : Size) (o : BitVec 10) (c : GCtx) (l : Nat) (s : State) : State :=
  let th := s.thread c.gk l
  let base := th.rd2 a
  match leafAt s c.core c.task.space base with
  | none => s
  | some b =>
    let va := ldfAddr base o (ldfCount z) b.fmt
    match leafAt s c.core c.task.space va with
    | none => s
    | some p =>
      let n := ldfCount z * fmtBytes b.fmt
      let s := addDecb ((s.noteTlb c.core c.task.space (va48 base)).noteTlb c.core c.task.space (va48 va)) p.region n
      threadLoad c l (p.loc (va48 va)) n (.elems b.fmt (scaleAt s p (va48 va)) (ldfCount z)) (th.ixs d (ldfCount z)) s
/-- LDF (R204). -/
def execLdf (d a : BitVec 6) (x : Bool) (z : Size) (o : BitVec 10) (s : State) : Out :=
  groupOp (.ldf d a x z o) (ldfCheck a z o)
    (fun s c => holdLoad s c || ldfWait a z o s c)
    (fun c lanes s =>
      goOn c .none ((eachLane (ldfLane d a z o c) lanes s).absorb (dieOf c.core) (ldfScales a z o s c))) s

/-- The first word of LDACC, exactly (R214). -/
def Thread.accAddr (th : Thread) (a : BitVec 6) (o : BitVec 10) : Int := ((th.rd a).toNat : Int) + o.toInt
/-- LDACC (R214): the words as they stand (R215). -/
def execLdacc (d a : BitVec 6) (x : Bool) (n : BitVec 3) (o : BitVec 10) (s : State) : Out :=
  groupOp (.ldacc d a x n o)
    (fun s c l =>
      let i := (s.thread c.gk l).accAddr a o
      if i < 0 || i + n.toNat + 1 > c.team.accLimit then .at .permission (BitVec.ofInt 64 i) else .ok)
    holdQuiet
    (fun c lanes s => goOn c .none (s.onLanes c.gk lanes (fun _ th =>
      th.await 0 (th.ixs d (n.toNat + 1))
        (some ((List.range (n.toNat + 1)).map (fun j => c.team.accWord ((th.accAddr a o).toNat + j))))))) s

/-! ## Atomics -/

/-- The operand and, for CAS, the new value of an atomic of `n` registers (R65, R265). -/
def Thread.atomOperands (th : Thread) (b : BitVec 6) (o : AtomOp) (n : Nat) : Nat × Nat :=
  let w := th.rdN b (casRegs o n)
  (natOfBytes (wordsBytes (w.take n)), natOfBytes (wordsBytes (w.drop n)))
/-- The effect of ATOMS in one lane (R130). -/
def atomsLane (d a b : BitVec 6) (o : AtomOp) (c : GCtx) (l : Nat) (s : State) : State :=
  let th := s.thread c.gk l
  let addr := (th.rd a).toNat
  let old := match s.teams.find c.tk with
    | some t => natOfBytes (t.spadBytes addr 4)
    | none => 0
  let x := th.atomOperands b o 1
  (s.modTeam c.tk (fun t => t.setSpad addr (bytesOfNat 4 (atomNew o 4 old x.1 x.2)))).onLanes c.gk [l]
    (fun _ th => th.wr d (BitVec.ofNat 32 old))
/-- ATOMS (R130). -/
def execAtoms (d a b : BitVec 6) (x y : Bool) (o : AtomOp) (s : State) : Out :=
  groupOp (.atoms d a b x y o) (fun s c l => spadCheck c.team ((s.thread c.gk l).rd a).toNat 4) holdSpad
    (fun c lanes s => goSwitch c (eachLane (atomsLane d a b o c) lanes s)) s
/-- A global atomic of `n` bytes (R266): one request per member, then the set waits for the answers. -/
def globalAtom (i : Instr) (d a b : BitVec 6) (o : AtomOp) (n : Nat) (s : State) : Out :=
  groupOp i
    (fun s c l => (alignedAccess s c.core c.task ((s.thread c.gk l).rd2 a) n .atomic atomKind false true).verdict .atomic)
    holdStore
    (fun c lanes s =>
      let one : Nat → State × List (Nat × Nat × Answer) → State × List (Nat × Nat × Answer) := fun l r =>
        let th := r.1.thread c.gk l
        match placeOf r.1 c.core c.task.space (th.rd2 a) with
        | none => r
        | some loc =>
          let x := th.atomOperands b o (n / 4)
          let s := r.1.noteTlb c.core c.task.space (va48 (th.rd2 a))
          (threadAccess c l loc n (.atom o x.1 x.2 (th.ixs d (n / 4))) s, r.2 ++ [(l, s.nextId, .waiting)])
      let r := (sortLanes lanes).foldl (fun r l => one l r) (s, [])
      goOn c (.answers r.2 c.path.pos (wordOf i) i.cost) r.1) s
/-- ATOM32 (R266); the scope changes nothing (R267). -/
def execAtom32 (d a b : BitVec 6) (x y : Bool) (o : AtomOp) (n : Net) (s : State) : Out :=
  globalAtom (.atom32 d a b x y o n) d a b o 4 s
/-- ATOM64 (R266). -/
def execAtom64 (d a b : BitVec 6) (x y : Bool) (o : AtomOp) (n : Net) (s : State) : Out :=
  globalAtom (.atom64 d a b x y o n) d a b o 8 s

/-! ## FENCE -/

/-- FENCE (R264): it issues and is charged at once; the set then stalls. -/
def execFence (n : Net) (s : State) : Out :=
  groupOp (.fence n) noCheck noHold
    (fun c lanes s => goOn c (if lanes.all (fenceMet s c.team c.group c.gk n s.nextId) then .none else .fence n s.nextId) s) s

/-! ## The lead's loads and stores -/

/-- The address of LLD and LST (R120). -/
def Lead.addr (l : Lead) (a : BitVec 6) (o : BitVec 10) (n : Nat) : DWord := l.reg a + o.signExtend 64 * BitVec.ofNat 64 n
/-- Put an access of a lead into its queue. -/
def leadAccess (c : LCtx) (loc : Loc) (n : Nat) (k : OpKind) (s : State) : State :=
  ({ s with nextId := s.nextId + 1 } : State).addOp c.team.lead.ops (.lead c.team.uid) c.team.task (dieOf c.core)
    { id := s.nextId, loc := loc, n := n, kind := k, sent := false, got := none }
/-- The checks of LLD (R120, R123). -/
def lldCheck (a : BitVec 6) (z : Size) (o : BitVec 10) (s : State) (c : LCtx) : LVerdict :=
  match alignedAccess s c.core c.task (c.team.lead.addr a o (sizeBytes z)) (sizeBytes z) .read (ioKind (sizeBytes z)) true true with
  | .ok _ => if roomFor s (dieOf c.core) 1 then .ok else .wait
  | v => v.lverdict .read
/-- LLD (R120). -/
def execLld (d a : BitVec 6) (z : Size) (o : BitVec 10) (s : State) : Out :=
  leadOp (.lld d a z o) (lldCheck a z o)
    (fun _ _ => (3, 1))
    (fun c s =>
      let va := c.team.lead.addr a o (sizeBytes z)
      match placeOf s c.core c.task.space va with
      | none => s
      | some loc =>
        let s := s.noteTlb c.core c.task.space (va48 va)
        let s := s.modLead c.tk (fun l => { l.markEmpty d.toNat with pend := l.pend ++ [(s.nextId, d.toNat, none)] })
        leadOn c (leadAccess c loc (sizeBytes z) (.load (.lead z) [d.toNat]) s)) s
/-- The checks of LST (R120, R123, R281). -/
def lstCheck (a : BitVec 6) (z : Size) (o : BitVec 10) (s : State) (c : LCtx) : LVerdict :=
  match alignedAccess s c.core c.task (c.team.lead.addr a o (sizeBytes z)) (sizeBytes z) .write (ioKind (sizeBytes z)) false true with
  | .ok _ => if roomFor s (dieOf c.core) 1 && quiet s c.team.lead.ops then .ok else .wait
  | v => v.lverdict .write
/-- LST (R120). -/
def execLst (d a : BitVec 6) (z : Size) (o : BitVec 10) (s : State) : Out :=
  leadOp (.lst d a z o) (lstCheck a z o)
    (fun _ _ => (3, 1))
    (fun c s =>
      let va := c.team.lead.addr a o (sizeBytes z)
      match placeOf s c.core c.task.space va with
      | none => s
      | some loc =>
        leadOn c (leadAccess c loc (sizeBytes z) (.store (bytesOfNat (sizeBytes z) (c.team.lead.reg d).toNat))
          (s.noteTlb c.core c.task.space (va48 va)))) s

/-! ## Results -/

/-- Write the result of a long-latency producer of a thread (R16): element `idx` of those on their way, once its value is
there and no earlier one is for the same register (R18). -/
def Thread.result (th : Thread) (idx : Nat) : Option Thread :=
  match th.pend[idx]? with
  | .none => Option.none
  | some q =>
    match q.val with
    | .none => Option.none
    | some ws =>
      if (th.pend.take idx).any (fun e => e.dst.any (fun n => q.dst.contains n)) then Option.none
      else some ((q.dst.zip ws).foldl (fun th e => th.setReg e.1 e.2) { th with pend := dropAt th.pend idx })
/-- Write the result of a lead's load. -/
def Lead.result (l : Lead) (idx : Nat) : Option Lead :=
  match l.pend[idx]? with
  | none => none
  | some q =>
    match q.2.2 with
    | none => none
    | some v => some ({ l with pend := dropAt l.pend idx }.setReg q.2.1 v)
/-- LONG_LATENCY_RESULT (R16): a result is written to its registers. -/
def execLongLatencyResult (lead : Bool) (key idx : Nat) (s : State) : Out :=
  if lead then
    match s.teams.find key with
    | none => .refused .notEnabled
    | some t =>
      match t.lead.result idx with
      | none => .refused .notEnabled
      | some l => .next (s.modLead key (fun _ => l))
  else
    match s.threads.find key with
    | none => .refused .notEnabled
    | some th =>
      match th.result idx with
      | none => .refused .notEnabled
      | some th' => .next (s.modThread key (fun _ => th'))

/-- QUEUE_ENTRY_FILL (R114): a pair fills with its entry, and what the thread awaits behind it follows (R34, R253). -/
def execQueueEntryFill (thread : Nat) (s : State) : Out :=
  match s.threads.find thread, fillPair thread s with
  | some th, some t => if edgeMay s th.ops MemOp.awaitsEntry then .next (runQueue t th.ops) else .refused .notEnabled
  | some _, none => .refused .notEnabled
  | none, _ => .refused .notEnabled

end Sys2Proof.Machine
end

