-- ==== Sys2Proof/Machine/Lead.lean ====
section
/-!
DEFINITION. The lead's scalar instructions (R32, R115 to R119), QSEND_APPEND and LEAD_STOP (R37).
-/
namespace Sys2Proof.Machine

/-- A lead instruction that writes s[d] from s[a] and s[b] (R117). -/
def lBinary (i : Instr) (d a b : BitVec 6) (f : DWord → DWord → DWord) (s : State) : Out :=
  scalarOp i (fun l => l.setReg d.toNat (f (l.reg a) (l.reg b))) s
/-- A lead instruction that writes s[d] from s[a]. -/
def lUnary (i : Instr) (d a : BitVec 6) (f : DWord → DWord) (s : State) : Out :=
  scalarOp i (fun l => l.setReg d.toNat (f (l.reg a))) s
/-- A lead instruction that writes a predicate. -/
def lPred (i : Instr) (p : BitVec 3) (f : Lead → Bool) (s : State) : Out := scalarOp i (fun l => l.setPred p (f l)) s

/-- LADD (R117): modulo 2^64. -/
def execLadd (d a b : BitVec 6) (s : State) : Out := lBinary (.ladd d a b) d a b (fun u v => u + v) s
/-- LSUB (R117): modulo 2^64. -/
def execLsub (d a b : BitVec 6) (s : State) : Out := lBinary (.lsub d a b) d a b (fun u v => u - v) s
/-- LAND (R117): bitwise. -/
def execLand (d a b : BitVec 6) (s : State) : Out := lBinary (.land d a b) d a b (fun u v => u &&& v) s
/-- LOR (R117): bitwise. -/
def execLor (d a b : BitVec 6) (s : State) : Out := lBinary (.lor d a b) d a b (fun u v => u ||| v) s
/-- LXOR (R117): bitwise. -/
def execLxor (d a b : BitVec 6) (s : State) : Out := lBinary (.lxor d a b) d a b (fun u v => u ^^^ v) s
/-- LANDN (R117): a AND NOT b. -/
def execLandn (d a b : BitVec 6) (s : State) : Out := lBinary (.landn d a b) d a b (fun u v => u &&& ~~~v) s
/-- LSHL (R117): 0 from a count of 64 on. -/
def execLshl (d a b : BitVec 6) (s : State) : Out := lBinary (.lshl d a b) d a b (fun u v => shlBy u v.toNat) s
/-- LSHR (R117): 0 from a count of 64 on. -/
def execLshr (d a b : BitVec 6) (s : State) : Out := lBinary (.lshr d a b) d a b (fun u v => shrBy u v.toNat) s
/-- LSAR (R117): copies of the sign from a count of 64 on. -/
def execLsar (d a b : BitVec 6) (s : State) : Out := lBinary (.lsar d a b) d a b (fun u v => sarBy u v.toNat) s
/-- LMIN (R117): signed. -/
def execLmin (d a b : BitVec 6) (s : State) : Out := lBinary (.lmin d a b) d a b sMin s
/-- LMAX (R117): signed. -/
def execLmax (d a b : BitVec 6) (s : State) : Out := lBinary (.lmax d a b) d a b sMax s
/-- LMINU (R117): unsigned. -/
def execLminu (d a b : BitVec 6) (s : State) : Out := lBinary (.lminu d a b) d a b uMin s
/-- LMAXU (R117): unsigned. -/
def execLmaxu (d a b : BitVec 6) (s : State) : Out := lBinary (.lmaxu d a b) d a b uMax s
/-- LMUL (R117): the product modulo 2^64. -/
def execLmul (d a b : BitVec 6) (s : State) : Out := lBinary (.lmul d a b) d a b (fun u v => u * v) s
/-- LMULH (R117): the high half of the signed product. -/
def execLmulh (d a b : BitVec 6) (s : State) : Out := lBinary (.lmulh d a b) d a b mulHigh s
/-- LMULHU (R117): the high half of the unsigned product. -/
def execLmulhu (d a b : BitVec 6) (s : State) : Out := lBinary (.lmulhu d a b) d a b mulHighU s
/-- LMOV (R117): s[a]. -/
def execLmov (d a : BitVec 6) (s : State) : Out := lUnary (.lmov d a) d a (fun u => u) s
/-- LNOT (R117): the complement. -/
def execLnot (d a : BitVec 6) (s : State) : Out := lUnary (.lnot d a) d a (fun u => ~~~u) s
/-- LNEG (R117): 0 - a modulo 2^64. -/
def execLneg (d a : BitVec 6) (s : State) : Out := lUnary (.lneg d a) d a (fun u => 0#64 - u) s
/-- LCLZ (R117): leading zeros, 64 for 0. -/
def execLclz (d a : BitVec 6) (s : State) : Out := lUnary (.lclz d a) d a (fun u => BitVec.ofNat 64 (leadingZeros u)) s
/-- LPOPC (R117): the number of ones. -/
def execLpopc (d a : BitVec 6) (s : State) : Out := lUnary (.lpopc d a) d a (fun u => BitVec.ofNat 64 (onesCount u)) s
/-- LCMP (R117): the condition of R100 on 64-bit values. -/
def execLcmp (p : BitVec 3) (a b : BitVec 6) (c : Cond) (s : State) : Out :=
  lPred (.lcmp p a b c) p (fun l => condHolds c (l.reg a) (l.reg b)) s
/-- LSEL (R117): s[a] when pk is 1, else s[b]. -/
def execLsel (d a b : BitVec 6) (k : BitVec 3) (s : State) : Out :=
  scalarOp (.lsel d a b k) (fun l => l.setReg d.toNat (if l.pred k then l.reg a else l.reg b)) s
/-- LPAND (R117). -/
def execLpand (d a b : BitVec 3) (s : State) : Out := lPred (.lpand d a b) d (fun l => l.pred a && l.pred b) s
/-- LPOR (R117). -/
def execLpor (d a b : BitVec 3) (s : State) : Out := lPred (.lpor d a b) d (fun l => l.pred a || l.pred b) s
/-- LPXOR (R117). -/
def execLpxor (d a b : BitVec 3) (s : State) : Out := lPred (.lpxor d a b) d (fun l => l.pred a ^^ l.pred b) s
/-- LPNOT (R117). -/
def execLpnot (d a : BitVec 3) (s : State) : Out := lPred (.lpnot d a) d (fun l => !l.pred a) s
/-- The value of a special as the lead reads it (R111, R112). -/
def leadSpecial (s : State) (t : Team) (task : Task) (n : Nat) : DWord :=
  if n = 0x10 then s.time.zeroExtend 64 else if n = 0x11 then (s.time.extractLsb' 32 16).zeroExtend 64
  else if n = 0x20 then BitVec.ofNat 64 (64 - t.dq.length)
  else (sharedSpecial s t task n).zeroExtend 64
/-- LSRD (R117, R111): after the instruction's own charge. -/
def execLsrd (d n m : BitVec 6) (s : State) : Out :=
  leadOp (.lsrd d n m) noLCheck (fun _ _ => (1, 0))
    (fun c s =>
      let s := if num12 n m = 0x20 then s.dqRelease c.tk else s
      match s.teams.find c.tk with
      | some t => leadOn c (s.modLead c.tk (fun l => l.setReg d.toNat (leadSpecial s t c.task (num12 n m))))
      | none => s) s
/-- The checks of LBARA: bound to a wider network the barrier has no place for the lead, and an arrival already made in the phase is
waited out (R135).  What the lead has stored is on its way before it arrives. -/
def lbaraCheck (k : BitVec 4) (s : State) (c : LCtx) : LVerdict :=
  let b := c.team.bar k.toNat
  if b.net ≠ .core then .of .illegalOp
  else if b.here.getLsbD leadBit || !quiet s c.team.lead.ops then .wait else .ok
/-- LBARA (R117): the lead arrives. -/
def execLbara (k : BitVec 4) (s : State) : Out :=
  leadOp (.lbara k) (lbaraCheck k)
    (fun _ _ => (1, 0))
    (fun c s => leadOn c (s.modTeam c.tk (fun t => t.modBar k.toNat (fun b => b.arrive leadBit)))) s
/-- LBARW (R117): charged at issue; the lead then waits for the phase. -/
def execLbarw (k : BitVec 4) (s : State) : Out :=
  leadOp (.lbarw k) noLCheck (fun _ _ => (1, 0)) (fun c s => leadOnWait (.lbarw k) c (.barw k.toNat) s) s
/-- LMOVI (R118). -/
def execLmovi (d : BitVec 6) (i : BitVec 11) (s : State) : Out :=
  scalarOp (.lmovi d i) (fun l => l.setReg d.toNat (i.signExtend 64)) s
/-- LADDI (R118). -/
def execLaddi (d a : BitVec 6) (i : BitVec 11) (s : State) : Out := lUnary (.laddi d a i) d a (fun u => u + i.signExtend 64) s
/-- LANDI (R118). -/
def execLandi (d a : BitVec 6) (i : BitVec 11) (s : State) : Out := lUnary (.landi d a i) d a (fun u => u &&& i.signExtend 64) s
/-- LORI (R118). -/
def execLori (d a : BitVec 6) (i : BitVec 11) (s : State) : Out := lUnary (.lori d a i) d a (fun u => u ||| i.signExtend 64) s
/-- LSHLI (R118). -/
def execLshli (d a n : BitVec 6) (s : State) : Out := lUnary (.lshli d a n) d a (fun u => shlBy u n.toNat) s
/-- LSHRI (R118). -/
def execLshri (d a n : BitVec 6) (s : State) : Out := lUnary (.lshri d a n) d a (fun u => shrBy u n.toNat) s
/-- LSARI (R118). -/
def execLsari (d a n : BitVec 6) (s : State) : Out := lUnary (.lsari d a n) d a (fun u => sarBy u n.toNat) s
/-- LSHIN (R118): s[d] shifted left by 11, with the immediate taken unsigned. -/
def execLshin (d : BitVec 6) (i : BitVec 11) (s : State) : Out :=
  lUnary (.lshin d i) d d (fun u => (u <<< 11) ||| i.zeroExtend 64) s

/-- CheckTarget of a transfer of the lead that is taken (R119). -/
def lBranchCheck (disp : BitVec 19) (taken : Lead → Bool) (s : State) (c : LCtx) : LVerdict :=
  if taken c.team.lead then
    match checkTarget s c.core c.task.space c.task.priv (branchTarget c.team.lead.pc disp) with
    | .ok => .ok
    | .trap k a => .at k a
    | .miss m => .miss m .exec
  else .ok
/-- A transfer of the lead (R119); a trap of CheckTarget goes to the system handler. -/
def lBranch (i : Instr) (disp : BitVec 19) (taken : Lead → Bool) (s : State) : Out :=
  leadOp i (lBranchCheck disp taken)
    (fun _ _ => (1, 0))
    (fun c s =>
      if taken c.team.lead then
        releaseL (s.modLead c.tk (fun l => { l with pc := branchTarget l.pc disp, remain := 0 })) c.core
      else leadOn c s) s
/-- LBR (R119). -/
def execLbr (s_ : BitVec 19) (s : State) : Out := lBranch (.lbr s_) s_ (fun _ => true) s
/-- LBRP (R119). -/
def execLbrp (p : BitVec 3) (s_ : BitVec 19) (s : State) : Out := lBranch (.lbrp p s_) s_ (fun l => l.pred p) s
/-- LBRN (R119). -/
def execLbrn (p : BitVec 3) (s_ : BitVec 19) (s : State) : Out := lBranch (.lbrn p s_) s_ (fun l => !l.pred p) s

/-- Of the decision-queue entries that a party's queue awaits, only the first `n` are still awaited. -/
def keepAwaited : Nat → List MemOp → List MemOp
  | _, [] => []
  | n, o :: os =>
    if o.awaitsEntry then
      match n with
      | 0 => keepAwaited 0 os
      | n + 1 => o :: keepAwaited n os
    else o :: keepAwaited n os
/-- The entry of a pair has been made (R35). -/
def Team.made (t : Team) (q : Nat × BitVec 16) : Bool := (q.2 - t.dqFirst).toNat < (t.qsent - t.dqFirst).toNat
/-- The pairs of a thread that await an entry never made are closed (R35), and hold nothing behind them back. -/
def closeThread (t : Team) (gk l : Nat) (s : State) : State :=
  let th := s.thread gk l
  let made := th.qpend.filter t.made
  if made.length = th.qpend.length then s
  else
    let never := th.qpend.filter (fun q => !t.made q)
    let s := s.onLanes gk [l] (fun _ th => never.foldl (fun th q => (th.close q.1 .qClosed 0#32).close (q.1 + 1) .qClosed 0#32)
      { th with qpend := made })
    runQueue { s with opqs := s.opqs.mod th.ops (fun oq => { oq with ops := keepAwaited made.length oq.ops }) } th.ops
/-- A lead is no longer a producer: pairs that await an entry never made are closed (R35). -/
def closePairs (s : State) (tk : Nat) : State :=
  match s.teams.find tk with
  | none => s
  | some t => (groupsOf s tk).foldl (fun s e => (List.range Config.lanes).foldl (fun s l => closeThread t e.1 l s) s) s
/-- The lead is a producer and a party no longer (R32, R35, R37, R145). -/
def leadGone (s : State) (tk : Nat) (uid : Nat) : State :=
  let s := s.modTeam tk (fun t => { t.partyEnd leadBit with producer := false })
  dropInbox (closePairs s tk) uid
/-- LEND (R32): the lead has ended. -/
def execLend (s : State) : Out :=
  leadOp .lend noLCheck (fun _ _ => (1, 0))
    (fun c s => releaseL (leadGone (s.modLead c.tk (fun l => { l with ended := true })) c.tk c.team.uid) c.core) s
/-- LEAD_STOP (R37): in the clk after that in which the last group has retired, a lead that has not ended is stopped; what it waits for is
withdrawn. -/
def execLeadStop (team : Nat) (s : State) : Out :=
  match s.teams.find team with
  | none => .refused .notEnabled
  | some t =>
    if !t.stopDue s team then .refused .notEnabled
    else
      let back := match t.lead.wait with
        | .spawnW _ _ _ allow _ => allow
        | .none | .barw _ | .arv _ | .qsend _ | .unit _ _ _ | .unwind _ | .mwait _ | .cpwait _ | .saCmd _ _ _ _ | .saload _ => 0
      let s := refund s t.task back
      .next (releaseL (leadGone (s.modLead team (fun l => { l with stopped := true, wait := .none })) team t.uid) (coreOf team))

/-! ## QSEND -/

/-- Append an entry to a team's decision queue (R33, R115). -/
def Team.append (t : Team) (v : DWord) : Team := { t with dq := t.dq ++ [v], qsent := t.qsent + 1#16 }
/-- A lead's QSEND makes an entry of `s[a]` (R115); it fills pairs from the next clk on. -/
def makeEntry (s : State) (tk a : Nat) : State :=
  match s.teams.find tk with
  | some t =>
    { s.modTeam tk (fun t => t.append (t.lead.s.get a 0#64)) with fresh := { s.fresh with entries := (t.uid, t.qsent) :: s.fresh.entries } }
  | none => s
/-- Fewer than 64 entries are held (R33). -/
def dqRoom (s : State) (tk : Nat) : Bool :=
  match (s.dqRelease tk).teams.find tk with
  | some t => decide (t.dq.length < 64)
  | none => false
/-- QSEND waits until what the lead has stored is on its way (R34). -/
def qsendCheck (s : State) (c : LCtx) : LVerdict := if !quiet s c.team.lead.ops then .wait else .ok
/-- The charge of QSEND: none while it has to wait for a place (R115). -/
def qsendCost (s : State) (c : LCtx) : Nat × Nat := if dqRoom s c.tk then (1, 0) else (0, 0)
/-- QSEND (R115): the entry is appended and charged; while 64 entries are held the lead waits. -/
def execQsend (a : BitVec 6) (s : State) : Out :=
  leadOp (.qsend a) qsendCheck qsendCost
    (fun c s =>
      let s := s.dqRelease c.tk
      match s.teams.find c.tk with
      | none => s
      | some t =>
        if t.dq.length < 64 then leadOn c (makeEntry s c.tk a.toNat)
        else releaseL (s.modLead c.tk (fun l => { l with wait := .qsend a.toNat, cmd := wordOf (.qsend a) })) c.core) s
/-- QSEND_APPEND (R115): an entry has been released, and the waiting QSEND is charged, reads its register and appends. -/
def execQsendAppend (team : Nat) (s : State) : Out :=
  match lctxOf (s.dqRelease team) team with
  | none => .refused .notEnabled
  | some c =>
    match c.team.lead.wait with
    | .qsend a =>
      if 64 ≤ c.team.dq.length || c.team.lead.halted then .refused .notEnabled
      else
        let p := charge (s.dqRelease team) c.core c.team.task c.payer 1 0
        if p.1 then .next (leadOn c ((makeEntry p.2 team a).modLead team (fun l => { l with wait := .none })))
        else .next p.2
    | .none | .barw _ | .arv _ | .unit _ _ _ | .unwind _ | .spawnW _ _ _ _ _ | .mwait _ | .cpwait _ | .saCmd _ _ _ _ | .saload _ => .refused .notEnabled

end Sys2Proof.Machine
end

