-- ==== Sys2Proof/Machine/Float.lean ====
section
/-!
DEFINITION. The floating-point instructions (R188 to R198) and FTAB (R199, R200, R203).
-/
namespace Sys2Proof.Machine

/-- The FP32 value of a word (R189). -/
def fpOf (w : Word) : Fp := fp32.decode w.toNat
/-- A value rounded into FP32 (R189). -/
def fpWord (mode : RMode) (v : Fp) : Word := BitVec.ofNat 32 (fp32.round mode v)
/-- v[d] becomes a function of v[a] and v[b]. -/
def fBinary (i : Instr) (d a b : BitVec 6) (f : Word → Word → Word) (s : State) : Out :=
  threadOp i (fun th => th.wr d (f (th.rd a) (th.rd b))) s
/-- v[d] becomes a function of v[a]. -/
def fUnary (i : Instr) (d a : BitVec 6) (f : Word → Word) (s : State) : Out := threadOp i (fun th => th.wr d (f (th.rd a))) s
/-- v[d] becomes a function of v[a], v[b] and v[d]. -/
def fTernary (i : Instr) (d a b : BitVec 6) (f : Word → Word → Word → Word) (s : State) : Out :=
  threadOp i (fun th => th.wr d (f (th.rd a) (th.rd b) (th.rd d))) s

/-- The sum of R190. -/
def fAdd (r : RMode) (u v : Word) : Word := fpWord r ((fpOf u).add r (fpOf v))
/-- The difference of R190. -/
def fSub (r : RMode) (u v : Word) : Word := fpWord r ((fpOf u).add r (fpOf v).negate)
/-- The product of R190. -/
def fMul (r : RMode) (u v : Word) : Word := fpWord r ((fpOf u).mul (fpOf v))
/-- a x b + d with one rounding (R190). -/
def fFma (r : RMode) (u v w : Word) : Word := fpWord r (((fpOf u).mul (fpOf v)).add r (fpOf w))
/-- One operand is a NaN. -/
def fUn (u v : Fp) : Bool := u == .nan || v == .nan
/-- The smaller or the larger code (R191). -/
def fPick (f : Fmt) (larger : Bool) (u v : Nat) : Nat :=
  if fUn (f.decode u) (f.decode v) then f.nan
  else if (f.decode u).below (f.decode v) != larger then u else v
/-- FMIN and FMAX of words. -/
def fMinMax (larger : Bool) (u v : Word) : Word := BitVec.ofNat 32 (fPick fp32 larger u.toNat v.toNat)
/-- FABS (R191). -/
def fAbs (u : Word) : Word := if fpOf u = .nan then 0x7FC00000#32 else u &&& 0x7FFFFFFF#32
/-- FNEG (R191). -/
def fNeg (u : Word) : Word := if fpOf u = .nan then 0x7FC00000#32 else u ^^^ 0x80000000#32

/-- FADD (R190). -/
def execFadd (d a b : BitVec 6) (x y : Bool) (r : RMode) (s : State) : Out := fBinary (.fadd d a b x y r) d a b (fAdd r) s
/-- FSUB (R190). -/
def execFsub (d a b : BitVec 6) (x y : Bool) (r : RMode) (s : State) : Out := fBinary (.fsub d a b x y r) d a b (fSub r) s
/-- FMUL (R190). -/
def execFmul (d a b : BitVec 6) (x y : Bool) (r : RMode) (s : State) : Out := fBinary (.fmul d a b x y r) d a b (fMul r) s
/-- FFMA (R190). -/
def execFfma (d a b : BitVec 6) (x y : Bool) (r : RMode) (s : State) : Out := fTernary (.ffma d a b x y r) d a b (fFma r) s
/-- FMIN (R191). -/
def execFmin (d a b : BitVec 6) (x y : Bool) (s : State) : Out := fBinary (.fmin d a b x y) d a b (fMinMax false) s
/-- FMAX (R191). -/
def execFmax (d a b : BitVec 6) (x y : Bool) (s : State) : Out := fBinary (.fmax d a b x y) d a b (fMinMax true) s
/-- FABS (R191). -/
def execFabs (d a : BitVec 6) (x : Bool) (s : State) : Out := fUnary (.fabs d a x) d a fAbs s
/-- FNEG (R191). -/
def execFneg (d a : BitVec 6) (x : Bool) (s : State) : Out := fUnary (.fneg d a x) d a fNeg s

/-! ## HALU -/

/-- Each half of a word computed from the same half of two words (R192). -/
def halves (f : Nat → Nat → Nat) (u v : Word) : Word :=
  BitVec.ofNat 16 (f (u.toNat / 65536) (v.toNat / 65536)) ++ BitVec.ofNat 16 (f (u.toNat % 65536) (v.toNat % 65536))
/-- Each half of a word computed from the same half of three words (R192). -/
def halves3 (f : Nat → Nat → Nat → Nat) (u v w : Word) : Word :=
  BitVec.ofNat 16 (f (u.toNat / 65536) (v.toNat / 65536) (w.toNat / 65536))
    ++ BitVec.ofNat 16 (f (u.toNat % 65536) (v.toNat % 65536) (w.toNat % 65536))
/-- The sum of two BF16 codes. -/
def hAdd (r : RMode) (u v : Nat) : Nat := bf16.round r ((bf16.decode u).add r (bf16.decode v))
/-- The difference of two BF16 codes. -/
def hSub (r : RMode) (u v : Nat) : Nat := bf16.round r ((bf16.decode u).add r (bf16.decode v).negate)
/-- The product of two BF16 codes. -/
def hMul (r : RMode) (u v : Nat) : Nat := bf16.round r ((bf16.decode u).mul (bf16.decode v))
/-- a x b + d of BF16 codes with one rounding. -/
def hFma (r : RMode) (u v w : Nat) : Nat := bf16.round r (((bf16.decode u).mul (bf16.decode v)).add r (bf16.decode w))
/-- HADD2 (R192). -/
def execHadd2 (d a b : BitVec 6) (x y : Bool) (r : RMode) (s : State) : Out :=
  fBinary (.hadd2 d a b x y r) d a b (halves (hAdd r)) s
/-- HSUB2 (R192). -/
def execHsub2 (d a b : BitVec 6) (x y : Bool) (r : RMode) (s : State) : Out :=
  fBinary (.hsub2 d a b x y r) d a b (halves (hSub r)) s
/-- HMUL2 (R192). -/
def execHmul2 (d a b : BitVec 6) (x y : Bool) (r : RMode) (s : State) : Out :=
  fBinary (.hmul2 d a b x y r) d a b (halves (hMul r)) s
/-- HFMA2 (R192). -/
def execHfma2 (d a b : BitVec 6) (x y : Bool) (r : RMode) (s : State) : Out :=
  fTernary (.hfma2 d a b x y r) d a b (halves3 (hFma r)) s
/-- HMAX2 (R192). -/
def execHmax2 (d a b : BitVec 6) (x y : Bool) (s : State) : Out :=
  fBinary (.hmax2 d a b x y) d a b (halves (fPick bf16 true)) s
/-- HMIN2 (R192). -/
def execHmin2 (d a b : BitVec 6) (x y : Bool) (s : State) : Out :=
  fBinary (.hmin2 d a b x y) d a b (halves (fPick bf16 false)) s

/-! ## FCMP and FCVT -/

/-- The condition of R193. -/
def fCond (c : FCond) (u v : Fp) : Bool :=
  let o := u.cmp v
  match c with
  | .eq => o == some .eq
  | .ne => o != some .eq
  | .lt => o == some .lt
  | .le => o == some .lt || o == some .eq
  | .gt => o == some .gt
  | .ge => o == some .gt || o == some .eq
  | .un => o == none
  | .ord => o != none
/-- FCMP (R193). -/
def execFcmp (p : BitVec 3) (a b : BitVec 6) (x y : Bool) (c : FCond) (s : State) : Out :=
  threadOp (.fcmp p a b x y c) (fun th => th.setPred p (fCond c (fpOf (th.rd a)) (fpOf (th.rd b)))) s
/-- An integer rounded into FP32 (R194). -/
def fOfInt (r : RMode) (n : Int) : Word := fpWord r (ofScaled n 0 false)
/-- A value rounded to an integer and saturated (R195). -/
def fToInt (r : RMode) (lo hi : Int) (u : Word) : Word :=
  match fpOf u with
  | .nan => 0#32
  | .inf neg => BitVec.ofInt 32 (if neg then lo else hi)
  | .fin neg m e => BitVec.ofInt 32 (max lo (min hi (roundInt r neg m e)))
/-- A conversion from FP32 into a narrow format (R194). -/
def fNarrow (f : Fmt) (r : RMode) (u : Word) : Word := BitVec.ofNat 32 (f.round r (fpOf u))
/-- A conversion from a narrow format into FP32; `w` is its width (R194). -/
def fWiden (f : Fmt) (w : Nat) (u : Word) : Word := fpWord .rn (f.decode (u.toNat % 2 ^ w))
/-- FCVTIF (R194). -/
def execFcvtif (d a : BitVec 6) (x : Bool) (r : RMode) (s : State) : Out :=
  fUnary (.fcvtif d a x r) d a (fun u => fOfInt r u.toInt) s
/-- FCVTUF (R194). -/
def execFcvtuf (d a : BitVec 6) (x : Bool) (r : RMode) (s : State) : Out :=
  fUnary (.fcvtuf d a x r) d a (fun u => fOfInt r (u.toNat : Int)) s
/-- FCVTFI (R195). -/
def execFcvtfi (d a : BitVec 6) (x : Bool) (r : RMode) (s : State) : Out :=
  fUnary (.fcvtfi d a x r) d a (fToInt r (-2 ^ 31) (2 ^ 31 - 1)) s
/-- FCVTFU (R195). -/
def execFcvtfu (d a : BitVec 6) (x : Bool) (r : RMode) (s : State) : Out :=
  fUnary (.fcvtfu d a x r) d a (fToInt r 0 (2 ^ 32 - 1)) s
/-- FCVTBF (R194). -/
def execFcvtbf (d a : BitVec 6) (x : Bool) (r : RMode) (s : State) : Out :=
  fUnary (.fcvtbf d a x r) d a (fNarrow bf16 r) s
/-- FCVTE4 (R194). -/
def execFcvte4 (d a : BitVec 6) (x : Bool) (r : RMode) (s : State) : Out :=
  fUnary (.fcvte4 d a x r) d a (fNarrow e4m3 r) s
/-- FCVTE5 (R194). -/
def execFcvte5 (d a : BitVec 6) (x : Bool) (r : RMode) (s : State) : Out :=
  fUnary (.fcvte5 d a x r) d a (fNarrow e5m2 r) s
/-- FCVTFB (R194). -/
def execFcvtfb (d a : BitVec 6) (x : Bool) (s : State) : Out := fUnary (.fcvtfb d a x) d a (fWiden bf16 16) s
/-- FCVTF4 (R194). -/
def execFcvtf4 (d a : BitVec 6) (x : Bool) (s : State) : Out := fUnary (.fcvtf4 d a x) d a (fWiden e4m3 8) s
/-- FCVTF5 (R194). -/
def execFcvtf5 (d a : BitVec 6) (x : Bool) (s : State) : Out := fUnary (.fcvtf5 d a x) d a (fWiden e5m2 8) s
/-- The checks of FCVTSM (R196). -/
def smoothCheck (b : BitVec 6) (s : State) (c : GCtx) (l : Nat) : Verdict :=
  let addr := ((s.thread c.gk l).rd b).toNat
  if c.team.spadLimit ≤ addr then .at .permission (BitVec.ofNat 64 addr)
  else if c.team.lineAbsent addr then .absent else .ok
/-- A value divided by 2^k and rounded into an 8-bit format (R180, R196). -/
def smooth (f : Fmt) (r : RMode) (u : Word) (k : Byte) : Word := BitVec.ofNat 32 (f.round r ((fpOf u).scale (-k.toInt)))
/-- FCVTSM.E4 (R196): it reads the scratchpad as LDS does (R254, R255). -/
def execFcvtsmE4 (d a b : BitVec 6) (x y : Bool) (r : RMode) (s : State) : Out :=
  groupOp (.fcvtsmE4 d a b x y r) (smoothCheck b) holdSpad
    (fun c lanes s => goOn c .none (s.onLanes c.gk lanes
      (fun _ th => th.wr d (smooth e4m3 r (th.rd a) (c.team.spadByte (th.rd b).toNat))))) s
/-- FCVTSM.E5 (R196): it reads the scratchpad as LDS does (R254, R255). -/
def execFcvtsmE5 (d a b : BitVec 6) (x y : Bool) (r : RMode) (s : State) : Out :=
  groupOp (.fcvtsmE5 d a b x y r) (smoothCheck b) holdSpad
    (fun c lanes s => goOn c .none (s.onLanes c.gk lanes
      (fun _ th => th.wr d (smooth e5m2 r (th.rd a) (c.team.spadByte (th.rd b).toNat))))) s

/-! ## FSPEC -/

/-- FRCP (R197, R198). -/
def fRcp (r : RMode) (u : Word) : Word :=
  match fpOf u with
  | .nan => 0x7FC00000#32
  | .inf neg => fpWord r (.fin neg 0 0)
  | .fin neg m e => if m = 0 then fpWord r (.inf neg) else BitVec.ofNat 32 (fp32.quot r neg 1 0 m e)
/-- FRSQ (R197, R198). -/
def fRsq (r : RMode) (u : Word) : Word :=
  match fpOf u with
  | .nan => 0x7FC00000#32
  | .inf neg => if neg then 0x7FC00000#32 else 0#32
  | .fin neg m e =>
    if m = 0 then fpWord r (.inf neg) else if neg then 0x7FC00000#32 else BitVec.ofNat 32 (fp32.rsqrt r m e)
/-- FSQRT (R197, R198). -/
def fSqrt (r : RMode) (u : Word) : Word :=
  match fpOf u with
  | .nan => 0x7FC00000#32
  | .inf neg => if neg then 0x7FC00000#32 else u
  | .fin neg m e => if m = 0 then u else if neg then 0x7FC00000#32 else BitVec.ofNat 32 (fp32.sqrt r m e)
/-- FEXP2 (R197, R198). -/
def fExp2 (r : RMode) (u : Word) : Word :=
  match fpOf u with
  | .nan => 0x7FC00000#32
  | .inf neg => if neg then 0#32 else u
  | .fin neg m e => if m = 0 then 0x3F800000#32 else BitVec.ofNat 32 (fp32.exp2 r (if neg then -(m : Int) else m) e)
/-- FLOG2 (R197, R198). -/
def fLog2 (r : RMode) (u : Word) : Word :=
  match fpOf u with
  | .nan => 0x7FC00000#32
  | .inf neg => if neg then 0x7FC00000#32 else u
  | .fin neg m e =>
    if m = 0 then fpWord r (.inf true) else if neg then 0x7FC00000#32 else BitVec.ofNat 32 (fp32.log2 r m e)
/-- FDIV (R197, R198). -/
def fDiv (r : RMode) (u v : Word) : Word :=
  match fpOf u, fpOf v with
  | .nan, _ => 0x7FC00000#32
  | _, .nan => 0x7FC00000#32
  | .inf _, .inf _ => 0x7FC00000#32
  | .inf n, .fin k _ _ => fpWord r (.inf (n != k))
  | .fin n _ _, .inf k => fpWord r (.fin (n != k) 0 0)
  | .fin n m e, .fin k m' e' =>
    if m' = 0 then (if m = 0 then 0x7FC00000#32 else fpWord r (.inf (n != k)))
    else if m = 0 then fpWord r (.fin (n != k) 0 0)
    else BitVec.ofNat 32 (fp32.quot r (n != k) m e m' e')
/-- FRCP (R197). -/
def execFrcp (d a : BitVec 6) (x : Bool) (r : RMode) (s : State) : Out := fUnary (.frcp d a x r) d a (fRcp r) s
/-- FRSQ (R197). -/
def execFrsq (d a : BitVec 6) (x : Bool) (r : RMode) (s : State) : Out := fUnary (.frsq d a x r) d a (fRsq r) s
/-- FSQRT (R197). -/
def execFsqrt (d a : BitVec 6) (x : Bool) (r : RMode) (s : State) : Out := fUnary (.fsqrt d a x r) d a (fSqrt r) s
/-- FEXP2 (R197). -/
def execFexp2 (d a : BitVec 6) (x : Bool) (r : RMode) (s : State) : Out := fUnary (.fexp2 d a x r) d a (fExp2 r) s
/-- FLOG2 (R197). -/
def execFlog2 (d a : BitVec 6) (x : Bool) (r : RMode) (s : State) : Out := fUnary (.flog2 d a x r) d a (fLog2 r) s
/-- FDIV (R197). -/
def execFdiv (d a b : BitVec 6) (x y : Bool) (r : RMode) (s : State) : Out := fBinary (.fdiv d a b x y r) d a b (fDiv r) s

/-! ## FTAB -/

/-- A generation of a team's activation table (R199). -/
def Team.table (t : Team) (gen : Bool) : SMap Byte := if gen then t.tab1 else t.tab0
/-- A little-endian word of a table image (R200). -/
def tabWord (tab : SMap Byte) (at_ : Nat) : Nat := natOfBytes (SMap.bytes tab at_ 4)
/-- V of function `f` (R200). -/
def tabValid (tab : SMap Byte) (f : Nat) : Bool := (tab.get (16 * f + 5) 0#8).getLsbD 0
/-- The value of function `f` of a table at x (R203). -/
def tabEval (tab : SMap Byte) (f : Nat) (u : Word) : Word :=
  let x0 := fp32.decode (tabWord tab (16 * f))
  let h := (tab.get (16 * f + 4) 0#8).toInt
  let diff := (fpOf u).add .rn x0.negate
  match diff with
  | .nan => 0x7FC00000#32
  | .inf neg => BitVec.ofNat 32 (tabWord tab (16 * f + if neg then 8 else 12))
  | .fin neg m e =>
    if neg && m != 0 then BitVec.ofNat 32 (tabWord tab (16 * f + 8))
    else if diff.cmp (.fin false 64 h) ≠ some .lt then BitVec.ofNat 32 (tabWord tab (16 * f + 12))
    else
      let j := m * 2 ^ (e - h).toNat / 2 ^ (h - e).toNat
      let seg := 64 + 1024 * f + 16 * j
      let t := diff.add .rn (.fin true j h)
      fpWord .rn (((fp32.decode (tabWord tab seg)).add .rn ((fp32.decode (tabWord tab (seg + 4))).mul t)).add .rn
        (((fp32.decode (tabWord tab (seg + 8))).mul t).mul t))
/-- FTAB (R203). -/
def execFtab (d a b : BitVec 6) (x y : Bool) (s : State) : Out :=
  laneOp (.ftab d a b x y)
    (fun s c l =>
      let th := s.thread c.gk l
      if tabValid (c.team.table th.gen) ((th.rd b).toNat % 4) then .ok else .of .format)
    (fun _ c _ th => th.wr d (tabEval (c.team.table th.gen) ((th.rd b).toNat % 4) (th.rd a))) s

end Sys2Proof.Machine
end

