-- ==== Sys2Proof/Machine/Home.lean ====
section
/-!
DEFINITION. Packets at their homes (R278 to R280): when one that waits may be applied or answered, and how it leaves the
early buffer.
-/
namespace Sys2Proof.Machine

/-- A write, atomic or command that waits at node `k` may be applied (R279). -/
def applicable (s : State) (k : Nat) (p : Packet) : Bool :=
  Stamp.leBut p.src p.stamp (s.node k).a && (s.node k).applied k p.src == p.seq - 1#16
/-- A read that waits at node `k` may be answered (R280).  (DEDUCED, assumption 72) -/
def answerable (s : State) (k : Nat) (p : Packet) : Bool := Stamp.le p.stamp (s.node k).a
/-- Packet number `idx` of those that wait at node `k`. -/
def earlyAt (s : State) (k idx : Nat) : Option Packet := (s.node k).early[idx]?
/-- Clk between two values of the time counter. -/
def clkSince (s : State) (t : Nat) : Nat := (s.time - BitVec.ofNat 48 t).toNat
/-- While a resynchronisation drains, a packet has been applied, answered or delivered now (R287). -/
def State.notCalm (s : State) : State := { s with resync := s.resync.map (fun r => { r with calmFrom := s.time.toNat }) }
/-- The packet leaves the early buffer, and A follows (R278). -/
def takeEarly (s : State) (k idx : Nat) : State :=
  ((s.modNode k (fun n => { n with early := dropAt n.early idx })).refreshA k).notCalm
/-- The packet leaves the early buffer applied: the home learns what its stamp names (R279). -/
def takeApplied (s : State) (k idx : Nat) (p : Packet) : State := (takeEarly s k idx).learn k p.stamp
/-- No write that may be applied still waits at a node: within a clk writes come before reads (R280). -/
def writesFirst (s : State) (k : Nat) : Bool := (s.node k).early.all (fun p => !p.body.writes || !applicable s k p)

/-- An operation of this place in the order of R223 may still be performed on a row in the present clk. -/
def rowRank (s : State) (row rank : Nat) : Bool := decide (SMap.get s.fresh.rows row 0 ≤ rank)
/-- It is performed. -/
def State.atRow (s : State) (row rank : Nat) : State := { s with fresh := { s.fresh with rows := SMap.put s.fresh.rows row rank } }

/-- A write reaches its place; node 8 sends one for KIND 2 or 3 on the host link (R261, R352).  (DEDUCED, assumption 44) -/
def applyWrite (s : State) (l : Loc) (bs : List Byte) : State :=
  let s := if l.kind = 3 then s else s.writeLoc l bs
  if l.kind < 2 then s else { s with link := s.link ++ [.write { kind := l.kind, pa := l.pa } bs] }

end Sys2Proof.Machine
end

