-- ==== Sys2Proof/Machine/Log.lean ====
section
/-!
DEFINITION. Interrupts through the remapping table (R362), the error log (R375) and the fabric error records (R285, R289).
-/
namespace Sys2Proof.Machine

/-- A remapping entry that is valid (R362): its interface, address and data. -/
def remapEntry (s : State) (e : Nat) : Option (Nat × DWord × BitVec 32) :=
  let w := s.plat.remap.get e 0#128
  if w.getLsbD 96 && w.extractLsb' 97 7 == 0#7 && w.extractLsb' 110 18 == 0#18 then
    some ((w.extractLsb' 104 6).toNat, w.extractLsb' 0 64, w.extractLsb' 64 32)
  else none
/-- Node 8 sends a message-signalled interrupt (R362). -/
def sendInterrupt (s : State) (addr : DWord) (data : BitVec 32) : State := { s with link := s.link ++ [.interrupt addr data] }
/-- An entry of the error log, signalled through remapping entry 0 when that is valid (R375). -/
def logError (s : State) (transient : Bool) (code src : Nat) (detail : BitVec 96) : State :=
  let s := s.modPlat (fun p => { p with
    errLog := p.errLog ++ [{ seq := p.errSeq, time := s.time.toNat, transient := transient, code := code, src := src, detail := detail }],
    errSeq := p.errSeq + 1 })
  match remapEntry s 0 with
  | some (_, addr, data) => sendInterrupt s addr data
  | none => s

/-- SRC of an error-log entry (R375): the node, and a unit of it.  (DESIGN CHOICE, assumption 17) -/
def errSrc (node code : Nat) : Nat := node * 4096 + (Config.freeUnit code).toNat
/-- A memory error is logged (R375): DETAIL is the physical address, and SRC the node that is its home. -/
def logMemory (s : State) (transient : Bool) (node pa : Nat) : State := logError s transient 0x20 (errSrc node 0x20) (BitVec.ofNat 96 pa)
/-- A fabric error record as its 64 bits (R289). -/
def Ferr.word (f : Ferr) : BitVec 64 :=
  BitVec.ofBool f.v ++ 0#3 ++ BitVec.ofNat 4 f.code ++ f.epoch ++ BitVec.ofNat 4 f.src ++ BitVec.ofNat 4 f.dst ++ BitVec.ofNat 8 f.more ++ f.time
/-- A later error leaves the record as it is and is counted; the first one is recorded, and of several in the clk of the first the one
with the lowest code (R289). -/
def Ferr.record (f : Ferr) (now : Bool) (code : Nat) (epoch : BitVec 8) (src dst : Nat) (time : BitVec 48) : Ferr :=
  if f.v && !(now && decide (code < f.code)) then { f with more := Nat.min (f.more + 1) 255 }
  else if f.v then { f with code := code, epoch := epoch, src := src, dst := dst, more := Nat.min (f.more + 1) 255 }
  else { v := true, code := code, epoch := epoch, src := src, dst := dst, more := 0, time := time.extractLsb' 0 32 }
/-- A node detects an error of R285: it is recorded, and reported to Ling and to the host (R289, R375). -/
def fabricError (s : State) (node code src dst : Nat) : State :=
  let first := !(s.node node).ferr.v
  let s := s.modNode node (fun n => { n with ferr := n.ferr.record (s.fresh.errs.contains node) code n.epoch src dst s.time })
  let s : State := if first then { s with fresh := { s.fresh with errs := node :: s.fresh.errs } } else s
  logError s (code == 1) code (errSrc node code) ((s.node node).ferr.word.zeroExtend 96)

end Sys2Proof.Machine
end

