-- ==== Sys2Proof/Machine/Sa.lean ====
section
/-!
DEFINITION. Stream accumulators and the Stile (R219 to R248): rows, adds, sealing, reads, held requests, the vector side
and the lead side.
-/
namespace Sys2Proof.Machine

/-! ## Addresses and rows -/

/-- SCOPE, HOME, and for QUAD rows the quad, of an SA address (R220). -/
def saScope (a : Nat) : Nat := a / 2 ^ 27 % 4
/-- The home die of an address. -/
def saDie (a : Nat) : Nat := a / 2 ^ 29 % 8
/-- The quad field of a QUAD address. -/
def saQuad (a : Nat) : Nat := a / 2 ^ 22 % 32
/-- The row id of an address, when it names a row (R220). -/
def saRow (a : Nat) : Option Nat :=
  if 2 ^ 32 ≤ a || saScope a = 3 || (saScope a = 0 && 24 ≤ saQuad a) then none else some (a / 2 ^ 15)
/-- A core stands inside the scope of an address (R221, R232). -/
def saInScope (core a : Nat) : Bool :=
  (saScope a != 0 || (saDie a == dieOf core && saQuad a == core % 96 / 4)) && (saScope a != 1 || saDie a == dieOf core)
/-- ELEM of an address. -/
def saElem (a : Nat) : Nat := a % 2 ^ 15

/-- An element of a row, signed. -/
def Row.elem (r : Row) (i : Nat) : Int := (r.q.get i 0#64).toInt
/-- A row is sealed (R219). -/
def Row.sealed (r : Row) : Bool := r.count == r.t
/-- One add to an element, with the cross-term (R225). -/
def Row.add (r : Row) (i : Nat) (dq : Int) : Row :=
  let old := r.elem i
  let q := BitVec.ofInt 64 (old + dq)
  { r with
    q := SMap.set r.q i q 0#64, q2 := r.q2 + BitVec.ofInt 128 (q.toInt * q.toInt - old * old), count := r.count + 1 }
/-- Q as the sum of the squares of a row's elements (R219). -/
def Row.squares (r : Row) : Int := (r.q.map (fun e => e.2.toInt * e.2.toInt)).sum
/-- An element too large for the Stile (R227). -/
def Row.tooLarge (r : Row) : Bool := r.q.any (fun e => decide (2 ^ 56 ≤ e.2.toInt.natAbs))
/-- 1 / sqrt(num x 2^exp / den), rounded to FP32 (R227).  (DEDUCED, assumption 37) -/
def rsqrtRatio (num : Nat) (exp : Int) (den : Nat) : Word :=
  if num = 0 then 0x7F800000#32
  else
    let k0 : Nat := Nat.log2 num + 96
    let k : Nat := if (k0 + exp) % 2 = 0 then k0 else k0 + 1
    let r := sqrtBits (den * 2 ^ k / num) 128 0
    BitVec.ofNat 32 (fp32.roundSticky .rn false r (-((k + exp) / 2)) (num * r * r != den * 2 ^ k))
/-- The Stile's factor r (R227). -/
def Row.rFactor (r : Row) : Word :=
  let eps := match fp32.decode r.eps.toNat with
    | .fin _ m e => (m, e)
    | .inf _ => (0, 0)
    | .nan => (0, 0)
  let lo := min (2 * r.e - 80) eps.2
  rsqrtRatio (r.q2.toNat * 2 ^ (2 * r.e - 80 - lo).toNat + r.n * eps.1 * 2 ^ (eps.2 - lo).toNat) lo r.n
/-- The row with its factor kept while it is sealed (R219). -/
def Row.withFactor (r : Row) : Row := { r with factor := if r.sealed then some r.rFactor else none }
/-- The output format of a row (R219). -/
def Row.fmt (r : Row) : Fmt := if r.ofmt = 1 then fp32 else if r.ofmt = 2 then bf16 else e4m3
/-- The code y_i that the Stile returns (R227); `g` is the gain element. -/
def Row.stile (r : Row) (i : Nat) (g : Fp) : Nat :=
  let q := r.elem i
  let x := ofScaled q (r.e - 40) false
  match g with
  | .nan => r.fmt.nan
  | .inf neg => r.fmt.round .rn (x.mul (.inf neg))
  | .fin neg m e =>
    if q = 0 then 0
    else if m = 0 then r.fmt.sign (decide (q < 0) != neg)
    else r.fmt.round .rn ((x.mul (fp32.decode (r.factor.getD r.rFactor).toNat)).mul (.fin neg m e))
/-- Where gain element `i` of a row stands. -/
def Row.gainLoc (r : Row) (i : Nat) : Option Loc := segLoc r.gain (2 * i)
/-- Gain element `i`, or 1 (R227).  (DEDUCED, assumption 24) -/
def gainAt (s : State) (r : Row) (i : Nat) : Fp :=
  match r.gainLoc i with
  | some l => bf16.decode (natOfBytes (s.readLoc l 2))
  | none => .fin false 1 0

/-- A request's elements: how many from ELEM on (R232). -/
def SaOp.elems : SaOp → Nat
  | .add _ => 1
  | .addh _ => 2
  | .rd => 1
  | .rdh => 2
  | .rdq => 4
  | .wait => 0
  | .cnt => 0
/-- The FP32 values that an add carries (R233). -/
def SaOp.values : SaOp → List Word
  | .add x => [x]
  | .addh x => [x <<< 16, x &&& 0xFFFF0000#32]
  | .rd => []
  | .rdh => []
  | .rdq => []
  | .wait => []
  | .cnt => []
/-- A read whose thread goes on once it is accepted (R229). -/
def SaOp.reads : SaOp → Bool
  | .rd => true
  | .rdh => true
  | .rdq => true
  | .add _ => false
  | .addh _ => false
  | .wait => false
  | .cnt => false
/-- The conversion of R224. -/
def saConvert (e : Int) (x : Word) : Int :=
  match fpOf x with
  | .fin neg m ex => roundInt .rn neg m (ex + 40 - e)
  | .inf _ => 0
  | .nan => 0
/-- Bits of the width of an output in a read of several. -/
def packOutputs (w : Nat) : List Nat → Nat
  | [] => 0
  | y :: ys => y + 2 ^ w * packOutputs w ys
/-- The word of a read (R234). -/
def readWord (s : State) (row : Row) (r : SaReq) : Word :=
  let i := saElem r.addr.toNat
  let ys := (List.range r.op.elems).map (fun k => row.stile (i + k) (gainAt s row (i + k)))
  BitVec.ofNat 32 (packOutputs (match r.op with | .rdh => 16 | _ => 8) ys)
/-- Where the gain elements of a read stand. -/
def gainLocs (row : Row) (r : SaReq) : List Loc := (List.range r.op.elems).filterMap (fun k => row.gainLoc (saElem r.addr.toNat + k))
/-- The gain elements that a read needs may be read under the reader's knowledge (R227): their homes have applied it, and the writes that
they may apply come first (R280). -/
def gainReady (s : State) (row : Row) (r : SaReq) (stamp : Stamp) : Bool :=
  (gainLocs row r).all (fun l => Stamp.le stamp (s.node (homeOf l)).a) && writesOver s (gainLocs row r)
/-- The reads that an operation takes from those held answer after the writes that their gains' homes may apply (R280). -/
def heldOver (s u : State) : Bool :=
  s.heldReqs.all (fun h => u.heldReqs.contains h || match h with
    | .req r _ => match u.rows.find (r.addr.toNat / 2 ^ 15) with
      | some row => writesOver s (gainLocs row r)
      | none => true
    | .merge _ _ _ _ _ _ => true)

/-! ## At the home -/

/-- Answer a request of a thread. -/
def saReply (s : State) (k : Nat) (r : SaReq) (a : Answer) (val : List Word) (held : Bool) : State :=
  s.sendResp k r.node (.sa r a val held)
/-- Refuse a request when it arrives. -/
def saRefuse (s : State) (k : Nat) (r : SaReq) (c : Cause) : State := saReply s k r (.refused c r.addr) [] false
/-- The row of a request, when it passes step 4 of R229. -/
def saRowOf (s : State) (r : SaReq) : Option Row :=
  match saRow r.addr.toNat with
  | none => none
  | some id =>
    match s.rows.find id with
    | none => none
    | some row =>
      if inTree s (treeFuel s) row.owner r.task && saElem r.addr.toNat + r.op.elems ≤ (if r.op.elems = 0 then 2 ^ 15 else row.n)
      then some row else none
/-- Answer a read or wait of a sealed row (R227, R234, R235). -/
def saRead (s : State) (k : Nat) (row : Row) (r : SaReq) (held : Bool) : State :=
  if row.tooLarge then saReply s k r (.refused .saRange r.addr) [] held
  else
    let s := if r.op.reads then s.absorb k (gainLocs row r) else s
    saReply s k r .done (if r.op.reads then [readWord s row r] else []) held
/-- A team by its number, resident or saved. -/
def anyTeam (s : State) (uid : Nat) : Option Team :=
  match teamByUid s uid with
  | some t => some t.2
  | none => match s.images.find uid with
    | some i => some i.team
    | none => none
/-- Change a team by its number, resident or saved. -/
def State.modAny (s : State) (uid : Nat) (f : Team → Team) : State :=
  match teamByUid s uid with
  | some t => s.modTeam t.1 f
  | none => { s with images := s.images.mod uid (fun i => { i with team := f i.team }) }
/-- Change what the lead waits for. -/
def Team.setWait (t : Team) (w : LWait) : Team := { t with lead := { t.lead with wait := w } }
/-- The number of AU that an unwind gives back for a lead's SA command (R317). -/
def saMark (s : State) (uid id : Nat) (done : Bool) : State :=
  s.modAny uid (fun t => match t.lead.wait with
    | .saCmd i w cost _ => if i = id then t.setWait (.saCmd i w cost (if done then 0 else cost)) else t
    | .none | .barw _ | .arv _ | .qsend _ | .unit _ _ _ | .unwind _ | .spawnW _ _ _ _ _ | .mwait _ | .cpwait _ | .saload _ => t)
/-- A lead's SA command is refused.  The report of R31 names the address of the row's element 0 (DESIGN CHOICE, assumption 60). -/
def saCmdRefuse (s : State) (k id uid node : Nat) (c : Cause) (row : Nat) : State :=
  (saMark s uid id false).sendResp k node (.saDone uid id (.refused c (BitVec.ofNat 32 (row * 2 ^ 15))))
/-- A lead's SA command has been performed. -/
def saCmdDone (s : State) (k id uid node : Nat) : State := (saMark s uid id true).sendResp k node (.saDone uid id .done)
/-- The adds of a merge into a row (R243). -/
def mergeAdds (row : Row) (vs : List (BitVec 64)) : Row :=
  (vs.foldl (fun (p : Nat × Row) v => (p.1 + 1, p.2.add p.1 v.toInt)) (0, row)).2.withFactor
/-- The values of a row's elements. -/
def Row.values (r : Row) : List (BitVec 64) := (List.range r.n).map (fun i => r.q.get i 0#64)
/-- The merge reaches the destination row's home `k` (R243). -/
def mergeInto (s : State) (k id uid task node dst : Nat) (vs : List (BitVec 64)) : State :=
  match s.rows.find dst with
  | none => saCmdRefuse s k id uid node .saScope dst
  | some row =>
    if row.owner ≠ task then saCmdRefuse s k id uid node .saScope dst
    else if row.count + vs.length > row.t then saCmdRefuse s k id uid node .saCount dst
    else saCmdDone { s with rows := s.rows.put dst (mergeAdds row vs) } k id uid node
/-- A merge whose source is sealed, at the source's home (R243): it adds to a row of the same home at once. -/
def mergeFrom (s : State) (id uid task node src dst : Nat) : State :=
  match s.rows.find src with
  | none => saCmdRefuse s (rowHome src) id uid node .saScope src
  | some row =>
    if rowHome dst = rowHome src then (mergeInto s (rowHome src) id uid task node dst row.values).atRow dst 1
    else s.sendCausal (rowHome src) (rowHome dst) (.saCmd id uid task node (.mergeIn dst row.values))
/-- A merge that is held at its source may be performed (R223, R243, R283): no read of its destination has gone before in this clk, or
its values can be sent there. -/
def mergeCan (s : State) (src dst : Nat) : Bool :=
  if rowHome dst = rowHome src then rowRank s dst 1 else canSend s (rowHome src)
/-- Answer what is held at a row that is sealed (R223): reads, and merges, which may seal other rows in turn; `fuel` bounds
them. -/
def settleRow : Nat → State → Nat → State
  | 0, s, _ => s
  | fuel + 1, s, id =>
    match s.rows.find id with
    | none => s
    | some row =>
      if !row.sealed then s
      else
        let ready : Held → Bool := fun h => h.atRow id && match h with
          | .req _ _ => true
          | .merge _ _ _ _ src dst => mergeCan s src dst
        let mine := s.heldReqs.filter ready
        mine.foldl (fun s h => match h with
          | .req r _ => saRead s (rowHome id) row r true
          | .merge i uid task node src dst => settleRow fuel (mergeFrom s i uid task node src dst) dst)
          { s with heldReqs := s.heldReqs.filter (fun h => !ready h) }
/-- The row after an operation, and what is held there if it is sealed. -/
def putRow (s : State) (id : Nat) (row : Row) : State :=
  settleRow (s.heldReqs.length + 1) { s with rows := s.rows.put id row.withFactor } id

/-- An add at its home (R224 to R226, R229, R233). -/
def saAdd (s : State) (k : Nat) (r : SaReq) : State :=
  match saRowOf s r with
  | none => saRefuse s k r .saScope
  | some row =>
    let dqs := r.op.values.map (saConvert row.e)
    if dqs.any (fun d => decide (2 ^ 62 < d.natAbs)) then saRefuse s k r .saRange
    else if row.count + dqs.length > row.t then saRefuse s k r .saCount
    else
      let i := saElem r.addr.toNat
      let row := (dqs.foldl (fun (p : Nat × Row) d => (p.1 + 1, p.2.add p.1 d)) (i, row)).2
      saReply (putRow s (r.addr.toNat / 2 ^ 15) row) k r .done [] false
/-- An uncorrectable error in a row's storage (R249): the operation is refused without effect, the error is logged, and the team that
asked for it halts. -/
def rowFault (s : State) (task row : Nat) : State :=
  systemHandler (logMemory s false (rowHome row) (row * 2 ^ 15)) task Cause.memErr.code 0#32 0#32 0#64 (BitVec.ofNat 64 (row * 2 ^ 15))
/-- The storage of a row has an uncorrectable error. -/
def rowBad (s : State) (row : Nat) : Bool := match s.rows.find row with
  | some r => r.bad
  | none => false
/-- What a die's store of held requests has taken (R230). -/
def heldAt (s : State) (k : Nat) : Nat :=
  (s.heldReqs.filter (fun h => match h with
    | .req q _ => saDie q.addr.toNat == k
    | .merge _ _ _ _ src _ => rowHome src == k)).length
/-- What a read, wait or count request comes to when it reaches its home (R230, R234, R235); none while it cannot be
answered or held.  A read is held from when its gain may be read on.  A read of a size that the row's format lacks is refused with FORMAT
before an unsealed row is looked at (DESIGN CHOICE, assumption 61).  (DEDUCED, assumption 28) -/
def saAsk (s : State) (k : Nat) (r : SaReq) (stamp : Stamp) : Option State :=
  match saRowOf s r with
  | none => some (saRefuse s k r .saScope)
  | some row =>
    if r.op = .cnt then some (saReply s k r .done [BitVec.ofNat 32 row.count] false)
    else if (r.op = .rdh && row.ofmt ≠ 2) || (r.op = .rdq && row.ofmt ≠ 3) then some (saRefuse s k r .format)
    else if row.sealed then
      (if row.tooLarge || !r.op.reads || gainReady s row r stamp then some (saRead s k row r false) else none)
    else if r.trapPol then some (saReply s k r (.refused .emptyRead 0#32) [] false)
    else if r.op.reads && !gainReady s row r stamp then none
    else if Config.heldMax ≤ heldAt s k then none
    else
      let s : State := { s with heldReqs := s.heldReqs ++ [.req r stamp] }
      some (if r.op.reads then saReply s k r .done [] false else s)

/-! ## Eviction images -/

/-- Neighbouring stretches of a place as one. -/
def joinSegs : List Seg → List Seg
  | [] => []
  | g :: gs =>
    match joinSegs gs with
    | [] => [g]
    | h :: hs =>
      if g.loc.kind = h.loc.kind && g.loc.pub = h.loc.pub && g.loc.pa + g.size = h.loc.pa then { g with size := g.size + h.size } :: hs
      else g :: h :: hs
/-- The code of a page size of a publishable buffer, 0 for none. -/
def pubCode (pub : Nat) : Nat := if pub = 0 then 0 else if pub = 2 ^ 16 then 1 else if pub = 2 ^ 21 then 2 else 3
/-- The page size of a code. -/
def pubOf (code : Nat) : Nat := if code = 0 then 0 else if code = 1 then 2 ^ 16 else if code = 2 then 2 ^ 21 else 2 ^ 30
/-- The GAIN field of an image (DESIGN CHOICE, assumption 16): of a vector in one stretch its KIND, the size of its publishable page, and
the physical address of its first byte; of any other its place in `tab`. -/
def gainCode (tab : List (List Seg)) (g : List Seg) : Nat :=
  match joinSegs g with
  | [] => 0
  | [x] => x.loc.kind * 2 ^ 60 + pubCode x.loc.pub * 2 ^ 58 + 2 ^ 57 + x.loc.pa
  | x :: xs => 15 * 2 ^ 60 + ((findIdx (fun y => y == x :: xs) tab 0).map Prod.fst).getD tab.length
/-- The gain vector of `n` elements that a GAIN field stands for.  (DESIGN CHOICE, assumption 16) -/
def gainOf (tab : List (List Seg)) (code n : Nat) : List Seg :=
  if code = 0 then []
  else if code / 2 ^ 60 = 15 then tab.getD (code % 2 ^ 60) []
  else [{ va := 0, size := 2 * n, loc := { kind := code / 2 ^ 60, pa := code % 2 ^ 57, pub := pubOf (code / 2 ^ 58 % 4) } }]
/-- A gain vector that an image will name has its place in the list. -/
def State.noteGain (s : State) (g : List Seg) : State :=
  if (joinSegs g).length < 2 || s.gainTab.contains (joinSegs g) then s else { s with gainTab := s.gainTab ++ [joinSegs g] }
/-- Elements of an image take four bytes (R245). -/
def Row.packed (r : Row) : Bool := r.q.all (fun e => decide (e.2.toInt.natAbs < 2 ^ 31))
/-- Bytes of a row's image (R244). -/
def Row.imageBytes (r : Row) : Nat := 64 + (if r.packed then 4 else 8) * r.n
/-- The eviction image of a row (R244). -/
def Row.image (tab : List (List Seg)) (r : Row) : List Byte :=
  bytesOfNat 64 (1 + (if r.packed then 2 ^ 8 else 0) + r.n * 2 ^ 16 + (BitVec.ofInt 8 r.e).toNat * 2 ^ 32 + r.scope * 2 ^ 40
    + r.ofmt * 2 ^ 48 + r.eps.toNat * 2 ^ 64 + r.t * 2 ^ 96 + r.count * 2 ^ 128 + gainCode tab r.gain * 2 ^ 192 + r.q2.toNat * 2 ^ 256)
  ++ (List.range r.n).flatMap (fun i => bytesOfNat (if r.packed then 4 else 8) (r.q.get i 0#64).toNat)
/-- An FP32 value allowed as epsilon (R238). -/
def epsOk (w : Nat) : Bool :=
  match fp32.decode w with
  | .fin neg m _ => !neg || m == 0
  | .inf _ => false
  | .nan => false
/-- The elements of an image. -/
def imageElems (w n : Nat) (bs : List Byte) : SMap (BitVec 64) :=
  (List.range n).foldl (fun m i =>
    let v := natOfBytes ((bs.drop (w * i)).take w)
    let q : BitVec 64 := if w = 4 then (BitVec.ofNat 32 v).signExtend 64 else BitVec.ofNat 64 v
    SMap.set m i q 0#64) []
/-- Bytes of the image whose header is `h` (R244). -/
def headerBytes (h : Nat) : Nat := 64 + (if natBits h 8 8 = 1 then 4 else 8) * natBits h 31 16
/-- A header in order (R246). -/
def headerGood (h : Nat) : Bool :=
  natBits h 7 0 == 1 && natBits h 15 9 == 0 && natBits h 63 56 == 0 && natBits h 191 160 == 0 && natBits h 511 384 == 0
  && 1 ≤ natBits h 31 16 && natBits h 31 16 ≤ 32768 && natBits h 47 40 ≤ 2 && 1 ≤ natBits h 55 48 && natBits h 55 48 ≤ 3
  && epsOk (natBits h 95 64) && 1 ≤ natBits h 127 96 && natBits h 159 128 ≤ natBits h 127 96
/-- The row of an image, for a new owner (R246). -/
def imageRow (tab : List (List Seg)) (h : Nat) (bs : List Byte) (owner : Nat) : Row :=
  Row.withFactor
  { n := natBits h 31 16, e := (BitVec.ofNat 8 (natBits h 39 32)).toInt, scope := natBits h 47 40, ofmt := natBits h 55 48,
    eps := BitVec.ofNat 32 (natBits h 95 64), gain := gainOf tab (natBits h 255 192) (natBits h 31 16),
    t := natBits h 127 96, count := natBits h 159 128, q2 := BitVec.ofNat 128 (natBits h 383 256), owner := owner,
    q := imageElems (if natBits h 8 8 = 1 then 4 else 8) (natBits h 31 16) (bs.drop 64), factor := none, bad := false }

/-- The bytes of a stretch cut at every change of home, each piece with its place; `fuel` bounds them. -/
def homeRuns : Nat → Loc → List Byte → List (Loc × List Byte)
  | 0, _, _ => []
  | fuel + 1, l, bs =>
    if bs.isEmpty then []
    else
      let n := 1024 - l.pa % 1024
      (l, bs.take n) :: homeRuns fuel { l with pa := l.pa + n } (bs.drop n)
/-- Bytes over some stretches, by the pieces that are written. -/
def segRuns : List Seg → List Byte → List (Loc × List Byte)
  | [], _ => []
  | g :: gs, bs => homeRuns (g.size / 1024 + 2) g.loc (bs.take g.size) ++ segRuns gs (bs.drop g.size)
/-- Node `k` writes an eviction image back (R245, R272): as causal packets of its own, in the queue `q` of the command. -/
def sendRuns (s : State) (k q uid task : Nat) (rs : List (Loc × List Byte)) : State :=
  rs.foldl (fun (s : State) r =>
    ({ s with nextId := s.nextId + 1 } : State).addOp q (.lead uid) task k
      { id := s.nextId, loc := r.1, n := r.2.length, kind := .store r.2, sent := false, got := none }) s
/-- The image of a row goes to its pages. -/
def evictImage (s : State) (k uid task : Nat) (image : List Seg) (r : Row) : State :=
  let s := s.noteGain r.gain
  sendRuns { s with nextId := s.nextId + 1 } k s.nextId uid task (segRuns image (r.image s.gainTab))

/-- A lead-side command at its row's home `k` (R237, R240 to R243, R245); none while the home's store of held requests has no place for it
(R230). -/
def saCommand (s : State) (k id uid task node : Nat) (c : SaCmd) : Option State :=
  let owned : Nat → (Row → State) → State := fun row f =>
    match s.rows.find row with
    | none => saCmdRefuse s k id uid node .saScope row
    | some r => if r.owner = task then f r else saCmdRefuse s k id uid node .saScope row
  match c with
  | .open_ row t => some (owned row (fun r => saCmdDone { s with rows := s.rows.put row { r with t := t, count := 0, factor := none } } k id uid node))
  | .clear row =>
    some (owned row (fun r => saCmdDone { s with rows := s.rows.put row { r with q := [], q2 := 0#128, count := 0, factor := none } } k id uid node))
  | .free row => some (owned row (fun _ => saCmdDone (freeRow s row) k id uid node))
  | .evict row image _ =>
    some (owned row (fun r =>
      if (image.map Seg.size).sum < r.imageBytes then saCmdRefuse s k id uid node .permission row
      else saCmdDone (freeRow (evictImage s k uid task image r) row) k id uid node))
  | .merge src dst =>
    match s.rows.find src, s.rows.find dst with
    | some r, some d =>
      if r.owner ≠ task then some (saCmdRefuse s k id uid node .saScope src)
      else if d.owner ≠ task then some (saCmdRefuse s k id uid node .saScope dst)
      else if r.n ≠ d.n || r.e ≠ d.e then some (saCmdRefuse s k id uid node .format src)
      else if r.sealed && mergeCan s src dst then
        some (settleRow (s.heldReqs.length + 1) (mergeFrom s id uid task node src dst) dst)
      else if Config.heldMax ≤ heldAt s k then none
      else some { s with heldReqs := s.heldReqs ++ [.merge id uid task node src dst] }
    | none, _ => some (saCmdRefuse s k id uid node .saScope src)
    | some _, none => some (saCmdRefuse s k id uid node .saScope dst)
  | .mergeIn dst vs => some (settleRow (s.heldReqs.length + 1) (mergeInto s k id uid task node dst vs) dst)

/-! ## The steps at the home -/

/-- The row that a waiting packet operates on, and its place in the order of R223: commands, adds, reads. -/
def saTurn : Body → Option (Nat × Nat)
  | .saReq r => some (r.addr.toNat / 2 ^ 15, match r.op with
    | .add _ => 1
    | .addh _ => 1
    | .rd => 2
    | .rdh => 2
    | .rdq => 2
    | .wait => 2
    | .cnt => 2)
  | .saCmd _ _ _ _ c => some (match c with
    | .open_ row _ => row
    | .clear row => row
    | .free row => row
    | .evict row _ _ => row
    | .merge src _ => src
    | .mergeIn dst _ => dst, 0)
  | .read _ _ _ _ => none
  | .write _ _ _ _ => none
  | .atom _ _ _ _ _ _ _ => none
  | .copyRead _ _ _ => none
  | .copyWrite _ _ _ _ => none
  | .publ _ _ => none
  | .arrive _ _ => none
/-- No operation on the same row that comes first in a clk is performable (R223). -/
def saFirst (s : State) (k : Nat) (b : Body) : Bool :=
  match saTurn b with
  | none => true
  | some t => (s.node k).early.all (fun p =>
    match saTurn p.body with
    | none => true
    | some u => u.1 != t.1 || t.2 ≤ u.2 || !applicable s k p)
/-- The storage that a packet's operation meets has an error, which the task that asked for it answers for (R249). -/
def bodyBad (s : State) (b : Body) : Option (Nat × Nat) :=
  match saTurn b, b with
  | some t, .saReq r => if rowBad s t.1 then some (r.task, t.1) else none
  | some t, .saCmd _ _ task _ _ => if rowBad s t.1 then some (task, t.1) else none
  | _, _ => none
/-- An operation at a row's home in its turn (R223): packet `idx` is performed by `f`, unless the row's storage has an error (R249). -/
def atHome (s : State) (node idx : Nat) (p : Packet) (f : State → Option State) : Out :=
  match saTurn p.body with
  | none => .refused .notEnabled
  | some t =>
    if !saFirst s node p.body || !rowRank s t.1 t.2 then .refused .notEnabled
    else
      match bodyBad s p.body with
      | some e => .next (rowFault (takeApplied s node idx p) e.1 e.2)
      | none =>
        match f s with
        | some u => if heldOver s u then .next (u.atRow t.1 t.2) else .refused .notEnabled
        | none => .refused .notEnabled
/-- SA_ADD_APPLY (R225): an add that may be applied is checked and applied. -/
def execSaAddApply (node idx : Nat) (s : State) : Out :=
  match earlyAt s node idx with
  | none => .refused .notEnabled
  | some p =>
    match p.body with
    | .saReq r =>
      if r.op.values.isEmpty || !applicable s node p then .refused .notEnabled
      else atHome s node idx p (fun s => some (saAdd (takeApplied s node idx p) node r))
    | .read _ _ _ _ | .write _ _ _ _ | .atom _ _ _ _ _ _ _ | .copyRead _ _ _ | .copyWrite _ _ _ _ | .publ _ _
    | .saCmd _ _ _ _ _ | .arrive _ _ => .refused .notEnabled
/-- What is held at a sealed row is answered or performed when it can be. -/
def saHeldLater (s : State) (node n : Nat) : Out :=
  match s.heldReqs[n]? with
  | some (.req r stamp) =>
    match saRowOf s r with
    | some row =>
      if saDie r.addr.toNat = node && row.sealed && gainReady s row r stamp then
        .next (saRead { s with heldReqs := dropAt s.heldReqs n } node row r true)
      else .refused .notEnabled
    | none => .refused .notEnabled
  | some (.merge id uid task from_ src dst) =>
    match s.rows.find src with
    | some row =>
      let u := settleRow (s.heldReqs.length + 1) (mergeFrom { s with heldReqs := dropAt s.heldReqs n } id uid task from_ src dst) dst
      if rowHome src = node && row.sealed && mergeCan s src dst && heldOver s u then .next u else .refused .notEnabled
    | none => .refused .notEnabled
  | none => .refused .notEnabled
/-- SA_READ_REQUEST (R234, R235): a read, wait or count request is answered, held or refused, once the writes that may be applied at its
home have been (R280); beyond the waiting packets `idx` counts on through the held requests. -/
def execSaReadRequest (node idx : Nat) (s : State) : Out :=
  match earlyAt s node idx with
  | none => saHeldLater s node (idx - (s.node node).early.length)
  | some p =>
    match p.body with
    | .saReq r =>
      if !r.op.values.isEmpty || !answerable s node p || !writesFirst s node then .refused .notEnabled
      else atHome s node idx p (fun s => saAsk (takeEarly s node idx) node r p.stamp)
    | .read _ _ _ _ | .write _ _ _ _ | .atom _ _ _ _ _ _ _ | .copyRead _ _ _ | .copyWrite _ _ _ _ | .publ _ _
    | .saCmd _ _ _ _ _ | .arrive _ _ => .refused .notEnabled
/-- SA_COMMAND_PERFORM (R237). -/
def execSaCommandPerform (node idx : Nat) (s : State) : Out :=
  match earlyAt s node idx with
  | none => .refused .notEnabled
  | some p =>
    match p.body with
    | .saCmd id uid task n c =>
      if !applicable s node p then .refused .notEnabled
      else atHome s node idx p (fun s => saCommand (takeApplied s node idx p) node id uid task n c)
    | .read _ _ _ _ | .write _ _ _ _ | .atom _ _ _ _ _ _ _ | .copyRead _ _ _ | .copyWrite _ _ _ _ | .publ _ _
    | .saReq _ | .arrive _ _ => .refused .notEnabled

/-! ## The vector side -/

/-- The scope check of a member (R232), then alignment and SA_INVALID. -/
def saCheck (a : BitVec 6) (op : Thread → SaOp) (s : State) (c : GCtx) (l : Nat) : Verdict :=
  let th := s.thread c.gk l
  let addr := (th.rd a).toNat
  if (saRow addr).isNone || !saInScope c.core addr then .at .saScope (BitVec.ofNat 64 addr)
  else if (op th).elems ≠ 0 && saElem addr % (op th).elems ≠ 0 then .at .align (BitVec.ofNat 64 addr)
  else if (op th).values.any (fun w => match fpOf w with
      | .fin _ _ _ => false
      | .inf _ => true
      | .nan => true) then .at .saInvalid (BitVec.ofNat 64 addr)
  else if s.removed.contains (saDie addr) then .lost
  else .ok
/-- The request of a member (R229). -/
def saRequest (c : GCtx) (l : Nat) (op : SaOp) (addr : Word) (trapPol : Bool) (dst : Nat) (rest : List Consumer)
    (word dest : Word) (s : State) : State :=
  let r : SaReq := { id := s.nextId, uid := c.team.uid, gid := c.group.gid, lane := l, node := dieOf c.core, core := c.core,
                     task := c.team.task, op := op, addr := addr, trapPol := trapPol, dst := dst, rest := rest, word := word, dest := dest }
  ({ s with nextId := s.nextId + 1 } : State).sendCausal (dieOf c.core) (saDie addr.toNat) (.saReq r)
/-- A home-answered instruction (R229): one request per member in ascending lane order; then the set waits. -/
def saSet (i : Instr) (one : GCtx → Nat → State → State) (c : GCtx) (lanes : List Nat) (s : State) : State :=
  let r := (sortLanes lanes).foldl (fun (p : State × List (Nat × Nat × Answer)) l =>
    (one c l p.1, p.2 ++ [(l, p.1.nextId, Answer.waiting)])) (s, [])
  goOn c (.answers r.2 c.path.pos (wordOf i) i.cost) r.1
/-- A vector-side SA instruction without a destination of its own issue. -/
def saVector (i : Instr) (a : BitVec 6) (x : Bool) (op : Thread → SaOp) (d : Option (BitVec 6)) (s : State) : Out :=
  groupOp i (saCheck a op) holdStore
    (saSet i (fun c l s =>
      let th := s.thread c.gk l
      let dst := match d with
        | some r => th.ix r
        | none => 0
      let s' := if (op th).reads then s.onLanes c.gk [l] (fun _ th => th.await s.nextId [dst] none) else s
      let s' := if (op th).values.isEmpty then
          s'.addEdge th.ops (.thread c.team.uid c.group.gid l) c.team.task (dieOf c.core) s.nextId false
        else s'
      saRequest c l (op th) (th.rd a) x dst [] 0#32 0#32 s')) s
/-- SAADD (R233). -/
def execSaadd (a b : BitVec 6) (x y : Bool) (s : State) : Out :=
  saVector (.saadd a b x y) a x (fun th => .add (th.rd b)) none s
/-- SAADDH (R233). -/
def execSaaddh (a b : BitVec 6) (x y : Bool) (s : State) : Out :=
  saVector (.saaddh a b x y) a x (fun th => .addh (th.rd b)) none s
/-- SARD (R234). -/
def execSard (d a : BitVec 6) (x : Bool) (s : State) : Out := saVector (.sard d a x) a x (fun _ => .rd) (some d) s
/-- SARDH (R234). -/
def execSardh (d a : BitVec 6) (x : Bool) (s : State) : Out := saVector (.sardh d a x) a x (fun _ => .rdh) (some d) s
/-- SARDQ (R234). -/
def execSardq (d a : BitVec 6) (x : Bool) (s : State) : Out := saVector (.sardq d a x) a x (fun _ => .rdq) (some d) s
/-- SAWAIT (R235). -/
def execSawait (a : BitVec 6) (x : Bool) (s : State) : Out := saVector (.sawait a x) a x (fun _ => .wait) none s
/-- SACNT (R235). -/
def execSacnt (d a : BitVec 6) (x : Bool) (s : State) : Out := saVector (.sacnt d a x) a x (fun _ => .cnt) (some d) s

/-! ## Answers -/

/-- A read of a thread is over: it is not on its way any more. -/
def Thread.dropPend (th : Thread) (id : Nat) : Thread := { th with pend := th.pend.filter (fun q => q.id != id) }
/-- The other consumers of a SEND whose add has been accepted receive the word (R229). -/
def sendRest (r : SaReq) (s : State) : State :=
  r.rest.foldl (fun s d => { s with
    sends := s.sends ++ [{ id := s.nextId, uid := r.uid, core := r.core, task := r.task, gid := r.gid, lane := r.lane, dest_ := d, word := r.word, dest := r.dest }],
    nextId := s.nextId + 1 }) s
/-- An answer of a home reaches the thread (R229, R231, R234, R235); of a SEND whose team is gone the word still goes to the right
neighbour (R262). -/
def saAnswer (s : State) (r : SaReq) (a : Answer) (val : List Word) (held : Bool) : State :=
  match groupByUid s r.uid r.gid with
  | none =>
    match a with
    | .done => if r.op.reads then s else sendRest { r with rest := r.rest.filter (fun d => d == Consumer.next) } s
    | .waiting => s
    | .refused _ _ => s
  | some g =>
    let th : (Thread → Thread) → State → State := fun f s => s.onLanes g.2 [r.lane] (fun _ t => f t)
    match a with
    | .waiting => s
    | .done =>
      if r.op.reads then
        let s := match val with
          | [] => s
          | w :: _ => th (fun t => (t.dropPend r.id).setReg r.dst w) s
        if held then s else answerPath s r.uid r.gid r.id .done
      else
        let s := match val with
          | [] => s
          | w :: _ => th (fun t => t.setReg r.dst w) s
        answerPath (sendRest r s) r.uid r.gid r.id .done
    | .refused c addr =>
      if r.op.reads && held then th (fun t => (t.dropPend r.id).close r.dst c addr) s
      else
        let s := if r.op.reads then th (fun t => (t.dropPend r.id).markFull r.dst) s else s
        answerPath s r.uid r.gid r.id (.refused c addr)
/-- An answer that ends the request: not the acceptance of a read that is held (R229). -/
def saFinal (r : SaReq) (a : Answer) (val : List Word) : Bool := !(r.op.reads && a == .done && val.isEmpty)
/-- What a thread awaits from a home may come to it (R228, R254). -/
def saMay (s : State) (r : SaReq) : Bool :=
  match groupByUid s r.uid r.gid with
  | some g => edgeMay s (s.thread g.2 r.lane).ops (fun o => o.id == r.id)
  | none => true
/-- What a thread awaited from a home has come, with the home's knowledge: its place in the thread's program order is over (R228, R281). -/
def saEdge (s : State) (r : SaReq) (know : Stamp) : State :=
  match groupByUid s r.uid r.gid with
  | some g => edgeCame s (s.thread g.2 r.lane).ops (fun o => o.id == r.id) know
  | none => s
/-- An answer to a lead-side command reaches the lead, also that of a saved team (R237, R331). -/
def saLeadAnswer (s : State) (uid id : Nat) (a : Answer) : State :=
  match anyTeam s uid with
  | none => s
  | some t =>
    match t.lead.wait with
    | .saCmd i word cost _ =>
      if i ≠ id then s
      else
        let s := s.modAny uid (fun t => t.setWait .none)
        match a with
        | .waiting => s
        | .done => s
        | .refused c addr =>
          systemHandler (refund s t.task cost) t.task c.code
            (trapT0 false false Cls.lead.code (t.lead.remain + 1) none { cause := c, code := 0, addr := addr.zeroExtend 64 }) word
            (t.lead.pc - 4#64) (addr.zeroExtend 64)
    | .none | .barw _ | .arv _ | .qsend _ | .unit _ _ _ | .unwind _ | .spawnW _ _ _ _ _ | .mwait _ | .cpwait _ | .saload _ => s

/-! ## The lead side -/

/-- The window and the lead's own earlier accesses allow a command to be sent (R253, R283). -/
def leadReady (s : State) (c : LCtx) : Bool := roomFor s (dieOf c.core) 1 && quiet s c.team.lead.ops
/-- Send a lead-side command to its row's home and wait for it (R237). -/
def saSend (i : Instr) (c : LCtx) (cmd : SaCmd) (home cost back : Nat) (s : State) : State :=
  leadOnWait i c (.saCmd s.nextId (wordOf i) cost back)
    (({ s with nextId := s.nextId + 1 } : State).sendCausal (dieOf c.core) home
      (.saCmd s.nextId c.team.uid c.team.task (dieOf c.core) cmd))
/-- The row that a lead register names, when its home is there. -/
def leadRow (s : State) (c : LCtx) (a : BitVec 6) : Except LVerdict Nat :=
  match saRow (c.team.lead.reg a).toNat with
  | none => .error (.at .saScope (c.team.lead.reg a))
  | some row => if s.removed.contains (rowHome row) then .error .lost else .ok row
/-- The checks of a command on one row, after its own (R237). -/
def saRowCheck (a : BitVec 6) (pre : LCtx → LVerdict) (s : State) (c : LCtx) : LVerdict :=
  match pre c with
  | .ok =>
    match leadRow s c a with
    | .error e => e
    | .ok _ => if leadReady s c then .ok else .wait
  | v => v
/-- A command on one row with a fixed cost of 4 AU (R236). -/
def saSimple (i : Instr) (a : BitVec 6) (pre : LCtx → LVerdict) (cmd : LCtx → Nat → SaCmd) (s : State) : Out :=
  leadOp i (saRowCheck a pre)
    (fun _ _ => (4, 0))
    (fun c s =>
      match leadRow s c a with
      | .error _ => s
      | .ok row => saSend i c (cmd c row) (rowHome row) 4 0 s) s
/-- SAOPEN's own check (R240). -/
def saopenOk (b : BitVec 6) (c : LCtx) : LVerdict :=
  if c.team.lead.reg b = 0#64 || 2 ^ 32 ≤ (c.team.lead.reg b).toNat then .of .illegalOp else .ok
/-- A command on one row has no check of its own. -/
def saRowOk (_ : LCtx) : LVerdict := .ok
/-- SAOPEN (R240). -/
def execSaopen (a b : BitVec 6) (s : State) : Out :=
  saSimple (.saopen a b) a (saopenOk b)
    (fun c row => .open_ row (c.team.lead.reg b).toNat) s
/-- SACLR (R241). -/
def execSaclr (a : BitVec 6) (s : State) : Out := saSimple (.saclr a) a saRowOk (fun _ row => .clear row) s
/-- SAFREE (R242). -/
def execSafree (a : BitVec 6) (s : State) : Out := saSimple (.safree a) a saRowOk (fun _ row => .free row) s
/-- A row that a task owns. -/
def ownRow (s : State) (task row : Nat) : Bool := match s.rows.find row with
  | some r => r.owner == task
  | none => false
/-- The checks of SAMERGE at issue (R237, R243): rows that the task does not own are refused there, without a charge. -/
def samergeCheck (d a : BitVec 6) (s : State) (c : LCtx) : LVerdict :=
  match leadRow s c a, leadRow s c d with
  | .error e, _ => e
  | .ok _, .error e => e
  | .ok src, .ok dst =>
    if !ownRow s c.team.task src || !ownRow s c.team.task dst then .at .saScope (c.team.lead.reg a)
    else if leadReady s c then .ok else .wait
/-- N of the source row, read at issue (R237). -/
def samergeSize (a : BitVec 6) (s : State) (c : LCtx) : Nat :=
  match leadRow s c a with
  | .ok row => match s.rows.find row with
    | some r => r.n
    | none => 0
  | .error _ => 0
/-- The charge of SAMERGE (R243). -/
def samergeCost (a : BitVec 6) (s : State) (c : LCtx) : Nat × Nat := (4 * samergeSize a s c, 4 * samergeSize a s c)
/-- SAMERGE (R243). -/
def execSamerge (d a : BitVec 6) (s : State) : Out :=
  leadOp (.samerge d a) (samergeCheck d a) (samergeCost a)
    (fun c s =>
      match leadRow s c a, leadRow s c d with
      | .ok src, .ok dst => saSend (.samerge d a) c (.merge src dst) (rowHome src) (4 * samergeSize a s c) (4 * samergeSize a s c) s
      | _, _ => s) s

/-- An access of the SA engine to SAB pages (R245): SAB set, the direction and the U rule. -/
def sabTrap (s : State) (k : Task) (write : Bool) (l : Leaf) : Option Cause :=
  if !(if write then l.w else l.r) || !(k.priv || l.u) || l.kind == 3 || !l.sab || l.pub then some .permission
  else if !rawOk s l.region then some .regionRaw else none
/-- ⌈bytes/16⌉. -/
def units16 (n : Nat) : Nat := (n + 15) / 16
/-- What SAEVICT checks at issue (R237, R245): the row, and the pages of its image, with those that eight bytes an element would take where
they are there: an add of another task may come before the row is written.  The address is checked at issue, before the owner at the home
(DESIGN CHOICE, assumption 62). -/
def evictPlan (s : State) (c : LCtx) (d a : BitVec 6) : Except LVerdict (Nat × Row × List Seg) :=
  match leadRow s c a with
  | .error e => .error e
  | .ok row =>
    match s.rows.find row with
    | none => .error (.at .saScope (c.team.lead.reg a))
    | some r =>
      let va := c.team.lead.reg d
      if va.toNat % 64 ≠ 0 then .error (.at .align va)
      else
        match spanAccess s c.core c.task va r.imageBytes (sabTrap s c.task true) with
        | .error e => .error (e.lverdict .write)
        | .ok ps =>
          match spanAccess s c.core c.task va (64 + 8 * r.n) (sabTrap s c.task true) with
          | .error _ => .ok (row, r, ps.map Prod.fst)
          | .ok qs => .ok (row, r, qs.map Prod.fst)
/-- The verdict of SAEVICT. -/
def saevictCheck (d a : BitVec 6) (s : State) (c : LCtx) : LVerdict :=
  match evictPlan s c d a with
  | .error e => e
  | .ok _ => if leadReady s c then .ok else .wait
/-- The units of SAEVICT (R245). -/
def saevictUnits (d a : BitVec 6) (s : State) (c : LCtx) : Nat :=
  match evictPlan s c d a with
  | .ok p => units16 p.2.1.imageBytes
  | .error _ => 0
/-- The charge of SAEVICT. -/
def saevictCost (d a : BitVec 6) (s : State) (c : LCtx) : Nat × Nat := (saevictUnits d a s c, saevictUnits d a s c)
/-- SAEVICT (R245). -/
def execSaevict (d a : BitVec 6) (s : State) : Out :=
  leadOp (.saevict d a) (saevictCheck d a) (saevictCost d a)
    (fun c s =>
      match evictPlan s c d a with
      | .error _ => s
      | .ok p =>
        saSend (.saevict d a) c (.evict p.1 p.2.2 (c.team.lead.reg d).toNat) (rowHome p.1) (saevictUnits d a s c) (saevictUnits d a s c)
          (noteSegs s c.core c.task.space p.2.2)) s

/-- Bytes of storage of a row (R221). -/
def Row.bytes (r : Row) : Nat := 64 + 8 * r.n
/-- Rows that share the store of a new row: those of the quad, or the DIE and PKG rows of the die (R222). -/
def storeRows (s : State) (scope die quad : Nat) : List (Nat × Row) :=
  s.rows.filter (fun e => rowHome e.1 == die && (if scope = 0 then e.2.scope == 0 && e.1 / 128 % 32 == quad else e.2.scope != 0))
/-- The lowest free row id for a row of `n` elements, if there is one with room (R222, R239).  (DEDUCED, assumption 31) -/
def freeRowId (s : State) (scope core n : Nat) : Option Nat :=
  let die := dieOf core
  let quad := core % 96 / 4
  let mine := storeRows s scope die quad
  let size := if scope = 0 then s.qsag * Config.granule else s.ssar
  if (mine.map (fun e => e.2.bytes)).sum + 64 + 8 * n > size then none
  else
    let base := die * 2 ^ 14 + scope * 2 ^ 12 + (if scope = 0 then quad * 2 ^ 7 else 0)
    let used := mine.map (fun e => if scope = 0 then e.1 % 2 ^ 7 else e.1 % 2 ^ 12)
    match (List.range (if scope = 0 then 128 else 4096)).find? (fun i => !used.contains i) with
    | some i => some (base + i)
    | none => none
/-- Allocate a row for a lead, and the address that its register receives (R239). -/
def allocRow (s : State) (core : Nat) (r : Row) : State × DWord :=
  match freeRowId s r.scope core r.n with
  | none => (s, BitVec.allOnes 64)
  | some id => ({ s with rows := s.rows.put id r }, BitVec.ofNat 64 (id * 2 ^ 15))
/-- The gain vector of a specification (R239). -/
def gainPlan (s : State) (c : LCtx) (va : DWord) (n : Nat) : Except LVerdict (List Seg) :=
  if va = 0#64 then .ok []
  else if va.toNat % 2 ≠ 0 then .error (.at .align va)
  else
    match spanAccess s c.core c.task va (2 * n) (leafTrap s c.task .read memKind true true) with
    | .error e => .error (e.lverdict .read)
    | .ok ps => if ps.any (fun p => p.2.fmt != 2) then .error (.at .format va) else .ok (ps.map Prod.fst)
/-- The row of a specification (R238, R239). -/
def specRow (s : State) (c : LCtx) (h : Nat) : Except LVerdict Row :=
  let n := natBits h 15 0
  if natBits h 63 40 ≠ 0 || natBits h 255 192 ≠ 0 || n = 0 || 32768 < n || 2 < natBits h 31 24 || natBits h 127 96 = 0 then
    .error (.of .illegalOp)
  else if natBits h 39 32 = 0 || 3 < natBits h 39 32 || !epsOk (natBits h 95 64) then .error (.of .format)
  else
    match gainPlan s c (BitVec.ofNat 64 (natBits h 191 128)) n with
    | .error e => .error e
    | .ok g =>
      .ok { n := n, e := (BitVec.ofNat 8 (natBits h 23 16)).toInt, scope := natBits h 31 24, ofmt := natBits h 39 32,
            eps := BitVec.ofNat 32 (natBits h 95 64) &&& 0x7FFFFFFF#32, gain := g, t := natBits h 127 96,
            count := 0, q2 := 0#128, owner := c.team.task, q := [], factor := none, bad := false }
/-- The specification of SAALLOC, read as a load of the lead (R239): its row and its pieces; an error while it has to wait. -/
def allocPlan (s : State) (c : LCtx) (a : BitVec 6) : Except LVerdict (Row × List Seg) :=
  let va := c.team.lead.reg a
  if va.toNat % 8 ≠ 0 then .error (.at .align va)
  else
    match spanAccess s c.core c.task va 32 (leafTrap s c.task .read memKind true true) with
    | .error e => .error (e.lverdict .read)
    | .ok ps =>
      let gs := ps.map Prod.fst
      if !readable s (dieOf c.core) (segLocs gs) || !quiet s c.team.lead.ops then .error .wait
      else
        match specRow s c (natOfBytes (readSegs s gs)) with
        | .error e => .error e
        | .ok r => .ok (r, gs)
/-- The verdict of a command that a plan answers. -/
def planVerdict {α : Type} (p : Except LVerdict α) : LVerdict :=
  match p with
  | .error e => e
  | .ok _ => .ok
/-- SAALLOC (R239). -/
def execSaalloc (d a : BitVec 6) (s : State) : Out :=
  leadOp (.saalloc d a) (fun s c => planVerdict (allocPlan s c a))
    (fun _ _ => (16, 0))
    (fun c s =>
      match allocPlan s c a with
      | .error _ => s
      | .ok p =>
        let s := (noteSegs s c.core c.task.space (p.2 ++ p.1.gain)).absorb (dieOf c.core) (segLocs p.2)
        let r := allocRow s c.core p.1
        leadOn c (r.1.modLead c.tk (fun l => l.setReg d.toNat r.2))) s
/-- The places of a stretch from byte `n` on. -/
def segsFrom : List Seg → Nat → List Seg
  | [], _ => []
  | g :: gs, n =>
    if n < g.size then { g with va := g.va + n, size := g.size - n, loc := { g.loc with pa := g.loc.pa + n } } :: gs else segsFrom gs (n - g.size)
/-- The places of the first `n` bytes of a stretch. -/
def segsTake : Nat → List Seg → List Seg
  | _, [] => []
  | n, g :: gs => if n = 0 then [] else if g.size ≤ n then g :: segsTake (n - g.size) gs else [{ g with size := n }]
/-- What SALOAD checks at issue (R237, R246): the pieces of its image, and the bytes of the header, which is read then. -/
def loadPlan (s : State) (c : LCtx) (a : BitVec 6) : Except LVerdict (List Seg × List Byte) :=
  let va := c.team.lead.reg a
  if va.toNat % 64 ≠ 0 then .error (.at .align va)
  else
    match spanAccess s c.core c.task va 64 (sabTrap s c.task false) with
    | .error e => .error (e.lverdict .read)
    | .ok ps =>
      let gs := ps.map Prod.fst
      if !readable s (dieOf c.core) (segLocs gs) || !quiet s c.team.lead.ops then .error .wait
      else
        let h := readSegs s gs
        if !headerGood (natOfBytes h) then .error (.at .format va)
        else
          match spanAccess s c.core c.task va (headerBytes (natOfBytes h)) (sabTrap s c.task false) with
          | .error e => .error (e.lverdict .read)
          | .ok ps => .ok (ps.map Prod.fst, h)
/-- The charge of SALOAD (R246). -/
def saloadCost (a : BitVec 6) (s : State) (c : LCtx) : Nat × Nat :=
  match loadPlan s c a with
  | .ok p => (units16 (headerBytes (natOfBytes p.2)), units16 (headerBytes (natOfBytes p.2)))
  | .error _ => (0, 0)
/-- SALOAD (R246): the units of the header have begun; the lead waits until the others have been read (R237, R317). -/
def execSaload (d a : BitVec 6) (s : State) : Out :=
  leadOp (.saload d a) (fun s c => planVerdict (loadPlan s c a)) (saloadCost a)
    (fun c s =>
      match loadPlan s c a with
      | .error _ => s
      | .ok p =>
        let n := units16 (headerBytes (natOfBytes p.2))
        let s := (noteSegs s c.core c.task.space p.1).absorb (dieOf c.core) (segLocs (segsTake 64 p.1))
        leadOnWait (.saload d a) c
          (.saload { id := s.nextId, sd := d.toNat, va := c.team.lead.reg a, segs := p.1, bytes := p.2, left := n - 4,
                     word := wordOf (.saload d a), cost := n }) { s with nextId := s.nextId + 1 }) s

end Sys2Proof.Machine
end

