-- ==== Sys2Proof/Machine/Matrix.lean ====
section
/-!
DEFINITION. The matrix array (R205 to R213) and the activation tables' loads and swaps (R199 to R202).
-/
namespace Sys2Proof.Machine

/-! ## The array of a core -/

/-- The team that holds a core's array (R205): one whose lead has ended with no command left holds it no longer. -/
def arrayHolder (s : State) (core : Nat) : Option Nat :=
  match (s.core core).array.holder with
  | none => none
  | some uid =>
    match teamByUid s uid with
    | some t => if t.2.lead.ended && t.2.mats.isEmpty then none else some uid
    | none => none
/-- The sets and the configuration that a team has, or will have as holder (R205). -/
def matState (s : State) (core : Nat) (t : Team) : ArraySt :=
  if arrayHolder s core = some t.uid then (s.core core).array
  else { t.array.getD ArraySt.initial with holder := some t.uid }
/-- The configuration and the P and region of each set after a command (R206). -/
def ArraySt.after (a : ArraySt) (o : MatOp) : ArraySt :=
  match o with
  | .mcfg f => { a with afmt := f }
  | .mldw _ fmt _ _ _ region _ => { a with shadow := { a.shadow with p := weightPlanes fmt, region := region } }
  | .mswap => { a with active := a.shadow, shadow := a.active }
  | .mzero _ _ => a
  | .mstrm _ _ _ _ _ _ _ _ => a
/-- As they will stand when a command that issues now runs (R206). -/
def matAhead (s : State) (c : LCtx) : ArraySt := c.team.mats.foldl (fun a m => a.after m.op) (matState s c.core c.team)
/-- The team becomes holder of its core's array (R205). -/
def takeArray (s : State) (tk : Nat) (t : Team) : State :=
  if arrayHolder s (coreOf tk) = some t.uid then s
  else
    (s.modCore (coreOf tk) (fun c => { c with array := matState s (coreOf tk) t })).modTeam tk (fun t => { t with array := none })

/-- Commands that take effect at their turn (R207, R210): MCFG and MSWAP at the head of the queue; `fuel` bounds them. -/
def drainMats : Nat → State → Nat → State
  | 0, s, _ => s
  | fuel + 1, s, tk =>
    match s.teams.find tk with
    | none => s
    | some t =>
      match t.mats with
      | [] => s
      | m :: ms =>
        match m.op with
        | .mcfg _ | .mswap =>
          drainMats fuel ((s.modCore (coreOf tk) (fun c => { c with array := c.array.after m.op })).modTeam tk (fun t => { t with mats := ms })) tk
        | .mldw _ _ _ _ _ _ _ | .mzero _ _ | .mstrm _ _ _ _ _ _ _ _ => s
/-- The command at the head of a team's queue is complete. -/
def matDone (s : State) (tk : Nat) : State :=
  match s.teams.find tk with
  | none => s
  | some t => drainMats t.mats.length (s.modTeam tk (fun t => { t with mats := t.mats.drop 1 })) tk
/-- Change the command at the head of a team's queue. -/
def modMat (s : State) (tk : Nat) (f : MatCmd → MatCmd) : State := s.modTeam tk (fun t => { t with mats := modAt f t.mats 0 })

/-! ## The commands -/

/-- The place of the word that a lead executes. -/
def LCtx.place (c : LCtx) (i : Instr) : CmdAt := { pc := c.team.lead.pc, word := wordOf i, remain := c.team.lead.remain }
/-- Queue a command of the array (R206). -/
def matIssue (i : Instr) (op : MatOp) (left : Nat) (c : LCtx) (s : State) : State :=
  let s := takeArray s c.tk c.team
  let s : State := { s.modTeam c.tk (fun t => { t with mats := t.mats ++ [{ id := s.nextId, op := op, left := left, place := c.place i }] }) with
    nextId := s.nextId + 1 }
  leadOn c (drainMats (c.team.mats.length + 1) s c.tk)
/-- A MAT command (R205): PERMISSION without accumulators, a wait while another team holds the array, then its checks. -/
def matCheck (chk : State → LCtx → LVerdict) (s : State) (c : LCtx) : LVerdict :=
  if c.team.accg = 0 then .of .permission
  else
    match arrayHolder s c.core with
    | some uid => if uid = c.team.uid then chk s c else .wait
    | none => chk s c
/-- The check of MCFG (R208). -/
def mcfgCheck (a : BitVec 6) (_ : State) (c : LCtx) : LVerdict :=
  let v := (c.team.lead.reg a).toNat
  if v < 2 || 4 < v then .of .illegalOp else .ok
/-- MCFG (R208). -/
def execMcfg (a : BitVec 6) (s : State) : Out :=
  leadOp (.mcfg a) (matCheck (mcfgCheck a))
    (fun _ _ => (1, 0))
    (fun c s => matIssue (.mcfg a) (.mcfg (c.team.lead.reg a).toNat) 0 c s) s
/-- Bytes of a tile of a format (R209). -/
def tileBytes (fmt : Nat) : Nat := 16384 * fmtBytes fmt
/-- The leaf of MLDW's tile, or what a check of it fails (R209). -/
def mldwAccess (s : State) (c : LCtx) (va : DWord) : Access :=
  if !canonical va then .trap .permission va else access s c.core c.task va .read memKind true false
/-- The checks of MLDW (R209). -/
def mldwCheck (a b : BitVec 6) (s : State) (c : LCtx) : LVerdict :=
  let va := c.team.lead.reg a
  match mldwAccess s c va with
  | .ok l =>
    if l.fmt < 2 || 7 < l.fmt || 3 ≤ l.geo then .at .format va
    else if va.toNat % tileBytes l.fmt ≠ 0 then .at .align va
    else if b ≠ 0#6 && c.team.spadLimit < (c.team.lead.reg b).toNat + 128 then .at .permission (c.team.lead.reg b)
    else if !regionAllows s l.region c.task.codeid then .at .regionDenied va
    else if quiet s c.team.lead.ops then .ok else .wait
  | v => v.lverdict .read
/-- The charge of MLDW (R206). -/
def mldwCost (l : Leaf) : Nat := (tileBytes l.fmt + (if l.geo = 2 then 512 else 0) + 63) / 64
/-- The charge of MLDW at an address. -/
def mldwCharge (a : BitVec 6) (s : State) (c : LCtx) : Nat :=
  match mldwAccess s c (c.team.lead.reg a) with
  | .ok l => mldwCost l
  | _ => 0
/-- MLDW (R209). -/
def execMldw (a b : BitVec 6) (s : State) : Out :=
  leadOp (.mldw a b) (matCheck (mldwCheck a b))
    (fun s c => (mldwCharge a s c, mldwCharge a s c))
    (fun c s =>
      let va := c.team.lead.reg a
      match mldwAccess s c va with
      | .ok l =>
        let s := addDecb (s.noteTlb c.core c.task.space (va48 va)) l.region (tileBytes l.fmt)
        matIssue (.mldw a b)
          (.mldw (l.loc (va48 va)) l.fmt l.geo l.pscale (scaleLoc l (va48 va)) l.region
            (if b = 0#6 then none else some (c.team.lead.reg b).toNat)) (mldwCost l) c s
      | _ => s) s
/-- MSWAP (R210). -/
def execMswap (s : State) : Out :=
  leadOp .mswap (matCheck noLCheck) (fun _ _ => (1, 0)) (fun c s => matIssue .mswap .mswap 0 c s) s
/-- What the lead has done before a command that reads or writes is on its way before it (R213). -/
def engineReady (s : State) (c : LCtx) : LVerdict := if quiet s c.team.lead.ops then .ok else .wait
/-- The checks of MZERO (R211). -/
def mzeroCheck (d b : BitVec 6) (s : State) (c : LCtx) : LVerdict :=
  let a := (c.team.lead.reg d).toNat
  let n := (c.team.lead.reg b).toNat
  if n = 0 || 4096 < n then .of .illegalOp
  else if a % 128 ≠ 0 then .at .align (c.team.lead.reg d)
  else if c.team.accLimit < a + 128 * n then .at .permission (c.team.lead.reg d)
  else engineReady s c
/-- MZERO (R211). -/
def execMzero (d b : BitVec 6) (s : State) : Out :=
  leadOp (.mzero d b) (matCheck (mzeroCheck d b)) (fun _ _ => (1, 0))
    (fun c s => matIssue (.mzero d b) (.mzero (c.team.lead.reg d).toNat (c.team.lead.reg b).toNat) 0 c s) s
/-- Bytes of an activation of a format (R212). -/
def actBytes (afmt : Nat) : Nat := if afmt = 2 then 2 else 1
/-- The checks of MSTRM (R212). -/
def mstrmCheck (d a b : BitVec 6) (s : State) (c : LCtx) : LVerdict :=
  let m := matAhead s c
  let eb := actBytes m.afmt
  let acc := (c.team.lead.reg d).toNat
  let x := (c.team.lead.reg a).toNat
  let rows := (c.team.lead.reg b).toNat
  if rows = 0 || 4096 < rows then .of .illegalOp
  else if m.active.p = 0 then .of .format
  else if acc % 128 ≠ 0 then .at .align (c.team.lead.reg d)
  else if c.team.accLimit < acc + 128 * rows then .at .permission (c.team.lead.reg d)
  else if x % eb ≠ 0 then .at .align (c.team.lead.reg a)
  else if c.team.spadLimit < x + 128 * rows * eb then .at .permission (c.team.lead.reg a)
  else engineReady s c
/-- The charge of MSTRM (R206). -/
def mstrmCharge (b : BitVec 6) (s : State) (c : LCtx) : Nat := 64 * (c.team.lead.reg b).toNat * (matAhead s c).active.p
/-- MSTRM (R212). -/
def execMstrm (d a b : BitVec 6) (s : State) : Out :=
  leadOp (.mstrm d a b) (matCheck (mstrmCheck d a b)) (fun s c => (mstrmCharge b s c, 0))
    (fun c s =>
      let m := matAhead s c
      let rows := (c.team.lead.reg b).toNat
      matIssue (.mstrm d a b) (.mstrm (c.team.lead.reg d).toNat (c.team.lead.reg a).toNat rows m.afmt m.active.p 0 0 []) (mstrmCharge b s c) c
        (addMacs s m.active.region (16384 * rows))) s
/-- MWAIT (R213). -/
def execMwait (s : State) : Out :=
  leadOp .mwait (matCheck noLCheck) (fun _ _ => (1, 0))
    (fun c s => leadOnWait .mwait c (.mwait s.nextId) (takeArray s c.tk c.team)) s
/-- MWAIT_RELEASE (R213): every MAT command that the lead issued before has completed. -/
def execMwaitRelease (team : Nat) (s : State) : Out :=
  match s.teams.find team with
  | none => .refused .notEnabled
  | some t =>
    match t.lead.wait with
    | .mwait n =>
      if t.mats.any (fun m => decide (m.id < n)) then .refused .notEnabled
      else .next (s.modLead team (fun l => { l with wait := .none }))
    | .none | .barw _ | .arv _ | .qsend _ | .unit _ _ _ | .unwind _ | .spawnW _ _ _ _ _ | .cpwait _ | .saCmd _ _ _ _ | .saload _ => .refused .notEnabled
/-- A command of the array. -/
def isMat : Instr → Bool
  | .mcfg _ | .mldw _ _ | .mswap | .mstrm _ _ _ | .mzero _ _ | .mwait => true
  | _ => false
/-- The lead stands at a MAT command. -/
def atMat (s : State) (c : LCtx) : Bool :=
  c.team.lead.remain != 0 && match nextInstr s c.core c.task.space c.task.priv
      { pc := c.team.lead.pc, remain := c.team.lead.remain, cls := .lead, y := false, rep := none, repFrom := none } with
    | .run i => isMat i
    | .illegal _ => false
    | .denied _ => false
    | .miss _ => false
/-- MAT_ARRAY_ACQUIRE (R205): the array is free, and the team whose lead waits at a MAT command becomes its holder. -/
def execMatArrayAcquire (team : Nat) (s : State) : Out :=
  match lctxOf s team with
  | none => .refused .notEnabled
  | some c =>
    if !c.team.lead.free || c.team.accg = 0 || (arrayHolder s c.core).isSome || !atMat s c then .refused .notEnabled
    else .next (takeArray s team c.team)

/-! ## The array at work -/

/-- The holder of a core's array, with its command at the head of the queue. -/
def matHead (s : State) (core : Nat) : Option (Nat × Team × MatCmd) :=
  match (s.core core).array.holder with
  | none => none
  | some uid =>
    match teamByUid s uid with
    | none => none
    | some (tk, t) =>
      match t.mats with
      | m :: _ => some (tk, t, m)
      | [] => none
/-- The report of a lead's command that an engine finds faulty (R31, R209). -/
def engineTrap (s : State) (t : Team) (p : CmdAt) (cause : Cause) : State :=
  systemHandler s t.task cause.code (trapT0 false false Cls.lead.code p.remain none { cause := cause, code := 0, addr := 0#64 }) p.word p.pc 0#64
/-- The exponents of a smoothing vector (R180). -/
def smoothVector (t : Team) (v : Option Nat) : List Int :=
  match v with
  | none => List.replicate 128 0
  | some a => (t.spadBytes a 128).map (fun b => b.toInt)
/-- A block of channels whose exponents differ by more than 16 (R181). -/
def smoothBad (k : List Int) : Bool :=
  (List.range 4).any (fun b =>
    let e := (k.drop (32 * b)).take 32
    e.any (fun u => e.any (fun v => decide (u - v > 16))))
/-- The scale of element `i` of a tile (R175, R209). -/
def tileScale (geo pscale : Nat) (scales : List Byte) (i : Nat) : Nat :=
  if geo = 0 then 127 else if geo = 1 then pscale else natOfBytes ((scales.drop (i / 32)).take 1)
/-- The terms of the elements of a tile from number `i` on (R179, R180); none when one of them fails. -/
def tileTerms (fmt geo pscale : Nat) (scales : List Byte) (k : List Int) : Nat → Nat → List Byte → Option (SMap (List Term))
  | 0, _, _ => some []
  | n + 1, i, bs =>
    let sc := tileScale geo pscale scales i
    match weightTerms fmt (natOfBytes (bs.take (fmtBytes fmt))), tileTerms fmt geo pscale scales k n (i + 1) (bs.drop (fmtBytes fmt)) with
    | some ts, some m =>
      if sc = 255 then none
      else if ts.isEmpty then some m
      else some ((i, ts.map (fun t => { t with exp := t.exp + ((sc : Int) - 127) + k.getD (i % 128) 0 })) :: m)
    | _, _ => none
/-- Where the array reads a tile and its scales: a place for each KiB. -/
def tileLocs (tile scale : Loc) (fmt geo : Nat) : List Loc :=
  (List.range (16 * fmtBytes fmt)).map (fun j => { tile with pa := tile.pa + 1024 * j })
    ++ (if geo = 2 then [scale, { scale with pa := scale.pa + 511 }] else [])
/-- A tile that loads: the shadow set is written (R209). -/
def tileLoaded (s : State) (tk : Nat) (set : PlaneSet) : State :=
  matDone (s.modCore (coreOf tk) (fun c => { c with array := { c.array with shadow := set } })) tk
/-- A tile that fails (R209): the shadow set has P 0, later commands are discarded, and the team halts. -/
def tileFailed (s : State) (tk : Nat) (t : Team) (m : MatCmd) : State :=
  let s := s.modCore (coreOf tk) (fun c => { c with array := { c.array with shadow := { c.array.shadow with p := 0 } } })
  engineTrap (s.modTeam tk (fun t => { t with mats := [] })) t m.place .format
/-- MLDW_ARRAY_LOAD (R209): the array loads the tile at the head of its queue. -/
def execMldwArrayLoad (core : Nat) (s : State) : Out :=
  match matHead s core with
  | none => .refused .notEnabled
  | some (tk, t, m) =>
    match m.op with
    | .mldw tile fmt geo pscale scale region smooth =>
      let absent := match smooth with
        | some a => t.absentIn a 128
        | none => false
      if absent || !readable s (dieOf core) (tileLocs tile scale fmt geo) then .refused .notEnabled
      else
        let k := smoothVector t smooth
        let s' := s.absorb (dieOf core) (tileLocs tile scale fmt geo)
        let scales := if geo = 2 then s.readLoc scale 512 else []
        match tileTerms fmt geo pscale scales k 16384 0 (s.readLoc tile (tileBytes fmt)) with
        | some ts =>
          if smoothBad k then .next (tileFailed s' tk t m)
          else .next (tileLoaded s' tk { p := weightPlanes fmt, region := region, terms := ts })
        | none => .next (tileFailed s' tk t m)
    | .mcfg _ | .mswap | .mzero _ _ | .mstrm _ _ _ _ _ _ _ _ => .refused .notEnabled
/-- The products of a block of a column (R182). -/
def blockProducts (set : PlaneSet) (acts : List Fp) (n blk : Nat) : List Fp :=
  (List.range 32).flatMap (fun j =>
    ((set.terms.find (128 * n + 32 * blk + j)).getD []).map (fun t => t.times (acts.getD j (.fin false 0 0))))
/-- The activations of a block of a row, from the row's bytes (R212). -/
def blockActs (afmt blk : Nat) (row : List Byte) : List Fp :=
  let eb := actBytes afmt
  (List.range 32).map (fun j => (fmtOf afmt).decode (natOfBytes ((row.drop ((32 * blk + j) * eb)).take eb)))
/-- One block of one row added into its accumulator row (R185, R212), in all 128 columns at once (DESIGN CHOICE, assumption 66). -/
def blockPass (set : PlaneSet) (afmt word row blk : Nat) (bytes : List Byte) (t : Team) : Team :=
  let acts := blockActs afmt blk bytes
  (List.range 128).foldl (fun t n =>
    let i := word + 128 * row + n
    t.setAcc i (accAdd (t.accWord i) (blockSum (blockProducts set acts n blk)))) t
/-- MSTRM_ARRAY_PASS (R211, R212): the array takes one block of one row of the MSTRM at the head of its queue, or one row of the
MZERO there.  With its first block the row's activations are read, once they are all present. -/
def execMstrmArrayPass (core : Nat) (s : State) : Out :=
  match matHead s core with
  | none => .refused .notEnabled
  | some (tk, t, m) =>
    match m.op with
    | .mstrm word addr rows afmt p row blk acts =>
      let start := addr + 128 * row * actBytes afmt
      if blk = 0 && t.absentIn start (128 * actBytes afmt) then .refused .notEnabled
      else
        let acts := if blk = 0 then t.spadBytes start (128 * actBytes afmt) else acts
        let s := s.modTeam tk (blockPass (s.core core).array.active afmt word row blk acts)
        let left := if blk = 0 then m.left - 64 * p else m.left
        if blk < 3 then .next (modMat s tk (fun m => { m with left := left, op := .mstrm word addr rows afmt p row (blk + 1) acts }))
        else if row + 1 < rows then .next (modMat s tk (fun m => { m with left := left, op := .mstrm word addr rows afmt p (row + 1) 0 [] }))
        else .next (matDone s tk)
    | .mzero word n =>
      let s := s.modTeam tk (fun t => (List.range 128).foldl (fun t j => t.setAcc (word + j) 0#32) t)
      if 1 < n then .next (modMat s tk (fun m => { m with op := .mzero (word + 128) (n - 1) })) else .next (matDone s tk)
    | .mcfg _ | .mswap | .mldw _ _ _ _ _ _ _ => .refused .notEnabled

/-! ## Activation tables -/

/-- The image of a TLOAD (R201). -/
def tloadSpan (s : State) (c : LCtx) (a : BitVec 6) : Except Access (List (Seg × Leaf)) :=
  spanAccess s c.core c.task (c.team.lead.reg a) 4160 (leafTrap s c.task .read memKind true true)
/-- The checks of TLOAD (R201). -/
def tloadCheck (a : BitVec 6) (s : State) (c : LCtx) : LVerdict :=
  if (c.team.lead.reg a).toNat % 64 ≠ 0 then .at .align (c.team.lead.reg a)
  else
    match tloadSpan s c a with
    | .error e => e.lverdict .read
    | .ok _ => engineReady s c
/-- TLOAD (R201). -/
def execTload (a : BitVec 6) (s : State) : Out :=
  leadOp (.tload a) (tloadCheck a)
    (fun _ _ => (64, 0))
    (fun c s =>
      match tloadSpan s c a with
      | .error _ => s
      | .ok ps =>
        let gs := ps.map Prod.fst
        let s := noteSegs s c.core c.task.space gs
        leadOn c { s.modTeam c.tk (fun t => { t with tloads := t.tloads ++ [{ id := s.nextId, image := gs, place := c.place (.tload a) }] }) with
          nextId := s.nextId + 1 }) s
/-- TSWAP waits for the lead's earlier TLOADs, and for a TSWAP of the same clk (R202). -/
def tswapCheck (s : State) (c : LCtx) : LVerdict :=
  if c.team.tloads.isEmpty && !s.fresh.swaps.contains c.team.uid then .ok else .wait
/-- The active generation of a team is inverted; clauses issued from the next clk on use the new one (R202). -/
def swapGen (c : LCtx) (s : State) : State :=
  { s.modTeam c.tk (fun t => { t with gen := !t.gen }) with fresh := { s.fresh with swaps := c.team.uid :: s.fresh.swaps } }
/-- TSWAP (R202). -/
def execTswap (s : State) : Out :=
  leadOp .tswap tswapCheck (fun _ _ => (1, 0)) (fun c s => leadOn c (swapGen c s)) s
/-- A thread of a path runs, or has suspended by a trap, a clause of a generation (R201, R202, R343). -/
def usesGen (th : Thread) (p : Path) (gen : Bool) : Bool :=
  (p.pos.remain != 0 && th.gen == gen)
    || (th.trapMode && t0Remain (th.t.get 0 0#32) != 0 && (th.t.get 0 0#32).getLsbD 28 == gen)
/-- A clause that uses a generation still runs in some thread of a team (R201). -/
def genBusy (s : State) (tk : Nat) (gen : Bool) : Bool :=
  (groupsOf s tk).any (fun e => e.2.paths.any (fun p => p.lanes.any (fun l => usesGen (s.thread e.1 l) p gen)))
/-- A table image in order (R200, R201). -/
def tableOk (tab : SMap Byte) : Bool :=
  let w := tabWord tab
  let finite : Nat → Bool := fun n => match fp32.decode n with
    | .fin _ _ _ => true
    | .inf _ => false
    | .nan => false
  (List.range 4).all (fun f =>
    w (16 * f + 4) / 2 ^ 9 == 0
    && (!tabValid tab f || (finite (w (16 * f)) && fp32.decode (w (16 * f + 8)) != .nan && fp32.decode (w (16 * f + 12)) != .nan))
    && (List.range 64).all (fun j =>
      let g := 64 + 1024 * f + 16 * j
      w (g + 12) == 0 && (!tabValid tab f || (finite (w g) && finite (w (g + 4)) && finite (w (g + 8))))))
/-- Write a generation of a team's table. -/
def Team.setTable (t : Team) (gen : Bool) (tab : SMap Byte) : Team := if gen then { t with tab1 := tab } else { t with tab0 := tab }
/-- TABLE_LOAD (R201): the table engine loads the oldest image once no clause uses the inactive generation. -/
def execTableLoad (team : Nat) (s : State) : Out :=
  match s.teams.find team with
  | none => .refused .notEnabled
  | some t =>
    match t.tloads with
    | [] => .refused .notEnabled
    | x :: xs =>
      if genBusy s team (!t.gen) || !readable s (dieOf t.core) (segLocs x.image) then .refused .notEnabled
      else
        let tab := SMap.setBytes [] 0 (readSegs s x.image)
        let s := (s.absorb (dieOf t.core) (segLocs x.image)).modTeam team (fun t => { t with tloads := xs })
        if tableOk tab then .next (s.modTeam team (fun t => t.setTable (!t.gen) tab))
        else .next (engineTrap (s.modTeam team (fun t => t.setTable (!t.gen) [])) t x.place .format)

end Sys2Proof.Machine
end

