-- ==== Sys2Proof/Machine/Sync.lean ====
section
/-!
DEFINITION. The barrier instructions (R134, R135, R138), the release of their waits, and the phases of wider networks.
-/
namespace Sys2Proof.Machine

/-- The network of the instruction is the barrier's (R138). -/
def netCheck (k : BitVec 4) (n : Net) (_ : State) (c : GCtx) (_ : Nat) : Verdict :=
  if (c.team.bar k.toNat).net = n then .ok else .of .illegalOp
/-- The group, or a member of the set, has already arrived in the present phase (R135).  A thread that arrives again before its group
has is held like its group (DESIGN CHOICE, assumption 59). -/
def arrivedHold (k : BitVec 4) (s : State) (c : GCtx) : Bool :=
  (c.team.bar k.toNat).here.getLsbD c.group.gid || c.path.lanes.any (fun l => (s.thread c.gk l).arr.get k.toNat 0 != 0)
/-- The arrival of a set (R134); what is complete is counted at once. -/
def arriveSet (k : BitVec 4) (c : GCtx) (lanes : List Nat) (s : State) : State :=
  countArrivals (s.onLanes c.gk lanes (fun _ th => { th with arr := th.arr.put k.toNat 1 })) c.tk
/-- BARA (R138). -/
def execBara (k : BitVec 4) (n : Net) (s : State) : Out :=
  groupOp (.bara k n) (netCheck k n) (arrivedHold k) (fun c lanes s => goOn c .none (arriveSet k c lanes s)) s
/-- The wait of a set at a barrier begins: the members whose wait is met invert their wait bit, and the set goes on when none waits
(R138). -/
def barwSet (k : Nat) (c : GCtx) (lanes : List Nat) (s : State) : State :=
  let met : Nat → Bool := fun l => phaseSeen s c.team k != (s.thread c.gk l).waitb.getLsbD k
  let rest := lanes.filter (fun l => !met l)
  goOn c (if rest.isEmpty then .none else .barw k rest)
    (s.onLanes c.gk (lanes.filter met) (fun _ th => { th with waitb := th.waitb ^^^ (1#16 <<< k) }))
/-- BARW (R138): charged at issue; the set then waits. -/
def execBarw (k : BitVec 4) (n : Net) (s : State) : Out :=
  groupOp (.barw k n) (netCheck k n) noHold (fun c lanes s => barwSet k.toNat c lanes s) s
/-- BARAB (R138): the bytes first, then the arrival. -/
def execBarab (k : BitVec 4) (n : Net) (b : BitVec 6) (y : Bool) (s : State) : Out :=
  groupOp (.barab k n b y)
    (fun s c l => if n = .core then netCheck k n s c l else .of .illegalOp) (arrivedHold k)
    (fun c lanes s =>
      let sum := (lanes.map (fun l => ((s.thread c.gk l).rd b).toNat)).sum
      goOn c .none (arriveSet k c lanes (s.modTeam c.tk (fun t => t.modBar k.toNat (fun b => b.count (BitVec.ofNat 48 sum)))))) s
/-- BARI (R138). -/
def execBari (k : BitVec 4) (n : Net) (p : BitVec 3) (s : State) : Out :=
  laneOp (.bari k n p) (netCheck k n)
    (fun _ c _ th => th.setPred p ((c.team.bar k.toNat).phase != th.waitb.getLsbD k.toNat)) s

/-- The parties that have arrived at a team's barrier in the present phase (R133). -/
def barArr (s : State) (t : Team) (k : Nat) : Nat :=
  let b := t.bar k
  if b.net = .core then b.arr
  else match s.wides.find (wideKey t b.net b.pod k) with
    | some w => w.arr
    | none => 0
/-- The value of BARS: that of the lowest lane of the set that executes it (R138). -/
def barsValue (i : Instr) (s : State) (c : GCtx) (b : BitVec 6) : Word :=
  match sortLanes (c.path.lanes.filter (fun l => (operandTrap i (s.thread c.gk l)).isNone)) with
  | [] => 0#32
  | l :: _ => (s.thread c.gk l).rd b
/-- The checks of BARS (R138). -/
def barsCheck (i : Instr) (k : BitVec 4) (n : Net) (b : BitVec 6) (s : State) (c : GCtx) (_ : Nat) : Verdict :=
  let bar := c.team.bar k.toNat
  if n ≠ .pod && (barsValue i s c b).extractLsb' 16 16 ≠ 0#16 then .of .illegalOp
  else if bar.net ≠ n && (barArr s c.team k.toNat ≠ 0 || bar.pend ≠ 0#48) then .of .illegalOp
  else .ok
/-- Bind a barrier at CORE (R138). -/
def bindCore (tk k n : Nat) (s : State) : State :=
  s.modTeam tk (fun t => t.modBar k (fun b =>
    if b.net = .core && b.n = n then b else { b with net := .core, n := n, members := 0#16, pod := 0#16 }))
/-- Bind a barrier to an instance of a wider network, which the first BARS creates (R138). -/
def bindWide (t : Team) (tk k : Nat) (net : Net) (pod : BitVec 16) (n : Nat) (s : State) : State :=
  let key := wideKey t net pod k
  let w := match s.wides.find key with
    | some w => if w.n = n then w else { w with n := n, members := [] }
    | none => { task := t.task, net := net, n := n, members := [], arr := 0, touched := false, phase := false, know := [],
                unseen := [] }
  let s : State := { s with wides := s.wides.put key w }
  s.modTeam tk (fun t => t.modBar k (fun b =>
    if b.net = net && b.pod = pod then b else { b with net := net, n := n, members := 0#16, pod := pod, phase := w.phase }))
/-- BARS (R138). -/
def execBars (k : BitVec 4) (n : Net) (b : BitVec 6) (y : Bool) (s : State) : Out :=
  groupOp (.bars k n b y) (barsCheck (.bars k n b y) k n b) noHold
    (fun c _ s =>
      let v := barsValue (.bars k n b y) s c b
      let count := (v.extractLsb' 0 16).toNat
      goOn c .none (match n with
        | .core => bindCore c.tk k.toNat count s
        | .pod => bindWide c.team c.tk k.toNat n (v.extractLsb' 16 16) count s
        | .quad => bindWide c.team c.tk k.toNat n 0#16 count s
        | .die => bindWide c.team c.tk k.toNat n 0#16 count s
        | .pkg => bindWide c.team c.tk k.toNat n 0#16 count s)) s

/-- BARRIER_WAIT_RELEASE (R138): waits of a group, or of a lead, at a barrier that are met are over. -/
def execBarrierWaitRelease (lead : Bool) (key : Nat) (s : State) : Out :=
  if lead then
    match s.teams.find key with
    | none => .refused .notEnabled
    | some t => if leadMet s t then .next (releaseLeadWait s key) else .refused .notEnabled
  else
    match s.groups.find key with
    | none => .refused .notEnabled
    | some g =>
      if g.parked.any (fun p => match p.wait with
        | .barw _ _ => true
        | .none | .xconv _ | .fence _ _ | .answers _ _ _ _ | .sleep _ => false) then .next (releaseGroup s g.team key)
      else .refused .notEnabled
/-- WIDE_PHASE_ARRIVAL (R135, R137): the completion of a phase of a wider network reaches a team's core, with what the
arrivals knew; POD brings no knowledge. -/
def execWidePhaseArrival (team bar : Nat) (s : State) : Out :=
  match s.teams.find team with
  | none => .refused .notEnabled
  | some t =>
    let b := t.bar bar
    let key := wideKey t b.net b.pod bar
    match s.wides.find key with
    | none => .refused .notEnabled
    | some w =>
      if b.net = .core || !w.unseen.contains t.uid || s.fresh.phases.contains (t.uid, bar) then .refused .notEnabled
      else
        let s := releaseTeam s team
        let s := if b.net = .pod then s else s.learn (dieOf t.core) w.know
        let s := { s.modWide key (fun w => { w with unseen := w.unseen.erase t.uid }) with
          fresh := { s.fresh with phases := (t.uid, bar) :: s.fresh.phases } }
        let s := s.modTeam team (fun t => t.modBar bar (fun b => { b with here := 0#16, phase := !b.phase }))
        .next (forgetArrivals s team bar)

end Sys2Proof.Machine
end

