-- ==== Sys2Proof/Machine/Send.lean ====
section
/-!
DEFINITION. SEND and its consumers (R143 to R147), and the deliveries to a team on another core.
-/
namespace Sys2Proof.Machine

/-! ## The instruction -/

/-- The consumers of a mask, without SA (R143). -/
def sendConsumers (m : BitVec 5) : List Consumer :=
  (if m.getLsbD 0 then [Consumer.lead] else []) ++ (if m.getLsbD 2 then [Consumer.spad] else [])
    ++ (if m.getLsbD 3 then [Consumer.next] else []) ++ (if m.getLsbD 4 then [Consumer.stage] else [])
/-- The byte address in a destination word (R143). -/
def sendAddr (w : Word) : Nat := (w.extractLsb' 0 21).toNat
/-- CBAR of a destination word (R143). -/
def sendBar (w : Word) : Nat := (w.extractLsb' 28 4).toNat
/-- SPAD or STAGE is named: the team's own scratchpad is written. -/
def sendOwn (m : BitVec 5) : Bool := m.getLsbD 2 || m.getLsbD 4
/-- The checks of SEND on a thread's scratchpad, after those of its other consumers (R143, R377). -/
def sendLocal (m : BitVec 5) (t : Team) (addr : Nat) : Verdict :=
  if sendOwn m then spadCheck t addr 4
  else if m.getLsbD 3 && addr % 4 ≠ 0 then .at .align (BitVec.ofNat 64 addr)
  else .ok
/-- The checks of SEND in a thread (R143, R144).  (DEDUCED, assumption 29) -/
def sendCheck (a b : BitVec 6) (m : BitVec 5) (s : State) (c : GCtx) (l : Nat) : Verdict :=
  let th := s.thread c.gk l
  if (m.getLsbD 3 || m.getLsbD 4) && 8 < sendBar (th.rd b) then .of .illegalOp
  else if m.getLsbD 1 then
    match saCheck b (fun th => .add (th.rd a)) s c l with
    | .ok => sendLocal m c.team (sendAddr (th.rd b))
    | v => v
  else sendLocal m c.team (sendAddr (th.rd b))
/-- One word on its way to each of some consumers. -/
def sendWords (c : GCtx) (l : Nat) (ds : List Consumer) (word dest : Word) (s : State) : State :=
  ds.foldl (fun s d => { s with
    sends := s.sends ++ [{ id := s.nextId, uid := c.team.uid, core := c.core, task := c.team.task, gid := c.group.gid, lane := l, dest_ := d, word := word, dest := dest }],
    nextId := s.nextId + 1 }) s
/-- SEND (R143 to R145): with the SA consumer the set waits for the home (R229), and the other consumers receive the word
once the add has been accepted. -/
def execSend (a b : BitVec 6) (x y : Bool) (m : BitVec 5) (s : State) : Out :=
  groupOp (.send a b x y m) (sendCheck a b m)
    (fun s c => if m.getLsbD 1 then holdStore s c else holdWrite s c)
    (fun c lanes s =>
      if m.getLsbD 1 then
        saSet (.send a b x y m) (fun c l s =>
          let th := s.thread c.gk l
          saRequest c l (.add (th.rd a)) (th.rd b) false 0 (sendConsumers m) (th.rd a) (th.rd b) s) c lanes s
      else
        goOn c .none (eachLane (fun l s =>
          let th := s.thread c.gk l
          sendWords c l (sendConsumers m) (th.rd a) (th.rd b) s) lanes s)) s

/-! ## Deliveries -/

/-- The barrier that CBAR names (R144). -/
def cbar (w : Word) : Option Nat := if sendBar w = 0 then none else some (sendBar w - 1)
/-- Bytes are counted off a barrier of a team; PEND belongs to CORE (R133, R144, R151). -/
def Team.countOff (t : Team) (k : Option Nat) (n : Nat) : Team :=
  match k with
  | none => t
  | some k => t.modBar k (fun b => if b.net = .core then b.count (-(BitVec.ofNat 48 n)) else b)
/-- The team that receives on a core what a task's team sends there: the one with the lowest index, resident or saved
(R146, R147), by its number. -/
def receiver (s : State) (task core : Nat) : Option Nat :=
  let here := (s.teams.filter (fun e => e.2.task == task && e.2.core == core)).map (fun e => (e.2.index, e.2.uid))
  let away := (s.images.filter (fun e => e.2.team.task == task && e.2.team.core == core)).map (fun e => (e.2.team.index, e.2.team.uid))
  let all := here ++ away
  (all.find? (fun p => all.all (fun q => decide (p.1 ≤ q.1)))).map Prod.snd
/-- Bytes reach a team: they are written and counted, or held while it is saved (R147), with what its die knows then (R259). -/
def landBytes (s : State) (uid addr : Nat) (bytes : List Byte) (bar : Option Nat) : State :=
  match teamByUid s uid with
  | some t => s.modTeam t.1 (fun t => (t.setSpad addr bytes).countOff bar bytes.length)
  | none =>
    { s with images := s.images.mod uid (fun i => { i with
      held := i.held ++ [{ addr := addr, bytes := bytes, bar := bar, know := (s.node (dieOf i.team.core)).k }] }) }
/-- A delivery of bytes to a team on another core, or its drop (R147). -/
def deliverNext (s : State) (i : SendItem) (core : Nat) : State :=
  match receiver s i.task core with
  | none => recordDrop s i.task 4
  | some uid =>
    match anyTeam s uid with
    | none => recordDrop s i.task 4
    | some t =>
      if sendAddr i.dest + 4 > t.spadLimit then recordDrop s i.task 4
      else landBytes s uid (sendAddr i.dest) (bytesOfNat 4 i.word.toNat) (cbar i.dest)
/-- The right neighbour of a core (R146). -/
def rightNeighbour (core : Nat) : Nat := core / 4 * 4 + (core + 1) % 4

/-- Two consumers take a thread's words in its program order: one consumer, and SPAD and STAGE, which are one scratchpad (R145, R257). -/
def Consumer.same (a b : Consumer) : Bool :=
  a == b || (a == .spad && b == .stage) || (a == .stage && b == .spad)
/-- Whether an earlier item must be accepted first: one of the same thread to the same consumer, or one of the same group to the
same register of the lead (R145). -/
def SendItem.before (i j : SendItem) : Bool :=
  i.uid == j.uid && i.gid == j.gid && i.dest_.same j.dest_
    && (i.lane == j.lane || (i.dest_ == Consumer.lead && i.dest.extractLsb' 0 6 == j.dest.extractLsb' 0 6))
/-- An item that may be accepted now, as far as the order goes. -/
def sendTurn (s : State) (idx : Nat) : Option SendItem :=
  match s.sends[idx]? with
  | none => none
  | some j => if (s.sends.take idx).any (fun i => i.before j) then none else some j
/-- The item is accepted: it is no longer on its way, which its thread's headers see from the next clk on (R49). -/
def takeSend (s : State) (idx : Nat) : State :=
  match s.sends[idx]? with
  | none => s
  | some i => { s with sends := dropAt s.sends idx, fresh := { s.fresh with sends := (i.uid, i.gid, i.lane) :: s.fresh.sends } }
/-- A word reaches the lead inbox; none while the register is empty (R145). -/
def sendToLead (s : State) (tk : Nat) (t : Team) (i : SendItem) : Option State :=
  let n := i.dest.extractLsb' 0 6
  if t.lead.ended || t.lead.stopped then some (recordDrop s i.task 4)
  else if t.lead.full n then some (s.modLead tk (fun l => l.setReg n.toNat (i.word.zeroExtend 64)))
  else none
/-- NEXT_DELIVERY (R146, R147): a word reaches the right-neighbour core. -/
def execNextDelivery (idx : Nat) (s : State) : Out :=
  match sendTurn s idx with
  | none => .refused .notEnabled
  | some i =>
    if i.dest_ = Consumer.next then .next (deliverNext (takeSend s idx) i (rightNeighbour i.core)) else .refused .notEnabled

end Sys2Proof.Machine
end

