-- ==== Sys2Proof/Machine/Copy.lean ====
section
/-!
DEFINITION. The copy engine (R148 to R165): the commands, PUBL and CPWAIT, and the steps that carry copies out.
-/
namespace Sys2Proof.Machine

/-! ## What a command checks at issue -/

/-- What a copy command has found at issue (R149): its bytes, the bytes that its own barrier counts, its operation, its
scratchpad address, the cores that scratchpad bytes go to, and its stretches of global memory. -/
structure CopyPlan where
  bytes : Nat
  own : Nat
  op : CopyOp
  addr : Nat
  cores : List Nat
  srcs : List Seg
  dsts : List Seg
  deriving DecidableEq, Repr

/-- The length of a copy command (R148). -/
def copyLen (c : LCtx) (b : BitVec 6) (i : Bool) : Nat := if i then (b.toNat + 1) * 16 else (c.team.lead.reg b).toNat
/-- The second parameter of a copy command (R148). -/
def copySecond (c : LCtx) (b : BitVec 6) (i : Bool) : DWord := if i then 0#64 else c.team.lead.reg (b + 1#6)
/-- A length out of range (R149). -/
def badLen (n : Nat) : Bool := decide (2 ^ 24 < n) || decide (n % 4 ≠ 0)
/-- What a scratchpad range fails (R149). -/
def spadRange (t : Team) (x : DWord) (n : Nat) : Option LVerdict :=
  if t.spadLimit < x.toNat + n || 2 ^ 32 ≤ x.toNat then some (.at .permission x)
  else if x.toNat % 4 ≠ 0 then some (.at .align x)
  else none
/-- One range of global memory (R149): its pieces with their leaves, or what it fails. -/
def copyRange (s : State) (c : LCtx) (a : Acc) (va : DWord) (n : Nat) : Except LVerdict (List (Seg × Leaf)) :=
  let trap := leafTrap s c.task a memKind true true
  if n ≠ 0 && (!canonical va || !canonical (va + BitVec.ofNat 64 (n - 1))) then .error (.at .permission va)
  else if va.toNat % 4 ≠ 0 then .error (.at .align va)
  else
    match spanAccess s c.core c.task va n trap with
    | .error e => .error (e.lverdict a)
    | .ok ps => .ok ps
/-- Ranges of the same length, row after row. -/
def copyRows (s : State) (c : LCtx) (a : Acc) (n : Nat) : List DWord → Except LVerdict (List (Seg × Leaf))
  | [] => .ok []
  | va :: vas =>
    match copyRange s c a va n with
    | .error e => .error e
    | .ok ps =>
      match copyRows s c a n vas with
      | .error e => .error e
      | .ok qs => .ok (ps ++ qs)
/-- The addresses of rows with a stride. -/
def rowAddrs (base : DWord) (stride rows : Nat) : List DWord :=
  (List.range rows).map (fun r => base + BitVec.ofNat 64 (r * stride))
/-- Two pages between which a copy raises FORMAT (R159). -/
def formatClash (p q : Leaf) : Bool := p.fmt != q.fmt || p.geo != q.geo || (p.geo == 1 && p.pscale != q.pscale)
/-- Some byte is copied between such pages; `fuel` bounds the pieces. -/
def formatsClash : Nat → List (Seg × Leaf) → List (Seg × Leaf) → Bool
  | 0, _, _ => false
  | _, [], _ => false
  | _, _, [] => false
  | fuel + 1, p :: ps, q :: qs =>
    let n := Nat.min p.1.size q.1.size
    let cut : Seg × Leaf → List (Seg × Leaf) → List (Seg × Leaf) := fun x xs =>
      if x.1.size ≤ n then xs else ({ x.1 with size := x.1.size - n }, x.2) :: xs
    formatClash p.2 q.2 || formatsClash fuel (cut p ps) (cut q qs)

/-- CPYIN at issue (R149, R154). -/
def cpyinPlan (d a b : BitVec 6) (i : Bool) (s : State) (c : LCtx) : Except LVerdict CopyPlan :=
  let n := copyLen c b i
  let m := copySecond c b i
  if badLen n || m.extractLsb' 4 60 ≠ 0#60 then .error (.of .illegalOp)
  else
    match spadRange c.team (c.team.lead.reg d) n with
    | some v => .error v
    | none =>
      match copyRange s c .read (c.team.lead.reg a) n with
      | .error v => .error v
      | .ok ps =>
        let quad := c.core / 4 * 4
        let cores := if m = 0#64 then [c.core] else ((List.range 4).filter (fun k => m.getLsbD k)).map (fun k => quad + k)
        .ok { bytes := n, own := if cores.contains c.core then n else 0, op := .cpyin, addr := (c.team.lead.reg d).toNat,
              cores := cores, srcs := ps.map Prod.fst, dsts := [] }
/-- CPYOUT at issue (R149, R155). -/
def cpyoutPlan (d a b : BitVec 6) (i : Bool) (s : State) (c : LCtx) : Except LVerdict CopyPlan :=
  let n := copyLen c b i
  if badLen n || copySecond c b i ≠ 0#64 then .error (.of .illegalOp)
  else
    match spadRange c.team (c.team.lead.reg a) n with
    | some v => .error v
    | none =>
      match copyRange s c .write (c.team.lead.reg d) n with
      | .error v => .error v
      | .ok ps =>
        .ok { bytes := n, own := n, op := .cpyout, addr := (c.team.lead.reg a).toNat, cores := [], srcs := [], dsts := ps.map Prod.fst }
/-- CPYG at issue (R149, R157, R159). -/
def cpygPlan (d a b : BitVec 6) (s : State) (c : LCtx) : Except LVerdict CopyPlan :=
  let n := copyLen c b false
  let w := (copySecond c b false).toNat
  let rows := natBits w 63 48 + 1
  if badLen n || natBits w 47 24 % 4 ≠ 0 || natBits w 23 0 % 4 ≠ 0 then .error (.of .illegalOp)
  else
    match copyRows s c .read n (rowAddrs (c.team.lead.reg a) (natBits w 23 0) rows) with
    | .error v => .error v
    | .ok ps =>
      match copyRows s c .write n (rowAddrs (c.team.lead.reg d) (natBits w 47 24) rows) with
      | .error v => .error v
      | .ok qs =>
        if formatsClash (ps.length + qs.length) ps qs then .error (.at .format (c.team.lead.reg d))
        else
          .ok { bytes := rows * n, own := rows * n, op := .cpyg, addr := 0, cores := [], srcs := ps.map Prod.fst, dsts := qs.map Prod.fst }
/-- The source rows that an index list names (R158). -/
def gathRows (c : LCtx) (a : BitVec 6) (list rows stride : Nat) : List DWord :=
  (List.range rows).map (fun r =>
    c.team.lead.reg a + BitVec.ofNat 64 (natOfBytes (c.team.spadBytes (list + 4 * r) 4) * stride))
/-- The part of GATH's checks that reads the index list (R158). -/
def gathTail (a : BitVec 6) (n w : Nat) (p : CopyPlan) (qs : List (Seg × Leaf)) (s : State) (c : LCtx) : Except LVerdict CopyPlan :=
  let rows := natBits w 62 51 + 1
  let list := natBits w 47 24
  if c.team.absentIn list (4 * rows) then .error .wait
  else
    match copyRows s c .read n (gathRows c a list rows (natBits w 23 0)) with
    | .error v => .error v
    | .ok ps =>
      if p.op = .gathg && formatsClash (ps.length + qs.length) ps qs then .error (.at .format (c.team.lead.reg a))
      else .ok { p with srcs := ps.map Prod.fst, dsts := qs.map Prod.fst }
/-- GATH at issue (R149, R158, R159). -/
def gathPlan (d a b : BitVec 6) (s : State) (c : LCtx) : Except LVerdict CopyPlan :=
  let n := copyLen c b false
  let w := (copySecond c b false).toNat
  let rows := natBits w 62 51 + 1
  if badLen n || natBits w 50 48 ≠ 0 || natBits w 23 0 % 4 ≠ 0 then .error (.of .illegalOp)
  else if natBits w 63 63 = 0 then
    match spadRange c.team (c.team.lead.reg d) (rows * n), spadRange c.team (BitVec.ofNat 64 (natBits w 47 24)) (4 * rows) with
    | some v, _ => .error v
    | none, some v => .error v
    | none, none =>
      gathTail a n w { bytes := rows * n, own := rows * n, op := .gath, addr := (c.team.lead.reg d).toNat, cores := [c.core], srcs := [], dsts := [] } [] s c
  else
    match spadRange c.team (BitVec.ofNat 64 (natBits w 47 24)) (4 * rows) with
    | some v => .error v
    | none =>
      match copyRows s c .write n (rowAddrs (c.team.lead.reg d) n rows) with
      | .error v => .error v
      | .ok qs =>
        gathTail a n w { bytes := rows * n, own := rows * n, op := .gathg, addr := 0, cores := [], srcs := [], dsts := [] } qs s c

/-! ## Issue -/

/-- The copy that a command leaves with the engine. -/
def CopyPlan.copy (p : CopyPlan) (id uid task core bar : Nat) : Copy :=
  { id := id, uid := uid, task := task, core := core, op := p.op, addr := p.addr, bar := bar, cores := p.cores,
    recv := if p.cores.contains core then [(core, uid)] else [], srcs := p.srcs, dsts := p.dsts,
    words := (List.range (p.bytes / 4)).map (fun w => (w, { val := none, sent := [], done := false })),
    begun := [], nwords := p.bytes / 4, waits := [], freed := false }
/-- The lines of a stretch of a team's scratchpad become absent (R127). -/
def Team.absentLines (t : Team) (addr n : Nat) : Team := (linesOf addr n).foldl Team.lineAdd t
/-- The team of the lead that issues a copy: its lines and its barrier (R127, R151). -/
def CopyPlan.team (p : CopyPlan) (core bar : Nat) (t : Team) : Team :=
  let t := if p.cores.contains core then t.absentLines p.addr p.bytes else t
  t.modBar bar (fun b => b.count (BitVec.ofNat 48 p.own))
/-- The lead's arrival for ARV, or its wait for the next phase (R151). -/
def arvArrive (i : Instr) (c : LCtx) (bar : Nat) (s : State) : State :=
  match s.teams.find c.tk with
  | some t =>
    if (t.bar bar).here.getLsbD leadBit then leadOnWait i c (.arv bar) s
    else leadOn c (s.modTeam c.tk (fun t => t.modBar bar (fun b => b.arrive leadBit)))
  | none => s
/-- The team that receives a multicast on another core (R146), when the bytes fit its scratchpad (R147). -/
def takesCopy (s : State) (c : Copy) (core : Nat) : Option Nat :=
  match receiver s c.task core with
  | none => none
  | some uid =>
    match anyTeam s uid with
    | none => none
    | some t => if t.spadLimit < c.addr + 4 * c.words.length then none else some uid
/-- A team receives a multicast: its lines become absent (R127, R154). -/
def openFor (s : State) (c : Copy) (core uid : Nat) : State :=
  { s.modAny uid (fun t => t.absentLines c.addr (4 * c.words.length)) with
    copies := s.copies.mod c.id (fun c => { c with recv := c.recv.put core uid }) }
/-- A multicast issues: on the other cores the lines of the teams that receive it become absent with it, so that a load which its issue
happens-before finds no old bytes (R74).  (DESIGN CHOICE, assumption 63) -/
def openIssued (s : State) (c : Copy) : State :=
  (c.cores.filter (fun k => k != c.core)).foldl (fun s k =>
    match takesCopy s c k with
    | some uid => openFor s c k uid
    | none => s) s
/-- The effect of a copy command (R148, R151, R152). -/
def copyIssue (i : Instr) (v : Bool) (k : BitVec 3) (p : CopyPlan) (c : LCtx) (s : State) : State :=
  let s := noteSegs s c.core c.task.space (p.srcs ++ p.dsts)
  let cp := p.copy s.nextId c.team.uid c.team.task c.core k.toNat
  let s := if p.bytes = 0 then s else
    openIssued (({ s with copies := s.copies.put s.nextId cp, nextId := s.nextId + 1 } : State).modTeam c.tk (p.team c.core k.toNat)) cp
  if v then arvArrive i c k.toNat s else leadOn c s
/-- The checks of a copy command (R149, R151); what the lead has done before is on its way before it (R153). -/
def copyCheck (k : BitVec 3) (plan : State → LCtx → Except LVerdict CopyPlan) (s : State) (c : LCtx) : LVerdict :=
  if (c.team.bar k.toNat).net ≠ .core then .of .illegalOp
  else
    match plan s c with
    | .error e => e
    | .ok _ => if quiet s c.team.lead.ops then .ok else .wait
/-- The units of a copy command (R150). -/
def copyUnits (plan : State → LCtx → Except LVerdict CopyPlan) (s : State) (c : LCtx) : Nat :=
  match plan s c with
  | .ok p => units16 p.bytes
  | .error _ => 0
/-- The charge of a copy command, and the part of it for bytes (R150, R329). -/
def copyCost (plan : State → LCtx → Except LVerdict CopyPlan) (s : State) (c : LCtx) : Nat × Nat :=
  (4 + copyUnits plan s c, copyUnits plan s c)
/-- A copy command (R148 to R153). -/
def copyOp (i : Instr) (v : Bool) (k : BitVec 3) (plan : State → LCtx → Except LVerdict CopyPlan) (s : State) : Out :=
  leadOp i (copyCheck k plan) (copyCost plan)
    (fun c s =>
      match plan s c with
      | .error _ => s
      | .ok p => copyIssue i v k p c s) s
/-- CPYIN (R154). -/
def execCpyin (d a b : BitVec 6) (v i : Bool) (k : BitVec 3) (s : State) : Out := copyOp (.cpyin d a b v i k) v k (cpyinPlan d a b i) s
/-- CPYOUT (R155). -/
def execCpyout (d a b : BitVec 6) (v i : Bool) (k : BitVec 3) (s : State) : Out :=
  copyOp (.cpyout d a b v i k) v k (cpyoutPlan d a b i) s
/-- CPYG (R157). -/
def execCpyg (d a b : BitVec 6) (v : Bool) (k : BitVec 3) (s : State) : Out := copyOp (.cpyg d a b v k) v k (cpygPlan d a b) s
/-- GATH (R158). -/
def execGath (d a b : BitVec 6) (v : Bool) (k : BitVec 3) (s : State) : Out := copyOp (.gath d a b v k) v k (gathPlan d a b) s

/-- A page that PUBL publishes, as a write (R161): orders 1 and 2 of R123, then PUB. -/
def publTrap (k : Task) (l : Leaf) : Option Cause :=
  if !l.w || !(k.priv || l.u) || l.kind == 3 || !l.pub then some .permission else none
/-- The checks of PUBL (R161). -/
def publAccess (s : State) (c : LCtx) (va : DWord) : Access :=
  if !canonical va then .trap .permission va else accessBy s c.core c.task va (publTrap c.task)
/-- The block of a publishable buffer. -/
def Leaf.block (l : Leaf) : Seg := { va := 0, size := 2 * l.size, loc := { kind := l.kind, pa := l.pa, pub := l.size } }
/-- A place lies in a buffer. -/
def inBlock (b : Loc) (l : Loc) : Bool := l.pub != 0 && selKey l == selKey b
/-- The earlier copies of a lead whose destination lies in a buffer (R161). -/
def publWaits (s : State) (uid : Nat) (b : Loc) : List Nat :=
  (s.copies.filter (fun e => e.2.uid == uid && e.2.op != .publ && e.2.dsts.any (fun g => inBlock b g.loc))).map Prod.fst
/-- The verdict of PUBL. -/
def publCheck (a : BitVec 6) (s : State) (c : LCtx) : LVerdict :=
  match publAccess s c (c.team.lead.reg a) with
  | .ok _ => if quiet s c.team.lead.ops then .ok else .wait
  | v => v.lverdict .write
/-- PUBL (R161). -/
def execPubl (a : BitVec 6) (s : State) : Out :=
  leadOp (.publ a) (publCheck a)
    (fun _ _ => (16, 0))
    (fun c s =>
      match publAccess s c (c.team.lead.reg a) with
      | .ok l =>
        let cp : Copy :=
          { id := s.nextId, uid := c.team.uid, task := c.team.task, core := c.core, op := .publ, addr := 0, bar := 0, cores := [],
            recv := [], srcs := [], dsts := [l.block], words := [], begun := [], nwords := 0,
            waits := publWaits s c.team.uid l.block.loc, freed := false }
        let s := s.noteTlb c.core c.task.space (va48 (c.team.lead.reg a))
        leadOn c { s with copies := s.copies.put s.nextId cp, nextId := s.nextId + 1 }
      | _ => s) s
/-- CPWAIT (R163). -/
def execCpwait (s : State) : Out :=
  leadOp .cpwait noLCheck (fun _ _ => (1, 0)) (fun c s => leadOnWait .cpwait c (.cpwait s.nextId) s) s
/-- CPWAIT_RELEASE (R163): every copy and PUBL that the lead issued before has completed. -/
def execCpwaitRelease (team : Nat) (s : State) : Out :=
  match s.teams.find team with
  | none => .refused .notEnabled
  | some t =>
    match t.lead.wait with
    | .cpwait n =>
      if s.copies.any (fun e => e.2.uid == t.uid && decide (e.1 < n)) then .refused .notEnabled
      else .next (s.modLead team (fun l => { l with wait := .none }))
    | .none | .barw _ | .arv _ | .qsend _ | .unit _ _ _ | .unwind _ | .spawnW _ _ _ _ _ | .mwait _ | .saCmd _ _ _ _ | .saload _ => .refused .notEnabled

/-! ## The engine -/

/-- A copy that fills scratchpads. -/
def CopyOp.toSpad : CopyOp → Bool
  | .cpyin | .gath => true
  | .cpyout | .cpyg | .gathg | .publ => false
/-- Change a word of a copy. -/
def State.modWord (s : State) (cmd word : Nat) (f : CpWord → CpWord) : State :=
  { s with copies := s.copies.mod cmd (fun c => { c with words := c.words.mod word f }) }
/-- A copy whose words are all done is complete (R163). -/
def finishCopy (s : State) (cmd : Nat) : State :=
  match s.copies.find cmd with
  | some c => if c.op ≠ .publ && c.words.all (fun w => w.2.done) then { s with copies := s.copies.del cmd } else s
  | none => s
/-- The words of a unit (R317). -/
def Copy.unitWords (c : Copy) (unit : Nat) : List Nat := (c.words.map Prod.fst).filter (fun w => w / 4 == unit)
/-- The unit has begun. -/
def beginUnit (s : State) (cmd unit : Nat) : State :=
  { s with copies := s.copies.mod cmd (fun c => { c with begun := unit :: c.begun }) }
/-- The reads of a unit are sent (R153). -/
def sendReads (c : Copy) (s : State) (ws : List Nat) : State :=
  ws.foldl (fun s w =>
    match segLoc c.srcs (4 * w) with
    | some l => s.sendCausal (dieOf c.core) (homeOf l) (.copyRead c.id w l)
    | none => s) s
/-- COPY_UNIT_BEGIN (R317): the first read of a unit is sent; a CPYOUT reads it, once its lines are present (R126, R155). -/
def execCopyUnitBegin (cmd unit : Nat) (s : State) : Out :=
  match s.copies.find cmd with
  | none => .refused .notEnabled
  | some c =>
    let ws := c.unitWords unit
    if c.op = .publ || c.begun.contains unit || c.nwords ≤ 4 * unit then .refused .notEnabled
    else if c.op = .cpyout then
      match anyTeam s c.uid with
      | none => .refused .notEnabled
      | some t =>
        if ws.any (fun w => t.lineAbsent (c.addr + 4 * w)) then .refused .notEnabled
        else
          .next (ws.foldl (fun s w => s.modWord cmd w (fun x =>
            { x with val := some (BitVec.ofNat 32 (natOfBytes (t.spadBytes (c.addr + 4 * w) 4))) })) (beginUnit s cmd unit))
    else if roomFor s (dieOf c.core) ws.length then .next (sendReads c (beginUnit s cmd unit) ws)
    else .refused .notEnabled

/-- The bytes that a place and its frames take. -/
def Seg.low (g : Seg) : Nat := if g.loc.pub = 0 then g.loc.pa else g.loc.pa / (2 * g.loc.pub) * (2 * g.loc.pub)
/-- The end of those bytes. -/
def Seg.high (g : Seg) : Nat := if g.loc.pub = 0 then g.loc.pa + g.size else g.low + 2 * g.loc.pub
/-- Source and destination of a copy overlap (R153). -/
def Copy.overlaps (c : Copy) : Bool :=
  c.srcs.any (fun g => c.dsts.any (fun h => g.loc.kind == h.loc.kind && decide (g.low < h.high) && decide (h.low < g.high)))
/-- A PUBL that the lead issued before a copy, of a buffer to which the copy writes, has still to invert the selector: the copy's bytes
belong to the frame that is the shadow after it (R156, R162).  (DEDUCED, assumption 64) -/
def Copy.behindPubl (c : Copy) (s : State) : Bool :=
  s.copies.any (fun e => decide (e.1 < c.id) && e.2.uid == c.uid && e.2.op == .publ
    && e.2.dsts.any (fun b => c.dsts.any (fun g => inBlock b.loc g.loc)))
/-- A word's bytes go to global memory; none while they cannot (R153). -/
def sendWord (s : State) (c : Copy) (word core : Nat) : Option State :=
  match c.words.find word, segLoc c.dsts (4 * word) with
  | some w, some l =>
    match w.val with
    | none => none
    | some v =>
      if core ≠ c.core || w.sent ≠ [] || !roomFor s (dieOf c.core) 1
          || (c.overlaps && c.words.any (fun x => x.2.val.isNone)) || c.behindPubl s then none
      else
        some ((s.modWord c.id word (fun x => { x with sent := [core] })).sendCausal (dieOf c.core) (homeOf l)
          (.copyWrite c.id word l (bytesOfNat 4 v.toNat)))
  | _, _ => none
/-- A word of a copy has been applied at its home (R151). -/
def copyWritten (s : State) (cmd word : Nat) : State :=
  match s.copies.find cmd with
  | none => s
  | some c =>
    let s := if c.freed then s else s.modAny c.uid (fun t => t.countOff (some c.bar) 4)
    finishCopy (s.modWord cmd word (fun x => { x with done := true })) cmd

/-- A word has been delivered to a core, or dropped there. -/
def CpWord.sentTo (cores : List Nat) (core : Nat) (w : CpWord) : CpWord :=
  let sent := core :: w.sent
  { w with sent := sent, done := cores.all (fun k => sent.contains k) }
/-- Nothing more of a copy goes to a core: its bytes there are dropped (R147). -/
def dropCore (s : State) (c : Copy) (core : Nat) : State :=
  let s := recordDrop s c.task (4 * c.words.length)
  finishCopy { s with
    copies := s.copies.mod c.id (fun c => { c with
      recv := c.recv.put core 0, words := c.words.map (fun w => (w.1, w.2.sentTo c.cores core)) }) } c.id
/-- A multicast reaches a core that no team received it on when it issued (R154): its receiving team is chosen and its lines become
absent, or it is dropped (R147). -/
def openCopy (s : State) (c : Copy) (core : Nat) : State :=
  match takesCopy s c core with
  | some uid => openFor s c core uid
  | none => dropCore s c core
/-- An earlier command still owes the bytes at an address of the team's scratchpad (R128).  (DEDUCED, assumption 30) -/
def owedEarlier (s : State) (c : Copy) (core uid addr : Nat) : Bool :=
  s.copies.any (fun e =>
    decide (e.1 < c.id) && e.2.op.toSpad && !e.2.freed && e.2.cores.contains core
    && (match e.2.recv.find core with
      | some u => u == uid
      | none => e.2.task == c.task)
    && decide (e.2.addr ≤ addr)
    && (match e.2.words.find ((addr - e.2.addr) / 4) with
      | some w => !w.sent.contains core
      | none => false))
/-- Every byte that a copy writes to a line has been delivered to a core. -/
def lineServed (s : State) (cmd core line : Nat) : Bool :=
  match s.copies.find cmd with
  | some c => c.words.all (fun w => (c.addr + 4 * w.1) / 64 != line || w.2.sent.contains core)
  | none => false
/-- A word lands in a scratchpad; none while it cannot (R127, R128, R147, R151). -/
def landWord (s : State) (c : Copy) (word core uid : Nat) : Option State :=
  match c.words.find word with
  | none => none
  | some w =>
    match w.val with
    | none => none
    | some v =>
      let addr := c.addr + 4 * word
      if w.sent.contains core || owedEarlier s c core uid addr then none
      else
        let s := s.modWord c.id word (CpWord.sentTo c.cores core)
        match anyTeam s uid with
        | none => some (finishCopy (recordDrop s c.task 4) c.id)
        | some _ =>
          let s := landBytes s uid addr (bytesOfNat 4 v.toNat) (some c.bar)
          let s := if lineServed s c.id core (addr / 64) then s.modAny uid (fun t => t.lineSub (addr / 64)) else s
          some (finishCopy s c.id)
/-- COPY_DELIVERY (R127, R151, R154): a word of a copy lands in a scratchpad, a multicast reaches a core, or a word is sent to
its home in global memory. -/
def execCopyDelivery (cmd word core : Nat) (s : State) : Out :=
  match s.copies.find cmd with
  | none => .refused .notEnabled
  | some c =>
    if c.op.toSpad then
      if c.freed || !c.cores.contains core then .refused .notEnabled
      else
        match c.recv.find core with
        | none => .next (openCopy s c core)
        | some uid =>
          match landWord s c word core uid with
          | some t => .next t
          | none => .refused .notEnabled
    else
      match sendWord s c word core with
      | some t => .next t
      | none => .refused .notEnabled
/-- COPY_LATE_DISCARD (R291): a word arrives for a scratchpad that an unwind has freed. -/
def execCopyLateDiscard (cmd word core : Nat) (s : State) : Out :=
  match s.copies.find cmd with
  | none => .refused .notEnabled
  | some c =>
    match c.words.find word with
    | none => .refused .notEnabled
    | some w =>
      if !c.op.toSpad || !c.freed || !c.cores.contains core || w.val.isNone || w.sent.contains core then .refused .notEnabled
      else .next (finishCopy (s.modWord cmd word (CpWord.sentTo c.cores core)) cmd)

/-! ## PUBL at its home -/

/-- The packet of a PUBL that waits at the home of its buffer, with its place. -/
def publAt (s : State) (cmd k : Nat) : Option (Nat × Packet × Loc) :=
  match findIdx (fun (p : Packet) => match p.body with
    | .publ c _ => c == cmd
    | .read _ _ _ _ | .write _ _ _ _ | .atom _ _ _ _ _ _ _ | .copyRead _ _ _ | .copyWrite _ _ _ _ | .saReq _ | .saCmd _ _ _ _ _
    | .arrive _ _ => false) (s.node k).early 0 with
  | some (idx, p) =>
    match p.body with
    | .publ _ l => some (idx, p, l)
    | .read _ _ _ _ | .write _ _ _ _ | .atom _ _ _ _ _ _ _ | .copyRead _ _ _ | .copyWrite _ _ _ _ | .saReq _ | .saCmd _ _ _ _ _
    | .arrive _ _ => none
  | none => none
/-- A read of a buffer in host memory is under way on the host link: it has the address of the live frame (R162).
(DEDUCED, assumption 64) -/
def linkReading (s : State) (l : Loc) : Bool :=
  s.linkReads.any (fun t => match t with
    | .read _ p _ _ _ _ _ => p.kind == l.kind && p.pa / (2 * l.pub) == l.pa / (2 * l.pub)
    | .write _ _ => false
    | .interrupt _ _ => false)
/-- The selector of a buffer is inverted (R160, R161), and its PUBL is complete. -/
def flipSelector (s : State) (cmd : Nat) (l : Loc) : State :=
  let k := selKey l
  { s with selectors := SMap.set s.selectors k (!s.selectors.get k false) false, copies := s.copies.del cmd }
/-- The engine's part of a PUBL (R161): when the copies that it waits for are complete, its packet goes to the home. -/
def publSend (s : State) (c : Copy) : Out :=
  match c.dsts with
  | g :: _ =>
    if c.op ≠ .publ || c.begun ≠ [] || c.waits.any (fun w => s.copies.has w) || !roomFor s (dieOf c.core) 1 then .refused .notEnabled
    else .next ((beginUnit s c.id 0).sendCausal (dieOf c.core) (homeOf g.loc) (.publ c.id g.loc))
  | [] => .refused .notEnabled
/-- PUBL_SELECTOR_FLIP (R161): a PUBL goes to its home, or the home inverts the selector. -/
def execPublSelectorFlip (cmd : Nat) (s : State) : Out :=
  match (List.range Config.nodes).findSome? (fun k => (publAt s cmd k).map (fun x => (k, x))) with
  | some (k, idx, p, l) =>
    if applicable s k p && !linkReading s l then .next (flipSelector (takeApplied s k idx p) cmd l) else .refused .notEnabled
  | none =>
    match s.copies.find cmd with
    | some c => publSend s c
    | none => .refused .notEnabled

end Sys2Proof.Machine
end

