-- ==== Sys2Proof/Machine/Fabric.lean ====
section
/-!
DEFINITION. Hedgerow at work (R271 to R289): tokens and beats, arrival, application and answers at the homes, answers at the
issuing die, errors, and resynchronisation.
-/
namespace Sys2Proof.Machine

/-! ## Stamps on the link -/

/-- A full stamp (R273). -/
def stampBits (epoch : BitVec 8) (src : Nat) (v : Stamp) : BitVec 192 :=
  BitVec.ofNat 192 (epoch.toNat * 2 ^ 184 + src * 2 ^ 180
    + ((List.range Config.nodes).map (fun k => (Stamp.at v k).toNat * 2 ^ (16 * k))).sum)
/-- An entry of a full stamp. -/
def stampEntry (b : BitVec 192) (k : Nat) : BitVec 16 := b.extractLsb' (16 * k) 16
/-- The vector of a full stamp. -/
def stampOf (b : BitVec 192) : Stamp := (List.range Config.nodes).foldl (fun r k => SMap.set r k (stampEntry b k) 0#16) []
/-- EPOCH and SRC of a full stamp. -/
def stampEpoch (b : BitVec 192) : BitVec 8 := b.extractLsb' 184 8
/-- SRC. -/
def stampSrc (b : BitVec 192) : Nat := (b.extractLsb' 180 4).toNat
/-- The delta stamp of a full stamp against a saved one (R275). -/
def deltaOf (old new : BitVec 192) : Enc :=
  let ks := (List.range Config.nodes).filter (fun k => stampEntry old k != stampEntry new k)
  let mask := ks.foldl (fun (m : BitVec 10) k => setBit m k true) 0#10
  .delta (stampEpoch new ++ BitVec.ofNat 4 (stampSrc new) ++ 0#2 ++ mask) (ks.map (stampEntry new))
/-- The stamp that is sent (R276): a delta when the pair has a saved stamp of the same epoch, else a full one. -/
def encodeStamp (saved : Option (BitVec 192)) (new : BitVec 192) : Enc :=
  match saved with
  | some old => if stampEpoch old = stampEpoch new then deltaOf old new else .full new
  | none => .full new
/-- Replace the entries that a mask names, in ascending order (R276). -/
def patchStamp (mask : BitVec 10) (b : BitVec 192) : List Nat → List (BitVec 16) → BitVec 192
  | [], _ => b
  | _ :: _, [] => b
  | k :: ks, e :: es =>
    if mask.getLsbD k then
      patchStamp mask ((b &&& ~~~((BitVec.ofNat 192 0xFFFF) <<< (16 * k))) ||| ((e.zeroExtend 192) <<< (16 * k))) ks es
    else patchStamp mask b ks (e :: es)
/-- Rebuild a stamp at the receiver, or the code of the error (R276, R285).  A delta head with bits 11:10 set gives code 4, as VER and SRC
do (DESIGN CHOICE, assumption 65). -/
def decodeStamp (saved : Option (BitVec 192)) (epoch : BitVec 8) (e : Enc) : Except Nat (BitVec 192) :=
  match e with
  | .reserved => .error 4
  | .full b =>
    if b.extractLsb' 160 20 ≠ 0#20 || Config.nodes ≤ stampSrc b then .error 4
    else if stampEpoch b ≠ epoch then .error 6 else .ok b
  | .delta head entries =>
    if head.extractLsb' 10 2 ≠ 0#2 || Config.nodes ≤ (head.extractLsb' 12 4).toNat then .error 4
    else
      match saved with
      | none => .error 3
      | some b =>
        if head.extractLsb' 16 8 ≠ stampEpoch b then .error 3
        else if stampEpoch b ≠ epoch then .error 6
        else .ok (patchStamp (head.extractLsb' 0 10) b (List.range Config.nodes) entries)
/-- Every entry of a stamp lies at or before its source's counter, within the window (R283). -/
def inWindow (s : State) (b : BitVec 192) : Bool := (List.range Config.nodes).all (fun k => le16 (stampEntry b k) (s.node k).c)

/-- The stamp of an item. -/
def Item.stamp : Item → Stamp
  | .pkt p => p.stamp
  | .resp r => r.stamp
/-- The item with its stamp as it was rebuilt. -/
def Item.withStamp (i : Item) (v : Stamp) : Item :=
  match i with
  | .pkt p => .pkt { p with stamp := v }
  | .resp r => .resp { r with stamp := v }
/-- The destination of an item. -/
def Item.dst : Item → Nat
  | .pkt p => p.dst
  | .resp r => r.dst
/-- The epoch of an item. -/
def Item.epoch : Item → BitVec 8
  | .pkt p => p.epoch
  | .resp r => r.epoch

/-! ## Tokens and beats -/

/-- The node that the token of channel `k` visits after `j`: the next one that is neither the home nor removed (R277, R287). -/
def nextVisit (removed : List Nat) (k j : Nat) : Nat :=
  (((List.range Config.nodes).map (fun i => (j + 1 + i) % Config.nodes)).find? (fun n => n != k && !removed.contains n)).getD j
/-- Going from `j` to `n`, the token of channel `k` passes its home. -/
def passesHome (k j n : Nat) : Bool := decide ((n + Config.nodes - k) % Config.nodes ≤ (j + Config.nodes - k) % Config.nodes)
/-- The first items of a list for a destination, at most `n`, and what is left. -/
def takeFor (dst : Nat) : Nat → List Item → List Item × List Item
  | _, [] => ([], [])
  | 0, is => ([], is)
  | n + 1, i :: is =>
    if i.dst = dst then (i :: (takeFor dst n is).1, (takeFor dst n is).2)
    else ((takeFor dst (n + 1) is).1, i :: (takeFor dst (n + 1) is).2)
/-- Send items from node `j` on channel `k`, each with its stamp encoded (R276). -/
def sendItems (s : State) (k j : Nat) (is : List Item) : State :=
  is.foldl (fun s i =>
    let full := stampBits i.epoch j i.stamp
    let enc := encodeStamp ((s.node j).saveOut.find k) full
    (s.modNode j (fun n => { n with saveOut := n.saveOut.put k full })).modChan k (fun c => { c with flights := c.flights ++ [.item j enc i] })) s
/-- The C of a beat (R277): what node `j` has issued, as far as no packet for `k` still waits to be sent. -/
def beatC (n : Node) (k : Nat) : BitVec 16 :=
  match (n.out.filterMap Item.pkt?).find? (fun p => p.dst == k) with
  | some p => p.seq - 1#16
  | none => n.c
/-- TOKEN_VISIT (R277): the token of a channel visits a node, which sends up to four items and places a beat. -/
def execTokenVisit (chan node : Nat) (s : State) : Out :=
  let c := s.chan chan
  if s.plat.bringUp < 4 || Config.nodes ≤ chan || s.removed.contains chan || s.removed.contains node || node = chan || c.pos ≠ node then
    .refused .notEnabled
  else
    let r := takeFor chan (if c.frozen then 0 else 4) (s.node node).out
    let s := sendItems (s.modNode node (fun n => { n with out := r.2 })) chan node r.1
    let n := nextVisit s.removed chan node
    let beat := Flight.beat node (beatC (s.node node) chan) (Stamp.at (s.node node).a chan)
    .next (s.modChan chan (fun c => { c with
      flights := c.flights ++ [beat], pos := n, lastPass := if passesHome chan node n then s.time.toNat else c.lastPass }))
/-- The source of what is under way. -/
def Flight.src : Flight → Nat
  | .item src _ _ => src
  | .beat src _ _ => src
/-- The lowest of some sequence values (R274). -/
def seqLeast : List (BitVec 16) → Option (BitVec 16)
  | [] => none
  | a :: as => match seqLeast as with
    | none => some a
    | some b => some (if le16 a b then a else b)
/-- F once every other node has reported since it was last formed (R278). -/
def Node.formF (n : Node) (removed : List Nat) (k : Nat) : Node :=
  let others := (List.range Config.nodes).filter (fun j => j != k && !removed.contains j)
  if others.all (fun j => n.reports.has j) then
    match seqLeast (others.map (fun j => n.reports.get j 0#16)) with
    | some f => { n with f := f, reports := [] }
    | none => n
  else n
/-- A beat at the home (R278, R283). -/
def takeBeat (s : State) (src dst : Nat) (c a : BitVec 16) : State :=
  (s.modNode dst (fun n =>
    let n := { n with rcv := SMap.set n.rcv src c 0#16, reports := n.reports.put src a, k := SMap.set n.k src (max16 (Stamp.at n.k src) (c - 8192#16)) 0#16 }
    n.formF s.removed dst)).refreshA dst
/-- The first thing under way from a source on a channel, with its place. -/
def firstFlight (s : State) (src dst : Nat) : Option (Nat × Flight) := findIdx (fun f => f.src == src) (s.chan dst).flights 0
/-- It has arrived. -/
def takeFlight (s : State) (dst idx : Nat) : State := (s.modChan dst (fun c => { c with flights := dropAt c.flights idx })).notCalm
/-- BEAT_ARRIVAL (R278). -/
def execBeatArrival (src dst : Nat) (s : State) : Out :=
  match firstFlight s src dst with
  | some (n, .beat _ c a) => .next (takeBeat (takeFlight s dst n) src dst c a)
  | some (_, .item _ _ _) => .refused .notEnabled
  | none => .refused .notEnabled

/-! ## Arrival -/

/-- What an arrival comes to: an item with its stamp rebuilt, or the code of an error with the item. -/
inductive Arrived where
  | none
  | item (s : State) (i : Item)
  | fault (s : State) (code : Nat) (i : Item)
  deriving DecidableEq, Repr
/-- The place of a mesh entry among the arrivals of one clk: golden before the others, and of two golden ones the older first (R284). -/
def meshRank (s : State) (k : Nat) (e : MeshItem) : Nat := if e.point = s.golden.get k 0 then e.at_ else 2 ^ 48
/-- Entry `idx` of a node's mesh may arrive: it is in flight, and nothing that golden status puts behind it has come in this clk (R284).
(DESIGN CHOICE, assumption 53) -/
def meshTurn (s : State) (k idx : Nat) (e : MeshItem) : Bool :=
  onMesh (s.node k).mesh idx && decide (SMap.get s.fresh.mesh k 0 ≤ meshRank s k e)
/-- It arrives. -/
def takeMesh (s : State) (k idx : Nat) (e : MeshItem) : State :=
  ({ s.modNode k (fun n => { n with mesh := leaveMesh s.time.toNat n.mesh idx }) with
    fresh := { s.fresh with mesh := SMap.put s.fresh.mesh k (meshRank s k e) } } : State).notCalm
/-- The next thing to arrive from a node: the first under way on the channel, or, within a node, number `idx` on its mesh. -/
def arrival (s : State) (src dst idx : Nat) : Arrived :=
  if src = dst then
    match (s.node dst).mesh[idx]? with
    | some e => if meshTurn s dst idx e then .item (takeMesh s dst idx e) e.item else .none
    | none => .none
  else
    match firstFlight s src dst with
    | some (n, .item _ enc i) =>
      let t := takeFlight s dst n
      match decodeStamp ((s.node dst).saveIn.find src) (s.node dst).epoch enc with
      | .error code => .fault t code i
      | .ok b =>
        let t := t.modNode dst (fun n => { n with saveIn := n.saveIn.put src b })
        if inWindow s b then .item t (i.withStamp (stampOf b)) else .fault t 5 i
    | some (_, .beat _ _ _) => .none
    | none => .none
/-- An item that is held at its destination for an error (R285): a packet has arrived, and holds A back. -/
def holdItem (s : State) (src dst code : Nat) (i : Item) : State :=
  let s := s.modNode dst (fun n => { n with held := n.held ++ [(code, i)] })
  match i with
  | .pkt p => (s.modNode dst (fun n => { n with rcv := SMap.set n.rcv src p.seq 0#16 })).refreshA dst
  | .resp _ => s
/-- An item that arrives with an error (R285): one of another epoch is discarded, any other is held. -/
def arrivalFault (s : State) (src dst code : Nat) (i : Item) : State :=
  fabricError (if code = 6 then s else holdItem s src dst code i) dst code src dst
/-- A packet that could be applied or answered at once needs no entry (R282). -/
def readyAt (s : State) (k : Nat) (p : Packet) : Bool := if p.body.waits then applicable s k p else answerable s k p
/-- The packets that take entries of a home's early buffer (R282). -/
def inEntries (s : State) (k : Nat) : List Packet := (s.node k).early.filter (fun q => !readyAt s k q)
/-- Of those packets, the ones in reserved entries: the oldest of each other node (R282). -/
def inReserved (k : Nat) (ps : List Packet) : Nat :=
  ((List.range Config.nodes).filter (fun j => j != k && ps.any (fun q => q.src == j))).length
/-- A home has an entry that a packet may use (R282): a shared one, or the reserved one of its source. -/
def entryFor (s : State) (k : Nat) (p : Packet) : Bool :=
  decide ((inEntries s k).length - inReserved k (inEntries s k) < Config.earlyEntries - Config.earlyReserved)
    || (p.src != k && !(inEntries s k).any (fun q => q.src == p.src))
/-- The packet is in the early buffer, and Rcv and A follow (R278). -/
def putEarly (s : State) (k : Nat) (p : Packet) : State :=
  (s.modNode k (fun n => { n with
    early := n.early ++ [p], rcv := if p.src = k then n.rcv else SMap.set n.rcv p.src p.seq 0#16 })).refreshA k
/-- Put what is under way from a source back to be sent again, in its first order (R282); beats are lost with it. -/
def sendAgain (s : State) (src dst : Nat) : State :=
  let mine := (s.chan dst).flights.filterMap (fun f => match f with
    | .item j _ i => if j = src then some i else none
    | .beat _ _ _ => none)
  (s.modChan dst (fun c => { c with flights := c.flights.filter (fun f => f.src != src) })).modNode src
    (fun n => { n with out := mine ++ n.out, saveOut := n.saveOut.del dst })
/-- A node's own packet that found no entry is sent over the mesh again (R282). -/
def meshAgain (s : State) (k : Nat) (p : Packet) : State :=
  s.modNode k (fun n => { n with mesh := n.mesh ++ [{ at_ := s.time.toNat, point := p.body.point s, item := .pkt p }] })
/-- HOME_PACKET_ARRIVAL (R278, R282): a causal packet arrives at its home, which takes it in or refuses it. -/
def execHomePacketArrival (src dst idx : Nat) (s : State) : Out :=
  match arrival s src dst idx with
  | .item t (.pkt p) =>
    let u := putEarly t dst p
    if readyAt u dst p || entryFor s dst p then .next u
    else if src = dst then .next (meshAgain t dst p)
    else .next (sendAgain s src dst)
  | .fault t code (.pkt p) => .next (arrivalFault t src dst code (.pkt p))
  | .item _ (.resp _) => .refused .notEnabled
  | .fault _ _ (.resp _) => .refused .notEnabled
  | .none => .refused .notEnabled

/-! ## At the homes -/

/-- The bytes of `n` that an atomic leaves (R266). -/
def atomBytes (s : State) (l : Loc) (n : Nat) (o : AtomOp) (b c : Nat) : List Byte :=
  bytesOfNat n (atomNew o n (natOfBytes (s.readLoc l n)) b c)
/-- A packet that may be applied is applied (R266, R279); none for one that another step performs. -/
def applyBody (s : State) (k : Nat) (p : Packet) : Option State :=
  match p.body with
  | .write q op l bs => some (((applyWrite s l bs).delOp q op).storeOver q)
  | .atom q op l n o b c =>
    some ((applyWrite s l (atomBytes s l n o b c)).sendResp k p.src (.mem q op (s.readLoc l n)))
  | .copyWrite cmd word l bs => some (copyWritten (applyWrite s l bs) cmd word)
  | .arrive inst team => some (s.modWide inst (fun w => w.arrive team p.stamp))
  | .read _ _ _ _ => none
  | .copyRead _ _ _ => none
  | .publ _ _ => none
  | .saReq _ => none
  | .saCmd _ _ _ _ _ => none
/-- HOME_APPLY (R279). -/
def execHomeApply (node idx : Nat) (s : State) : Out :=
  match earlyAt s node idx with
  | none => .refused .notEnabled
  | some p =>
    if applicable s node p then
      match applyBody (takeApplied s node idx p) node p with
      | some t => .next t
      | none => .refused .notEnabled
    else .refused .notEnabled
/-- Node 8 sends a read on the host link, which the completion will answer (R352).  (DEDUCED, assumption 44) -/
def linkRead (s : State) (l : Loc) (n : Nat) (copy : Bool) (q op src : Nat) : State :=
  let t : LinkTxn := .read s.nextId { kind := l.kind, pa := framePa s l false } n copy q op src
  { s with link := s.link ++ [t], linkReads := s.linkReads ++ [t], nextId := s.nextId + 1 }
/-- The answer to a read; one of host memory or I/O space becomes a transaction on the host link (R352). -/
def answerRead (s : State) (k : Nat) (p : Packet) : Option State :=
  match p.body with
  | .read q op l n =>
    if 2 ≤ l.kind then some (linkRead s l n false q op p.src) else some (s.sendResp k p.src (.mem q op (s.readLoc l n)))
  | .copyRead cmd word l =>
    if 2 ≤ l.kind then some (linkRead s l 4 true cmd word p.src) else some (s.sendResp k p.src (.copy cmd word (s.readLoc l 4)))
  | .write _ _ _ _ => none
  | .atom _ _ _ _ _ _ _ => none
  | .copyWrite _ _ _ _ => none
  | .publ _ _ => none
  | .saReq _ => none
  | .saCmd _ _ _ _ _ => none
  | .arrive _ _ => none
/-- HOME_READ_ANSWER (R280): writes that may be applied come first. -/
def execHomeReadAnswer (node idx : Nat) (s : State) : Out :=
  match earlyAt s node idx with
  | none => .refused .notEnabled
  | some p =>
    if answerable s node p && writesFirst s node then
      match answerRead (takeEarly s node idx) node p with
      | some t => .next t
      | none => .refused .notEnabled
    else .refused .notEnabled

/-! ## Answers at the issuing die -/

/-- A response at the node that it answers (R280): its knowledge is merged first. -/
def takeResponse (s : State) (dst : Nat) (r : Resp) : Option State :=
  let s := s.learn dst r.stamp
  match r.body with
  | .mem q op bs => some (gotAnswer s q op r.stamp bs)
  | .copy cmd word bs => some (s.modWord cmd word (fun w => { w with val := some (BitVec.ofNat 32 (natOfBytes bs)) }))
  | .sa _ _ _ _ => none
  | .saDone _ _ _ => none
/-- READ_RESPONSE_ARRIVAL (R281). -/
def execReadResponseArrival (src dst idx : Nat) (s : State) : Out :=
  match arrival s src dst idx with
  | .item t (.resp r) =>
    match takeResponse t dst r with
    | some u => .next u
    | none => .refused .notEnabled
  | .fault t code (.resp r) => .next (arrivalFault t src dst code (.resp r))
  | .item _ (.pkt _) => .refused .notEnabled
  | .fault _ _ (.pkt _) => .refused .notEnabled
  | .none => .refused .notEnabled
/-- A response of a stream accumulator's home (R229, R237). -/
def takeSaResponse (s : State) (dst : Nat) (r : Resp) : Option State :=
  let s := s.learn dst r.stamp
  match r.body with
  | .sa q a val held =>
    if a == .done && saFinal q a val && !saMay s q then none
    else
      let t := saAnswer s q a val held
      some (if saFinal q a val then saEdge t q r.stamp else t)
  | .saDone uid id a => some (saLeadAnswer s uid id a)
  | .mem _ _ _ => none
  | .copy _ _ _ => none
/-- SA_READ_ANSWER (R234): an answer of a stream accumulator's home reaches the thread or lead. -/
def execSaReadAnswer (src dst idx : Nat) (s : State) : Out :=
  match arrival s src dst idx with
  | .item t (.resp r) =>
    match takeSaResponse t dst r with
    | some u => .next u
    | none => .refused .notEnabled
  | .item _ (.pkt _) => .refused .notEnabled
  | .fault _ _ _ => .refused .notEnabled
  | .none => .refused .notEnabled

/-! ## Errors and resynchronisation -/

/-- LINK_RETRANSMISSION (R285, R286): a flit's check fails and the packet is sent once more; when that fails too, the sends on the
channel freeze. -/
def execLinkRetransmission (src dst : Nat) (ok : Bool) (s : State) : Out :=
  match firstFlight s src dst with
  | none => .refused .notEnabled
  | some _ =>
    if ok then .next (fabricError s dst 1 src dst)
    else .next (fabricError ((sendAgain s src dst).modChan dst (fun c => { c with frozen := true })) dst 2 src dst)
/-- TOKEN_TIMEOUT (R288): the token has not passed its home for 256 clk; the home regenerates it. -/
def execTokenTimeout (chan : Nat) (s : State) : Out :=
  let c := s.chan chan
  if s.plat.bringUp < 4 || Config.nodes ≤ chan || s.removed.contains chan || clkSince s c.lastPass < 256 then .refused .notEnabled
  else
    .next (fabricError (s.modChan chan (fun c => { c with pos := nextVisit s.removed chan chan, lastPass := s.time.toNat })) chan 7 chan chan)
/-- MESH_DELIVERY_TIMEOUT (R284, R285): something has been in flight on a die's mesh for 65,536 clk: a lasting fault of the die. -/
def execMeshDeliveryTimeout (die : Nat) (s : State) : Out :=
  let m := (s.node die).mesh
  if m.zipIdx.any (fun e => onMesh m e.2 && decide (65536 ≤ clkSince s e.1.at_)) && !(s.chan die).frozen then
    .next (fabricError (s.modChan die (fun c => { c with frozen := true })) die 9 die die)
  else .refused .notEnabled
/-- GOLDEN_PASS (R284): every 512 clk golden status passes to the next of a die's 128 injection points. -/
def execGoldenPass (die : Nat) (s : State) : Out :=
  let g := s.golden.get die 0
  if die < Config.dies && g != s.time.toNat / 512 % 128 then .next { s with golden := SMap.set s.golden die ((g + 1) % 128) 0 }
  else .refused .notEnabled
/-- FERR_CLEAR (R289): a 1 written to V clears the whole record. -/
def execFerrClear (node : Nat) (value : DWord) (s : State) : Out :=
  if value.getLsbD 63 && decide (node < Config.nodes) then .next (s.modNode node (fun n => { n with ferr := Ferr.clear })) else .refused .notEnabled
/-- RESYNC_START (R287): Ling freezes the causal sends at every node, and the drain begins; a request made while one is running joins it.  (DEDUCED, assumption 45) -/
def execResyncStart (removed : Option Nat) (s : State) : Out :=
  match s.resync with
  | none => .next { s with resync := some { step := 2, removed := removed, calmFrom := s.time.toNat } }
  | some r => .next { s with resync := some { r with removed := if r.removed.isSome then r.removed else removed } }

/-- The task of a copy; one whose team an unwind has freed concerns no task any more (R291). -/
def copyTask (s : State) (c : Nat) : Option Nat := match s.copies.find c with
  | some x => if x.freed then none else some x.task
  | none => none
/-- The task whose access, copy or command a packet carries. -/
def bodyTask (s : State) (b : Body) : Option Nat :=
  let ofQ : Nat → Option Nat := fun q => if q = 0 then none else (s.opqs.find q).map OpQ.task
  let ofC : Nat → Option Nat := copyTask s
  match b with
  | .read q _ _ _ => ofQ q
  | .write q _ _ _ => ofQ q
  | .atom q _ _ _ _ _ _ => ofQ q
  | .copyRead c _ _ => ofC c
  | .copyWrite c _ _ _ => ofC c
  | .publ c _ => ofC c
  | .saReq r => some r.task
  | .saCmd _ _ task _ _ => some task
  | .arrive inst _ => (s.wides.find inst).map WideBar.task
/-- The task that an item concerns. -/
def itemTask (s : State) (i : Item) : Option Nat :=
  match i with
  | .pkt p => bodyTask s p.body
  | .resp r => match r.body with
    | .mem q _ _ => if q = 0 then none else (s.opqs.find q).map OpQ.task
    | .copy c _ _ => copyTask s c
    | .sa q _ _ _ => some q.task
    | .saDone uid _ _ => (anyTeam s uid).map Team.task
/-- The nodes that remain when a resynchronisation removes one. -/
def staying (s : State) (r : Resync) (k : Nat) : Bool := !s.removed.contains k && r.removed != some k
/-- The beats have told home `k` what every other node has issued, as four rotations of its token do (R277, R278, R287). -/
def beatsCame (s : State) (r : Resync) (k : Nat) : Bool :=
  (List.range Config.nodes).all (fun j => j == k || !staying s r j || Stamp.at (s.node k).rcv j == beatC (s.node j) k)
/-- Whether the drain of R287 has come to its end: nothing is in flight, and nothing has become applicable for four rotation times. -/
def drained287 (s : State) (r : Resync) : Bool :=
  decide (256 ≤ clkSince s r.calmFrom) && (List.range Config.nodes).all (fun k =>
    !staying s r k || beatsCame s r k &&
      ((s.chan k).flights.all (fun f => match f with
          | .item src _ _ => !staying s r src
          | .beat _ _ _ => true)
        && (s.node k).out.all (fun i => !staying s r i.dst || (s.chan i.dst).frozen)
        && (s.node k).mesh.isEmpty
        && (s.node k).early.all (fun p => !readyAt s k p)))
/-- What step 3 of R287 discards at a node: buffered and held packets, and what can no longer be sent. -/
def discards (s : State) (r : Resync) (k : Nat) : List Item :=
  let n := s.node k
  n.early.map Item.pkt ++ n.held.map Prod.snd ++ n.out
    ++ (if staying s r k then [] else n.mesh.map MeshItem.item)
    ++ (s.chan k).flights.filterMap (fun f => match f with
      | .item _ _ i => some i
      | .beat _ _ _ => none)
/-- The source of an item. -/
def Item.src : Item → Nat
  | .pkt p => p.src
  | .resp r => r.src
/-- Step 3 of R287: each is recorded with code 8. -/
def discardAll (s : State) (r : Resync) : State :=
  (List.range Config.nodes).foldl (fun s k =>
    (discards s r k).foldl (fun s i => fabricError s (if staying s r k then k else Config.ioNode) 8 i.src i.dst) s) s
/-- A word of a copy is lost: nothing of it is delivered any more (R269). -/
def loseWord (s : State) (cmd word : Nat) : State :=
  finishCopy { s with copies := s.copies.mod cmd (fun c => { c with words := c.words.del word }) } cmd
/-- An access is lost: it is neither applied nor answered, and leaves its queue (R269); so does a read of the host (R261). -/
def loseOp (s : State) (q op : Nat) : State :=
  let s := s.delOp q op
  if q = 0 then { s with hostReads := s.hostReads.filter (fun r => r.id != op) } else s
/-- What step 3 of R287 does to what a discarded item carried (R263, R269). -/
def loseItem (s : State) (i : Item) : State :=
  match i with
  | .pkt p => match p.body with
    | .read q op _ _ => loseOp s q op
    | .write q op _ _ => loseOp s q op
    | .atom q op _ _ _ _ _ => loseOp s q op
    | .copyRead cmd word _ => loseWord s cmd word
    | .copyWrite cmd word _ _ => loseWord s cmd word
    | .publ cmd _ => { s with copies := s.copies.del cmd }
    | .saReq _ => s
    | .saCmd _ _ _ _ _ => s
    | .arrive _ _ => s
  | .resp r => match r.body with
    | .mem q op _ => loseOp s q op
    | .copy cmd word _ => loseWord s cmd word
    | .sa _ _ _ _ => s
    | .saDone _ _ _ => s
/-- The accesses of the host that have not been sent to a removed node are lost (R263). -/
def loseHost (s : State) (r : Resync) : State :=
  match r.removed with
  | none => s
  | some d => ((opsOf s 0).filter (fun o => homeOf o.loc == d)).foldl (fun s o => loseOp s 0 o.id) s
/-- Steps 4 to 6 of R287 at a node (R271). -/
def Node.afterResync (n : Node) : Node := { Node.initial with epoch := n.epoch + 1#8 }
/-- A held request after the counters have returned to 0. -/
def Held.forget : Held → Held
  | .req r _ => .req r []
  | .merge id uid task node src dst => .merge id uid task node src dst
/-- An access after the counters have returned to 0. -/
def MemOp.forget (o : MemOp) : MemOp := { o with got := o.got.map (fun g => ([], g.2)) }
/-- Steps 4 to 6 of R287: the counters return to 0, and no knowledge of the old epoch is kept. -/
def resetFabric (s : State) (r : Resync) : State :=
  { s with
    nodes := (List.range Config.nodes).foldl (fun m k => SMap.set m k (s.node k).afterResync Node.initial) [],
    chans := (List.range Config.nodes).foldl (fun m k =>
      SMap.set m k { Chan.initial k with pos := nextVisit (r.removed.toList ++ s.removed) k k, lastPass := s.time.toNat } (Chan.initial k)) [],
    opqs := s.opqs.map (fun e => (e.1, { e.2 with m := [], ops := e.2.ops.map MemOp.forget })),
    wides := s.wides.map (fun e => (e.1, { e.2 with know := [] })),
    tasks := s.tasks.map (fun e => (e.1, { e.2 with know := [] })),
    queues := s.queues.map (fun e => (e.1, { e.2 with cut := [] })),
    heldReqs := s.heldReqs.map Held.forget,
    images := s.images.map (fun e => (e.1, { e.2 with held := e.2.held.map (fun d => { d with know := [] }) })),
    removed := r.removed.toList ++ s.removed, resync := none }
/-- The access reaches the home `d`. -/
def MemOp.reaches (d : Nat) (o : MemOp) : Bool :=
  match o.kind with
  | .edge _ _ => false
  | .load _ _ => homeOf o.loc == d
  | .store _ => homeOf o.loc == d
  | .atom _ _ _ _ => homeOf o.loc == d
/-- The image that a lead's SALOAD reads lies on a node. -/
def LWait.reaches (d : Nat) (w : LWait) : Bool :=
  match w with
  | .saload l => l.segs.any (fun g => homeOf g.loc == d)
  | .none | .barw _ | .arv _ | .qsend _ | .unit _ _ _ | .unwind _ | .spawnW _ _ _ _ _ | .mwait _ | .cpwait _ | .saCmd _ _ _ _ => false
/-- The tasks that the removal of a node ends (R263): those with teams or a record on it, those with accesses to it, and the
owners of rows homed there.  (DEDUCED, assumption 27) -/
def removedTasks (s : State) (r : Resync) : List Nat :=
  match r.removed with
  | none => []
  | some d =>
    (s.teams.filter (fun e => dieOf e.2.core == d)).map (fun e => e.2.task)
      ++ (s.images.filter (fun e => dieOf e.2.team.core == d)).map (fun e => e.2.team.task)
      ++ (s.tasks.filter (fun e => e.1 / Config.taskEntries == d && !e.2.state.final)).map Prod.fst
      ++ (s.opqs.filter (fun e => e.1 != 0 && e.2.ops.any (MemOp.reaches d))).map (fun e => e.2.task)
      ++ (s.copies.filter (fun e => !e.2.freed && (e.2.srcs ++ e.2.dsts).any (fun g => homeOf g.loc == d))).map (fun e => e.2.task)
      ++ (s.teams.filter (fun e => e.2.lead.wait.reaches d)).map (fun e => e.2.task)
      ++ (s.rows.filter (fun e => rowHome e.1 == d)).map (fun e => e.2.owner)
/-- Steps 3 to 6 of R287: what is left is discarded and lost, and the counters return to 0. -/
def resynced (s : State) (r : Resync) : State :=
  let gone := (List.range Config.nodes).flatMap (discards s r)
  resetFabric (loseHost (gone.foldl loseItem (discardAll s r)) r) r
/-- RESYNC_DRAIN_END (R263, R269, R287): the drain is over; what is left is discarded, the counters return to 0 in a new epoch, and
the tasks that have lost something fail. -/
def execResyncDrainEnd (s : State) : Out :=
  match s.resync with
  | none => .refused .notEnabled
  | some r =>
    if drained287 s r then
      let lost := (List.range Config.nodes).flatMap (fun k => (discards s r k).filterMap (itemTask s)) ++ removedTasks s r
      .next (lost.eraseDups.foldl (fun s k => failTask s k Cause.fabricLoss.code) (resynced s r))
    else .refused .notEnabled

end Sys2Proof.Machine
end

