-- ==== Sys2Proof/Machine/Ring.lean ====
section
/-!
DEFINITION. Queues as reorder rings (R319 to R324): control block, slots, status ring with its interrupts (R362), QSTAT (R338),
and the records of tasks: admission (R294, R309), release, and what becomes of a task that is final (R298, R299).
-/
namespace Sys2Proof.Machine

/-! ## Control block, slots, status ring -/

/-- The place `off` bytes on. -/
def placeLoc (p : Place) (off : Nat) : Loc := { kind := p.kind, pa := p.pa + off, pub := 0 }
/-- A number that stands in `n` bytes at a place. -/
def ringNat (s : State) (p : Place) (off n : Nat) : Nat := natOfBytes (s.readLoc (placeLoc p off) n)
/-- Bytes written at a place. -/
def ringWrite (s : State) (p : Place) (off : Nat) (bs : List Byte) : State := applyWrite s (placeLoc p off) bs
/-- WR of a queue's control block (R319). -/
def ringWr (s : State) (b : Place) : Nat := ringNat s b 0 8
/-- HEAD. -/
def ringHead (s : State) (b : Place) : Nat := ringNat s b 8 8
/-- LOG. -/
def ringLog (s : State) (b : Place) : Nat := ringNat s b 24 1 % 32
/-- CAP. -/
def ringCap (s : State) (b : Place) : Nat := 2 ^ ringLog s b
/-- SLOG. -/
def ringSlog (s : State) (b : Place) : Nat := ringNat s b 40 1 % 32
/-- The slot of a ticket (R320, R321); BASE is an address of the control block's KIND.  (PRESUMED, assumption 23) -/
def ringSlot (s : State) (b : Place) (t : Nat) : Place := { kind := b.kind, pa := ringNat s b 16 8 + 128 * (t % ringCap s b) }
/-- The position of an entry of the status ring (R324). -/
def ringEntry (s : State) (b : Place) (k : Nat) : Place :=
  { kind := b.kind, pa := ringNat s b 32 8 + 32 * (k % 2 ^ ringSlog s b) }
/-- A control block is as R319 describes it and its rings lie in the space of its KIND.  (PRESUMED, assumption 23)  (DESIGN CHOICE, assumption 54) -/
def ringOk (s : State) (b : Place) : Bool :=
  decide (b.kind < 3) && b.pa % 64 == 0 && decide (b.pa + 64 ≤ kindBytes b.kind)
  && decide (2 ≤ ringLog s b) && decide (ringLog s b ≤ 16) && decide (2 ≤ ringSlog s b) && decide (ringSlog s b ≤ 16)
  && ringNat s b 16 8 % (128 * ringCap s b) == 0 && decide (ringNat s b 16 8 + 128 * ringCap s b ≤ kindBytes b.kind)
  && ringNat s b 32 8 % (32 * 2 ^ ringSlog s b) == 0 && decide (ringNat s b 32 8 + 32 * 2 ^ ringSlog s b ≤ kindBytes b.kind)
/-- The control block of a queue that Ling has placed and enabled (R296). -/
def openRing (s : State) (q : Nat) : Option Place :=
  match (s.queue q).block with
  | none => none
  | some b => if (s.queue q).opened && ringOk s b then some b else none

/-- QSTAT of a queue (R338). -/
def Queue.qstat (q : Queue) : DWord :=
  0#32 ++ q.seq ++ 0#10 ++ BitVec.ofBool q.rst ++ BitVec.ofBool q.done ++ BitVec.ofBool q.pre ++ BitVec.ofBool q.enabled
    ++ BitVec.ofNat 2 q.rung
/-- Change a queue; a change of QSTAT is written to its control block as one write of 8 bytes (R338). -/
def State.setQueue (s : State) (q : Nat) (f : Queue → Queue) : State :=
  let t := s.modQueue q f
  match (t.queue q).block with
  | none => t
  | some b => if (t.queue q).qstat = (s.queue q).qstat then t else ringWrite t b 48 (bytesOfNat 8 (t.queue q).qstat.toNat)

/-- The interrupt of an interface's status-ring entry (R362): one that the remapping table does not give is refused and
logged (R375). -/
def statusInterrupt (s : State) (n : Nat) : State :=
  let c := (s.queue (16 + n)).ictl
  if c.getLsbD 16 then
    match remapEntry s (c.extractLsb' 0 11).toNat with
    | some (aqi, addr, data) => if aqi = n then sendInterrupt s addr data else logError s false 0x21 (errSrc Config.ioNode 0x21) (BitVec.ofNat 96 n)
    | none => logError s false 0x21 (errSrc Config.ioNode 0x21) (BitVec.ofNat 96 n)
  else s
/-- An entry of a queue's status ring, SEQ last (R324). -/
def statusEntry (s : State) (q : Nat) (handle : BitVec 32) (status : DWord) (remainder : Nat) : State :=
  match openRing s q with
  | none => s
  | some b =>
    let k := (s.queue q).statusSeq
    let bytes := bytesOfNat 8 handle.toNat ++ bytesOfNat 8 status.toNat ++ bytesOfNat 8 remainder ++ bytesOfNat 8 k
    let s := (ringWrite s (ringEntry s b k) 0 bytes).modQueue q (fun x => { x with statusSeq := k + 1 })
    if 16 ≤ q then statusInterrupt s (q - 16) else s

/-! ## Task records -/

/-- A descriptor's entry address is aligned and lies in a sealed code page of its code object (R296). -/
def entryOk (s : State) (codeid space : Nat) (a : DWord) : Bool :=
  a.toNat % 4 == 0 && match s.plat.codeObjs.find codeid with
    | some o => o.space == space && decide (o.base ≤ pageOf (va48 a)) && decide (pageOf (va48 a) < o.base + o.pages)
    | none => false
/-- R296 accepts a descriptor with a placement, for a task of an address space. -/
def descOk (s : State) (space : Nat) (d : List Byte) (place : DWord) : Bool :=
  descVer d == 1 && descZeros d && decide (descRegs d ≤ 256) && decide (descSpadg d ≤ 96) && decide (descAccg d ≤ 127)
  && decide (descQuadg d ≤ 512) && decide (descQuadg d + s.qsag ≤ 512)
  && decide (regGranules (descGroups d) (descRegs d) + descSpadg d + descAccg d ≤ Config.corePool)
  && entryOk s (descCodeid d) space (descGentry d) && entryOk s (descCodeid d) space (descLentry d)
  && (!descHv d || entryOk s (descCodeid d) space (descHandler d))
  && (!descDv d || decide (descDeadline d < 2 ^ 47)) && (!descStv d || descStvcyc d != 0) && placementOk (descSpan d) place

/-- The free entries of a die's task table (R294). -/
def freeEntries (s : State) (die : Nat) : List Nat :=
  (List.range Config.taskEntries).filter (fun e => !s.tasks.has (Config.taskEntries * die + e))
/-- The entry that a new task on a die receives, if one is free: which is not promised (R294).  (DESIGN CHOICE, assumption 9) -/
def pickEntry (s : State) (die : Nat) : Option Nat :=
  let free := freeEntries s die
  match free[Config.freeEntry s.freeCtr % free.length]? with
  | some e => some (Config.taskEntries * die + e)
  | none => none
/-- GEN of an entry: at its first use any value from 1 on (R294).  (DESIGN CHOICE, assumption 9) -/
def genOf (s : State) (k : Nat) : BitVec 16 :=
  match s.gens.find k with
  | some g => g
  | none => if Config.freeGen s.freeCtr = 0#16 then 1#16 else Config.freeGen s.freeCtr
/-- GEN after a release (R294). -/
def nextGen (g : BitVec 16) : BitVec 16 := if g = 0xFFFF#16 then 1#16 else g + 1#16
/-- The record of a task that is QUEUED (R298, R309).  (DEDUCED, assumption 36) -/
def queuedTask (gen : BitVec 16) (desc : List Byte) (place : DWord) (queue ticket : Nat) : Task :=
  { gen := gen, state := .queued, pool := descAllowance desc, parent := none, children := [], desc := desc, place := place,
    queue := queue, ticket := ticket, admitted := 0, ready := false, placed := 0, retired := 0,
    teams := descTeams desc, inst := none, late := false, drop := false, dropb := 0#32, cause := 0, remainder := 0,
    starvedAt := none, space := 0, priv := false, know := [], codeid := descCodeid desc }
/-- A new record in an entry. -/
def putTask (s : State) (k : Nat) (t : Task) : State := { s with tasks := s.tasks.put k t, gens := s.gens.put k t.gen }
/-- A handle is released: its entry is free, with the next GEN (R294). -/
def releaseTask (s : State) (k : Nat) : State :=
  match s.tasks.find k with
  | none => s
  | some t =>
    let s := { s with
      tasks := s.tasks.del k, gens := s.gens.put k (nextGen t.gen), hist := s.hist.del k,
      opqs := s.opqs.filter (fun (e : Nat × OpQ) => e.1 == 0 || e.2.task != k || !e.2.ops.isEmpty) }
    match t.parent with
    | some p => s.modTask p (fun x => { x with children := x.children.filter (fun c => c != k) })
    | none => s

/-- The home unit of a task has not gone past a step of R307 in this clk: 1 credits, 1000 + core the request of a core, 3001 completion,
3002 UNWIND, 3003 an unwind under R306, 4000 answers. -/
def unitMay (s : State) (k step : Nat) : Bool := decide (SMap.get s.fresh.units k 0 ≤ step)
/-- It has not taken that step either. -/
def unitNew (s : State) (k step : Nat) : Bool := decide (SMap.get s.fresh.units k 0 < step)
/-- It takes the step. -/
def State.unitStep (s : State) (k step : Nat) : State := { s with fresh := { s.fresh with units := SMap.put s.fresh.units k step } }
/-- A final child's remainder is credited to its parent, and its handle released (R299). -/
def creditChild (s : State) (p k : Nat) : State :=
  match s.tasks.find k with
  | none => s
  | some t =>
    if t.state.final then
      releaseTask (s.modTask p (fun x => { x with pool := x.pool + t.remainder, know := Stamp.merge x.know t.know })) k
    else s
/-- Credit the final children of a task (R299, R316). -/
def creditChildren (s : State) (k : Nat) : State :=
  match s.tasks.find k with
  | none => s
  | some t => t.children.foldl (fun s c => creditChild s k c) s
/-- The last team of a running task has retired: it is DRAINING (R298, R299). -/
def drainIfDone (s : State) (k : Nat) : State :=
  match s.tasks.find k with
  | none => s
  | some t =>
    if t.state = .running && t.retired = t.teams then creditChildren (s.modTask k (fun x => { x with state := .draining })) k else s
/-- A task reaches a final state with its remainder (R298, R299, R324): a root reports in its status ring and is gone; the
parent of any other is credited at once when it is DRAINING. -/
def finishTask (s : State) (k : Nat) (st : TaskState) : State :=
  let s := s.modTask k (fun t => { t with state := st, remainder := t.pool, pool := 0 })
  match s.tasks.find k with
  | none => s
  | some t =>
    match t.parent with
    | none => releaseTask (statusEntry s t.queue (t.handle k) t.status t.remainder) k
    | some p =>
      match s.tasks.find p with
      | some x => if x.state = .draining then creditChild s p k else s
      | none => s

/-- Every packet that a node has not yet applied or answered, wherever it is. -/
def fabricPkts (s : State) : List Packet :=
  s.nodes.flatMap (fun e =>
      e.2.out.filterMap Item.pkt? ++ e.2.mesh.filterMap (fun i => i.item.pkt?) ++ e.2.early ++ e.2.held.filterMap (fun i => i.2.pkt?))
    ++ s.chans.flatMap (fun e => e.2.flights.filterMap (fun f => match f with
      | .item _ _ i => i.pkt?
      | .beat _ _ _ => none))
/-- The completion fence of a task (R36, R318): every store, atomic, SEND, add and barrier arrival that it has issued, and every byte of a
begun unit bound for global memory, has been applied. -/
def taskQuiet (s : State) (k : Nat) : Bool :=
  s.opqs.all (fun e => e.1 == 0 || e.2.task != k || e.2.ops.all (fun o => o.kind.isLoad))
  && s.sends.all (fun i => i.task != k)
  && s.copies.all (fun e => e.2.task != k || (e.2.op.toSpad && e.2.freed))
  && (fabricPkts s).all (fun p => match p.body with
    | .saReq r => r.task != k || !p.body.waits
    | .saCmd _ _ task _ _ => task != k
    | .read _ _ _ _ => true
    | .write _ _ _ _ => true
    | .atom _ _ _ _ _ _ _ => true
    | .copyRead _ _ _ => true
    | .copyWrite _ _ _ _ => true
    | .publ _ _ => true
    | .arrive inst _ => inst / 2 ^ 22 != k)

end Sys2Proof.Machine
end

