-- ==== Sys2Proof/Machine/Task.lean ====
section
/-!
DEFINITION. The task instructions (R308 to R314), the home allowance unit (R300 to R307), unwinding (R316 to R318), the
retirement of teams and the completion of tasks (R36, R299), and the consumer of a queue (R323).
-/
namespace Sys2Proof.Machine

/-! ## SPAWN -/

/-- Admission to the device queue of a parent (R309): in one step a ticket and an entry are taken, the slot is written with its
ticket last, and the bell rises; the child's handle.  None while the ring or the task table is full. -/
def enqueue (s : State) (parent die : Nat) (desc : List Byte) (place : DWord) : Option (State × BitVec 32) :=
  match s.tasks.find parent with
  | none => none
  | some p =>
    let q := descQueue p.desc
    match openRing s q, pickEntry s die with
    | some b, some k =>
      let t := ringWr s b
      if t < ringHead s b + ringCap s b then
        let gen := genOf s k
        let slot := ringSlot s b t
        let child := { queuedTask gen desc place q t with
          parent := some parent, space := p.space, priv := p.priv, know := (s.node die).k }
        let s := ringWrite s b 0 (bytesOfNat 8 (t + 1))
        let s := ringWrite s slot 0
          (desc ++ bytesOfNat 8 place.toNat ++ bytesOfNat 4 (p.handle parent).toNat ++ bytesOfNat 44 0)
        let s := ringWrite s slot 120 (bytesOfNat 8 t)
        let s := s.modQueue q (fun x => { x with bell := BitVec.ofNat 64 (Nat.max x.bell.toNat (t + 1)), due := true })
        let s := (putTask s k child).modTask parent (fun x => { x with children := x.children ++ [k] })
        some (s, handleOf gen k)
      else none
    | _, _ => none
/-- Where the descriptor at s[sa] stands, checked as a load of 64 bytes (R309, R123, R352). -/
def spawnSpan (s : State) (c : LCtx) (a : BitVec 6) : Except Access (List (Seg × Leaf)) :=
  spanAccess s c.core c.task (c.team.lead.reg a) 64 (leafTrap s c.task .read memKind true true)
/-- The checks of SPAWN (R309); the descriptor is read once the lead's earlier accesses are out of the way. -/
def spawnCheck (a : BitVec 6) (s : State) (c : LCtx) : LVerdict :=
  let va := c.team.lead.reg a
  if canonical va && va.toNat % 64 ≠ 0 then .at .align va
  else
    match spawnSpan s c a with
    | .error e => e.lverdict .read
    | .ok ps =>
      if quiet s c.team.lead.ops && readable s (dieOf c.core) (segLocs (ps.map Prod.fst)) then .ok else .wait
/-- The 64 bytes at s[sa]. -/
def spawnDesc (s : State) (c : LCtx) (a : BitVec 6) : List Byte :=
  match spawnSpan s c a with
  | .ok ps => readSegs s (ps.map Prod.fst)
  | .error _ => []
/-- The descriptor has been read: its translation is cached, and what its home has applied is known (R309, R254). -/
def spawnRead (s : State) (c : LCtx) (a : BitVec 6) : State :=
  match spawnSpan s c a with
  | .ok ps => (noteSegs s c.core c.task.space (ps.map Prod.fst)).absorb (dieOf c.core) (segLocs (ps.map Prod.fst))
  | .error _ => s
/-- A result that names a refusal (R309). -/
def spawnCode (n : Nat) : DWord := BitVec.ofNat 64 (2 ^ 63 + n)
/-- The child is refused, or its queue is full: the allowance goes back (R309). -/
def spawnBack (c : LCtx) (d : BitVec 6) (allow code : Nat) (s : State) : State :=
  leadOn c ((refund s c.team.task allow).modLead c.tk (fun l => l.setReg d.toNat (spawnCode code)))
/-- R296 for a child: its descriptor and placement are accepted, and its queue has been enabled. -/
def spawnOk (s : State) (c : LCtx) (desc : List Byte) (place : DWord) : Bool :=
  descOk s c.task.space desc place && (openRing s (descQueue c.task.desc)).isSome
/-- The effect of SPAWN and SPAWN.W after their charge (R309). -/
def spawnEffect (i : Instr) (wait : Bool) (d a b : BitVec 6) (c : LCtx) (s : State) : State :=
  let desc := spawnDesc s c a
  let place := c.team.lead.reg b
  let s := spawnRead s c a
  if spawnOk s c desc place then
    match enqueue s c.team.task (dieOf c.core) desc place with
    | some (t, h) => leadOn c (t.modLead c.tk (fun l => l.setReg d.toNat (h.zeroExtend 64)))
    | none =>
      if wait then leadOnWait i c (.spawnW desc place d.toNat (descAllowance desc) s.time.toNat) s
      else spawnBack c d (descAllowance desc) 8 s
  else spawnBack c d (descAllowance desc) 9 s
/-- The charge of SPAWN (R309). -/
def spawnCost (a : BitVec 6) (s : State) (c : LCtx) : Nat × Nat := (64 + descAllowance (spawnDesc s c a), 0)
/-- SPAWN (R309). -/
def execSpawn (d a b : BitVec 6) (s : State) : Out :=
  leadOp (.spawn d a b) (spawnCheck a) (spawnCost a) (spawnEffect (.spawn d a b) false d a b) s
/-- SPAWN.W (R309, R325). -/
def execSpawnW (d a b : BitVec 6) (s : State) : Out :=
  leadOp (.spawnW d a b) (spawnCheck a) (spawnCost a) (spawnEffect (.spawnW d a b) true d a b) s
/-- Admit what a waiting SPAWN.W of a resident team asks for, if there is room. -/
def admitWaiting (s : State) (tk : Nat) (t : Team) : Option State :=
  match t.lead.wait with
  | .spawnW desc place sd _ _ =>
    match enqueue s t.task (dieOf t.core) desc place with
    | some (u, h) => some (u.modLead tk (fun l => { l.setReg sd (h.zeroExtend 64) with wait := .none }))
    | none => none
  | .none | .barw _ | .arv _ | .qsend _ | .unit _ _ _ | .unwind _ | .mwait _ | .cpwait _ | .saCmd _ _ _ _ | .saload _ => none
/-- A SEND has reached a lead's register in this clk, and its word stays there (R145). -/
def sentNow (s : State) (uid r : Nat) : Bool := s.fresh.inbox.contains (uid, r)
/-- The register that a waiting SPAWN.W writes. -/
def spawnReg (t : Team) : Nat :=
  match t.lead.wait with
  | .spawnW _ _ sd _ _ => sd
  | .none | .barw _ | .arv _ | .qsend _ | .unit _ _ _ | .unwind _ | .mwait _ | .cpwait _ | .saCmd _ _ _ _ | .saload _ => 0
/-- SPAWN_W_ADMISSION (R309): room has appeared. -/
def execSpawnWAdmission (team : Nat) (s : State) : Out :=
  match s.teams.find team with
  | none => .refused .notEnabled
  | some t =>
    if sentNow s t.uid (spawnReg t) then .refused .notEnabled
    else
      match admitWaiting s team t with
      | some u => .next u
      | none => .refused .notEnabled
/-- A team's SPAWN.W has not been admitted within 4,096 clk of its issue (R325). -/
def spawnLate (s : State) (t : Team) : Bool :=
  match t.lead.wait with
  | .spawnW _ _ _ _ since => decide (4096 ≤ (s.time - BitVec.ofNat 48 since).toNat)
  | .none | .barw _ | .arv _ | .qsend _ | .unit _ _ _ | .unwind _ | .mwait _ | .cpwait _ | .saCmd _ _ _ _ | .saload _ => false
/-- It is decided that a team is swapped out; what reaches it in the same clk is applied before its image is written (R332). -/
def decideSwap (s : State) (tk : Nat) (t : Team) (reason : BitVec 4) : State :=
  { s.modTeam tk (fun t => { t with swap := some reason }) with fresh := { s.fresh with saves := t.uid :: s.fresh.saves } }
/-- SPAWN_W_TIMEOUT (R325, R331): the team is to be swapped out. -/
def execSpawnWTimeout (team : Nat) (s : State) : Out :=
  match s.teams.find team with
  | none => .refused .notEnabled
  | some t =>
    if spawnLate s t && t.swap.isNone then .next (decideSwap s team t 2#4) else .refused .notEnabled

/-! ## Commands at a child's home unit -/

/-- The child that a handle names to a task, while the handle has not been released (R294, R308). -/
def childOf (s : State) (parent : Nat) (h : BitVec 32) : Option Nat :=
  match s.tasks.find (handleEntry h) with
  | some t => if t.parent = some parent && t.gen = handleGen h then some (handleEntry h) else none
  | none => none
/-- The handle in a lead register. -/
def handleReg (c : LCtx) (a : BitVec 6) : BitVec 32 := (c.team.lead.reg a).extractLsb' 0 32
/-- A handle operand must name an unreleased child of the issuing task (R308). -/
def childVerdict (a : BitVec 6) (s : State) (c : LCtx) : LVerdict :=
  if (c.team.lead.reg a).extractLsb' 32 32 = 0#32 && (childOf s c.team.task (handleReg c a)).isSome then .ok
  else .of .permission
/-- A command that the child's home unit answers (R307): charged 4 AU; the lead waits for the answer. -/
def unitOp (i : Instr) (fn sd : Nat) (a : BitVec 6) (s : State) : Out :=
  leadOp i (childVerdict a) (fun _ _ => (4, 0)) (fun c s => leadOnWait i c (.unit fn sd (handleReg c a)) s) s
/-- JOIN (R310). -/
def execJoin (d a : BitVec 6) (s : State) : Out := unitOp (.join d a) 2 d.toNat a s
/-- TSTAT (R311). -/
def execTstat (d a : BitVec 6) (s : State) : Out := unitOp (.tstat d a) 3 d.toNat a s
/-- ALWRD (R314). -/
def execAlwrd (d a : BitVec 6) (s : State) : Out := unitOp (.alwrd d a) 6 d.toNat a s
/-- UNWIND (R313): the lead waits until the home unit has accepted it. -/
def execUnwind (a : BitVec 6) (s : State) : Out :=
  leadOp (.unwind a) (childVerdict a) (fun _ _ => (4, 0)) (fun c s => leadOnWait (.unwind a) c (.unwind (handleReg c a)) s) s

/-- A top-up of a child at its home unit (R312): the AU moved. -/
def topUp (s : State) (parent k a : Nat) : State × Nat :=
  match s.tasks.find k with
  | none => (refund s parent a, 0)
  | some t =>
    if a = 0 then (s, 0)
    else if t.state.final || t.state == .unwinding || 2 ^ 64 ≤ t.pool + a then (refund s parent a, 0)
    else
      (drainIfDone (s.modTask k (fun t =>
        { t with pool := t.pool + a, state := if t.state = .starved then .running else t.state, starvedAt := none })) k, a)
/-- The checks of ALWADD (R308, R312); the child's home unit takes its top-ups first in a clk (R307). -/
def alwaddCheck (a : BitVec 6) (s : State) (c : LCtx) : LVerdict :=
  match childVerdict a s c with
  | .ok => if unitMay s (handleEntry (handleReg c a)) 1 then .ok else .wait
  | v => v
/-- The charge of ALWADD (R312). -/
def alwaddCost (b : BitVec 6) (_ : State) (c : LCtx) : Nat × Nat := (4 + (c.team.lead.reg b).toNat, 0)
/-- ALWADD (R312). -/
def execAlwadd (d a b : BitVec 6) (s : State) : Out :=
  leadOp (.alwadd d a b) (alwaddCheck a) (alwaddCost b)
    (fun c s =>
      let k := handleEntry (handleReg c a)
      let r := topUp (s.unitStep k 1) c.team.task k (c.team.lead.reg b).toNat
      leadOn c (r.1.modLead c.tk (fun l => l.setReg d.toNat (BitVec.ofNat 64 r.2)))) s

/-- The states that a JOIN reports (R310). -/
def TaskState.reportable (t : TaskState) : Bool := t.final || t == .starved
/-- What a command of a lead writes when a child's home unit answers it (R310, R311, R314). -/
def unitRegs (fn sd : Nat) (status : DWord) (figure : Nat) (l : Lead) : Lead :=
  if fn = 6 then { l.setReg sd (BitVec.ofNat 64 figure) with wait := .none }
  else { (l.setReg sd status).setReg (sd + 1) (BitVec.ofNat 64 figure) with wait := .none }
/-- The answer reaches a lead; one that reports a final state brings what the child knew (R310, R311). -/
def unitReply (s : State) (tk : Nat) (t : Team) (fn sd : Nat) (x : Task) (figure : Nat) : State :=
  let s := s.modLead tk (unitRegs fn sd x.status figure)
  if x.state.final then s.learn (dieOf t.core) x.know else s
/-- The other commands that wait at the home unit of a child whose handle is released are answered with it (R310).  (DEDUCED, assumption 32) -/
def replyOthers (s : State) (parent : Nat) (h : BitVec 32) (x : Task) : State :=
  s.teams.foldl (fun u e =>
    if e.2.task != parent then u
    else
      match e.2.lead.wait with
      | .unit fn sd g => if g = h then unitReply u e.1 e.2 fn sd x (if fn = 2 then 0 else x.remainder) else u
      | .none | .barw _ | .arv _ | .qsend _ | .unwind _ | .spawnW _ _ _ _ _ | .mwait _ | .cpwait _ | .saCmd _ _ _ _ | .saload _ => u) s
/-- The answer of a child's home unit to a command of a lead; none while a JOIN waits (R310, R311, R314). -/
def unitAnswer (s : State) (tk : Nat) (t : Team) (fn sd : Nat) (h : BitVec 32) (k : Nat) (x : Task) : Option State :=
  if fn = 2 then
    if !x.state.reportable then none
    else if x.state.final then
      let s := unitReply s tk t fn sd x x.remainder
      let s := s.modTask t.task (fun p => { p with pool := p.pool + x.remainder })
      some (releaseTask (replyOthers s t.task h x) k)
    else some (unitReply s tk t fn sd x (unspent s k))
  else some (unitReply s tk t fn sd x (unspent s k))
/-- The report of the command at which a lead waits (R31). -/
def waitTrap (s : State) (t : Team) (i : TrapInfo) : State :=
  systemHandler s t.task i.cause.code (trapT0 false false Cls.lead.code (t.lead.remain + 1) none i) t.lead.cmd (t.lead.pc - 4#64) i.addr
/-- The home units may answer a command in this clk (R307): the child's has its answers last, and a final child's remainder is a credit of
the parent's.  A register that a SEND has reached in this clk is written in the next (R145). -/
def answerMay (s : State) (t : Team) (fn sd k : Nat) (x : Task) : Bool :=
  unitMay s k 4000 && (fn != 2 || !x.state.final || unitMay s t.task 1)
  && !sentNow s t.uid sd && (fn == 6 || !sentNow s t.uid (sd + 1))
/-- They do. -/
def State.answerStep (s : State) (t : Team) (fn k : Nat) (x : Task) : State :=
  let s := s.unitStep k 4000
  if fn == 2 && x.state.final then s.unitStep t.task 1 else s
/-- HOME_UNIT_ANSWER (R307): JOIN, TSTAT or ALWRD is answered.  A handle that has been released meanwhile is stale (R308). -/
def execHomeUnitAnswer (team : Nat) (s : State) : Out :=
  match lctxOf s team with
  | none => .refused .notEnabled
  | some c =>
    match c.team.lead.wait with
    | .unit fn sd h =>
      match childOf s c.team.task h with
      | none => .next (waitTrap s c.team { cause := .permission, code := 0, addr := 0#64 })
      | some k =>
        match s.tasks.find k with
        | none => .refused .notEnabled
        | some x =>
          if answerMay s c.team fn sd k x then
            match unitAnswer (s.answerStep c.team fn k x) team c.team fn sd h k x with
            | some u => .next u
            | none => .refused .notEnabled
          else .refused .notEnabled
    | .none | .barw _ | .arv _ | .qsend _ | .unwind _ | .spawnW _ _ _ _ _ | .mwait _ | .cpwait _ | .saCmd _ _ _ _ | .saload _ =>
      .refused .notEnabled
/-! ## Allowance -/

/-- A task's home unit may answer the request of a core now (R307): once for each core in a clk, in ascending order of the cores. -/
def requestMay (s : State) (core task : Nat) : Bool :=
  unitNew s task (1000 + core)
  && s.leases.all (fun e => e.1 % 65536 != task || decide (core ≤ e.1 / 65536) || e.2.req.isNone || !unitNew s task (1000 + e.1 / 65536))
/-- LEASE_REQUEST (R300): a lease or a refill is answered. -/
def execLeaseRequest (core task : Nat) (s : State) : Out :=
  match s.tasks.find task, s.leases.find (leaseKey core task) with
  | some t, some l =>
    let plain := match l.req with
      | some .lease => true
      | some .refill => true
      | some (.failing _ _) => false
      | none => false
    if t.state = .running && plain && requestMay s core task then
      let n := Nat.min (Config.leaseMax - l.bal) t.pool
      let s := s.unitStep task (1000 + core)
      .next (({ s with leases := s.leases.put (leaseKey core task) { l with bal := l.bal + n, req := none } } : State).modTask task
        (fun t => { t with pool := t.pool - n }))
    else .refused .notEnabled
  | _, _ => .refused .notEnabled
/-- Every lease of a task is recalled: its balance returns to the pool (R303). -/
def recallBalances (s : State) (task : Nat) : State :=
  let n := leasesOf s task
  ({ s with leases := s.leases.mapIf (fun k => k % 65536 == task) (fun _ l => { l with bal := 0 }) } : State).modTask task
    (fun t => { t with pool := t.pool + n })
/-- A recalled task meets a charge or becomes STARVED (R303, R304).  (DEDUCED, assumption 33) -/
def meetCharge (s : State) (core task : Nat) (l : Lease) (who : Payer) (amount pool : Nat) : State :=
  if amount ≤ pool then
    let lease := Nat.min Config.leaseMax pool
    let l : Lease := { bal := lease - amount, req := none, paid := l.paid ++ [(who, amount)] }
    ({ s with leases := s.leases.put (leaseKey core task) l } : State).modTask task
      (fun t => { t with pool := pool - lease - (amount - lease) })
  else
    ({ s with leases := s.leases.put (leaseKey core task) { l with bal := 0, req := none } } : State).modTask task
      (fun t => { t with state := .starved, starvedAt := some s.time.toNat })
/-- FAILING_REQUEST (R303). -/
def execFailingRequest (core task : Nat) (s : State) : Out :=
  match s.tasks.find task, s.leases.find (leaseKey core task) with
  | some t, some l =>
    if t.state ≠ .running || !requestMay s core task then .refused .notEnabled
    else
      match l.req with
      | some (.failing who amount) =>
        .next (meetCharge (recallBalances (s.unitStep task (1000 + core)) task) core task l who amount (t.pool + leasesOf s task))
      | some .lease => .refused .notEnabled
      | some .refill => .refused .notEnabled
      | none => .refused .notEnabled
  | _, _ => .refused .notEnabled
/-- STARVATION_TIMEOUT (R306). -/
def execStarvationTimeout (task : Nat) (s : State) : Out :=
  match s.tasks.find task with
  | none => .refused .notEnabled
  | some t =>
    match t.starvedAt with
    | none => .refused .notEnabled
    | some since =>
      if t.state = .starved && descStv t.desc && decide (descStvcyc t.desc ≤ clkSince s since) && unitNew s task 3003 then
        .next (unwindTask (s.unitStep task 3003) task)
      else .refused .notEnabled

/-! ## How teams and tasks end -/

/-- The engine commands that a team's lead has issued are complete, and what its threads sent to it has been accepted (R36). -/
def enginesDone (s : State) (t : Team) : Bool :=
  t.mats.isEmpty && t.tloads.isEmpty && !s.copies.any (fun e => e.2.uid == t.uid)
  && s.sends.all (fun i => i.uid != t.uid || i.dest_ == Consumer.next)
  && (fabricPkts s).all (fun p => match p.body with
    | .saCmd _ uid _ _ _ => uid != t.uid
    | .read _ _ _ _ => true
    | .write _ _ _ _ => true
    | .atom _ _ _ _ _ _ _ => true
    | .copyRead _ _ _ => true
    | .copyWrite _ _ _ _ => true
    | .publ _ _ => true
    | .saReq _ => true
    | .arrive _ _ => true)
/-- A team retires: what it holds is free, and its task has one team less to wait for (R36, R300). -/
def retireTeam (s : State) (tk : Nat) (t : Team) : State :=
  let s := s.modTask t.task (fun k => { k with retired := k.retired + 1, know := Stamp.merge k.know (s.node (dieOf t.core)).k })
  let s := wideTeamEnd (dropTeam s tk) t.uid
  let s := if teamsLeft s t.task = 0 then wideTaskEnd s t.task else s
  let s := if hasTeamOn s t.task t.core then s else returnLease s t.core t.task
  drainIfDone (releaseQuad s t.task (quadOf t.core)) t.task
/-- TEAM_RETIREMENT (R36): the last group has retired, the lead has ended or been stopped, and its commands are complete. -/
def execTeamRetirement (team : Nat) (s : State) : Out :=
  match s.teams.find team with
  | none => .refused .notEnabled
  | some t =>
    if (groupsOf s team).isEmpty && (t.lead.ended || t.lead.stopped) && enginesDone s t then .next (retireTeam s team t)
    else .refused .notEnabled
/-- The rows of a task that completes pass to its parent; those of a root are freed (R247). -/
def passRows (s : State) (k : Nat) (parent : Option Nat) : State :=
  match parent with
  | none => (s.rows.filter (fun e => e.2.owner == k)).foldl (fun s e => freeRow s e.1) s
  | some p => { s with rows := s.rows.map (fun (e : Nat × Row) => if e.2.owner == k then (e.1, { e.2 with owner := p }) else e) }
/-- A task can complete (R36, R299): every child is final and credited, and the completion fence is done. -/
def completes (s : State) (task : Nat) (t : Task) : Bool := t.state == .draining && t.children.isEmpty && taskQuiet s task
/-- The home units may make a task final in this clk (R307): a parent that is DRAINING is credited with it. -/
def finishMay (s : State) (task : Nat) (t : Task) : Bool :=
  unitNew s task 3001 && match t.parent with
    | none => true
    | some p => unitMay s p 1 || !(match s.tasks.find p with
      | some x => x.state == .draining
      | none => false)
/-- They do. -/
def State.finishStep (s : State) (task : Nat) (t : Task) : State :=
  let s := s.unitStep task 3001
  match t.parent with
  | none => s
  | some p => if unitMay s p 1 then s.unitStep p 1 else s
/-- TASK_COMPLETION (R36, R299). -/
def execTaskCompletion (task : Nat) (s : State) : Out :=
  match s.tasks.find task with
  | none => .refused .notEnabled
  | some t =>
    if completes s task t && finishMay s task t then .next (finishTask (passRows (s.finishStep task t) task t.parent) task .completed)
    else .refused .notEnabled
/-- Every child of a task is final. -/
def childrenFinal (s : State) (t : Task) : Bool :=
  t.children.all (fun c => match s.tasks.find c with
    | some x => x.state.final
    | none => true)
/-- UNWIND_END (R316, R318): the subtree's fence is done; the remainders of the children count, and the task is UNWOUND, or FAILED
when it failed. -/
def execUnwindEnd (task : Nat) (s : State) : Out :=
  match s.tasks.find task with
  | none => .refused .notEnabled
  | some t =>
    if t.state = .unwinding && childrenFinal s t && taskQuiet s task && finishMay s task t then
      .next (finishTask (creditChildren (s.finishStep task t) task) task (if t.cause = 0 then .unwound else .failed))
    else .refused .notEnabled

/-! ## The consumer of a queue -/

/-- The consumer runs: the queue is open and enabled, and slots below its doorbell are left (R323). -/
def consuming (s : State) (q : Nat) : Option Place :=
  match openRing s q with
  | none => none
  | some b => if (s.queue q).enabled && decide (ringHead s b < (s.queue q).bell.toNat) then some b else none
/-- The slot HEAD has been consumed (R323). -/
def consumed (s : State) (b : Place) : State := ringWrite s b 8 (bytesOfNat 8 (ringHead s b + 1))
/-- The task that a ticket of a queue was given to, while it is QUEUED. -/
def queuedAt (s : State) (q t : Nat) : Option Nat :=
  (List.find? (fun (e : Nat × Task) => e.2.queue == q && e.2.ticket == t && e.2.state == .queued && !e.2.ready) s.tasks).map Prod.fst
/-- A task enters the ready set (R323, R326). -/
def makeReady (s : State) (k : Nat) : State := s.modTask k (fun t => { t with ready := true, admitted := s.time.toNat })
/-- The slot of a device queue (R309, R316): the child that SPAWN has recorded, unless it has been unwound. -/
def takeChild (s : State) (q : Nat) (b : Place) : State :=
  match queuedAt s q (ringHead s b) with
  | some k => consumed (makeReady s k) b
  | none => consumed s b
/-- A request that makes no task: its status entry names the low 32 bits of its ticket (R324, R359, R363). -/
def refuseSlot (s : State) (q : Nat) (b : Place) (code : Nat) : State :=
  consumed (statusEntry s q (BitVec.ofNat 32 (ringHead s b)) (statusWord 0#32 false false 0 code) 0) b
/-- The PASID of a slot (R320). -/
def slotPasid (s : State) (slot : Place) : BitVec 20 := BitVec.ofNat 20 (ringNat s slot 76 4)
/-- The slot of a queue interface (R294, R359, R363): refused, or a root task on die n mod 8; none while no entry is free.  (DEDUCED, assumption 36) -/
def takeRequest (s : State) (q : Nat) (b : Place) : Option State :=
  let x := s.queue q
  let slot := ringSlot s b (ringHead s b)
  let desc := s.readLoc (placeLoc slot 0) 64
  let place := BitVec.ofNat 64 (ringNat s slot 64 8)
  let pasid := slotPasid s slot
  if s.plat.revoked.contains pasid || pasid ≠ x.pasid then some (refuseSlot s q b 10)
  else if !descOk s x.space desc place then some (refuseSlot s q b 9)
  else
    match pickEntry s ((q - 16) % Config.dies) with
    | none => none
    | some k =>
      let t := { queuedTask (genOf s k) desc place q (ringHead s b) with
        space := x.space, priv := x.priv, know := (s.node (homeOf (placeLoc slot 0))).a }
      let s := { s with fresh := { s.fresh with roots := k :: s.fresh.roots } }
      some (consumed (makeReady (putTask s k t) k) b)
/-- SLOT_CONSUME (R323): an examination of the slot HEAD that is due. -/
def execSlotConsume (queue : Nat) (s : State) : Out :=
  match consuming s queue with
  | none => .refused .notEnabled
  | some b =>
    if !(s.queue queue).due then .refused .notEnabled
    else if ringNat s (ringSlot s b (ringHead s b)) 120 8 ≠ ringHead s b then
      .next (s.modQueue queue (fun x => { x with due := false }))
    else if queue < 16 then .next (takeChild s queue b)
    else
      match takeRequest s queue b with
      | some u => .next u
      | none => .next (s.modQueue queue (fun x => { x with due := false }))
/-- CONSUMER_PERIODIC_CHECK (R323): the slot HEAD is to be examined again. -/
def execConsumerPeriodicCheck (queue : Nat) (s : State) : Out :=
  match consuming s queue with
  | none => .refused .notEnabled
  | some _ => .next (s.modQueue queue (fun x => { x with due := true }))

end Sys2Proof.Machine
end

