-- ==== Sys2Proof/Machine/Sched.lean ====
section
/-!
DEFINITION. The distributor (R326 to R329): the order of the ready set, the cores where a team fits, the placement of a team
(R13, R15, R29, R125, R129, R133, R199); and the arbitration of a core's issue slots (R24, R330).
-/
namespace Sys2Proof.Machine

/-! ## The order of the ready set -/

/-- What the order of the ready set looks at (R326): class, deadline, re-entry, admission time, queue, ticket, TEAM. -/
structure Cand where
  prio : Nat
  deadline : Option (BitVec 48)
  again : Bool
  admitted : Nat
  queue : Nat
  ticket : Nat
  index : Nat
  deriving DecidableEq, Repr
/-- The absolute deadline of a task (R326). -/
def Task.deadline (t : Task) : Option (BitVec 48) :=
  if descDv t.desc then some (BitVec.ofNat 48 (t.admitted + descDeadline t.desc)) else none
/-- The place of a team of a task in the order. -/
def Task.cand (t : Task) (again : Bool) (index : Nat) : Cand :=
  { prio := descPrio t.desc, deadline := t.deadline, again := again, admitted := t.admitted, queue := t.queue, ticket := t.ticket,
    index := index }
/-- `a` stands before `b` in the time counter's order, modulo 2^48 (R7, R326). -/
def before48 (a b : BitVec 48) : Bool := a != b && decide ((b - a).toNat < 2 ^ 47)
/-- The first of two that decides: `some true` before, `some false` after. -/
def decideBy (lt gt : Bool) (rest : Bool) : Bool := if lt then true else if gt then false else rest
/-- A candidate goes before another of its class (R326, 2 and 3). -/
def Cand.before (a b : Cand) : Bool :=
  let tail :=
    decideBy (a.again && !b.again) (b.again && !a.again)
      (decideBy (before48 (BitVec.ofNat 48 a.admitted) (BitVec.ofNat 48 b.admitted))
        (before48 (BitVec.ofNat 48 b.admitted) (BitVec.ofNat 48 a.admitted))
        (decideBy (a.queue < b.queue) (b.queue < a.queue)
          (decideBy (a.ticket < b.ticket) (b.ticket < a.ticket) (a.index < b.index))))
  match a.deadline, b.deadline with
  | some x, some y => decideBy (before48 x y) (before48 y x) tail
  | some _, none => true
  | none, some _ => false
  | none, none => tail

/-- Every queue that a task has come through is enabled: no pre-emption holds its teams back (R337). -/
def mayPlace (s : State) (k : Nat) : Bool := (queuesOf s (treeFuel s + 1) k).all (fun q => (s.queue q).enabled)
/-- A task in the ready set with a team still to place (R326). -/
def toPlace (s : State) (k : Nat) (t : Task) : Bool :=
  t.ready && decide (t.placed < t.teams) && (t.state == .queued || t.state == .running || t.state == .starved) && mayPlace s k
/-- A saved team is ready to re-enter (R332, R333): its page has been serviced, its SPAWN.W can be admitted, or its queue is
enabled again. -/
def Saved.mayEnter (s : State) (i : Saved) : Bool :=
  mayPlace s i.team.task && (i.ready || i.reason == 3#4
    || (i.reason == 2#4 && match i.team.lead.wait with
      | .spawnW desc place _ _ _ => (enqueue s i.team.task (dieOf i.team.core) desc place).isSome
      | .none | .barw _ | .arv _ | .qsend _ | .unit _ _ _ | .unwind _ | .mwait _ | .cpwait _ | .saCmd _ _ _ _ | .saload _ => true))

/-! ## Where a team fits -/

/-- What a team needs of a core (R328). -/
structure Need where
  task : Nat
  groups : Nat
  granules : Nat
  quadg : Nat
  deriving DecidableEq, Repr
/-- What the next team of a task needs. -/
def taskNeed (k : Nat) (d : List Byte) : Need :=
  { task := k, groups := descGroups d, quadg := descQuadg d,
    granules := regGranules (descGroups d) (descRegs d) + descSpadg d + descAccg d }
/-- What a saved team needs. -/
def Saved.need (i : Saved) : Need :=
  { task := i.team.task, groups := i.groups.length, granules := i.team.regg + i.team.spadg + i.team.accg, quadg := i.team.quadg }
/-- A slice of a team's register storage has a live thread (R15). -/
def sliceHeld (s : State) (tk j : Nat) : Bool :=
  s.groups.any (fun e => e.2.team == tk && e.2.gid == j / 8
    && (List.range 8).any (fun i => (s.thread e.1 (8 * (j % 8) + i)).live))
/-- Granule `i` of a team's register storage has not returned (R15). -/
def granuleHeld (s : State) (tk : Nat) (t : Team) (i : Nat) : Bool :=
  let slice := 32 * t.regs
  (List.range (8 * t.ngroups)).any (fun j =>
    decide (slice * j < Config.granule * (i + 1)) && decide (Config.granule * i < slice * (j + 1)) && sliceHeld s tk j)
/-- Granules of a core's pool that a team holds (R15, R132). -/
def heldGranules (s : State) (tk : Nat) (t : Team) : Nat :=
  ((List.range t.regg).filter (granuleHeld s tk t)).length + t.spadg + t.accg
/-- Granules of a core's pool that are in use. -/
def usedGranules (s : State) (core : Nat) : Nat :=
  ((s.teams.filter (fun e => e.2.core == core)).map (fun e => heldGranules s e.1 e.2)).sum
/-- Granules of a quad's pool that are in use (R129, R222). -/
def usedQuad (s : State) (quad : Nat) : Nat :=
  s.qsag + ((s.quadAlloc.filter (fun e => e.1 % 192 == quad)).map Prod.snd).sum
/-- The free slots of a core. -/
def freeSlots (s : State) (core : Nat) : List Nat := (List.range Config.slots).filter (fun k => !s.groups.has (8 * core + k))
/-- The free lead contexts of a core. -/
def freeCtxs (s : State) (core : Nat) : List Nat := (List.range Config.slots).filter (fun k => !s.teams.has (8 * core + k))
/-- The unit of a span's level in which a core lies (R40, R297). -/
def instOf (span core : Nat) : Nat := if span = 0 then core else if span = 1 then quadOf core else if span = 2 then dieOf core else 0
/-- A core lies in a task's span instance and its placement (R297, R328), and its die has not been removed (R287). -/
def inSpan (s : State) (t : Task) (core : Nat) : Bool :=
  let u := instOf (descSpan t.desc) core
  decide (core < Config.cores) && !s.removed.contains (dieOf core)
  && (t.place == BitVec.allOnes 64 || descSpan t.desc == 3 || t.place.toNat == u)
  && (t.inst.isNone || t.inst == some u)
/-- A team fits a core (R328). -/
def fits (s : State) (t : Task) (n : Need) (core : Nat) : Bool :=
  inSpan s t core && decide (n.groups ≤ (freeSlots s core).length) && !(freeCtxs s core).isEmpty
  && decide (usedGranules s core + n.granules ≤ Config.corePool)
  && (s.quadAlloc.has (192 * n.task + quadOf core) || n.quadg == 0 || decide (usedQuad s (quadOf core) + n.quadg ≤ 512))
/-- A task is memory-bound, or compute-bound; unclassified below 65,536 AU (R329). -/
def classOf (s : State) (k : Nat) : Option Bool :=
  let h := s.hist.get k []
  let all := (h.map Prod.fst).sum
  if all < 65536 then none else some (decide (all ≤ 2 * (h.map Prod.snd).sum))
/-- A resident team of the core has the class of a task (R329). -/
def classClash (s : State) (k core : Nat) : Bool :=
  match classOf s k with
  | none => false
  | some c => s.teams.any (fun e => e.2.core == core && classOf s e.2.task == some c)
/-- Groups resident on a core. -/
def groupsOn (s : State) (core : Nat) : Nat := (s.groups.filter (fun e => coreOf e.1 == core)).length
/-- The distributor prefers core `a` to core `b` for a team of task `k` (R329). -/
def prefers (s : State) (k a b : Nat) : Bool :=
  decideBy (!classClash s k a && classClash s k b) (classClash s k a && !classClash s k b)
    (decideBy (groupsOn s a < groupsOn s b) (groupsOn s b < groupsOn s a) (a < b))
/-- A core where the team fits and that the distributor prefers to every other such core (R329). -/
def chosenCore (s : State) (t : Task) (n : Need) (core : Nat) : Bool :=
  fits s t n core && (List.range Config.cores).all (fun c => c == core || !fits s t n c || prefers s n.task core c)
/-- The teams ready to be placed or to re-enter, each with its task and what it needs. -/
def readyTeams (s : State) : List (Cand × Task × Need) :=
  (s.tasks.filter (fun e => toPlace s e.1 e.2)).map (fun e => (e.2.cand false e.2.placed, e.2, taskNeed e.1 e.2.desc))
    ++ (s.images.filter (fun e => e.2.mayEnter s)).filterMap (fun e =>
      (s.tasks.find e.2.team.task).map (fun t => (t.cand true e.2.team.index, t, e.2.need)))
/-- The distributor may place a team on a core now (R326, R328): none of its class goes before it, and none of a higher class fits
the core. -/
def mayTake (s : State) (c : Cand) (core : Nat) : Bool :=
  (readyTeams s).all (fun e =>
    !(e.1.prio == c.prio && e.1.before c) && !(decide (c.prio < e.1.prio) && fits s e.2.1 e.2.2 core))
/-- Slots that a team of `n` groups may receive: distinct and free (R328). -/
def slotsOk (s : State) (core n : Nat) (places : List Nat) : Bool :=
  places.length == n && places.all (fun p => (freeSlots s core).contains p) && places.eraseDups.length == n

/-! ## Placing a team -/

/-- A thread at launch (R13). -/
def newThread (args : DWord) (ops : Nat) : Thread :=
  { Thread.none with
    v := SMap.set (SMap.set [] 0 (args.extractLsb' 0 32) 0#32) 1 (args.extractLsb' 32 32) 0#32, live := true, ops := ops }
/-- A lead at launch (R29). -/
def newLead (d : List Byte) (ops : Nat) : Lead :=
  { s := SMap.set [] 0 (descArgs d) 0#64, empty := [], p := 0#8, waitb := 0#16, pc := descLentry d, remain := 0, ended := false,
    stopped := false, halted := false, wait := .none, cmd := 0#32, pend := [], ops := ops }
/-- A team at launch (R125, R133, R199). -/
def newTeam (uid task index core : Nat) (places : List Nat) (d : List Byte) : Team :=
  { uid := uid, task := task, index := index, core := core, slots := places, ngroups := descGroups d, regs := descRegs d,
    regg := regGranules (descGroups d) (descRegs d), spadg := descSpadg d, accg := descAccg d, quadg := descQuadg d,
    lead := newLead d (uid + 1), spad := [], absent := [], acc := [], bars := [], dq := [], dqFirst := 0#16, qsent := 0#16,
    producer := true, tab0 := [], tab1 := [], gen := false, mats := [], array := none, tloads := [], heldSa := [], thalt := false,
    faults := [], swap := none, faultSeqs := [], since := uid }
/-- A group at launch: all its threads stand at the group entry (R13, R22). -/
def newGroup (tk gid : Nat) (d : List Byte) : Group :=
  let pos : Pos := { pc := descGentry d, remain := 0, cls := .int, y := false, rep := none, repFrom := none }
  { team := tk, gid := gid, running := none, parkCtr := 1, halted := false,
    parked := [{ park := 0, lanes := List.range Config.lanes, pos := pos, wait := .none }] }
/-- The groups of a new team with their threads. -/
def launchGroups (s : State) (tk core uid : Nat) (d : List Byte) : Nat → List Nat → State
  | _, [] => s
  | gid, p :: ps =>
    let gk := 8 * core + p
    let threads := (List.range Config.lanes).foldl (fun m l => SMap.put m (tkey gk l) (newThread (descArgs d) (uid + 2 + 64 * gid + l))) s.threads
    launchGroups { s with groups := s.groups.put gk (newGroup tk gid d), threads := threads } tk core uid d (gid + 1) ps
/-- The task's quad pool on a quad is allocated with its first team there, every byte zero (R129). -/
def allocQuad (s : State) (task quad quadg : Nat) : State :=
  if quadg = 0 || s.quadAlloc.has (192 * task + quad) then s else { s with quadAlloc := s.quadAlloc.put (192 * task + quad) quadg }
/-- The slots that are newly taken carry no wins of groups that had them before (R330). -/
def clearWins (s : State) (core tk : Nat) (places : List Nat) : State :=
  s.modCore core (fun c => { c with
    gWins := c.gWins.filter (fun g => !(places.map (fun p => 8 * core + p)).contains g), lWins := c.lWins.filter (fun t => t != tk) })
/-- A task's first placement (R298, R327): RUNNING, its instance fixed, and its lateness judged. -/
def firstPlacement (s : State) (k core : Nat) (t : Task) : State :=
  let late := match t.deadline with
    | some d => decide (0 < (s.time - d).toNat) && decide ((s.time - d).toNat < 2 ^ 47)
    | none => false
  let s := s.modTask k (fun t => { t with state := .running, inst := some (instOf (descSpan t.desc) core), late := late })
  if late then statusEntry s t.queue (t.handle k) (statusWord 0#32 true false 0 1) 0 else s
/-- Place the next team of a task on a core (R326 to R328, R36): what the task knows comes with it (R253). -/
def placeTeam (s : State) (k : Nat) (t : Task) (core ctx : Nat) (places : List Nat) : State :=
  let tk := 8 * core + ctx
  let uid := s.nextId
  let s := if t.placed = 0 then firstPlacement s k core t else s
  let s := allocQuad (clearWins s core tk places) k (quadOf core) (descQuadg t.desc)
  let s := { s with
    nextId := s.nextId + 2 + 64 * places.length, teams := s.teams.put tk (newTeam uid k t.placed core places t.desc) }
  let s := launchGroups s tk core uid t.desc 0 places
  (s.modTask k (fun t => { t with placed := t.placed + 1 })).learn (dieOf core) t.know
/-- TEAM_PLACEMENT (R328). -/
def execTeamPlacement (task core : Nat) (places : List Nat) (s : State) : Out :=
  match s.tasks.find task, freeCtxs s core with
  | some t, ctx :: _ =>
    if toPlace s task t && mayTake s (t.cand false t.placed) core && chosenCore s t (taskNeed task t.desc) core
        && slotsOk s core (descGroups t.desc) places then
      .next (placeTeam s task t core ctx places)
    else .refused .notEnabled
  | _, _ => .refused .notEnabled

/-! ## Arbitration -/

/-- The team is about to be swapped out: no header of it issues, and a stalled set stays where it stands (R331). -/
def Team.stopping (t : Team) : Bool := t.swap.isSome || !t.faults.isEmpty
/-- A charge of a party can be taken, or asked for (R303, R304). -/
def chargeable (s : State) (core task : Nat) (who : Payer) (amount : Nat) : Bool :=
  amount == 0 || match s.tasks.find task with
    | none => false
    | some t => match s.leases.find (leaseKey core task) with
      | none => t.state == .running
      | some l => t.state == .running && (decide (amount ≤ l.paidFor who) || !l.held)
/-- The set must wait for a resource that the instruction needs (R21, R135, R253, R283). -/
def instrHold (i : Instr) (s : State) (c : GCtx) : Bool :=
  match i with
  | .ld _ _ _ _ _ => holdLoad s c
  | .ldf _ a _ z o => holdLoad s c || ldfWait a z o s c
  | .st _ _ _ _ _ | .atom32 _ _ _ _ _ _ _ | .atom64 _ _ _ _ _ _ _ | .saadd _ _ _ _ | .saaddh _ _ _ _ | .sard _ _ _ | .sardh _ _ _
  | .sardq _ _ _ | .sawait _ _ | .sacnt _ _ _ => holdStore s c
  | .lds _ _ _ _ _ => holdRead s c || holdSends s c
  | .sts _ _ _ _ _ => holdWrite s c || holdSends s c
  | .atoms _ _ _ _ _ _ => holdSpad s c
  | .ldq _ _ _ _ _ => holdRead s c
  | .stq _ _ _ _ _ => holdWrite s c
  | .ldacc _ _ _ _ _ => holdQuiet s c
  | .send _ _ _ _ m => if m.getLsbD 1 then holdStore s c else holdWrite s c
  | .bara k _ | .barab k _ _ _ => arrivedHold k s c
  | _ => false
/-- The line that the instruction needs is absent for a member (R126, R377). -/
def lineAway (i : Instr) (s : State) (c : GCtx) (l : Nat) : Bool :=
  match i with
  | .lds _ a _ z o => spadCheck c.team ((s.thread c.gk l).localAddr a o (sizeBytes z)) (sizeBytes z) == .absent
  | .sts _ a _ z o => spadCheck c.team ((s.thread c.gk l).localAddr a o (sizeBytes z)) (sizeBytes z) == .absent
  | .atoms _ a _ _ _ _ => spadCheck c.team ((s.thread c.gk l).rd a).toNat 4 == .absent
  | .send a b _ _ m => sendCheck a b m s c l == .absent
  | .fcvtsmE4 _ _ b _ _ _ => smoothCheck b s c l == .absent
  | .fcvtsmE5 _ _ b _ _ _ => smoothCheck b s c l == .absent
  | _ => false
/-- The members of a set whose lines are there (R377). -/
def lanesHere (i : Instr) (s : State) (c : GCtx) : List Nat := c.path.lanes.filter (fun l => !lineAway i s c l)
/-- The next instruction of a set inside a clause can issue: it traps, or nothing that it needs is missing (R17, R18, R21). -/
def instrCan (s : State) (c : GCtx) (i : Instr) : Bool :=
  !i.classOk c.path.pos.cls
  || c.path.lanes.any (fun l => (operandTrap i (s.thread c.gk l)).isSome)
  || (c.path.lanes.all (fun l => !operandWait i (s.thread c.gk l)) && !instrHold i s c
      && !(lanesHere i s c).isEmpty
      && chargeable s c.core c.team.task (c.keep (lanesHere i s c)).payer ((lanesHere i s c).length * i.cost))
/-- A path can issue its header or resume its clause (R330). -/
def pathCan (s : State) (c : GCtx) : Bool :=
  waitOver s c.team c.group c.gk c.path && !c.team.stopping &&
  if c.path.pos.remain = 0 then
    match fetch s c.core c.task.space c.task.priv c.path.pos.pc with
    | .miss _ => true
    | .denied => true
    | .word w => !headerOk w || !(match headerCls w with
        | some k => k.group
        | none => false) || (c.task.state != .starved && c.path.lanes.any (headerMet s c.team c.group c.gk w))
  else
    match nextInstr s c.core c.task.space c.task.priv c.path.pos with
    | .run i => instrCan s c i
    | .illegal _ => true
    | .denied _ => true
    | .miss _ => true
/-- A group's execution context for one of its paths. -/
def pathCtx (s : State) (gk : Nat) (g : Group) (p : Path) : Option GCtx :=
  match s.teams.find g.team with
  | none => none
  | some t =>
    match s.tasks.find t.task with
    | none => none
    | some k => some { gk := gk, core := coreOf gk, tk := g.team, group := g, path := p, team := t, task := k }
/-- The word before the place of a path is one whose issue is a switch point inside a clause (R23). -/
def atSwitch (s : State) (c : GCtx) : Bool :=
  match fetch s c.core c.task.space c.task.priv (c.path.pos.pc - 4#64) with
  | .word w =>
    match decode w with
    | .ok i => match i with
      | .yield | .atom32 _ _ _ _ _ _ _ | .atom64 _ _ _ _ _ _ _ | .atoms _ _ _ _ _ _ | .sleep _ _ => true
      | _ => false
    | .error _ => false
  | .miss _ => false
  | .denied => false
/-- A debugger's halt lets a path go on (R340): inside a clause, and when its group alone is halted not after a switch point.
(DEDUCED, assumption 48) -/
def haltLets (s : State) (c : GCtx) : Bool :=
  (!c.team.thalt && !c.group.halted) || (c.path.pos.remain != 0 && (!c.group.halted || !atSwitch s c))
/-- A path of a group can issue.  (DEDUCED, assumption 48) -/
def canIssue (s : State) (gk : Nat) (g : Group) (p : Path) : Bool :=
  match pathCtx s gk g p with
  | some c => pathCan s c && haltLets s c
  | none => false
/-- The one with the smaller park number. -/
def lowerPark (a : Option Path) (b : Path) : Option Path :=
  match a with
  | none => some b
  | some x => some (if x.park ≤ b.park then x else b)
/-- The path that a group would issue: its running path, or the one that R24 chooses; `true` for the running one. -/
def nextPath (s : State) (gk : Nat) (g : Group) : Option (Bool × Path) :=
  let other := ((g.parked.filter (canIssue s gk g)).foldl lowerPark none).map (fun p => (false, p))
  match g.running with
  | some p => if canIssue s gk g p then some (true, p) else other
  | none => other
/-- How long ago a holder has won: its place among the wins, latest first; one that has not won comes last.  (DEDUCED, assumption 35) -/
def winAge (wins : List Nat) (k : Nat) : Nat := ((findIdx (fun x => x == k) wins 0).map Prod.fst).getD wins.length
/-- A contender: its key, its class, how long it has gone without winning, and its last tie-break. -/
structure Contender where
  key : Nat
  prio : Nat
  age : Nat
  tie : Nat
  deriving DecidableEq, Repr
/-- The contender that wins (R330). -/
def winner (a : Option Contender) (b : Contender) : Option Contender :=
  match a with
  | none => some b
  | some x =>
    some (if decideBy (b.prio < x.prio) (x.prio < b.prio) (decideBy (b.age < x.age) (x.age < b.age) (x.tie ≤ b.tie)) then x else b)
/-- The class of a team's task. -/
def teamPrio (s : State) (tk : Nat) : Nat :=
  match s.teams.find tk with
  | none => 0
  | some t => match s.tasks.find t.task with
    | some k => descPrio k.desc
    | none => 0
/-- The groups of a core that contend for its group slot. -/
def groupContenders (s : State) (core : Nat) : List Contender :=
  (s.groups.filter (fun e => coreOf e.1 == core && (nextPath s e.1 e.2).isSome)).map (fun e =>
    { key := e.1, prio := teamPrio s e.2.team, age := winAge (s.core core).gWins e.1, tie := e.1 })
/-- A group wins: the path that it issues runs, and a running path that could not is parked (R24). -/
def giveGroup (s : State) (core gk : Nat) : State :=
  match s.groups.find gk with
  | none => s
  | some g =>
    match nextPath s gk g with
    | none => s
    | some (true, _) => s.modCore core (fun c => { c with gHold := some gk, gWins := gk :: c.gWins.filter (fun x => x != gk) })
    | some (false, p) =>
      let s := match g.running with
        | some q => parkPath s gk q
        | none => s
      let s := s.modGroup gk (fun g => { g with
        running := some { p with wait := .none }, parked := g.parked.filter (fun q => q.park != p.park) })
      s.modCore core (fun c => { c with gHold := some gk, gWins := gk :: c.gWins.filter (fun x => x != gk) })
/-- The checks of a lead instruction, with its waits for what it needs, and its charge, as its meaning has them. -/
def leadPlan (i : Instr) : (State → LCtx → LVerdict) × (State → LCtx → Nat × Nat) :=
  let one : State → LCtx → Nat × Nat := fun _ _ => (1, 0)
  match i with
  | .lbara k => (lbaraCheck k, one)
  | .lbr d => (lBranchCheck d (fun _ => true), one)
  | .lbrp p d => (lBranchCheck d (fun l => l.pred p), one)
  | .lbrn p d => (lBranchCheck d (fun l => !l.pred p), one)
  | .lld _ a z o => (lldCheck a z o, fun _ _ => (3, 1))
  | .lst _ a z o => (lstCheck a z o, fun _ _ => (3, 1))
  | .mcfg a => (matCheck (mcfgCheck a), one)
  | .mldw a b => (matCheck (mldwCheck a b), fun s c => (mldwCharge a s c, mldwCharge a s c))
  | .mswap | .mwait => (matCheck noLCheck, one)
  | .mstrm d a b => (matCheck (mstrmCheck d a b), fun s c => (mstrmCharge b s c, 0))
  | .mzero d b => (matCheck (mzeroCheck d b), one)
  | .cpyin d a b _ i k => (copyCheck k (cpyinPlan d a b i), copyCost (cpyinPlan d a b i))
  | .cpyout d a b _ i k => (copyCheck k (cpyoutPlan d a b i), copyCost (cpyoutPlan d a b i))
  | .cpyg d a b _ k => (copyCheck k (cpygPlan d a b), copyCost (cpygPlan d a b))
  | .gath d a b _ k => (copyCheck k (gathPlan d a b), copyCost (gathPlan d a b))
  | .publ a => (publCheck a, fun _ _ => (16, 0))
  | .saalloc _ a => (fun s c => planVerdict (allocPlan s c a), fun _ _ => (16, 0))
  | .saopen a b => (saRowCheck a (saopenOk b), fun _ _ => (4, 0))
  | .saclr a | .safree a => (saRowCheck a saRowOk, fun _ _ => (4, 0))
  | .samerge d a => (samergeCheck d a, samergeCost a)
  | .saevict d a => (saevictCheck d a, saevictCost d a)
  | .saload _ a => (fun s c => planVerdict (loadPlan s c a), saloadCost a)
  | .spawn _ a _ | .spawnW _ a _ => (spawnCheck a, spawnCost a)
  | .join _ a | .tstat _ a | .alwrd _ a | .unwind a => (childVerdict a, fun _ _ => (4, 0))
  | .alwadd _ a b => (alwaddCheck a, alwaddCost b)
  | .qsend _ => (qsendCheck, qsendCost)
  | .tload a => (tloadCheck a, fun _ _ => (64, 0))
  | .tswap => (tswapCheck, one)
  | _ => (noLCheck, one)
/-- A lead's next instruction can issue: it traps, or nothing that it needs is missing (R46, R54, R330). -/
def leadIssues (s : State) (c : LCtx) (i : Instr) : Bool :=
  !i.classOk .lead
  || (i.lsrcs.all c.team.lead.full && i.ldsts.all c.team.lead.full
      && match (leadPlan i).1 s c with
        | .ok => chargeable s c.core c.team.task c.payer ((leadPlan i).2 s c).1
        | .wait => false
        | .trap _ => true
        | .miss _ _ => true
        | .lost => true)
/-- A lead can issue its header or go on in its clause (R330). -/
def leadCan (s : State) (c : LCtx) : Bool :=
  let l := c.team.lead
  l.free && (!c.team.thalt || l.remain != 0) && !c.team.stopping && !leadBarred s c.tk &&
  if l.remain = 0 then
    match fetch s c.core c.task.space c.task.priv l.pc with
    | .miss _ => true
    | .denied => true
    | .word w => !headerOk w || headerCls w != some .lead
        || (c.task.state != .starved && !unmet s c.team (headerWait w) l.waitb && (!headerD w || leadDrained s l))
  else
    match nextInstr s c.core c.task.space c.task.priv { pc := l.pc, remain := l.remain, cls := .lead, y := false, rep := none, repFrom := none } with
    | .run i => leadIssues s c i
    | .illegal _ => true
    | .denied _ => true
    | .miss _ => true
/-- The leads of a core that contend for its lead slot. -/
def leadContenders (s : State) (core : Nat) : List Contender :=
  (s.teams.filter (fun e => e.2.core == core && match lctxOf s e.1 with
    | some c => leadCan s c
    | none => false)).map (fun e =>
      { key := e.1, prio := teamPrio s e.1, age := winAge (s.core core).lWins e.1, tie := e.2.since })
/-- The group slot goes to the winner, when nobody has held it in this clk. -/
def arbitrateGroup (s : State) (core : Nat) : State :=
  if (s.core core).gHold.isSome || (s.core core).gIssued then s
  else
    match (groupContenders s core).foldl winner none with
    | some w => giveGroup s core w.key
    | none => s
/-- The lead slot goes to the winner, when nobody has held it in this clk. -/
def arbitrateLead (s : State) (core : Nat) : State :=
  if (s.core core).lHold.isSome || (s.core core).lIssued then s
  else
    match (leadContenders s core).foldl winner none with
    | some w => s.modCore core (fun c => { c with lHold := some w.key, lWins := w.key :: c.lWins.filter (fun x => x != w.key) })
    | none => s
/-- CLAUSE_ARBITRATION (R24, R330): the free issue slots of a core go to those of its contenders that win; none while Ling has
stopped every issue (R374). -/
def execClauseArbitration (core : Nat) (s : State) : Out :=
  if s.plat.thermal || (((s.core core).gHold.isSome || (s.core core).gIssued) && ((s.core core).lHold.isSome || (s.core core).lIssued)) then
    .refused .notEnabled
  else .next (arbitrateLead (arbitrateGroup s core) core)

end Sys2Proof.Machine
end

