-- ==== Sys2Proof/Machine/Clk.lean ====
section
/-!
DEFINITION. What waits for the issue of its clk: the acceptance of SENDs (R145) and of UNWIND (R307, R313), and the turns that are due
before a clk ends (R20, R37, R330).
-/
namespace Sys2Proof.Machine

/-! ## Acceptances that follow an issue -/

/-- The lead of a team may still issue in the present clk: it holds the slot or can win it. -/
def leadMayIssue (s : State) (tk : Nat) : Bool :=
  !(s.core (coreOf tk)).lIssued && !s.plat.thermal
  && match (s.core (coreOf tk)).lHold with
    | some k => k == tk
    | none => match lctxOf s tk with
      | some c => leadCan s c
      | none => false
/-- The acceptance of a word into the lead inbox (R145): what the lead itself writes in the clk comes before. -/
def acceptLead (s : State) (idx tk : Nat) (t : Team) (i : SendItem) : Option State :=
  if leadMayIssue s tk then none
  else
    match sendToLead (takeSend s idx) tk t i with
    | some u => some { u with fresh := { u.fresh with inbox := (t.uid, (i.dest.extractLsb' 0 6).toNat) :: u.fresh.inbox } }
    | none => none
/-- SEND_ACCEPTANCE (R145): the lead inbox, the scratchpad or the staging takes a word. -/
def execSendAcceptance (idx : Nat) (s : State) : Out :=
  match sendTurn s idx with
  | none => .refused .notEnabled
  | some i =>
    match teamByUid s i.uid with
    | none => .refused .notEnabled
    | some (tk, t) =>
      let bytes := bytesOfNat 4 i.word.toNat
      match i.dest_ with
      | .lead =>
        match acceptLead s idx tk t i with
        | some u => .next u
        | none => .refused .notEnabled
      | .spad => .next ((takeSend s idx).modTeam tk (fun t => t.setSpad (sendAddr i.dest) bytes))
      | .stage =>
        .next ((takeSend s idx).modTeam tk (fun t => (t.setSpad (sendAddr i.dest) bytes).countOff (cbar i.dest) 4))
      | .next => .refused .notEnabled

/-- The instruction of a payer can issue now. -/
def payerCan (s : State) (p : Payer) : Bool :=
  match p.who with
  | .group gk =>
    match s.groups.find gk with
    | some g => g.paths.any (fun q => q.pos.pc == p.pc && q.lanes.any (fun l => p.lanes.contains l) && canIssue s gk g q)
    | none => false
  | .lead tk =>
    match lctxOf s tk with
    | some c => c.team.lead.pc == p.pc && leadCan s c
    | none => false
  | .none => false
/-- Requests of a task that its home unit takes before an UNWIND, and instructions that it has paid for and that have still to issue
(R303, R307). -/
def unwindWaits (s : State) (k : Nat) : Bool :=
  s.leases.any (fun e => e.1 % 65536 == k && (e.2.req.isSome || e.2.paid.any (fun p => payerCan s p.1)))
/-- A child's home unit may take an UNWIND now (R307): after the requests of its cores, and after its completion. -/
def unwindMay (s : State) (k : Nat) : Bool :=
  unitNew s k 3002 && match s.tasks.find k with
    | none => true
    | some t => !(t.state == .running && unwindWaits s k) && !(completes s k t && finishMay s k t)
/-- UNWIND_ACCEPT (R313, R316): the home unit accepts a lead's UNWIND; a child that is UNWINDING or final stays as it is. -/
def execUnwindAccept (team : Nat) (s : State) : Out :=
  match s.teams.find team with
  | none => .refused .notEnabled
  | some t =>
    match t.lead.wait with
    | .unwind h =>
      match childOf s t.task h with
      | some k =>
        if unwindMay s k then
          .next ((unwindTask (s.unitStep k 3002) k).modLead team (fun l => { l with wait := .none }))
        else .refused .notEnabled
      | none => .next (s.modLead team (fun l => { l with wait := .none }))
    | .none | .barw _ | .arv _ | .qsend _ | .unit _ _ _ | .spawnW _ _ _ _ _ | .mwait _ | .cpwait _ | .saCmd _ _ _ _ | .saload _ =>
      .refused .notEnabled

/-! ## What is due before a clk ends -/

/-- A turn that is due before the present clk may end. -/
inductive Due where
  /-- the lead of a team is to be stopped (R37) -/
  | stop (team : Nat)
  /-- a slot of a core goes to a contender (R330) -/
  | arbitrate (core : Nat)
  /-- the holder of a core's group slot issues -/
  | group (core : Nat)
  /-- the holder of a core's lead slot issues -/
  | lead (core : Nat)
  deriving DecidableEq, Repr
/-- What a core's group slot owes in the present clk (R330): its holder issues, or a contender wins it. -/
def groupDue (s : State) (core : Nat) : Option Due :=
  if (s.core core).gIssued then none
  else if (s.core core).gHold.isSome then some (.group core)
  else if (groupContenders s core).isEmpty then none
  else some (.arbitrate core)
/-- What a core's lead slot owes. -/
def leadDue (s : State) (core : Nat) : Option Due :=
  if (s.core core).lIssued then none
  else if (s.core core).lHold.isSome then some (.lead core)
  else if (leadContenders s core).isEmpty then none
  else some (.arbitrate core)
/-- What the slots of a core owe. -/
def coreDue (s : State) (core : Nat) : Option Due :=
  match leadDue s core with
  | some t => some t
  | none => groupDue s core
/-- The first turn that is due before the present clk may end: leads that are to be stopped (R37), then the issue slots of the cores that
have teams (R20, R330), none while Ling has stopped every issue (R374).  (DEDUCED, assumption 67) -/
def nextDue (s : State) : Option Due :=
  match s.teams.find? (fun e => e.2.stopDue s e.1) with
  | some e => some (.stop e.1)
  | none => if s.plat.thermal then none else s.teams.findSome? (fun e => coreDue s (coreOf e.1))

end Sys2Proof.Machine
end

