-- ==== Sys2Proof/Machine/Swap.lean ====
section
/-!
DEFINITION. Swapping a team out, its context image, and its re-entry (R248, R259, R331 to R336, R355).
-/
namespace Sys2Proof.Machine

/-! ## The decision -/

/-- A fault record is written to its ring (R355): that of the address space, or for stage 2 that of the interface's system
software. -/
def writeFault (s : State) (space : Nat) (r : FaultRec) : State :=
  { s with spaces := s.spaces.mod space (fun sp =>
    if r.stage = 0 then { sp with ring := sp.ring ++ [{ r with seq := sp.ring.length }] }
    else { sp with ring2 := sp.ring2 ++ [{ r with seq := sp.ring2.length }] }) }
/-- The sequence number that the next record of a ring receives. -/
def nextFault (s : State) (space stage : Nat) : Nat :=
  match s.spaces.find space with
  | some sp => if stage = 0 then sp.ring.length else sp.ring2.length
  | none => 0
/-- The address space of a task. -/
def spaceOf (s : State) (task : Nat) : Nat :=
  match s.tasks.find task with
  | some t => t.space
  | none => 0
/-- A pre-emption of a queue that concerns a task has reached rung 2 (R337). -/
def rung2 (s : State) (task : Nat) : Bool :=
  (queuesOf s (treeFuel s + 1) task).any (fun q => (s.queue q).pre && decide (2 ≤ (s.queue q).rung))
/-- The records of the walks of a team that ended without a translation are written, and the team awaits their service (R355). -/
def writeFaults (s : State) (tk : Nat) : State :=
  match s.teams.find tk with
  | none => s
  | some t =>
    t.faults.foldl (fun s r =>
      (writeFault s (spaceOf s t.task) r).modTeam tk (fun t =>
        { t with faultSeqs := t.faultSeqs ++ [(r.stage, nextFault s (spaceOf s t.task) r.stage)] }))
      (s.modTeam tk (fun t => { t with faults := [] }))
/-- SWAP_OUT (R331): a team is to be stopped for translation faults (1), whose records are written, for a SPAWN.W not admitted in time
(2), or for a pre-emption at rung 2 (3). -/
def execSwapOut (team : Nat) (reason : BitVec 4) (s : State) : Out :=
  match s.teams.find team with
  | none => .refused .notEnabled
  | some t =>
    if t.swap.isSome then .refused .notEnabled
    else if reason = 1#4 && !t.faults.isEmpty then .next (writeFaults (decideSwap s team t 1#4) team)
    else if reason = 2#4 && spawnLate s t then .next (decideSwap s team t 2#4)
    else if reason = 3#4 && rung2 s t.task then .next (decideSwap s team t 3#4)
    else .refused .notEnabled

/-! ## The save -/

/-- The request of this number is held at a home (R230). -/
def heldNow (s : State) (id : Nat) : Bool :=
  s.heldReqs.any (fun h => match h with
    | .req r _ => r.id == id
    | .merge _ _ _ _ _ _ => false)
/-- What a path waits for has been answered, or is held at a home (R248, R331). -/
def pathSettled (s : State) (p : Path) : Bool :=
  match p.wait with
  | .answers rs _ _ _ => rs.all (fun r => r.2.2 != .waiting || heldNow s r.2.1)
  | .none | .barw _ _ | .xconv _ | .fence _ _ | .sleep _ => true
/-- An access of a thread needs nothing more before the thread is saved (R259, R331): a store is on its way, a load has been answered,
and what stands for an SA request has been, or is held.  That a pair awaits its entry is looked at with the pair. -/
def opSettled (s : State) (o : MemOp) : Bool :=
  o.sent && match o.kind with
    | .load _ _ => o.got.isSome
    | .edge dq _ => dq || o.got.isSome || heldNow s o.id
    | .store _ => true
    | .atom _ _ _ _ => true
/-- Every long-latency producer of a thread has been answered, but for held SA reads and pairs that await an entry not yet made (R331).
A load that stands behind one of those has its answer, which the thread receives in its order.  (DEDUCED, assumption 35) -/
def threadSettled (s : State) (t : Team) (th : Thread) : Bool :=
  th.pend.all (fun q => q.val.isNone && (heldNow s q.id || (opsOf s th.ops).any (fun o => o.id == q.id && o.got.isSome)))
  && (opsOf s th.ops).all (opSettled s) && th.qpend.all (fun q => !t.made q)
/-- What a team has held at homes. -/
def Held.ofTeam (uid : Nat) : Held → Bool
  | .req r _ => r.uid == uid
  | .merge _ u _ _ _ _ => u == uid
/-- The row at whose home a request is held. -/
def Held.row : Held → Nat
  | .req r _ => r.addr.toNat / 2 ^ 15
  | .merge _ _ _ _ src _ => src
/-- The rows at whose homes a team has requests held. -/
def heldRows (s : State) (uid : Nat) : List Nat := ((s.heldReqs.filter (Held.ofTeam uid)).map Held.row).eraseDups
/-- No command and no add on a row that its home may perform waits there: such an event comes before a withdrawal (R248). -/
def rowCalm (s : State) (row : Nat) : Bool :=
  (s.node (rowHome row)).early.all (fun p => match saTurn p.body with
    | some (r, rank) => r != row || rank == 2 || !applicable s (rowHome row) p
    | none => true)
/-- A SAMERGE of a team's lead that is held at its home, with its number and its home (R243, R331). -/
def heldCmd (s : State) (uid : Nat) : Option (Nat × SaCmd × Nat) :=
  s.heldReqs.findSome? (fun h => match h with
    | .merge id u _ _ src dst => if u = uid then some (id, .merge src dst, rowHome src) else none
    | .req _ _ => none)
/-- The lead waits for no SA command that is on its way to its home or being performed: one that is held there is withdrawn (R331, 4).  (DEDUCED, assumption 35) -/
def leadSettled (s : State) (t : Team) : Bool :=
  match t.lead.wait with
  | .saCmd id _ _ _ => (heldCmd s t.uid).any (fun c => c.1 == id)
  | .saload _ => false
  | .none | .barw _ | .arv _ | .qsend _ | .unit _ _ _ | .unwind _ | .spawnW _ _ _ _ _ | .mwait _ | .cpwait _ => true
/-- The stop of a team is complete (R331, 1 to 4; R164, R205). -/
def saveReady (s : State) (tk : Nat) (t : Team) : Bool :=
  let gs := groupsOf s tk
  (s.core t.core).lHold != some tk && !gs.any (fun e => (s.core t.core).gHold == some e.1)
  && gs.all (fun e => e.2.paths.all (pathSettled s) && (liveLanes s e.1).all (fun l => threadSettled s t (s.thread e.1 l)))
  && t.lead.pend.isEmpty && quiet s t.lead.ops && leadSettled s t && t.absent.isEmpty && t.mats.isEmpty && t.tloads.isEmpty
  && (heldRows s t.uid).all (rowCalm s)
/-- Held requests leave their homes. -/
def withdrawHeld (s : State) (ids : List Nat) : State :=
  { s with heldReqs := s.heldReqs.filter (fun h => match h with
    | .req r _ => !ids.contains r.id
    | .merge id _ _ _ _ _ => !ids.contains id) }
/-- A request that executes afresh: nothing is awaited of it, and a read's destination is as before its issue. -/
def unread (s : State) (gk : Nat) : Held → State
  | .req r _ =>
    let s := runQueue (s.delOp (s.thread gk r.lane).ops r.id) (s.thread gk r.lane).ops
    if r.op.reads then s.onLanes gk [r.lane] (fun _ th => (th.dropPend r.id).markFull r.dst) else s
  | .merge _ _ _ _ _ _ => s
/-- Held requests on which a set stalls are withdrawn (R248): the charge comes back, and those threads stand before the
instruction; the others of the set have their answers. -/
def withdrawPath (task tk gk : Nat) (s : State) (p : Path) : State :=
  match p.wait with
  | .answers rs at_ word cost =>
    let mine := rs.filter (fun r => r.2.2 == .waiting)
    let away := mine.map Prod.fst
    let ids := mine.map (fun r => r.2.1)
    if away.isEmpty then s
    else
      let held := s.heldReqs.filter (fun h => match h with
        | .req r _ => ids.contains r.id
        | .merge _ _ _ _ _ _ => false)
      let s := refund (withdrawHeld (held.foldl (fun s h => unread s gk h) s) ids) task (away.length * cost)
      let rest : Path := { p with
        lanes := p.lanes.filter (fun l => !away.contains l), wait := .answers (rs.filter (fun r => r.2.2 != .waiting)) at_ word cost }
      let s := s.modGroup gk (fun g =>
        { g with parked := (g.parked.map (fun q => if q.park = p.park then rest else q)).filter (fun q => !q.lanes.isEmpty) })
      settle (parkPath s gk { p with lanes := away, pos := at_, wait := .none }) tk gk rest
  | .none | .barw _ _ | .xconv _ | .fence _ _ | .sleep _ => s
/-- Every path of a team's groups that stalls on held requests. -/
def withdrawPaths (s : State) (tk : Nat) (t : Team) : State :=
  (groupsOf s tk).foldl (fun s e => e.2.parked.foldl (withdrawPath t.task tk e.1) s) s
/-- The number of a read in the image's list of held reads (R335). -/
def heldFn : SaOp → Nat
  | .rd => 2 | .rdh => 3 | .rdq => 4 | .add _ => 0 | .addh _ => 0 | .wait => 0 | .cnt => 0
/-- The held reads of a team whose threads have gone on, as the image records them (R248, R335). -/
def heldReads (s : State) (uid : Nat) : List (Nat × HeldSa) :=
  s.heldReqs.filterMap (fun h => match h with
    | .req r _ =>
      if r.uid = uid && r.op.reads then
        some (r.id, { id := r.id, gid := r.gid, lane := r.lane, fn := heldFn r.op, addr := r.addr, dst := r.dst, trapPol := r.trapPol })
      else none
    | .merge _ _ _ _ _ _ => none)
/-- The image is READY (R332): the wait that caused the swap is over, or, at a pre-emption, something of the team could issue.  (DEDUCED, assumption 35) -/
def imageReady (s : State) (tk : Nat) (t : Team) (reason : BitVec 4) : Bool :=
  if reason = 1#4 then t.faultSeqs.isEmpty
  else if reason = 2#4 then
    (match t.lead.wait with
      | .spawnW _ _ _ _ _ => false
      | .none | .barw _ | .arv _ | .qsend _ | .unit _ _ _ | .unwind _ | .mwait _ | .cpwait _ | .saCmd _ _ _ _ | .saload _ => true)
  else
    let s := s.modTeam tk (fun t => { t with swap := none, faults := [] })
    (groupsOf s tk).any (fun e => (nextPath s e.1 e.2).isSome) || match lctxOf s tk with
      | some c => leadCan s c
      | none => false
/-- The threads of a group by 64g + l. -/
def savedThreads (s : State) (gk gid : Nat) : SMap Thread :=
  (s.threads.filter (fun e => e.1 / 64 == gk)).map (fun e => (64 * gid + e.1 % 64, e.2))
/-- The team's context as it is saved (R333 to R336). -/
def savedOf (s : State) (tk : Nat) (t : Team) (reason : BitVec 4) (heldSa : List HeldSa) : Saved :=
  let array := if (s.core t.core).array.holder == some t.uid then some { (s.core t.core).array with holder := none } else t.array
  { team := { t with swap := none, faults := [], array := array, heldSa := heldSa },
    groups := (groupsOf s tk).foldl (fun m e => SMap.put m e.2.gid e.2) [],
    threads := (groupsOf s tk).foldl (fun m e => (savedThreads s e.1 e.2.gid).foldl (fun m x => SMap.put m x.1 x.2) m) [],
    reason := reason, ready := imageReady s tk t reason, savetime := s.time.toNat, k := (s.node (dieOf t.core)).k,
    epoch := (s.node (dieOf t.core)).epoch, held := [], cmd := heldCmd s t.uid }
/-- Write the image and free the team's place (R331, 4 to 6; R300): its fault records are written before (R355), and its requests are
withdrawn from their homes, where nothing may come before that any more in this clk (R248). -/
def saveTeam (s : State) (tk : Nat) (reason : BitVec 4) : State :=
  match s.teams.find tk with
  | none => s
  | some t0 =>
    let s := withdrawPaths ((heldRows s t0.uid).foldl (fun s row => s.atRow row 2) (writeFaults s tk)) tk t0
    let reads := heldReads s t0.uid
    match s.teams.find tk with
    | none => s
    | some t =>
      let image := savedOf s tk t reason (reads.map Prod.snd)
      let s := withdrawHeld s (reads.map Prod.fst ++ (heldCmd s t.uid).toList.map Prod.fst)
      let s := dropTeam { s with images := s.images.put t.uid image } tk
      if hasTeamOn s t.task t.core then s else returnLease s t.core t.task
/-- CONTEXT_IMAGE_WRITE (R331): the stop is complete, and the image is written, in a clk after that of the decision (R164, R332). -/
def execContextImageWrite (team : Nat) (s : State) : Out :=
  match s.teams.find team with
  | none => .refused .notEnabled
  | some t =>
    match t.swap with
    | none => .refused .notEnabled
    | some r => if saveReady s team t && !s.fresh.saves.contains t.uid then .next (saveTeam s team r) else .refused .notEnabled

/-! ## Re-entry -/

/-- The operation of a held read by its number (R335). -/
def heldOp (fn : Nat) : SaOp := if fn = 2 then .rd else if fn = 3 then .rdh else .rdq
/-- A held read is sent again (R248): its destination stays empty until the answer, and it keeps its place in its thread's order. -/
def resendRead (tk : Nat) (s : State) (h : HeldSa) : State :=
  match s.teams.find tk with
  | none => s
  | some t =>
      let r : SaReq :=
        { id := h.id, uid := t.uid, gid := h.gid, lane := h.lane, node := dieOf t.core, core := t.core, task := t.task,
          op := heldOp h.fn, addr := h.addr, trapPol := h.trapPol, dst := h.dst, rest := [], word := 0#32, dest := 0#32 }
      s.sendCausal (dieOf t.core) (saDie h.addr.toNat) (.saReq r)
/-- A saved group, with its threads, in a slot. -/
def enterGroup (i : Saved) (core tk : Nat) (s : State) (x : (Nat × Group) × Nat) : State :=
  let gk := 8 * core + x.2
  let mine := i.threads.filter (fun e => e.1 / 64 == x.1.1)
  { s with
    groups := s.groups.put gk { x.1.2 with team := tk },
    threads := mine.foldl (fun m e => SMap.put m (tkey gk (e.1 % 64)) e.2) s.threads }
/-- The accesses of a team go out from the die it is on. -/
def moveQueues (s : State) (uid die : Nat) : State :=
  { s with opqs := s.opqs.map (fun (e : Nat × OpQ) => match e.2.who with
    | .thread u _ _ => if u = uid then (e.1, { e.2 with node := die }) else e
    | .lead u => if u = uid then (e.1, { e.2 with node := die }) else e
    | .host => e) }
/-- A withdrawn SA command of a team's lead is sent again, without another charge (R331). -/
def resendCmd (s : State) (t : Team) (core : Nat) (c : Option (Nat × SaCmd × Nat)) : State :=
  match c with
  | none => s
  | some (id, cmd, home) => s.sendCausal (dieOf core) home (.saCmd id t.uid t.task (dieOf core) cmd)
/-- A delivery that was held for a team reaches it, with what its sender's side knew (R147, R259). -/
def landHeld (uid core : Nat) (s : State) (d : Delivery) : State :=
  landBytes (s.learn (dieOf core) d.know) uid d.addr d.bytes d.bar
/-- A saved team enters a core (R333): knowledge first, unless its epoch is over (R334), then the deliveries held for it; its held reads are
sent again (R248), and a command of its lead (R331). -/
def enterTeam (s : State) (i : Saved) (core ctx : Nat) (places : List Nat) : State :=
  let t := i.team
  let tk := 8 * core + ctx
  let s := allocQuad (clearWins { s with images := s.images.del t.uid } core tk places) t.task (quadOf core) t.quadg
  let team := { t with core := core, slots := places, since := s.nextId, heldSa := [] }
  let s := { s with nextId := s.nextId + 1, teams := s.teams.put tk team }
  let s := (i.groups.zip places).foldl (enterGroup i core tk) s
  let s := releaseQuad (moveQueues s t.uid (dieOf core)) t.task (quadOf t.core)
  let s := if i.epoch = (s.node (dieOf core)).epoch then s.learn (dieOf core) i.k else s
  let s := i.held.foldl (landHeld t.uid core) s
  resendCmd (t.heldSa.foldl (resendRead tk) s) t core i.cmd
/-- The homes to which a saved team's requests are sent again. -/
def Saved.homes (i : Saved) : List Nat := i.team.heldSa.map (fun h => saDie h.addr.toNat) ++ i.cmd.toList.map (fun c => c.2.2)
/-- A SPAWN.W that was the reason of the swap is admitted before the team's first issue (R333). -/
def admitFirst (s : State) (i : Saved) (tk : Nat) : Option State :=
  if i.reason = 2#4 && !i.ready then
    match s.teams.find tk with
    | none => none
    | some t => admitWaiting s tk t
  else some s
/-- TEAM_REENTRY (R333); a request of the team to a home on a removed die fails its task (R287). -/
def execTeamReentry (image core : Nat) (places : List Nat) (s : State) : Out :=
  match s.images.find image, freeCtxs s core with
  | some i, ctx :: _ =>
    match s.tasks.find i.team.task with
    | none => .refused .notEnabled
    | some t =>
      if i.mayEnter s && mayTake s (t.cand true i.team.index) core && chosenCore s t i.need core && slotsOk s core i.groups.length places
          && (i.homes.isEmpty || roomFor s (dieOf core) i.homes.length) then
        match admitFirst (enterTeam s i core ctx places) i (8 * core + ctx) with
        | some u => .next (if i.homes.any s.removed.contains then failTask u i.team.task Cause.fabricLoss.code else u)
        | none => .refused .notEnabled
      else .refused .notEnabled
  | _, _ => .refused .notEnabled

end Sys2Proof.Machine
end

