-- ==== Sys2Proof/Machine/Preempt.lean ====
section
/-!
DEFINITION. Pre-emption and reset of queues (R337 to R339) and the notify pages (R322, R360).
-/
namespace Sys2Proof.Machine

/-- The tasks that a queue concerns and that are not final (R337). -/
def concernedTasks (s : State) (q : Nat) : List Nat :=
  (s.tasks.filter (fun e => !e.2.state.final && concerned s q e.1)).map Prod.fst
/-- The queue counts another request (R338).  (DEDUCED, assumption 34) -/
def Queue.count (q : Queue) : Queue := { q with seq := q.seq + 1#16 }
/-- A request: EN and DONE are cleared, PRE is set, and rung 1 is entered (R338). -/
def Queue.request (q : Queue) (time : Nat) : Queue :=
  { q.count with enabled := false, done := false, pre := true, rung := 1, reqAt := time }
/-- Each node's counter in the clk in which the tasks' causal sends stop (R339). -/
def cutNow (s : State) : SMap (BitVec 16) := (List.range Config.nodes).foldl (fun m i => SMap.put m i (s.node i).c) []
/-- The concerned tasks fail with RESET, those too that are being unwound already: they are stopped, their images discarded, their engine
work cancelled, their teams and rows freed (R298, R339, 1 to 3). -/
def failConcerned (s : State) (q : Nat) : State :=
  let ks := concernedTasks s q
  let s := ks.foldl (fun s k => s.modTask k (fun t => if t.state = .unwinding && t.cause != 0 then t else { t with cause := Cause.reset.code })) s
  ks.foldl unwindTask s
/-- A queue reset (R339): rung 3, the tasks' end, and the cut. -/
def resetQueue (s : State) (q : Nat) : State :=
  let s := s.setQueue q (fun x => { x with rung := 3, resetting := true })
  let s := failConcerned s q
  s.modQueue q (fun x => { x with cut := cutNow s })
/-- PREEMPT_REQUEST (R337, R360): a request that arrives while one is in progress joins it. -/
def execPreemptRequest (queue : Nat) (s : State) : Out :=
  match (s.queue queue).block with
  | none => .refused .notEnabled
  | some _ =>
    if (s.queue queue).pre then .next (s.setQueue queue Queue.count)
    else .next (s.setQueue queue (fun q => q.request s.time.toNat))
/-- RESET_REQUEST (R339, R360): a reset joins a request in progress at rung 3. -/
def execResetRequest (queue : Nat) (s : State) : Out :=
  match (s.queue queue).block with
  | none => .refused .notEnabled
  | some _ =>
    if (s.queue queue).pre then
      if (s.queue queue).resetting then .next (s.setQueue queue Queue.count)
      else .next (resetQueue (s.setQueue queue Queue.count) queue)
    else .next (resetQueue (s.setQueue queue (fun q => q.request s.time.toNat)) queue)
/-- The resident teams that a queue concerns, by key. -/
def concernedTeams (s : State) (q : Nat) : List (Nat × Team) := s.teams.filter (fun e => concerned s q e.2.task)
/-- PREEMPT_T1_EXPIRY (R337): rung 2; every resident team of the concerned tasks is to be saved. -/
def execPreemptT1Expiry (queue : Nat) (s : State) : Out :=
  let q := s.queue queue
  if q.pre && q.rung == 1 && decide (q.t1 ≤ clkSince s q.reqAt) && !(concernedTasks s queue).isEmpty then
    let s' := s.setQueue queue (fun x => { x with rung := 2, rung2At := s.time.toNat })
    .next ((concernedTeams s queue).foldl (fun s e => if e.2.swap.isSome then s else decideSwap s e.1 e.2 3#4) s')
  else .refused .notEnabled
/-- PREEMPT_T2_EXPIRY (R337, R339): the saves are not complete: rung 3. -/
def execPreemptT2Expiry (queue : Nat) (s : State) : Out :=
  let q := s.queue queue
  if q.pre && q.rung == 2 && decide (q.t2 ≤ clkSince s q.rung2At) && !(concernedTeams s queue).isEmpty then .next (resetQueue s queue)
  else .refused .notEnabled
/-- The cut holds: every home has applied what every node had issued (R339). -/
def cutHolds (s : State) (cut : SMap (BitVec 16)) : Bool :=
  (List.range Config.nodes).all (fun k => s.removed.contains k || (List.range Config.nodes).all (fun i =>
    s.removed.contains i || le16 (cut.get i 0#16) (Stamp.at (s.node k).a i)))
/-- Every write on a fibre has been acknowledged. -/
def fibresDone (s : State) : Bool :=
  s.fibres.all (fun e => e.2.waiting.all (fun f => match f.2 with
    | .write _ _ _ => false
    | .podArrival _ => true
    | .ack _ => true))
/-- A request has completed (R337 to R339). -/
def requestDone (s : State) (queue : Nat) : Bool :=
  let q := s.queue queue
  q.pre && (if q.resetting then (concernedTasks s queue).isEmpty && cutHolds s q.cut && fibresDone s
    else if q.rung == 2 then (concernedTeams s queue).isEmpty else (concernedTasks s queue).isEmpty)
/-- PREEMPT_DONE (R338, R339). -/
def execPreemptDone (queue : Nat) (s : State) : Out :=
  if requestDone s queue then
    .next (s.setQueue queue (fun x => { x with pre := false, done := true, rst := x.resetting, resetting := false, cut := [] }))
  else .refused .notEnabled

/-- DOORBELL (R322, R360, R361): the largest value stands; what the host wrote before it has been applied.  (DEDUCED, assumption 36) -/
def execDoorbell (aqi : Nat) (value : DWord) (s : State) : Out :=
  if !s.plat.linkUp || 64 ≤ aqi || !storesDone s 0 then .refused .notEnabled
  else .next (s.modQueue (16 + aqi) (fun q => if q.bell.toNat < value.toNat then { q with bell := value, due := true } else q))
/-- The bits of ICTL that hold what is written (R360). -/
def ictlMask : DWord := 0x107FF#64
/-- REGISTER_WRITE (R360): a write of a notify page's register; offsets not listed and read-only registers ignore it. -/
def execRegisterWrite (aqi offset : Nat) (value : DWord) (s : State) : Out :=
  if !s.plat.linkUp || 64 ≤ aqi then .refused .notEnabled
  else if offset = 0x000 then execDoorbell aqi value s
  else if offset = 0x008 then
    if value.getLsbD 1 then execResetRequest (16 + aqi) s
    else if value.getLsbD 0 then execPreemptRequest (16 + aqi) s
    else .next s
  else if offset = 0x018 then .next (s.modQueue (16 + aqi) (fun q => { q with ictl := value &&& ictlMask }))
  else .next s

end Sys2Proof.Machine
end

