-- ==== Sys2Proof/Machine/Image.lean ====
section
/-!
DEFINITION. The layouts of R334 to R336, in which a debugger reads and writes the state of parties: thread records, the lead's
section, and the context image.
-/
namespace Sys2Proof.Machine

/-- Bits as a number, bit 0 first. -/
def bitsNat : List Bool → Nat
  | [] => 0
  | b :: bs => (if b then 1 else 0) + 2 * bitsNat bs
/-- Bytes up to a size, with zeros after them. -/
def padTo (n : Nat) (bs : List Byte) : List Byte := bs ++ bytesOfNat (n - bs.length) 0

/-! ## Threads -/

/-- The clk that a path still sleeps. -/
def sleepLeft (s : State) (w : PWait) : Nat :=
  match w with
  | .sleep t => if (s.time - BitVec.ofNat 48 t).toNat < 2 ^ 47 then 0 else (BitVec.ofNat 48 t - s.time).toNat
  | .none | .barw _ _ | .xconv _ | .fence _ _ | .answers _ _ _ _ => 0
/-- Whether a path sleeps. -/
def PWait.sleeps : PWait → Bool
  | .sleep _ => true
  | .none | .barw _ _ | .xconv _ | .fence _ _ | .answers _ _ _ _ => false
/-- The register of a pair that awaits entry QRD - 1, or 0xFF (R336). -/
def Thread.qpair (th : Thread) : Nat :=
  match List.find? (fun q => q.2 == th.qrd - 1#16) th.qpend with
  | some q => q.1
  | Option.none => 0xFF
/-- REPV and REPJ of a place. -/
def Pos.repj (p : Pos) : Option Nat :=
  match p.rep with
  | some r => some r.j
  | none => p.repFrom
/-- A path that nothing stands on. -/
def Path.nowhere : Path :=
  { park := 0, lanes := [], wait := .none, pos := { pc := 0#64, remain := 0, cls := .int, y := false, rep := none, repFrom := none } }
/-- The path on which a lane of a group stands. -/
def Group.pathOf (g : Group) (lane : Nat) : Path := (List.find? (fun p => p.lanes.contains lane) g.paths).getD Path.nowhere
/-- A thread's record (R336), with `regs` registers; of one that stands at a header the fields of a clause are 0 (R343). -/
def threadRecord (s : State) (g : Group) (th : Thread) (lane regs : Nat) : List Byte :=
  let p := g.pathOf lane
  let inside := p.pos.remain != 0
  bytesOfNat 8 p.pos.pc.toNat
    ++ (List.range 8).flatMap (fun k => bytesOfNat 4 (th.t.get k 0#32).toNat)
    ++ (List.range 4).flatMap (fun k => bytesOfNat 4 (th.xb.get k 0#32).toNat ++ bytesOfNat 4 (th.xl.get k 0#32).toNat)
    ++ bytesOfNat 32 (bitsNat ((List.range 256).map (fun k => !th.empty.has k || 64 ≤ k)))
    ++ bytesOfNat 1 th.p.toNat
    ++ bytesOfNat 1 (bitsNat [th.live, th.trapMode, p.pos.repj.isSome, inside && th.gen, g.halted, p.wait.sleeps])
    ++ bytesOfNat 2 th.waitb.toNat ++ bytesOfNat 2 th.qrd.toNat
    ++ bytesOfNat 1 (if inside then p.pos.remain + 16 * p.pos.cls.code.toNat + (if p.pos.y then 128 else 0) else 0)
    ++ bytesOfNat 1 (p.pos.repj.getD 0) ++ bytesOfNat 4 p.park ++ bytesOfNat 4 (sleepLeft s p.wait)
    ++ bytesOfNat 2 th.timeh.toNat ++ bytesOfNat 1 th.qpair ++ bytesOfNat 5 0
    ++ (List.range regs).flatMap (fun k => bytesOfNat 4 (if k < 64 then th.v.get k 0#32 else th.e.get (k - 64) 0#32).toNat)
/-- A number in a byte string. -/
def field (bs : List Byte) (off n : Nat) : Nat := natOfBytes ((bs.drop off).take n)
/-- A word in a byte string. -/
def fieldW (bs : List Byte) (off : Nat) : Word := BitVec.ofNat 32 (field bs off 4)
/-- The base plus limit of each index register of a record stays within E (R106, R340). -/
def recordIndexOk (bs : List Byte) (e : Nat) : Bool :=
  (List.range 4).all (fun k => decide (field bs (40 + 8 * k) 4 + field bs (44 + 8 * k) 4 ≤ e))
/-- Registers from a record. -/
def recordRegs (bs : List Byte) (off n : Nat) : SMap Word :=
  (List.range n).foldl (fun m k => SMap.set m k (fieldW bs (off + 4 * k)) 0#32) []
/-- The registers that a record leaves empty; one that was full has no producer yet. -/
def recordEmpty (old : SMap Fill) (bits n : Nat) : SMap Fill :=
  (List.range n).foldl (fun m k => if natBits bits k k = 1 then m.del k else if m.has k then m else m.put k Fill.pending) old
/-- A thread after a debugger has written its record (R340). -/
def Thread.written (th : Thread) (bs : List Byte) (regs : Nat) : Thread :=
  { th with
    gen := if natBits (field bs 110 1) 3 0 = 0 then th.gen else natBits (field bs 105 1) 3 3 == 1,
    v := recordRegs bs 128 64, e := recordRegs bs 384 (regs - 64), t := recordRegs bs 8 8,
    xb := (List.range 4).foldl (fun m k => SMap.set m k (fieldW bs (40 + 8 * k)) 0#32) [],
    xl := (List.range 4).foldl (fun m k => SMap.set m k (fieldW bs (44 + 8 * k)) 0#32) [],
    empty := recordEmpty th.empty (field bs 72 32) 64,
    qpend := if field bs 122 1 = 0xFF then [] else [(field bs 122 1, BitVec.ofNat 16 (field bs 108 2) - 1#16)],
    p := BitVec.ofNat 8 (field bs 104 1), live := natBits (field bs 105 1) 0 0 == 1, trapMode := natBits (field bs 105 1) 1 1 == 1,
    waitb := BitVec.ofNat 16 (field bs 106 2), qrd := BitVec.ofNat 16 (field bs 108 2), timeh := BitVec.ofNat 16 (field bs 120 2) }
/-- The place in a record. -/
def recordPos (bs : List Byte) : Pos :=
  { pc := BitVec.ofNat 64 (field bs 0 8), remain := natBits (field bs 110 1) 3 0,
    cls := (Cls.ofCode (BitVec.ofNat 3 (natBits (field bs 110 1) 6 4))).getD .int, y := natBits (field bs 110 1) 7 7 == 1, rep := none,
    repFrom := if natBits (field bs 105 1) 2 2 == 1 then some (field bs 111 1) else none }
/-- The path of a record: its place, and the clk of SLEEP still to wait. -/
def recordPath (s : State) (bs : List Byte) (lane : Nat) : Path :=
  { park := field bs 112 4, lanes := [lane], pos := recordPos bs,
    wait := if natBits (field bs 105 1) 5 5 == 1 then .sleep (s.time.toNat + field bs 116 4) else .none }
/-- The lane leaves its path. -/
def Group.dropLane (g : Group) (lane : Nat) : Group :=
  let drop : Path → Path := fun q => { q with lanes := q.lanes.filter (fun l => l != lane) }
  let run := match g.running with
    | none => none
    | some q => if (drop q).lanes.isEmpty then none else some (drop q)
  { g with running := run, parked := (g.parked.map drop).filter (fun q => !q.lanes.isEmpty) }
/-- A place as a record tells it: at a header it names no clause. -/
def Pos.told (p : Pos) : Pos :=
  { p with rep := none, repFrom := p.repj, cls := if p.remain = 0 then .int else p.cls, y := p.remain != 0 && p.y }
/-- A record tells of the path on which its lane stands. -/
def Path.tells (q p : Path) : Bool := q.park == p.park && q.pos.told == p.pos.told && q.wait.sleeps == p.wait.sleeps
/-- The lane stands on the path that its record tells of, which it joins when there is one (R336). -/
def Group.moveLane (g : Group) (lane : Nat) (p : Path) : Group :=
  if (g.pathOf lane).lanes.contains lane && (g.pathOf lane).tells p then g
  else
    let h := g.dropLane lane
    let same : Path → Bool := fun q => q.tells p && q.wait == p.wait
    { h with
      parked := if h.parked.any same then h.parked.map (fun q => if same q then { q with lanes := lane :: q.lanes } else q) else h.parked ++ [p],
      parkCtr := Nat.max h.parkCtr (p.park + 1) }
/-- A lane of a group after its record has been written. -/
def Group.written (g : Group) (s : State) (lane : Nat) (bs : List Byte) : Group :=
  if natBits (field bs 105 1) 0 0 = 1 then g.moveLane lane (recordPath s bs lane) else g.dropLane lane

/-! ## The lead -/

/-- A command of the lead waits and would be withdrawn by a save (R331, R335). -/
def LWait.command : LWait → Bool
  | .unit _ _ _ => true
  | .spawnW _ _ _ _ _ => true
  | .qsend _ => true
  | .saCmd _ _ _ _ => true
  | .unwind _ => true
  | .saload _ => true
  | .none | .barw _ | .arv _ | .mwait _ | .cpwait _ => false
/-- The word of the command at which a lead waits, where a save would withdraw it (R335). -/
def Lead.word (l : Lead) : Nat := if l.wait.command then l.cmd.toNat else 0
/-- The lead's section of an image (R335). -/
def leadSection (t : Team) : List Byte :=
  let l := t.lead
  padTo 576
    ((List.range 64).flatMap (fun k => bytesOfNat 8 (l.s.get k 0#64).toNat)
      ++ bytesOfNat 8 (bitsNat ((List.range 64).map (fun k => !l.empty.has k)))
      ++ bytesOfNat 8 l.pc.toNat ++ bytesOfNat 1 l.p.toNat ++ bytesOfNat 1 (bitsNat [l.ended, l.wait.command])
      ++ bytesOfNat 2 l.waitb.toNat ++ bytesOfNat 4 t.qsent.toNat ++ bytesOfNat 4 l.word)
/-- The command of a word at which a lead resumes waiting, with what its registers name (R331, R340); of a command that has a packet or a
record of its own under way only the one that waits already. -/
def Lead.ofWord (l : Lead) (w : Word) : LWait :=
  let child : BitVec 6 → BitVec 32 := fun a => (l.reg a).extractLsb' 0 32
  match decode w with
  | .ok (.join d a) => .unit 2 d.toNat (child a)
  | .ok (.tstat d a) => .unit 3 d.toNat (child a)
  | .ok (.alwrd d a) => .unit 6 d.toNat (child a)
  | .ok (.unwind a) => .unwind (child a)
  | .ok (.qsend a) => .qsend a.toNat
  | .ok _ => l.wait
  | .error _ => l.wait
/-- What a lead waits for after its section has been written. -/
def Lead.waitWritten (l : Lead) (bs : List Byte) : LWait :=
  if natBits (field bs 529 1) 1 1 = 0 then (if l.wait.command then .none else l.wait)
  else if l.wait.command && field bs 536 4 = l.cmd.toNat then l.wait
  else l.ofWord (fieldW bs 536)
/-- A lead after a debugger has written its section (R340). -/
def Lead.written (l : Lead) (bs : List Byte) : Lead :=
  { l with
    wait := l.waitWritten bs, cmd := if natBits (field bs 529 1) 1 1 = 1 then fieldW bs 536 else l.cmd,
    s := (List.range 64).foldl (fun m k => SMap.set m k (BitVec.ofNat 64 (field bs (8 * k) 8)) 0#64) [],
    empty := (List.range 64).foldl (fun m k =>
      if natBits (field bs 512 8) k k = 1 then SMap.del m k else if SMap.has m k then m else SMap.put m k true) l.empty,
    pc := BitVec.ofNat 64 (field bs 520 8), p := BitVec.ofNat 8 (field bs 528 1), ended := natBits (field bs 529 1) 0 0 == 1, waitb := BitVec.ofNat 16 (field bs 530 2) }

/-! ## The image -/

/-- The code of a network (R66). -/
def netCode : Net → Nat
  | .core => 0 | .quad => 1 | .die => 2 | .pkg => 3 | .pod => 4
/-- The decision queue's section (R335): entry n at 8 x (n mod 64). -/
def queueSection (t : Team) : List Byte :=
  let at_ : Nat → Nat := fun i => (((List.range t.dq.length).find? (fun j => (t.dqFirst.toNat + j) % 64 == i)).map (fun j => (t.dq.getD j 0#64).toNat)).getD 0
  padTo 576 ((List.range 64).flatMap (fun i => bytesOfNat 8 (at_ i)) ++ bytesOfNat 2 t.dqFirst.toNat ++ bytesOfNat 2 t.dq.length)
/-- The barriers' section (R335). -/
def barSection (t : Team) : List Byte :=
  (List.range 16).flatMap (fun k =>
    let b := t.bar k
    bytesOfNat 2 (netCode b.net + (if b.phase then 8 else 0) + (if b.touched then 16 else 0)) ++ bytesOfNat 2 b.members.toNat
      ++ bytesOfNat 2 b.n ++ bytesOfNat 2 b.arr ++ bytesOfNat 6 b.pend.toNat ++ bytesOfNat 2 0)
/-- The image's 64-byte header (R334). -/
def imageHeader (i : Saved) (taskh : BitVec 32) : List Byte :=
  let t := i.team
  bytesOfNat 4 (1 + (t.ngroups - 1) * 2 ^ 8 + (t.regs - 64) / 16 * 2 ^ 11 + (if t.array.isSome then 2 ^ 15 else 0) + t.spadg * 2 ^ 16
      + t.accg * 2 ^ 23 + (if t.gen then 2 ^ 30 else 0))
    ++ bytesOfNat 4 taskh.toNat ++ bytesOfNat 2 t.index ++ bytesOfNat 2 (i.epoch.toNat + i.reason.toNat * 2 ^ 8 + (if i.ready then 2 ^ 12 else 0))
    ++ (List.range Config.nodes).flatMap (fun k => bytesOfNat 2 (Stamp.at i.k k).toNat)
    ++ bytesOfNat 6 i.savetime ++ bytesOfNat 1 (bitsNat [t.lead.halted, t.thalt])
    ++ bytesOfNat 1 (bitsNat ((List.range 8).map (fun g => SMap.has i.groups g))) ++ bytesOfNat 24 0
/-- The threads' section (R335, R336). -/
def threadSection (s : State) (i : Saved) : List Byte :=
  (List.range i.team.ngroups).flatMap (fun g =>
    let grp : Group := (SMap.find i.groups g).getD { team := 0, gid := g, running := none, parked := [], parkCtr := 0, halted := false }
    (List.range Config.lanes).flatMap (fun l =>
      threadRecord s grp (i.threads.get (64 * g + l) Thread.none) l i.team.regs))
/-- The section of the held SA reads (R335). -/
def heldSection (t : Team) : List Byte :=
  padTo 64 (bytesOfNat 4 t.heldSa.length)
    ++ t.heldSa.flatMap (fun h => padTo 16 (bytesOfNat 4 h.addr.toNat ++ bytesOfNat 2 (64 * h.gid + h.lane) ++ bytesOfNat 1 h.dst ++ bytesOfNat 1 h.fn
      ++ bytesOfNat 1 (if h.trapPol then 1 else 0)))
/-- The array's section: as long as R335 says, in a layout that only a Z8 reads (DESIGN CHOICE, assumption 10). -/
def arraySection (s : State) (t : Team) : List Byte :=
  match t.array with
  | none => []
  | some a => (List.range (64 + 65536 * (a.active.p + a.shadow.p))).map (fun k => Config.freeArray (2 ^ 40 * s.freeCtr + k))
/-- A context image as a debugger reads it (R334 to R336). -/
def imageBytes (s : State) (i : Saved) (taskh : BitVec 32) : List Byte :=
  let t := i.team
  imageHeader i taskh ++ leadSection t ++ queueSection t ++ barSection t ++ SMap.bytes t.tab0 0 4160 ++ SMap.bytes t.tab1 0 4160
    ++ threadSection s i ++ SMap.bytes t.spad 0 (t.spadg * Config.granule)
    ++ (List.range (t.accg * 4096)).flatMap (fun k => bytesOfNat 4 (t.acc.get k 0#32).toNat)
    ++ arraySection s t ++ heldSection t

/-! ## Writing an image -/

/-- A network of its code. -/
def netOf (n : Nat) : Net := if n = 1 then .quad else if n = 2 then .die else if n = 3 then .pkg else if n = 4 then .pod else .core
/-- A barrier after its 16 bytes have been written. -/
def Barrier.written (b : Barrier) (bs : List Byte) : Barrier :=
  { b with
    net := netOf (field bs 0 1 % 8), phase := natBits (field bs 0 1) 3 3 == 1, touched := natBits (field bs 0 1) 4 4 == 1,
    members := BitVec.ofNat 16 (field bs 2 2), n := field bs 4 2, arr := field bs 6 2, pend := BitVec.ofNat 48 (field bs 8 6) }
/-- A map of bytes after `n` of them have been written. -/
def bytesMap (bs : List Byte) (off n : Nat) : SMap Byte := SMap.setBytes [] 0 ((bs.drop off).take n)
/-- Where the threads' section of an image begins (R335). -/
def threadsOff : Nat := 64 + 576 + 576 + 256 + 2 * 4160
/-- Bytes of a thread's record (R336). -/
def recordSize (t : Team) : Nat := 128 + 4 * t.regs
/-- A team whose lead's section has been written (R335, R340). -/
def Team.leadWritten (t : Team) (bs : List Byte) : Team :=
  { t with lead := t.lead.written bs, qsent := BitVec.ofNat 16 (field bs 532 4) }
/-- A team after its image has been written: the lead, the active generation, the decision queue, barriers, tables, scratchpad and
accumulators.  (DEDUCED, assumption 41) -/
def Team.written (t : Team) (bs : List Byte) : Team :=
  let spadOff := threadsOff + t.ngroups * Config.lanes * recordSize t
  let accOff := spadOff + t.spadg * Config.granule
  let first := field bs (640 + 512) 2
  { t.leadWritten (bs.drop 64) with
    gen := natBits (field bs 0 4) 30 30 == 1,
    dqFirst := BitVec.ofNat 16 first,
    dq := (List.range (Nat.min 64 (field bs (640 + 514) 2))).map (fun j => BitVec.ofNat 64 (field bs (640 + 8 * ((first + j) % 64)) 8)),
    bars := (List.range 16).foldl (fun m k => SMap.set m k ((t.bar k).written (bs.drop (1216 + 16 * k))) Barrier.initial) [],
    tab0 := bytesMap bs 1472 4160, tab1 := bytesMap bs (1472 + 4160) 4160,
    spad := bytesMap bs spadOff (t.spadg * Config.granule),
    acc := (List.range (t.accg * 4096)).foldl (fun m k => SMap.set m k (fieldW bs (accOff + 4 * k)) 0#32) [] }
/-- The record of a thread in an image. -/
def imageRecord (t : Team) (bs : List Byte) (g l : Nat) : List Byte :=
  (bs.drop (threadsOff + (g * Config.lanes + l) * recordSize t)).take (recordSize t)
/-- A group of a saved team is halted, by itself or with its team (R340). -/
def Saved.groupHalted (i : Saved) (g : Nat) : Bool :=
  i.team.thalt || match SMap.find i.groups g with
    | some x => x.halted
    | none => false
/-- A debugger may write `n` bytes of an image from `off` on: they belong to what is halted (R340). -/
def Saved.mayWrite (i : Saved) (off n : Nat) : Bool :=
  let size := Config.lanes * recordSize i.team
  i.team.thalt || (i.team.lead.halted && decide (64 ≤ off) && decide (off + n ≤ 64 + 576))
    || (List.range i.team.ngroups).any (fun g =>
      i.groupHalted g && decide (threadsOff + g * size ≤ off) && decide (off + n ≤ threadsOff + (g + 1) * size))
/-- A saved team after its image has been written (R340): what is halted of it. -/
def Saved.written (i : Saved) (s : State) (bs : List Byte) : Saved :=
  let t := i.team
  let lanes := List.range Config.lanes
  { i with
    team := if t.thalt then t.written bs else if t.lead.halted then t.leadWritten (bs.drop 64) else t,
    groups := i.groups.map (fun (e : Nat × Group) =>
      (e.1, if i.groupHalted e.1 then lanes.foldl (fun g l => g.written s l (imageRecord t bs e.1 l)) e.2 else e.2)),
    threads := i.threads.map (fun (e : Nat × Thread) =>
      (e.1, if i.groupHalted (e.1 / 64) then e.2.written (imageRecord t bs (e.1 / 64) (e.1 % 64)) t.regs else e.2)) }
/-- Every index register of an image stays within E (R106, R340). -/
def imageIndexOk (t : Team) (bs : List Byte) : Bool :=
  (List.range t.ngroups).all (fun g => (List.range Config.lanes).all (fun l => recordIndexOk (imageRecord t bs g l) t.espace))

end Sys2Proof.Machine
end

