-- ==== Sys2Proof/Machine/Ling.lean ====
section
/-!
DEFINITION. Ling's command ring (R340, R355, R356, R363 to R369, R374, R375).
-/
namespace Sys2Proof.Machine

/-- Ling serves its command ring: the function is exposed, and every command before has been performed (R358, R369). -/
def lingReady (s : State) : Bool := s.plat.linkUp && !s.plat.recovery && s.plat.invals.isEmpty
/-- The answer to a command (R369). -/
def answer (s : State) (code status : Nat) (payload : List Byte) : State :=
  s.modPlat (fun p => { p with answers := p.answers ++ [{ code := code, status := status, payload := payload }] })
/-- A command with a field out of range is answered with 0x42, which is logged with source Ling (R369, R375). -/
def lingRefuse (s : State) (code : Nat) : State :=
  answer (logError s false 0x42 (errSrc Config.ioNode 0x42) (Config.freeDetail 0x42)) code 0x42 []
/-- A command: refused when `ok` does not hold, else performed and answered.  (DESIGN CHOICE, assumption 38) -/
def ling (code : Nat) (ok : Bool) (f : State → State) (payload : List Byte) (s : State) : Out :=
  if !lingReady s then .refused .notEnabled
  else if ok then .next (answer (f s) code 0 payload)
  else .next (lingRefuse s code)

/-- A fault of the four added instructions of Ling's cores while a command is executed: its code reaches system software in the log and
as the command's answer (R369, R375).  No row of the opcode table is this event.  (DESIGN CHOICE, assumption 71) -/
def lingFault (code cmd : Nat) (s : State) : State :=
  if lingReady s && [0x40, 0x41, 0x43, 0x44].contains code && decide (1 ≤ cmd) && decide (cmd ≤ 12) then
    answer (logError s false code (errSrc Config.ioNode code) (Config.freeDetail code)) cmd code []
  else s

/-! ## Queues -/

/-- A root of a table lies in the physical space, aligned (R353). -/
def rootOk (root : Nat) : Bool := root % 8192 == 0 && decide (root + 8192 ≤ Config.farBytes)
/-- The fields of MAPQ are in range, and the queue is not enabled. -/
def mapqOk (s : State) (queue : Nat) (block : Place) (pasid : BitVec 20) (root : Nat) (stage2 : Option Nat) : Bool :=
  decide (queue < 80) && !(s.queue queue).enabled && !(s.queue queue).pre && decide (block.kind < 3) && block.pa % 64 == 0
  && decide (block.pa + 64 ≤ kindBytes block.kind) && (decide (queue < 16) || pasid != 0#20) && rootOk root
  && (match stage2 with | none => true | some r => rootOk r)
/-- The address space of a queue after MAPQ: its fault rings stay.  (DESIGN CHOICE, assumption 38) -/
def mapSpace (s : State) (queue : Nat) (pasid : BitVec 20) (root : Nat) (stage2 : Option Nat) : Space :=
  let old : Space := s.spaces.get queue { root := 0, stage2 := none, pasid := 0#20, ring := [], ring2 := [] }
  { old with root := root, stage2 := stage2, pasid := if stage2.isSome then pasid else 0#20 }
/-- MAPQ (R319, R353, R354, R360, R363): a queue's control block, PASID, and translation; `priv` marks it as privileged. -/
def execMapq (queue : Nat) (block : Place) (pasid : BitVec 20) (root : Nat) (stage2 : Option Nat) (priv : Bool) (s : State) : Out :=
  ling 1 (mapqOk s queue block pasid root stage2)
    (fun s =>
      ({ s with spaces := s.spaces.put queue (mapSpace s queue pasid root stage2) } : State).modQueue queue (fun q =>
        { q with block := some block, opened := false, enabled := false, due := false, statusSeq := 0, pasid := pasid,
                 space := queue, priv := priv })) [] s
/-- REVOKE (R363): it takes effect in a clk in which no slot of the PASID has been consumed before. -/
def execRevoke (pasid : BitVec 20) (s : State) : Out :=
  if s.fresh.roots.any (fun k => (s.tasks.find k).any (fun t => (s.queue t.queue).pasid == pasid)) then .refused .notEnabled
  else
    ling 2 (pasid != 0#20)
      (fun s => s.modPlat (fun p => { p with revoked := if p.revoked.contains pasid then p.revoked else pasid :: p.revoked })) [] s
/-- ENABLEQ (R296, R338): the queue is enabled, and its consumer runs. -/
def execEnableq (queue : Nat) (s : State) : Out :=
  if (s.queue queue).pre then .refused .notEnabled
  else
    ling 3 (decide (queue < 80) && (match (s.queue queue).block with | some b => ringOk s b | none => false))
      (fun s => s.setQueue queue (fun q => { q with enabled := true, opened := true, rung := 0, done := false, rst := false, due := true })) [] s

/-! ## Code, policies, reports -/

/-- The translations of a code object's pages, which are sealed: executable and not writable (R365); none when a page is not. -/
def codePages (s : State) (space base : Nat) : Nat → Option (List Leaf)
  | 0 => some []
  | n + 1 =>
    match translate s space (base * 2 ^ 16) with
    | .error _ => none
    | .ok l =>
      if l.x && !l.w && l.kind != 3 then
        match codePages s space (base + 1) n with
        | some ls => some (l :: ls)
        | none => none
      else none
/-- The bytes of a code object's pages in ascending order of virtual address. -/
def codeBytes (s : State) : Nat → List Leaf → List Byte
  | _, [] => []
  | page, l :: ls => s.readLoc (l.loc (page * 2 ^ 16)) (2 ^ 16) ++ codeBytes s (page + 1) ls
/-- Ling loads an object's code into those pages. -/
def loadCode (s : State) : Nat → List Leaf → List Byte → State
  | _, [], _ => s
  | page, l :: ls, bs =>
    let loc := l.loc (page * 2 ^ 16)
    loadCode (s.writePa loc.kind (framePa s loc false) (bs.take (2 ^ 16))) (page + 1) ls (bs.drop (2 ^ 16))
/-- The CODEID for a new object: any that is not in use (R365).  (DESIGN CHOICE, assumption 11) -/
def newCodeId (s : State) : Option Nat :=
  ((List.range 65535).map (fun i => ((Config.freeCodeId s.freeCtr).toNat + i) % 65535 + 1)).find? (fun c => !s.plat.codeObjs.has c)
/-- An object's code is in its pages, measured there, and has a CODEID. -/
def sealObject (asid base pages c : Nat) (ls : List Leaf) (header code : List Byte) (s : State) : State :=
  let s := loadCode s base ls code
  let o : CodeObj := { meas := Config.sha512 (header ++ codeBytes s base ls), space := asid, base := base, pages := pages }
  s.modPlat (fun p => { p with codeObjs := p.codeObjs.put c o })
/-- LOADOBJ (R365): the object's code is loaded into its sealed pages after everything that the host has written, its measurement is
taken, and it has a CODEID.  (DESIGN CHOICE, assumption 70) -/
def execLoadobj (asid base pages : Nat) (object : List Byte) (s : State) : Out :=
  if !storesDone s 0 then .refused .notEnabled
  else
    match codePages s asid base pages, newCodeId s with
    | some ls, some c =>
      ling 4 (object.length == 64 + pages * 2 ^ 16 && decide (base + pages ≤ 2 ^ 32))
        (sealObject asid base pages c ls (object.take 64) (object.drop 64)) (bytesOfNat 2 c) s
    | _, _ => ling 4 false id [] s

/-- A policy's fields are in range, and its signature holds under the region's key (R366). -/
def policyOk (s : State) (bs : List Byte) : Bool :=
  let region := field bs 2 2
  let count := field bs 40 2
  let owner : BitVec 256 := s.plat.owners.get region (BitVec.ofNat 256 (field bs 8 32))
  decide (128 ≤ bs.length) && field bs 0 1 == 1 && decide (field bs 1 1 < 2) && decide (1 ≤ region) && decide (region ≤ 4095)
  && decide (count ≤ 64) && field bs 42 22 == 0 && bs.length == 128 + 64 * count
  && (match s.plat.policies.find region with
    | some p => decide (p.pver.toNat < field bs 4 4)
    | none => true)
  && Config.ed25519Ok owner (bs.take (64 + 64 * count)) (BitVec.ofNat 512 (field bs (64 + 64 * count) 64))
/-- POLICY (R366): the first policy of a region binds its owner. -/
def execPolicy (bytes : List Byte) (s : State) : Out :=
  let region := field bytes 2 2
  let p : Policy :=
    { raw := natBits (field bytes 1 1) 0 0 == 1, pver := BitVec.ofNat 32 (field bytes 4 4), owner := BitVec.ofNat 256 (field bytes 8 32),
      meas := (List.range (field bytes 40 2)).map (fun k => BitVec.ofNat 512 (field bytes (64 + 64 * k) 64)) }
  ling 5 (policyOk s bytes)
    (fun s => s.modPlat (fun q => { q with
      policies := q.policies.put region p, owners := if q.owners.has region then q.owners else q.owners.put region p.owner })) [] s

/-- Bytes 0 to 127 of a report (R368). -/
def reportBody (s : State) (region : Nat) (seq : BitVec 64) : List Byte :=
  bytesOfNat 1 1 ++ bytesOfNat 1 (if s.plat.abrupt then 1 else 0) ++ bytesOfNat 2 region ++ bytesOfNat 4 s.plat.boot.toNat
    ++ bytesOfNat 8 Config.deviceId.toNat ++ bytesOfNat 8 seq.toNat ++ bytesOfNat 8 s.time.toNat
    ++ bytesOfNat 8 (s.plat.decb.get region 0#64).toNat ++ bytesOfNat 8 (s.plat.macs.get region 0#64).toNat
    ++ bytesOfNat 4 (match s.plat.policies.find region with
      | some p => p.pver.toNat
      | none => 0)
    ++ bytesOfNat 76 0
/-- A signed report. -/
def reportBytes (s : State) (region : Nat) : List Byte :=
  let b := reportBody s region (s.plat.reportSeq + 1#64)
  b ++ bytesOfNat 64 (Config.ed25519Sign b).toNat
/-- REPORT (R368). -/
def execReport (region : Nat) (s : State) : Out :=
  ling 6 (decide (1 ≤ region) && decide (region ≤ 4095))
    (fun s => s.modPlat (fun p => { p with reportSeq := p.reportSeq + 1#64 })) (reportBytes s region) s

/-! ## Translations and their faults -/

/-- INVAL (R356): the invalidation has been asked for; its answer comes when it completes. -/
def execInval (asid : Nat) (va : DWord) (glob : Bool) (s : State) : Out :=
  if !lingReady s then .refused .notEnabled
  else if !s.spaces.has asid || !canonical va then .next (lingRefuse s 7)
  else .next (s.modPlat (fun p => { p with
    invals := p.invals ++ [{ space := asid, page := pageOf (va48 va), glob := glob, upto := 0, blocks := [] }] }))
/-- A cached translation is one that an invalidation names. -/
def Inval.names (i : Inval) (e : TlbEntry) : Bool :=
  e.page * 2 ^ 16 / e.leaf.size == i.page * 2 ^ 16 / e.leaf.size && (if e.leaf.glob then i.glob else e.space == i.space)
/-- A task's accesses are concerned by an invalidation: it has the address space, or its record is gone. -/
def Inval.concerns (i : Inval) (s : State) (task : Nat) : Bool :=
  i.glob || match s.tasks.find task with
    | some t => t.space == i.space
    | none => true
/-- An access queue holds what a SAEVICT writes: it is not its lead's own. -/
def OpQ.evicts (q : OpQ) (key : Nat) : Bool :=
  match q.who with
  | .lead uid => key != uid + 1
  | .thread _ _ _ => false
  | .host => false
/-- A packet carries a SAEVICT whose pages were translated before a number (R245). -/
def Packet.evictBefore (p : Packet) (s : State) (i : Inval) : Bool :=
  match p.body with
  | .saCmd id _ task _ (.evict _ _ _) => i.concerns s task && decide (id < i.upto)
  | _ => false
/-- A lead's SALOAD whose image is still being read was issued from a number on. -/
def LWait.since (n : Nat) (w : LWait) : Bool :=
  match w with
  | .saload l => decide (n ≤ l.id)
  | .none | .barw _ | .arv _ | .qsend _ | .unit _ _ _ | .unwind _ | .spawnW _ _ _ _ _ | .mwait _ | .cpwait _ | .saCmd _ _ _ _ => true
/-- No access issued before a number is still to be performed (R356); a copy whose team an unwind has freed counts as complete (R291).  (DEDUCED, assumption 43) -/
def invalDone (s : State) (i : Inval) : Bool :=
  s.opqs.all (fun e => e.1 == 0 || !i.concerns s e.2.task
    || (if e.2.evicts e.1 then e.2.ops.isEmpty else e.2.ops.all (fun o => decide (i.upto ≤ o.id))))
  && s.copies.all (fun e => (e.2.freed && e.2.op.toSpad) || !i.concerns s e.2.task || decide (i.upto ≤ e.2.id))
  && !(fabricPkts s).any (fun p => p.evictBefore s i)
  && s.teams.all (fun e => !i.concerns s e.2.task
    || (e.2.lead.wait.since i.upto && e.2.mats.all (fun m => decide (i.upto ≤ m.id)) && e.2.tloads.all (fun m => decide (i.upto ≤ m.id))))
/-- The selector of the publishable buffer that a cached translation reaches. -/
def TlbEntry.block (e : TlbEntry) : Nat := selKey (e.leaf.loc (e.page * 2 ^ 16))
/-- The invalidated page still maps the buffer of a selector. -/
def Inval.stillMaps (i : Inval) (s : State) (block : Nat) : Bool :=
  match translate s i.space (i.page * 2 ^ 16) with
  | .ok l => l.pub && selKey (l.loc (i.page * 2 ^ 16)) == block
  | .error _ => false
/-- The selectors of publishable buffers whose mapping an invalidation takes away (R160).  (DESIGN CHOICE, assumption 73) -/
def Inval.frees (i : Inval) (s : State) : List Nat :=
  (s.cores.flatMap (fun e => (e.2.cached.filter (fun t => i.names t && t.leaf.pub)).map TlbEntry.block)).eraseDups.filter
    (fun b => !i.stillMaps s b)
/-- The cores give up the translations that an invalidation names (R356). -/
def dropCached (s : State) (i : Inval) : State :=
  { s with cores := s.cores.map (fun (e : Nat × Core) => (e.1, { e.2 with cached := e.2.cached.filter (fun t => !i.names t) })) }
/-- A buffer that no core's translation reaches any more has selector 0 when a page is first mapped on it again (R160). -/
def freeSelectors (s : State) (blocks : List Nat) : State :=
  blocks.foldl (fun s b =>
    if s.cores.any (fun e => e.2.cached.any (fun t => t.leaf.pub && t.block == b)) then s
    else { s with selectors := s.selectors.del b }) s
/-- INVAL_COMPLETE (R356): the cores give the translation up, and when every access that used it has been performed the invalidation
completes. -/
def execInvalComplete (idx : Nat) (s : State) : Out :=
  match s.plat.invals[idx]? with
  | none => .refused .notEnabled
  | some i =>
    if i.upto = 0 then
      .next ((dropCached s i).modPlat
        (fun p => { p with invals := modAt (fun i => { i with upto := s.nextId, blocks := i.frees s }) p.invals idx }))
    else if invalDone s i then
      .next (answer (freeSelectors (s.modPlat (fun p => { p with invals := dropAt p.invals idx })) i.blocks) 7 0 [])
    else .refused .notEnabled

/-- The team that waits for a fault record of a ring. -/
def faultTeam (s : State) (ring seq : Nat) : Option Team :=
  let rec_ : Option FaultRec := match s.spaces.find (ring / 2) with
    | some sp => if ring % 2 = 0 then sp.ring[seq]? else sp.ring2[seq]?
    | none => none
  match rec_ with
  | none => none
  | some r =>
    match anyTeam s r.uid with
    | some t => if t.faultSeqs.contains (ring % 2, seq) then some t else none
    | none => none
/-- A record has been serviced: with the last one for which the team was swapped out it is ready (R332, R355). -/
def serviced (s : State) (uid ring seq : Nat) : State :=
  let s := s.modAny uid (fun t => { t with faultSeqs := t.faultSeqs.filter (fun e => e != (ring % 2, seq)) })
  { s with images := s.images.mod uid (fun i => { i with ready := i.ready || (i.reason == 1#4 && i.team.faultSeqs.isEmpty) }) }
/-- FAULTDONE (R355): the record has been serviced, or the task fails with UNMAPPED. -/
def execFaultdone (ring seq : Nat) (service : Bool) (s : State) : Out :=
  match faultTeam s ring seq with
  | none => ling 8 false id [] s
  | some t => ling 8 true (fun s => if service then serviced s t.uid ring seq else failTask s t.task Cause.unmapped.code) [] s

/-! ## Interrupts, pod barriers, power -/

/-- REMAP (R362). -/
def execRemap (entry : Nat) (value : QWord) (s : State) : Out :=
  ling 9 (decide (entry < 2048)) (fun s => s.modPlat (fun p => { p with remap := SMap.set p.remap entry value 0#128 })) [] s
/-- A pod barrier identifier that is not in use (R138).  (DESIGN CHOICE, assumption 11) -/
def newPodId (s : State) : Option (BitVec 16) :=
  ((List.range 65536).map (fun i => Config.freePodId s.freeCtr + BitVec.ofNat 16 i)).find? (fun c => !s.plat.podIds.contains c)
/-- PODBAR (R138, R369). -/
def execPodbar (s : State) : Out :=
  match newPodId s with
  | none => ling 11 false id [] s
  | some c => ling 11 true (fun s => s.modPlat (fun p => { p with podIds := c :: p.podIds })) (bytesOfNat 2 c.toNat) s
/-- POWER (R374). -/
def execPower (watts : Nat) (s : State) : Out :=
  ling 12 (decide (900 ≤ watts) && decide (watts ≤ 1800)) (fun s => s.modPlat (fun p => { p with powerCap := watts })) [] s

/-! ## The debugger -/

/-- The context of a group with one of its paths. -/
def pathOn (s : State) (gk : Nat) (p : Path) : Option GCtx :=
  match s.groups.find gk with
  | none => none
  | some g =>
    match lctxOf s g.team with
    | some l => some { gk := gk, core := coreOf gk, tk := g.team, group := g, path := p, team := l.team, task := l.task }
    | none => none
/-- The lanes of a parked path that stand at their trap handler. -/
def atHandler (s : State) (c : GCtx) : List Nat :=
  if c.path.pos.remain = 0 && c.path.pos.pc == descHandler c.task.desc then
    c.path.lanes.filter (fun l => (s.thread c.gk l).trapMode)
  else []
/-- Threads that BRK stopped act as RFT from their trap records (R340, R347); a trap in it is a nested one.  (DEDUCED, assumption 41) -/
def rftPath (s : State) (gk : Nat) (p : Path) : State :=
  match pathOn s gk p with
  | none => s
  | some c =>
    let lanes := atHandler s c
    let bad := lanes.filterMap (fun l => match rftCheck s c l with
      | .trap i => some (l, i)
      | .ok | .absent | .miss _ _ | .lost => none)
    let good := lanes.filter (fun l => !(bad.map Prod.fst).contains l)
    let parts := partsAt s gk 64 good
    let s := s.modGroup gk (fun g => { g with
      parked := (g.parked.map (fun q => if q.park = p.park then { q with lanes := q.lanes.filter (fun l => !lanes.contains l) } else q)).filter
        (fun q => !q.lanes.isEmpty) })
    let s := s.onLanes gk good (fun _ th => th.rft)
    let path : Pos × List Nat → Path := fun x => { park := 0, lanes := x.2, pos := x.1, wait := .none }
    let s := parts.foldl (fun s x => parkPath s gk (path x)) s
    sysTrap c (wordOf .rft) p.pos (unhandled c bad s) s
/-- A group goes on, as the debugger directs (R340). -/
def resumeGroup (s : State) (gk : Nat) (rft : Bool) : State :=
  let s := s.modGroup gk (fun g => { g with halted := false })
  if rft then
    match s.groups.find gk with
    | some g => g.parked.foldl (fun s p => rftPath s gk p) s
    | none => s
  else s
/-- The team of a group. -/
def teamOfGroup (s : State) (gk : Nat) : Option Team :=
  match s.groups.find gk with
  | some g => s.teams.find g.team
  | none => none
/-- A group is halted and has stopped (R340). -/
def groupStopped (s : State) (gk : Nat) : Bool :=
  match s.groups.find gk, teamOfGroup s gk with
  | some g, some t => (g.halted || t.thalt) && (s.core (coreOf gk)).gHold != some gk
  | _, _ => false
/-- The lead of a resident team is halted and has stopped. -/
def leadStopped (s : State) (tk : Nat) (t : Team) : Bool := (t.lead.halted || t.thalt) && (s.core t.core).lHold != some tk
/-- A team is halted and has stopped as a whole. -/
def teamStopped (s : State) (tk : Nat) (t : Team) : Bool :=
  t.thalt && leadStopped s tk t && (groupsOf s tk).all (fun e => groupStopped s e.1)
/-- The handle of a team's task. -/
def teamHandle (s : State) (t : Team) : BitVec 32 :=
  match s.tasks.find t.task with
  | some k => k.handle t.task
  | none => 0#32
/-- The context image of a team (R334): of a resident one (with its key) while it is halted, of a saved one always. -/
def teamImage (s : State) (uid : Nat) : Option (Option Nat × Saved) :=
  match teamByUid s uid with
  | some t => if teamStopped s t.1 t.2 then some (some t.1, savedOf s t.1 t.2 0#4 (heldReads s uid |>.map Prod.snd)) else none
  | none => (s.images.find uid).map (fun i => (none, i))
/-- A resident team takes the context that has been written. -/
def putResident (s : State) (tk : Nat) (i : Saved) : State :=
  let s := s.modTeam tk (fun t => { i.team with array := t.array, heldSa := t.heldSa, swap := t.swap, faults := t.faults })
  (groupsOf s tk).foldl (fun s e =>
    let s := s.modGroup e.1 (fun g => i.groups.get e.2.gid g)
    s.onLanes e.1 (List.range Config.lanes) (fun l th => i.threads.get (64 * e.2.gid + l) th)) s
/-- Bytes written into an image. -/
def patchImage (bs : List Byte) (off : Nat) (new : List Byte) : List Byte := bs.take off ++ new ++ bs.drop (off + new.length)
/-- Write into the image of a team, where it is halted (R340).  (DEDUCED, assumption 41) -/
def writeImage (s : State) (uid off : Nat) (bytes : List Byte) : Option State :=
  match teamImage s uid with
  | none => none
  | some (tk, i) =>
    let old := imageBytes s i (teamHandle s i.team)
    let bs := patchImage old off bytes
    if i.mayWrite off bytes.length && off + bytes.length ≤ old.length && imageIndexOk i.team bs then
      match tk with
      | some tk => some (putResident s tk (i.written s bs))
      | none => some { s with images := s.images.put uid (i.written s bs) }
    else none
/-- A command that is performed, with what it returns, or refused. -/
def debugAnswer (r : Option (State × List Byte)) (s : State) : Out :=
  match r with
  | some (t, bs) => ling 10 true (fun _ => t) bs s
  | none => ling 10 false id [] s
/-- Change the lead of a team. -/
def haltLead (s : State) (uid : Nat) (b : Bool) : Option (State × List Byte) :=
  if (anyTeam s uid).isSome then some (s.modAny uid (fun t => { t with lead := { t.lead with halted := b } }), []) else none
/-- Halt or resume a whole team. -/
def haltTeam (s : State) (uid : Nat) (b : Bool) : Option (State × List Byte) :=
  if (anyTeam s uid).isSome then some (s.modAny uid (fun t => { t with thalt := b }), []) else none
/-- Read a thread's record. -/
def readThread (s : State) (key : Nat) : Option (State × List Byte) :=
  match s.groups.find (key / 64), teamOfGroup s (key / 64), s.threads.find key with
  | some g, some t, some th => if groupStopped s (key / 64) then some (s, threadRecord s g th (key % 64) t.regs) else none
  | _, _, _ => none
/-- Write a thread's record. -/
def writeThread (s : State) (key : Nat) (bs : List Byte) : Option (State × List Byte) :=
  match teamOfGroup s (key / 64), s.threads.find key with
  | some t, some _ =>
    if groupStopped s (key / 64) && bs.length == recordSize t && recordIndexOk bs t.espace then
      some ((s.onLanes (key / 64) [key % 64] (fun _ th => th.written bs t.regs)).modGroup (key / 64) (fun g => g.written s (key % 64) bs), [])
    else none
  | _, _ => none
/-- A team whose lead is halted and has stopped, resident or saved. -/
def leadHalted (s : State) (uid : Nat) : Option Team :=
  match teamByUid s uid with
  | some t => if leadStopped s t.1 t.2 then some t.2 else none
  | none =>
    match s.images.find uid with
    | some i => if i.team.lead.halted || i.team.thalt then some i.team else none
    | none => none
/-- Read a lead's section. -/
def readLead (s : State) (uid : Nat) : Option (State × List Byte) :=
  match leadHalted s uid with
  | some t => some (s, leadSection t)
  | none => none
/-- Write a lead's section. -/
def writeLead (s : State) (uid : Nat) (bs : List Byte) : Option (State × List Byte) :=
  match leadHalted s uid with
  | some _ => if bs.length == 576 then some (s.modAny uid (fun t => t.leadWritten bs), []) else none
  | none => none
/-- What a debugger's command does (R340). -/
def debugDo (cmd : DebugCmd) (s : State) : Option (State × List Byte) :=
  match cmd with
  | .attach q => if q < 80 then some (s.modQueue q (fun x => { x with debugger := true }), []) else none
  | .detach q => if q < 80 then some (s.modQueue q (fun x => { x with debugger := false }), []) else none
  | .haltLead t => haltLead s t true
  | .haltGroup g => if s.groups.has g then some (s.modGroup g (fun x => { x with halted := true }), []) else none
  | .haltTeam t => haltTeam s t true
  | .resumeLead t => haltLead s t false
  | .resumeGroup g rft => if s.groups.has g then some (resumeGroup s g rft, []) else none
  | .resumeTeam t => haltTeam s t false
  | .readThread k => readThread s k
  | .writeThread k bs => writeThread s k bs
  | .readLead t => readLead s t
  | .writeLead t bs => writeLead s t bs
  | .readImage t => (teamImage s t).map (fun i => (s, imageBytes s i.2 (teamHandle s i.2.team)))
  | .writeImage t off bs => (writeImage s t off bs).map (fun x => (x, []))
/-- DEBUG (R340, R369). -/
def execDebug (cmd : DebugCmd) (s : State) : Out := debugAnswer (debugDo cmd s) s

end Sys2Proof.Machine
end

