-- ==== Sys2Proof/Machine/Platform.lean ====
section
/-!
DEFINITION. The host's reads and writes, completions on the host link, bring-up, power, metering mirrors, fibres and memory errors
(R123, R261, R352, R357, R358, R367, R370 to R375).
-/
namespace Sys2Proof.Machine

/-! ## The host -/

/-- The `n` bytes at an address lie in a physical space (R376). -/
def inSpace (kind pa n : Nat) : Bool := decide (kind < 3) && decide (pa + n ≤ kindBytes kind)
/-- Cut the bytes at an address into pieces that stay within a line of 64 bytes. -/
def linePieces : Nat → Nat → List Byte → List (Nat × List Byte)
  | 0, _, _ => []
  | fuel + 1, a, bs =>
    if bs.isEmpty then [] else (a, bs.take (64 - a % 64)) :: linePieces fuel (a + (64 - a % 64)) (bs.drop (64 - a % 64))
/-- An access of the host enters at node 8, after those before it (R261).  (DESIGN CHOICE, assumption 21) -/
def hostOp (s : State) (l : Loc) (n : Nat) (k : OpKind) : State :=
  ({ s with nextId := s.nextId + 1 } : State).addOp 0 .host 0 Config.ioNode { id := s.nextId, loc := l, n := n, kind := k, sent := false, got := none }
/-- A write of the host to device memory; one whose home has been removed is discarded (R263). -/
def hostStore (s : State) (kind addr : Nat) (bytes : List Byte) : State :=
  let l : Loc := { kind := kind, pa := addr, pub := 0 }
  if s.removed.contains (homeOf l) then s else hostOp s l bytes.length (.store bytes)

/-! ## What the host reads in the function's BARs -/

/-- A field of `n` bits at bit `lo`. -/
def bitField (lo n v : Nat) : Nat := v % 2 ^ n * 2 ^ lo
/-- The 32 bytes of an error-log entry (R375). -/
def ErrEntry.bytes (e : ErrEntry) : List Byte :=
  bytesOfNat 32 (bitField 16 96 e.detail.toNat + bitField 112 16 e.src + bitField 128 8 e.code + bitField 136 1 (if e.transient then 1 else 0)
    + bitField 144 48 e.time + bitField 192 64 e.seq)
/-- The 32 bytes of a fault record (R355). -/
def FaultRec.bytes (r : FaultRec) : List Byte :=
  bytesOfNat 32 (bitField 0 64 r.va.toNat + bitField 64 20 r.pasid.toNat + bitField 84 1 r.stage + bitField 85 2 r.acc + bitField 87 2 r.level
    + bitField 89 1 (if r.malf then 1 else 0) + bitField 96 32 r.taskh.toNat + bitField 128 16 r.team + bitField 144 48 r.time + bitField 192 64 r.seq)
/-- A byte of a byte string, 0 beyond it. -/
def byteAt (bs : List Byte) (i : Nat) : Byte := bs.getD i 0#8
/-- The latest record of a ring of `n` entries that stands in entry `i`. -/
def ringLast {α : Type} (n i : Nat) (seq : α → Nat) (l : List α) : Option α := l.reverse.find? (fun e => seq e % n == i)
/-- A byte of the error-log ring: 32,768 entries. -/
def errLogByte (s : State) (off : Nat) : Byte :=
  match ringLast 32768 (off / 32) ErrEntry.seq s.plat.errLog with
  | some e => byteAt e.bytes (off % 32)
  | none => 0#8
/-- A byte of the fault rings, of 1,024 entries each: ring 2a is that of stage 1 of address space a, ring 2a + 1 that of stage 2 (R355). -/
def faultByte (s : State) (off : Nat) : Byte :=
  let ring := off / 2 ^ 15
  let records : List FaultRec := match s.spaces.find (ring / 2) with
    | some sp => if ring % 2 = 0 then sp.ring else sp.ring2
    | none => []
  match ringLast 1024 (off % 2 ^ 15 / 32) FaultRec.seq records with
  | some r => byteAt r.bytes (off % 32)
  | none => 0#8
/-- A byte of Ling's answer ring, of 4,096 entries of 1,024 bytes: the status word, the command's code, and what was returned (R369). -/
def answerByte (s : State) (off : Nat) : Byte :=
  let n := s.plat.answers.length
  let i := off / 1024
  let seq := if i < n % 4096 then n / 4096 * 4096 + i else n / 4096 * 4096 + i - 4096
  match (if 4096 ≤ n / 4096 * 4096 + i || i < n % 4096 then s.plat.answers[seq]? else none) with
  | some a => byteAt (bytesOfNat 4 a.status ++ bytesOfNat 4 a.code ++ a.payload) (off % 1024)
  | none => 0#8
/-- A byte of Ling's mailbox: QSAG and SSAR (R222). -/
def mailByte (s : State) (off : Nat) : Byte := byteAt (bytesOfNat 8 s.qsag ++ bytesOfNat 8 s.ssar) off
/-- A byte of the error records FERR_0 to FERR_9 (R289). -/
def ferrByte (s : State) (off : Nat) : Byte := byteAt (bytesOfNat 8 (s.node (off / 8)).ferr.word.toNat) (off % 8)
/-- A byte of BAR0 (R358, R362, R369, R375): the remapping table (R362 places its entries), and at places that the spec does not give the
error log, Ling's mailbox and answers, the fabric error records and the fault rings.  (DESIGN CHOICE, assumption 68) -/
def bar0Byte (s : State) (a : Nat) : Byte :=
  if a < 0x8000 then byteAt (bytesOfNat 16 (s.plat.remap.get (a / 16) 0#128).toNat) (a % 16)
  else if a < 0x100000 then 0#8
  else if a < 0x200000 then errLogByte s (a - 0x100000)
  else if a < 0x210000 then mailByte s (a - 0x200000)
  else if a < 0x210000 + 8 * Config.nodes then ferrByte s (a - 0x210000)
  else if a < 0x400000 then 0#8
  else if a < 0x800000 then answerByte s (a - 0x400000)
  else faultByte s (a - 0x800000)
/-- A register of a notify page as it reads (R360): a write-only register and an offset that is not listed read as 0 (R5). -/
def notifyReg (s : State) (aqi off : Nat) : DWord :=
  if off = 0x010 then (s.queue (16 + aqi)).qstat
  else if off = 0x018 then (s.queue (16 + aqi)).ictl
  else if off = 0x020 then BitVec.ofNat 64 Config.hostVersion
  else 0#64
/-- A byte of BAR2, the notify pages (R358). -/
def bar2Byte (s : State) (a : Nat) : Byte := byteAt (bytesOfNat 8 (notifyReg s (a / 4096) (a % 4096 / 8 * 8)).toNat) (a % 8)
/-- The link status register: the rate and the width to which the link has trained (R358).  (PRESUMED, assumption 69) -/
def linkStatus (s : State) : Nat := bitField 0 4 s.plat.linkGen + bitField 4 6 s.plat.linkWidth
/-- A byte of the function's PCI Express capability: its link status register stands at 0x12.  (PRESUMED, assumption 69) -/
def pcieByte (s : State) (a : Nat) : Byte := if a = 0x12 || a = 0x13 then byteAt (bytesOfNat 2 (linkStatus s)) (a - 0x12) else 0#8
/-- The function's own spaces: 3 BAR0, 4 BAR2, 5 its PCI Express capability; their sizes (R358), and their bytes. -/
def functionSize (space : Nat) : Nat := if space = 3 then 2 ^ 24 else if space = 4 then 2 ^ 18 else if space = 5 then 64 else 0
/-- A byte of one of those spaces. -/
def functionByte (s : State) (space a : Nat) : Byte :=
  if space = 3 then bar0Byte s a else if space = 4 then bar2Byte s a else pcieByte s a
/-- A read that is answered at once. -/
def readNow (s : State) (space addr n : Nat) (bs : List Byte) : State :=
  { s with
    hostReads := s.hostReads ++ [{ id := s.nextId, place := { kind := space, pa := addr }, n := n, answer := some bs }], nextId := s.nextId + 1 }

/-- HOST_WRITE (R261, R358): of device memory, stamped at node 8; of the host's own memory (space 2), at once; of the function's own
spaces, an eight-byte write of a notify page writes its register (R360), and what is read-only ignores it (R5). -/
def execHostWrite (space addr : Nat) (bytes : List Byte) (s : State) : Out :=
  if 3 ≤ space && decide (addr + bytes.length ≤ functionSize space) then
    if !s.plat.linkUp then .refused .notEnabled
    else if space = 4 && bytes.length == 8 && addr % 8 == 0 then
      execRegisterWrite (addr / 4096) (addr % 4096) (BitVec.ofNat 64 (natOfBytes bytes)) s
    else .next s
  else if !inSpace space addr bytes.length then .fault .noSuchAddress
  else if space = 2 then .next (s.writePa 2 addr bytes)
  else if !s.plat.linkUp then .refused .notEnabled
  else .next ((linePieces (bytes.length + 1) addr bytes).foldl
    (fun s p => hostStore s space p.1 p.2) s)
/-- A read of the host that awaits its answer; one whose home has been removed is discarded (R263). -/
def hostLoad (s : State) (kind addr n : Nat) : State :=
  if s.removed.contains (homeOf { kind := kind, pa := addr, pub := 0 }) then s
  else hostOp { s with hostReads := s.hostReads ++ [{ id := s.nextId, place := { kind := kind, pa := addr }, n := n, answer := none }] }
    { kind := kind, pa := addr, pub := 0 } n (.load (.size .b) [])
/-- HOST_READ (R261, R358): of device memory, answered under node 8's knowledge; of the host's own memory and of the function's own
spaces, at once. -/
def execHostRead (space addr n : Nat) (s : State) : Out :=
  if 3 ≤ space && decide (addr + n ≤ functionSize space) then
    if !s.plat.linkUp then .refused .notEnabled
    else .next (readNow s space addr n ((List.range n).map (fun i => functionByte s space (addr + i))))
  else if !inSpace space addr n then .fault .noSuchAddress
  else if space = 2 then .next (readNow s 2 addr n (Memory.bytes s.hostMem addr n))
  else if !s.plat.linkUp then .refused .notEnabled
  else .next ((linePieces (n + 1) addr (List.replicate n 0#8)).foldl (fun s p => hostLoad s space p.1 p.2.length) s)
/-- HOST_LINK_COMPLETION (R352, R261): the completion of a read that node 8 has sent; host memory answers with what it holds. -/
def execHostLinkCompletion (idx : Nat) (data : List Byte) (s : State) : Out :=
  match s.linkReads[idx]? with
  | some (.read _ place n copy q op src) =>
    let bs := if place.kind = 2 then Memory.bytes s.hostMem place.pa n else data
    if s.resync.isSome || bs.length ≠ n then .refused .notEnabled
    else
      .next (({ s with linkReads := dropAt s.linkReads idx } : State).sendResp Config.ioNode src (if copy then .copy q op bs else .mem q op bs))
  | some (.write _ _) => .refused .notEnabled
  | some (.interrupt _ _) => .refused .notEnabled
  | none => .refused .notEnabled

/-! ## Bring-up and power -/

/-- A firmware image ends in its signature under the key held in ROM (R357). -/
def imageOk (image : List Byte) : Bool :=
  decide (64 ≤ image.length)
  && Config.ed25519Ok Config.romKey (image.take (image.length - 64)) (BitVec.ofNat 512 (natOfBytes (image.drop (image.length - 64))))
/-- A spare-row map: the row number of a spare that is not used is 0 (R113). -/
def spareMap (v : BitVec 32) : BitVec 32 :=
  BitVec.ofNat 32 (natOfBytes ((bytesOfNat 4 v.toNat).map (fun b => if b.getLsbD 7 then b else 0#8)))
/-- The self-test fixes SPARE of every core (R113, R357). -/
def selfTest (s : State) : State :=
  { s with cores := (List.range Config.cores).foldl (fun m c =>
      SMap.put m c { s.core c with spare := spareMap (Config.freeSpare (Config.cores * s.freeCtr + c)) }) [] }
/-- Hedgerow starts in epoch 0 (R271, R357). -/
def startFabric (s : State) : State :=
  { s with
    nodes := (List.range Config.nodes).foldl (fun m k => SMap.put m k Node.initial) [],
    chans := (List.range Config.nodes).foldl (fun m k => SMap.put m k { Chan.initial k with lastPass := s.time.toNat }) [] }
/-- The counters come back from secure flash, and the boot counter rises by 1 (R357, R367). -/
def restoreCounters (time : Nat) (p : Platform) : Platform :=
  { p with
    decb := p.mirror.decb, macs := p.mirror.macs, reportSeq := p.mirror.seq, boot := p.mirror.boot + 1#32, abrupt := !p.mirror.clean,
    mirror := { p.mirror with boot := p.mirror.boot + 1#32, clean := false }, lastMirror := time }
/-- The link has trained, to some rate and width (R357, R358). -/
def linkTrained (s : State) : State :=
  s.modPlat (fun p => { p with
    linkUp := true, linkGen := 5 + (Config.freeLinkGen s.freeCtr).val, linkWidth := [1, 4, 8, 16].getD (Config.freeLinkWidth s.freeCtr).val 16 })
/-- A step of R357 has succeeded. -/
def stepDone (s : State) : State := s.modPlat (fun p => { p with bringUp := p.bringUp + 1 })
/-- BRING_UP (R357): the next step of the sequence, which fails when `ok` does not hold; in recovery, the training of the link. -/
def execBringUp (ok : Bool) (s : State) : Out :=
  let fails := s.modPlat (fun p => { p with recovery := true })
  let noLink := s.modPlat (fun p => { p with linkDown := true })
  if s.plat.linkUp || s.plat.linkDown then .refused .notEnabled
  else if s.plat.recovery then .next (if ok then linkTrained s else noLink)
  else
    match s.plat.bringUp with
    | 0 => .next (if ok && imageOk s.plat.image then stepDone s else fails)
    | 1 => .next (if ok then stepDone (s.modPlat (fun p => { p with
        trained := (List.range 32).foldl (fun m c => SMap.put m c s.time.toNat) [] })) else fails)
    | 2 => .next (if ok then stepDone (selfTest s) else fails)
    | 3 => .next (if ok then stepDone (startFabric s) else fails)
    | 4 => .next (if ok then stepDone (s.modPlat (restoreCounters s.time.toNat)) else fails)
    | 5 => .next (if ok then stepDone (linkTrained s) else noLink)
    | _ => .refused .notEnabled
/-- RECOVERY_IMAGE (R357): a replacement image, verified before it is written. -/
def execRecoveryImage (image : List Byte) (s : State) : Out :=
  if s.plat.recovery && s.plat.linkUp then .next (if imageOk image then s.modPlat (fun p => { p with image := image }) else s)
  else .refused .notEnabled
/-- The mirror of the counters as they stand (R367). -/
def Platform.mirrorNow (p : Platform) (clean : Bool) : Mirror :=
  { decb := p.decb, macs := p.macs, seq := p.reportSeq, boot := p.boot, clean := clean }
/-- METER_MIRROR (R367): every 800,000,000 clk. -/
def execMeterMirror (s : State) : Out :=
  if 5 ≤ s.plat.bringUp && decide (800000000 ≤ clkSince s s.plat.lastMirror) then
    .next (s.modPlat (fun p => { p with mirror := p.mirrorNow false, lastMirror := s.time.toNat }))
  else .refused .notEnabled
/-- The module without power: what flash and the host hold stays, with the owners and policies that are installed (R366, R367).  (DESIGN CHOICE, assumption 39) -/
def powerOff (s : State) (m : Mirror) : State :=
  { State.reset with
    turns := s.turns, freeCtr := s.freeCtr, nextId := s.nextId, hostMem := s.hostMem, link := s.link, hostReads := s.hostReads,
    plat := { Platform.initial with image := s.plat.image, mirror := m, owners := s.plat.owners, policies := s.plat.policies } }
/-- ORDERLY_POWER_DOWN (R367): one final mirror; before the counters have been restored the mirror stands as it is. -/
def execOrderlyPowerDown (s : State) : Out :=
  .next (powerOff s (if 5 ≤ s.plat.bringUp then s.plat.mirrorNow true else s.plat.mirror))
/-- POWER_LOSS (R367): the counts since the last mirror are lost. -/
def execPowerLoss (s : State) : Out := .next (powerOff s { s.plat.mirror with clean := false })
/-- CHANNEL_RETRAIN (R373): Ling retrains a channel after 100 ms or a change of temperature; only timing changes. -/
def execChannelRetrain (channel : Nat) (s : State) : Out :=
  if channel < 32 && decide (2 ≤ s.plat.bringUp) then .next (s.modPlat (fun p => { p with trained := p.trained.put channel s.time.toNat }))
  else .refused .notEnabled
/-- THERMAL_STOP (R374): at 105 °C every core's issue stops, and code 0x50 is logged. -/
def execThermalStop (s : State) : Out :=
  if s.plat.thermal then .refused .notEnabled
  else .next (logError (s.modPlat (fun p => { p with thermal := true })) false 0x50 (errSrc Config.ioNode 0x50) (Config.freeDetail 0x50))
/-- THERMAL_RESUME (R374): issue resumes below 95 °C. -/
def execThermalResume (s : State) : Out :=
  if s.plat.thermal then .next (s.modPlat (fun p => { p with thermal := false })) else .refused .notEnabled

/-! ## Memory errors -/

/-- Some bytes of a copy's unit have been delivered or sent. -/
def unitGone (s : State) (cmd unit : Nat) : Bool :=
  match s.copies.find cmd with
  | some c => c.words.any (fun e => e.1 / 4 == unit && !e.2.sent.isEmpty)
  | none => false
/-- The unit of a copy of a task delivers nothing (R165). -/
def loseUnit (s : State) (task cmd unit : Nat) : State :=
  { s with copies := s.copies.mod cmd (fun c =>
    if c.task = task then { c with words := c.words.filter (fun e => e.1 / 4 != unit) } else c) }
/-- A memory error at a physical address (R123, R165, R373, R375): it is logged, with the node that is its home and the address; a
corrected one does nothing more.  One in data of a task stops its teams before anything receives the data, a unit of a copy that meets it
delivers nothing, and the task fails with MEMERR, one that is being unwound too; it does not meet a unit of which bytes have
gone.  No row of the opcode table is this event (DESIGN CHOICE, assumption 42). -/
def memoryError (corrected : Bool) (task cmd unit kind pa : Nat) (s : State) : State :=
  let log := logMemory s corrected (homeOf { kind := kind, pa := pa, pub := 0 }) pa
  if corrected then log
  else if unitGone s cmd unit then s
  else failTask (finishCopy (loseUnit log task cmd unit) cmd) task Cause.memErr.code
/-- The storage of a row has an uncorrectable error from now on (R249; DESIGN CHOICE, assumption 42). -/
def rowError (row : Nat) (s : State) : State := { s with rows := s.rows.mod row (fun r => { r with bad := true }) }
/-- Ling takes the present clk from a core (R374). -/
def throttle (core : Nat) (s : State) : State := s.modCore core (fun c => { c with gIssued := true, lIssued := true })

/-! ## Units of engine commands -/

/-- The packet of a SAEVICT of this number that may be performed at its home: the home, the row, the pages. -/
def evictAt (s : State) (id : Nat) : Option (Nat × Nat × List Seg) :=
  (List.range Config.nodes).findSome? (fun k => (s.node k).early.findSome? (fun p => match p.body with
    | .saCmd i _ _ _ (.evict row image _) => if i = id && applicable s k p then some (k, row, image) else none
    | _ => none))
/-- The image of a SALOAD has been read (R246): the row is allocated, or refused for its Q, its charge given back (R237). -/
def loadEnd (s : State) (tk : Nat) (t : Team) (l : ImageLoad) : State :=
  let r := imageRow s.gainTab (natOfBytes (l.bytes.take 64)) l.bytes t.task
  let s := s.modTeam tk (fun t => t.setWait .none)
  if r.q2 ≠ BitVec.ofInt 128 r.squares then
    systemHandler (refund s t.task l.cost) t.task Cause.format.code
      (trapT0 false false Cls.lead.code (t.lead.remain + 1) none { cause := .format, code := 0, addr := l.va }) l.word (t.lead.pc - 4#64) l.va
  else
    let a := allocRow s t.core r
    a.1.modLead tk (fun x => x.setReg l.sd a.2)
/-- The next unit of a SALOAD begins: sixteen bytes of the image are read; with the last of them the command is performed (R246, R317). -/
def loadUnit (s : State) (tk : Nat) (t : Team) (l : ImageLoad) : State :=
  let gs := segsTake 16 (segsFrom l.segs l.bytes.length)
  if l.left = 0 || !readable s (dieOf t.core) (segLocs gs) || sentNow s t.uid l.sd then s
  else
    let m := { l with bytes := l.bytes ++ readSegs s gs, left := l.left - 1 }
    let s := s.absorb (dieOf t.core) (segLocs gs)
    if m.left = 0 then loadEnd s tk t m else s.modTeam tk (fun t => t.setWait (.saload m))
/-- The next unit of a lead's SALOAD or SAEVICT begins; of a SAEVICT sixteen bytes of the image go to their place (R245, R317). -/
def leadUnit (s : State) (tk : Nat) (t : Team) : State :=
  match t.lead.wait with
  | .saload l => loadUnit s tk t l
  | .saCmd id w cost (back + 1) =>
    match evictAt s id with
    | some (k, row, image) =>
      match s.rows.find row with
      | some r =>
        if r.owner ≠ t.task || (image.map Seg.size).sum < r.imageBytes then s
        else
          let off := 16 * (cost - (back + 1))
          let s := s.noteGain r.gain
          let s := s.modTeam tk (fun t => t.setWait (.saCmd id w cost back))
          sendRuns { s with nextId := s.nextId + 1 } k s.nextId t.uid t.task
            (segRuns (segsFrom image off) (((r.image s.gainTab).drop off).take 16))
      | none => s
    | none => s
  | .saCmd _ _ _ 0 | .none | .barw _ | .arv _ | .qsend _ | .unit _ _ _ | .unwind _ | .spawnW _ _ _ _ _ | .mwait _ | .cpwait _ => s
/-- The next unit of the MLDW at the head of a team's queue begins: the first reads of 64 source bytes are sent (R209, R317). -/
def mldwUnit (s : State) (tk : Nat) (t : Team) : State :=
  match matHead s (coreOf tk) with
  | some (k, _, m) =>
    match m.op with
    | .mldw tile fmt geo _ scale _ _ =>
      if k = tk && m.left != 0 && readable s (dieOf t.core) (tileLocs tile scale fmt geo) then
        modMat s tk (fun m => { m with left := m.left - 1 })
      else s
    | .mcfg _ | .mswap | .mzero _ _ | .mstrm _ _ _ _ _ _ _ _ => s
  | none => s
/-- A unit of a team's engine command begins: of the lead's SAEVICT or SALOAD, or of the array's MLDW.  No row of the opcode table is this event (DESIGN CHOICE, assumption 42). -/
def unitBegin (team : Nat) (sa : Bool) (s : State) : State :=
  match s.teams.find team with
  | some t => if sa then leadUnit s team t else mldwUnit s team t
  | none => s

/-! ## What Ling sets -/

/-- Ling sets the SA part of every quad pool, QSAG granules, and the SA region of every die's Sward, SSAR bytes, at bring-up,
within the ranges of R222 (DESIGN CHOICE, assumption 18). -/
def setRegions (qsag ssar : Nat) (s : State) : State :=
  if s.plat.bringUp = 0 && decide (qsag ≤ 256) && ssar % 2 ^ 21 == 0 && decide (ssar ≤ 2 ^ 29) then { s with qsag := qsag, ssar := ssar }
  else s
/-- Ling sets T1 and T2 of a queue, from 800 to 2^32 - 1 clk (R337; DESIGN CHOICE, assumption 18). -/
def setLadder (queue t1 t2 : Nat) (s : State) : State :=
  if queue < 80 && decide (800 ≤ t1) && decide (800 ≤ t2) && decide (t1 < 2 ^ 32) && decide (t2 < 2 ^ 32) then
    s.setQueue queue (fun q => { q with t1 := t1, t2 := t2 })
  else s

/-! ## Fibres -/

/-- A fibre is down or has failed a flit: code 0x30 with its number (R370, R371). -/
def logFibre (s : State) (transient : Bool) (fibre : Nat) : State :=
  logError s transient 0x30 (errSrc (Config.ioNode + fibre / 32) 0x30) (BitVec.ofNat 96 fibre)
/-- A fibre. -/
def State.fibre (s : State) (f : Nat) : Fibre := s.fibres.get f Fibre.initial
/-- Change a fibre. -/
def State.setFibre (s : State) (f : Nat) (x : Fibre) : State := { s with fibres := s.fibres.put f x }
/-- FIBRE_TRAINING (R371): the ends accept version 1, and a fibre needs its 8 wavelengths. -/
def execFibreTraining (fibre lambdas version : Nat) (s : State) : Out :=
  if 64 ≤ fibre || s.plat.bringUp < 6 || (s.fibre fibre).up then .refused .notEnabled
  else if version = 1 && decide (8 ≤ lambdas) then
    .next (s.setFibre fibre { s.fibre fibre with up := true, lit := 4, idleFrom := s.time.toNat })
  else .next (logFibre (s.setFibre fibre { s.fibre fibre with up := false, lit := 0 }) false fibre)
/-- FIBRE_FLIT_RETRY (R370): a flit that failed its check is sent once more; a second failure takes the fibre down. -/
def execFibreFlitRetry (fibre : Nat) (ok : Bool) (s : State) : Out :=
  if !(s.fibre fibre).up || (s.fibre fibre).waiting.isEmpty then .refused .notEnabled
  else if ok then .next (logFibre s true fibre)
  else .next (logFibre (s.setFibre fibre { s.fibre fibre with up := false, lit := 0 }) false fibre)
/-- FIBRE_PARK (R372): an idle fibre parks one lit pair, down to one. -/
def execFibrePark (fibre : Nat) (s : State) : Out :=
  let f := s.fibre fibre
  if f.up && f.waiting.isEmpty && decide (2 ≤ f.lit) && decide (8000 ≤ clkSince s f.idleFrom) then
    .next (s.setFibre fibre { f with lit := f.lit - 1, idleFrom := s.time.toNat })
  else .refused .notEnabled
/-- FIBRE_WAKE (R372): a fibre with flits to send lights every parked pair. -/
def execFibreWake (fibre : Nat) (s : State) : Out :=
  let f := s.fibre fibre
  if f.up && !f.waiting.isEmpty && decide (f.lit < 4) then .next (s.setFibre fibre { f with lit := 4, idleFrom := s.time.toNat })
  else .refused .notEnabled
/-- The other module has acknowledged a flit. -/
def Fibre.acked (f : Fibre) (id time : Nat) : Fibre :=
  if f.waiting.any (fun w => w.1 == id) then { f with waiting := f.waiting.filter (fun w => w.1 != id), idleFrom := time } else f
/-- This module acknowledges a flit of the other one. -/
def acknowledge (s : State) (fibre id : Nat) : State :=
  s.setFibre fibre { s.fibre fibre with acks := id :: (s.fibre fibre).acks }
/-- FIBRE_FLIT_RECEIVE (R370, R134, R264): a write of another module is applied and acknowledged, its arrival at a pod barrier is counted,
or its acknowledgement lets a flit go.  (DEDUCED, assumption 40) -/
def execFibreFlitReceive (flit : FibreFlit) (s : State) : Out :=
  if !(s.fibre flit.fibre).up then .refused .notEnabled
  else
    match flit.flit with
    | .write id p bs =>
      if decide (p.kind < 2) && inSpace p.kind p.pa bs.length then .next (acknowledge (s.writePa p.kind p.pa bs) flit.fibre id)
      else .fault .noSuchAddress
    | .podArrival id =>
      if s.wides.has (2 ^ 60 + id.toNat) then
        .next (({ s with nextId := s.nextId + 1 } : State).modWide (2 ^ 60 + id.toNat) (fun w => w.arrive s.nextId []))
      else .refused .notEnabled
    | .ack id => .next { s with fibres := s.fibres.map (fun (e : Nat × Fibre) => (e.1, e.2.acked id s.time.toNat)) }

end Sys2Proof.Machine
end

