-- ==== Sys2Proof/Machine/Xlane.lean ====
section
/-!
DEFINITION. The cross-lane operations (R139 to R142).
-/
namespace Sys2Proof.Machine

/-- An XLANE instruction with a register destination (R139, R140): all operands are read together; a lane of the set S that
`f` gives no value keeps its prior value; the destinations await the result. -/
def xlane (i : Instr) (d : BitVec 6) (f : (Nat → Thread) → List Nat → Nat → Option Word) (s : State) : Out :=
  groupOp i noCheck noHold
    (fun c lanes s =>
      goOn c .none (s.onLanes c.gk lanes (fun l th =>
        th.await 0 [th.ix d] (some [(f (s.thread c.gk) (sortLanes lanes) l).getD (th.rd d)])))) s
/-- One that takes v[a] of a chosen source lane, when it is in S. -/
def xmove (i : Instr) (d a : BitVec 6) (src : (Nat → Thread) → List Nat → Nat → Option Nat) (s : State) : Out :=
  xlane i d (fun th set l =>
    match src th set l with
    | some k => if set.contains k then some ((th k).rd a) else none
    | none => none) s
/-- One that gives every lane of S one value. -/
def xreduce (i : Instr) (d : BitVec 6) (f : (Nat → Thread) → List Nat → Word) (s : State) : Out :=
  xlane i d (fun th set _ => some (f th set)) s
/-- XPERM (R141). -/
def execXperm (d a b : BitVec 6) (x y : Bool) (s : State) : Out :=
  xmove (.xperm d a b x y) d a (fun th _ l => some ((th l).rd b).toNat) s
/-- XUP (R141): a negative lane is none. -/
def execXup (d a b : BitVec 6) (x y : Bool) (s : State) : Out :=
  xmove (.xup d a b x y) d a (fun th _ l => if ((th l).rd b).toNat ≤ l then some (l - ((th l).rd b).toNat) else none) s
/-- XDOWN (R141). -/
def execXdown (d a b : BitVec 6) (x y : Bool) (s : State) : Out :=
  xmove (.xdown d a b x y) d a (fun th _ l => some (l + ((th l).rd b).toNat)) s
/-- XXOR (R141). -/
def execXxor (d a b : BitVec 6) (x y : Bool) (s : State) : Out :=
  xmove (.xxor d a b x y) d a (fun th _ l => some (l ^^^ ((th l).rd b).toNat)) s
/-- XSTEP (R141): the largest member below. -/
def execXstep (d a : BitVec 6) (x : Bool) (s : State) : Out :=
  xmove (.xstep d a x) d a (fun _ set l => (set.filter (fun m => m < l)).getLast?) s
/-- The words of v[a] over the set. -/
def setWords (th : Nat → Thread) (set : List Nat) (a : BitVec 6) : List Word := set.map (fun m => (th m).rd a)
/-- The last of the words under a choice between two; 0 of none. -/
def foldWords (f : Word → Word → Word) (ws : List Word) : Word :=
  match ws with
  | [] => 0#32
  | w :: ws => ws.foldl f w

/-- XREDADD (R141): modulo 2^32. -/
def execXredadd (d a : BitVec 6) (x : Bool) (s : State) : Out :=
  xreduce (.xredadd d a x) d (fun th set => foldWords (fun u v => u + v) (setWords th set a)) s
/-- XREDMAX (R141): signed. -/
def execXredmax (d a : BitVec 6) (x : Bool) (s : State) : Out :=
  xreduce (.xredmax d a x) d (fun th set => foldWords (sMax) (setWords th set a)) s
/-- XREDMIN (R141): signed. -/
def execXredmin (d a : BitVec 6) (x : Bool) (s : State) : Out :=
  xreduce (.xredmin d a x) d (fun th set => foldWords (sMin) (setWords th set a)) s
/-- XREDAND (R141): bitwise. -/
def execXredand (d a : BitVec 6) (x : Bool) (s : State) : Out :=
  xreduce (.xredand d a x) d (fun th set => foldWords (fun u v => u &&& v) (setWords th set a)) s
/-- XREDOR (R141): bitwise. -/
def execXredor (d a : BitVec 6) (x : Bool) (s : State) : Out :=
  xreduce (.xredor d a x) d (fun th set => foldWords (fun u v => u ||| v) (setWords th set a)) s
/-- The exact FP32 sum rounded once (R142). -/
def fSumWords (ws : List Word) : Word := fpWord .rn (ws.foldl (fun v w => v.add .rn (fpOf w)) (.fin true 0 0))
/-- The largest FP32 value (R142). -/
def fMaxWords (ws : List Word) : Word :=
  if ws.any (fun w => fpOf w == .nan) then 0x7FC00000#32 else foldWords (fMinMax true) ws
/-- XREDFADD (R142). -/
def execXredfadd (d a : BitVec 6) (x : Bool) (s : State) : Out :=
  xreduce (.xredfadd d a x) d (fun th set => fSumWords (setWords th set a)) s
/-- XREDFMAX (R142). -/
def execXredfmax (d a : BitVec 6) (x : Bool) (s : State) : Out :=
  xreduce (.xredfmax d a x) d (fun th set => fMaxWords (setWords th set a)) s
/-- XSCANADD (R141): the sum over the members up to the lane. -/
def execXscanadd (d a : BitVec 6) (x : Bool) (s : State) : Out :=
  xlane (.xscanadd d a x) d (fun th set l =>
    some (foldWords (fun u v => u + v) (setWords th (set.filter (fun m => m ≤ l)) a))) s
/-- XBAL (R141): the number of members whose predicate is 1. -/
def execXbal (d : BitVec 6) (p : BitVec 3) (s : State) : Out :=
  xreduce (.xbal d p) d (fun th set => BitVec.ofNat 32 (set.filter (fun m => (th m).pred p)).length) s
/-- XANY (R141). -/
def execXany (d p : BitVec 3) (s : State) : Out :=
  groupOp (.xany d p) noCheck noHold
    (fun c lanes s => goOn c .none (s.onLanes c.gk lanes (fun _ th =>
      th.setPred d (lanes.any (fun m => (s.thread c.gk m).pred p))))) s
/-- XALL (R141). -/
def execXall (d p : BitVec 3) (s : State) : Out :=
  groupOp (.xall d p) noCheck noHold
    (fun c lanes s => goOn c .none (s.onLanes c.gk lanes (fun _ th =>
      th.setPred d (lanes.all (fun m => (s.thread c.gk m).pred p))))) s

end Sys2Proof.Machine
end

