-- ==== Sys2Proof/Machine/Dispatch.lean ====
section
/-!
DEFINITION. The dispatch: one arm for each instruction and step, a direct call of its meaning.
-/
namespace Sys2Proof.Machine

/-- The meaning of an instruction or step in a state. -/
def exec (i : Instr) (s : State) : Host.Outcome State Fault Refusal :=
  match i with
  | .nop => Sys2Proof.Machine.execNop s
  | .add d a b x y => Sys2Proof.Machine.execAdd d a b x y s
  | .sub d a b x y => Sys2Proof.Machine.execSub d a b x y s
  | .and d a b x y => Sys2Proof.Machine.execAnd d a b x y s
  | .or d a b x y => Sys2Proof.Machine.execOr d a b x y s
  | .xor d a b x y => Sys2Proof.Machine.execXor d a b x y s
  | .andn d a b x y => Sys2Proof.Machine.execAndn d a b x y s
  | .shl d a b x y => Sys2Proof.Machine.execShl d a b x y s
  | .shr d a b x y => Sys2Proof.Machine.execShr d a b x y s
  | .sar d a b x y => Sys2Proof.Machine.execSar d a b x y s
  | .rol d a b x y => Sys2Proof.Machine.execRol d a b x y s
  | .min d a b x y => Sys2Proof.Machine.execMin d a b x y s
  | .max d a b x y => Sys2Proof.Machine.execMax d a b x y s
  | .minu d a b x y => Sys2Proof.Machine.execMinu d a b x y s
  | .maxu d a b x y => Sys2Proof.Machine.execMaxu d a b x y s
  | .mul d a b x y => Sys2Proof.Machine.execMul d a b x y s
  | .mulh d a b x y => Sys2Proof.Machine.execMulh d a b x y s
  | .mulhu d a b x y => Sys2Proof.Machine.execMulhu d a b x y s
  | .mad d a b x y => Sys2Proof.Machine.execMad d a b x y s
  | .adds d a b x y => Sys2Proof.Machine.execAdds d a b x y s
  | .subs d a b x y => Sys2Proof.Machine.execSubs d a b x y s
  | .absd d a b x y => Sys2Proof.Machine.execAbsd d a b x y s
  | .add64 d a b x y => Sys2Proof.Machine.execAdd64 d a b x y s
  | .sub64 d a b x y => Sys2Proof.Machine.execSub64 d a b x y s
  | .shl64 d a b x y => Sys2Proof.Machine.execShl64 d a b x y s
  | .shr64 d a b x y => Sys2Proof.Machine.execShr64 d a b x y s
  | .sar64 d a b x y => Sys2Proof.Machine.execSar64 d a b x y s
  | .mul64 d a b x y => Sys2Proof.Machine.execMul64 d a b x y s
  | .mulu64 d a b x y => Sys2Proof.Machine.execMulu64 d a b x y s
  | .mad64 d a b x y => Sys2Proof.Machine.execMad64 d a b x y s
  | .lea64 d a b x y => Sys2Proof.Machine.execLea64 d a b x y s
  | .mov d a x => Sys2Proof.Machine.execMov d a x s
  | .not d a x => Sys2Proof.Machine.execNot d a x s
  | .neg d a x => Sys2Proof.Machine.execNeg d a x s
  | .abs d a x => Sys2Proof.Machine.execAbs d a x s
  | .clz d a x => Sys2Proof.Machine.execClz d a x s
  | .ctz d a x => Sys2Proof.Machine.execCtz d a x s
  | .popc d a x => Sys2Proof.Machine.execPopc d a x s
  | .brev d a x => Sys2Proof.Machine.execBrev d a x s
  | .sext8 d a x => Sys2Proof.Machine.execSext8 d a x s
  | .sext16 d a x => Sys2Proof.Machine.execSext16 d a x s
  | .zext8 d a x => Sys2Proof.Machine.execZext8 d a x s
  | .zext16 d a x => Sys2Proof.Machine.execZext16 d a x s
  | .mov64 d a x => Sys2Proof.Machine.execMov64 d a x s
  | .bfxu d a x p l => Sys2Proof.Machine.execBfxu d a x p l s
  | .bfxs d a x p l => Sys2Proof.Machine.execBfxs d a x p l s
  | .bfi d a x p l => Sys2Proof.Machine.execBfi d a x p l s
  | .addi d a x imm => Sys2Proof.Machine.execAddi d a x imm s
  | .andi d a x imm => Sys2Proof.Machine.execAndi d a x imm s
  | .ori d a x imm => Sys2Proof.Machine.execOri d a x imm s
  | .xori d a x imm => Sys2Proof.Machine.execXori d a x imm s
  | .shli d a x n => Sys2Proof.Machine.execShli d a x n s
  | .shri d a x n => Sys2Proof.Machine.execShri d a x n s
  | .sari d a x n => Sys2Proof.Machine.execSari d a x n s
  | .roli d a x n => Sys2Proof.Machine.execRoli d a x n s
  | .movi d imm => Sys2Proof.Machine.execMovi d imm s
  | .lui d imm => Sys2Proof.Machine.execLui d imm s
  | .cmp p a b x y c => Sys2Proof.Machine.execCmp p a b x y c s
  | .cmpi c p a x imm => Sys2Proof.Machine.execCmpi c p a x imm s
  | .pand d a b => Sys2Proof.Machine.execPand d a b s
  | .por d a b => Sys2Proof.Machine.execPor d a b s
  | .pxor d a b => Sys2Proof.Machine.execPxor d a b s
  | .pnot d a => Sys2Proof.Machine.execPnot d a s
  | .ptor d => Sys2Proof.Machine.execPtor d s
  | .sel d a b x y k => Sys2Proof.Machine.execSel d a b x y k s
  | .br disp => Sys2Proof.Machine.execBr disp s
  | .brp p disp => Sys2Proof.Machine.execBrp p disp s
  | .brn p disp => Sys2Proof.Machine.execBrn p disp s
  | .bz a x disp => Sys2Proof.Machine.execBz a x disp s
  | .bnz a x disp => Sys2Proof.Machine.execBnz a x disp s
  | .call disp => Sys2Proof.Machine.execCall disp s
  | .callp p disp => Sys2Proof.Machine.execCallp p disp s
  | .jr a x => Sys2Proof.Machine.execJr a x s
  | .jrl a x => Sys2Proof.Machine.execJrl a x s
  | .ret => Sys2Proof.Machine.execRet s
  | .yield => Sys2Proof.Machine.execYield s
  | .exit => Sys2Proof.Machine.execExit s
  | .trap n => Sys2Proof.Machine.execTrap n s
  | .brk n => Sys2Proof.Machine.execBrk n s
  | .xconv => Sys2Proof.Machine.execXconv s
  | .xset k a b x y => Sys2Proof.Machine.execXset k a b x y s
  | .rdx d k b y => Sys2Proof.Machine.execRdx d k b y s
  | .wrx k a b x y => Sys2Proof.Machine.execWrx k a b x y s
  | .srd d n => Sys2Proof.Machine.execSrd d n s
  | .rep c disp t => Sys2Proof.Machine.execRep c disp t s
  | .ld d a x z o => Sys2Proof.Machine.execLd d a x z o s
  | .st d a x z o => Sys2Proof.Machine.execSt d a x z o s
  | .lds d a x z o => Sys2Proof.Machine.execLds d a x z o s
  | .sts d a x z o => Sys2Proof.Machine.execSts d a x z o s
  | .ldq d a x z o => Sys2Proof.Machine.execLdq d a x z o s
  | .stq d a x z o => Sys2Proof.Machine.execStq d a x z o s
  | .ldf d a x z o => Sys2Proof.Machine.execLdf d a x z o s
  | .ldacc d a x c o => Sys2Proof.Machine.execLdacc d a x c o s
  | .atom32 d a b x y o disp => Sys2Proof.Machine.execAtom32 d a b x y o disp s
  | .atom64 d a b x y o disp => Sys2Proof.Machine.execAtom64 d a b x y o disp s
  | .atoms d a b x y o => Sys2Proof.Machine.execAtoms d a b x y o s
  | .fence disp => Sys2Proof.Machine.execFence disp s
  | .bara k n => Sys2Proof.Machine.execBara k n s
  | .barw k n => Sys2Proof.Machine.execBarw k n s
  | .barab k n b y => Sys2Proof.Machine.execBarab k n b y s
  | .bari k n p => Sys2Proof.Machine.execBari k n p s
  | .bars k n b y => Sys2Proof.Machine.execBars k n b y s
  | .xperm d a b x y => Sys2Proof.Machine.execXperm d a b x y s
  | .xup d a b x y => Sys2Proof.Machine.execXup d a b x y s
  | .xdown d a b x y => Sys2Proof.Machine.execXdown d a b x y s
  | .xxor d a b x y => Sys2Proof.Machine.execXxor d a b x y s
  | .xredadd d a x => Sys2Proof.Machine.execXredadd d a x s
  | .xredmax d a x => Sys2Proof.Machine.execXredmax d a x s
  | .xredmin d a x => Sys2Proof.Machine.execXredmin d a x s
  | .xredand d a x => Sys2Proof.Machine.execXredand d a x s
  | .xredor d a x => Sys2Proof.Machine.execXredor d a x s
  | .xredfadd d a x => Sys2Proof.Machine.execXredfadd d a x s
  | .xredfmax d a x => Sys2Proof.Machine.execXredfmax d a x s
  | .xscanadd d a x => Sys2Proof.Machine.execXscanadd d a x s
  | .xbal d p => Sys2Proof.Machine.execXbal d p s
  | .xany d p => Sys2Proof.Machine.execXany d p s
  | .xall d p => Sys2Proof.Machine.execXall d p s
  | .xstep d a x => Sys2Proof.Machine.execXstep d a x s
  | .send a b x y m => Sys2Proof.Machine.execSend a b x y m s
  | .qget d => Sys2Proof.Machine.execQget d s
  | .fadd d a b x y r => Sys2Proof.Machine.execFadd d a b x y r s
  | .fsub d a b x y r => Sys2Proof.Machine.execFsub d a b x y r s
  | .fmul d a b x y r => Sys2Proof.Machine.execFmul d a b x y r s
  | .ffma d a b x y r => Sys2Proof.Machine.execFfma d a b x y r s
  | .fmin d a b x y => Sys2Proof.Machine.execFmin d a b x y s
  | .fmax d a b x y => Sys2Proof.Machine.execFmax d a b x y s
  | .fabs d a x => Sys2Proof.Machine.execFabs d a x s
  | .fneg d a x => Sys2Proof.Machine.execFneg d a x s
  | .fcvtif d a x r => Sys2Proof.Machine.execFcvtif d a x r s
  | .fcvtuf d a x r => Sys2Proof.Machine.execFcvtuf d a x r s
  | .fcvtfi d a x r => Sys2Proof.Machine.execFcvtfi d a x r s
  | .fcvtfu d a x r => Sys2Proof.Machine.execFcvtfu d a x r s
  | .fcvtbf d a x r => Sys2Proof.Machine.execFcvtbf d a x r s
  | .fcvtfb d a x => Sys2Proof.Machine.execFcvtfb d a x s
  | .fcvte4 d a x r => Sys2Proof.Machine.execFcvte4 d a x r s
  | .fcvte5 d a x r => Sys2Proof.Machine.execFcvte5 d a x r s
  | .fcvtf4 d a x => Sys2Proof.Machine.execFcvtf4 d a x s
  | .fcvtf5 d a x => Sys2Proof.Machine.execFcvtf5 d a x s
  | .fcvtsmE4 d a b x y r => Sys2Proof.Machine.execFcvtsmE4 d a b x y r s
  | .fcvtsmE5 d a b x y r => Sys2Proof.Machine.execFcvtsmE5 d a b x y r s
  | .frcp d a x r => Sys2Proof.Machine.execFrcp d a x r s
  | .frsq d a x r => Sys2Proof.Machine.execFrsq d a x r s
  | .fsqrt d a x r => Sys2Proof.Machine.execFsqrt d a x r s
  | .fexp2 d a x r => Sys2Proof.Machine.execFexp2 d a x r s
  | .flog2 d a x r => Sys2Proof.Machine.execFlog2 d a x r s
  | .ftab d a b x y => Sys2Proof.Machine.execFtab d a b x y s
  | .fdiv d a b x y r => Sys2Proof.Machine.execFdiv d a b x y r s
  | .hadd2 d a b x y r => Sys2Proof.Machine.execHadd2 d a b x y r s
  | .hsub2 d a b x y r => Sys2Proof.Machine.execHsub2 d a b x y r s
  | .hmul2 d a b x y r => Sys2Proof.Machine.execHmul2 d a b x y r s
  | .hfma2 d a b x y r => Sys2Proof.Machine.execHfma2 d a b x y r s
  | .hmax2 d a b x y => Sys2Proof.Machine.execHmax2 d a b x y s
  | .hmin2 d a b x y => Sys2Proof.Machine.execHmin2 d a b x y s
  | .fcmp p a b x y c => Sys2Proof.Machine.execFcmp p a b x y c s
  | .saadd a b x y => Sys2Proof.Machine.execSaadd a b x y s
  | .saaddh a b x y => Sys2Proof.Machine.execSaaddh a b x y s
  | .sard d a x => Sys2Proof.Machine.execSard d a x s
  | .sardh d a x => Sys2Proof.Machine.execSardh d a x s
  | .sardq d a x => Sys2Proof.Machine.execSardq d a x s
  | .sawait a x => Sys2Proof.Machine.execSawait a x s
  | .sacnt d a x => Sys2Proof.Machine.execSacnt d a x s
  | .ladd d a b => Sys2Proof.Machine.execLadd d a b s
  | .lsub d a b => Sys2Proof.Machine.execLsub d a b s
  | .land d a b => Sys2Proof.Machine.execLand d a b s
  | .lor d a b => Sys2Proof.Machine.execLor d a b s
  | .lxor d a b => Sys2Proof.Machine.execLxor d a b s
  | .landn d a b => Sys2Proof.Machine.execLandn d a b s
  | .lshl d a b => Sys2Proof.Machine.execLshl d a b s
  | .lshr d a b => Sys2Proof.Machine.execLshr d a b s
  | .lsar d a b => Sys2Proof.Machine.execLsar d a b s
  | .lmin d a b => Sys2Proof.Machine.execLmin d a b s
  | .lmax d a b => Sys2Proof.Machine.execLmax d a b s
  | .lminu d a b => Sys2Proof.Machine.execLminu d a b s
  | .lmaxu d a b => Sys2Proof.Machine.execLmaxu d a b s
  | .lmul d a b => Sys2Proof.Machine.execLmul d a b s
  | .lmulh d a b => Sys2Proof.Machine.execLmulh d a b s
  | .lmulhu d a b => Sys2Proof.Machine.execLmulhu d a b s
  | .lmov d a => Sys2Proof.Machine.execLmov d a s
  | .lnot d a => Sys2Proof.Machine.execLnot d a s
  | .lneg d a => Sys2Proof.Machine.execLneg d a s
  | .lclz d a => Sys2Proof.Machine.execLclz d a s
  | .lpopc d a => Sys2Proof.Machine.execLpopc d a s
  | .lcmp p a b c => Sys2Proof.Machine.execLcmp p a b c s
  | .lsel d a b k => Sys2Proof.Machine.execLsel d a b k s
  | .lpand d a b => Sys2Proof.Machine.execLpand d a b s
  | .lpor d a b => Sys2Proof.Machine.execLpor d a b s
  | .lpxor d a b => Sys2Proof.Machine.execLpxor d a b s
  | .lpnot d a => Sys2Proof.Machine.execLpnot d a s
  | .lsrd d n m => Sys2Proof.Machine.execLsrd d n m s
  | .lbara k => Sys2Proof.Machine.execLbara k s
  | .lbarw k => Sys2Proof.Machine.execLbarw k s
  | .lmovi d imm => Sys2Proof.Machine.execLmovi d imm s
  | .laddi d a imm => Sys2Proof.Machine.execLaddi d a imm s
  | .landi d a imm => Sys2Proof.Machine.execLandi d a imm s
  | .lori d a imm => Sys2Proof.Machine.execLori d a imm s
  | .lshli d a n => Sys2Proof.Machine.execLshli d a n s
  | .lshri d a n => Sys2Proof.Machine.execLshri d a n s
  | .lsari d a n => Sys2Proof.Machine.execLsari d a n s
  | .lshin d imm => Sys2Proof.Machine.execLshin d imm s
  | .lbr disp => Sys2Proof.Machine.execLbr disp s
  | .lbrp p disp => Sys2Proof.Machine.execLbrp p disp s
  | .lbrn p disp => Sys2Proof.Machine.execLbrn p disp s
  | .lend => Sys2Proof.Machine.execLend s
  | .lld d a z o => Sys2Proof.Machine.execLld d a z o s
  | .lst d a z o => Sys2Proof.Machine.execLst d a z o s
  | .mcfg a => Sys2Proof.Machine.execMcfg a s
  | .mldw a b => Sys2Proof.Machine.execMldw a b s
  | .mswap => Sys2Proof.Machine.execMswap s
  | .mstrm d a b => Sys2Proof.Machine.execMstrm d a b s
  | .mzero d b => Sys2Proof.Machine.execMzero d b s
  | .mwait => Sys2Proof.Machine.execMwait s
  | .cpyin d a b v imm k => Sys2Proof.Machine.execCpyin d a b v imm k s
  | .cpyout d a b v imm k => Sys2Proof.Machine.execCpyout d a b v imm k s
  | .cpyg d a b v k => Sys2Proof.Machine.execCpyg d a b v k s
  | .gath d a b v k => Sys2Proof.Machine.execGath d a b v k s
  | .publ a => Sys2Proof.Machine.execPubl a s
  | .cpwait => Sys2Proof.Machine.execCpwait s
  | .saalloc d a => Sys2Proof.Machine.execSaalloc d a s
  | .saopen a b => Sys2Proof.Machine.execSaopen a b s
  | .saclr a => Sys2Proof.Machine.execSaclr a s
  | .safree a => Sys2Proof.Machine.execSafree a s
  | .saevict d a => Sys2Proof.Machine.execSaevict d a s
  | .saload d a => Sys2Proof.Machine.execSaload d a s
  | .samerge d a => Sys2Proof.Machine.execSamerge d a s
  | .spawn d a b => Sys2Proof.Machine.execSpawn d a b s
  | .spawnW d a b => Sys2Proof.Machine.execSpawnW d a b s
  | .join d a => Sys2Proof.Machine.execJoin d a s
  | .tstat d a => Sys2Proof.Machine.execTstat d a s
  | .alwadd d a b => Sys2Proof.Machine.execAlwadd d a b s
  | .unwind a => Sys2Proof.Machine.execUnwind a s
  | .alwrd d a => Sys2Proof.Machine.execAlwrd d a s
  | .qsend a => Sys2Proof.Machine.execQsend a s
  | .tload a => Sys2Proof.Machine.execTload a s
  | .tswap => Sys2Proof.Machine.execTswap s
  | .csrr d h l => Sys2Proof.Machine.execCsrr d h l s
  | .csrw d h l => Sys2Proof.Machine.execCsrw d h l s
  | .rft => Sys2Proof.Machine.execRft s
  | .tlbi a x => Sys2Proof.Machine.execTlbi a x s
  | .halt => Sys2Proof.Machine.execHalt s
  | .sleep a x => Sys2Proof.Machine.execSleep a x s
  | .clauseHeaderIssue => Sys2Proof.Machine.execClauseHeaderIssue s
  | .longLatencyResult lead key idx => Sys2Proof.Machine.execLongLatencyResult lead key idx s
  | .teamRetirement team => Sys2Proof.Machine.execTeamRetirement team s
  | .leadStop team => Sys2Proof.Machine.execLeadStop team s
  | .taskCompletion task => Sys2Proof.Machine.execTaskCompletion task s
  | .queueEntryFill thread => Sys2Proof.Machine.execQueueEntryFill thread s
  | .qsendAppend team => Sys2Proof.Machine.execQsendAppend team s
  | .widePhaseArrival team bar => Sys2Proof.Machine.execWidePhaseArrival team bar s
  | .barrierWaitRelease lead key => Sys2Proof.Machine.execBarrierWaitRelease lead key s
  | .sendAcceptance idx => Sys2Proof.Machine.execSendAcceptance idx s
  | .nextDelivery idx => Sys2Proof.Machine.execNextDelivery idx s
  | .copyDelivery cmd word core => Sys2Proof.Machine.execCopyDelivery cmd word core s
  | .copyUnitBegin cmd unit => Sys2Proof.Machine.execCopyUnitBegin cmd unit s
  | .copyLateDiscard cmd word core => Sys2Proof.Machine.execCopyLateDiscard cmd word core s
  | .cpwaitRelease team => Sys2Proof.Machine.execCpwaitRelease team s
  | .publSelectorFlip cmd => Sys2Proof.Machine.execPublSelectorFlip cmd s
  | .matArrayAcquire team => Sys2Proof.Machine.execMatArrayAcquire team s
  | .mldwArrayLoad core => Sys2Proof.Machine.execMldwArrayLoad core s
  | .mstrmArrayPass core => Sys2Proof.Machine.execMstrmArrayPass core s
  | .mwaitRelease team => Sys2Proof.Machine.execMwaitRelease team s
  | .tableLoad team => Sys2Proof.Machine.execTableLoad team s
  | .saAddApply node idx => Sys2Proof.Machine.execSaAddApply node idx s
  | .saReadRequest node idx => Sys2Proof.Machine.execSaReadRequest node idx s
  | .saReadAnswer src dst idx => Sys2Proof.Machine.execSaReadAnswer src dst idx s
  | .saCommandPerform node idx => Sys2Proof.Machine.execSaCommandPerform node idx s
  | .homePacketArrival src dst idx => Sys2Proof.Machine.execHomePacketArrival src dst idx s
  | .homeApply node idx => Sys2Proof.Machine.execHomeApply node idx s
  | .homeReadAnswer node idx => Sys2Proof.Machine.execHomeReadAnswer node idx s
  | .readResponseArrival src dst idx => Sys2Proof.Machine.execReadResponseArrival src dst idx s
  | .tokenVisit chan node => Sys2Proof.Machine.execTokenVisit chan node s
  | .beatArrival src dst => Sys2Proof.Machine.execBeatArrival src dst s
  | .linkRetransmission src dst ok => Sys2Proof.Machine.execLinkRetransmission src dst ok s
  | .tokenTimeout chan => Sys2Proof.Machine.execTokenTimeout chan s
  | .resyncStart removed => Sys2Proof.Machine.execResyncStart removed s
  | .resyncDrainEnd => Sys2Proof.Machine.execResyncDrainEnd s
  | .goldenPass die => Sys2Proof.Machine.execGoldenPass die s
  | .meshDeliveryTimeout die => Sys2Proof.Machine.execMeshDeliveryTimeout die s
  | .ferrClear node value => Sys2Proof.Machine.execFerrClear node value s
  | .leaseRequest core task => Sys2Proof.Machine.execLeaseRequest core task s
  | .failingRequest core task => Sys2Proof.Machine.execFailingRequest core task s
  | .starvationTimeout task => Sys2Proof.Machine.execStarvationTimeout task s
  | .homeUnitAnswer team => Sys2Proof.Machine.execHomeUnitAnswer team s
  | .unwindAccept team => Sys2Proof.Machine.execUnwindAccept team s
  | .unwindEnd task => Sys2Proof.Machine.execUnwindEnd task s
  | .spawnWAdmission team => Sys2Proof.Machine.execSpawnWAdmission team s
  | .spawnWTimeout team => Sys2Proof.Machine.execSpawnWTimeout team s
  | .slotConsume queue => Sys2Proof.Machine.execSlotConsume queue s
  | .consumerPeriodicCheck queue => Sys2Proof.Machine.execConsumerPeriodicCheck queue s
  | .teamPlacement task core places => Sys2Proof.Machine.execTeamPlacement task core places s
  | .clauseArbitration core => Sys2Proof.Machine.execClauseArbitration core s
  | .swapOut team reason => Sys2Proof.Machine.execSwapOut team reason s
  | .contextImageWrite team => Sys2Proof.Machine.execContextImageWrite team s
  | .teamReentry image core places => Sys2Proof.Machine.execTeamReentry image core places s
  | .sleepExpiry group => Sys2Proof.Machine.execSleepExpiry group s
  | .doorbell aqi value => Sys2Proof.Machine.execDoorbell aqi value s
  | .preemptRequest queue => Sys2Proof.Machine.execPreemptRequest queue s
  | .resetRequest queue => Sys2Proof.Machine.execResetRequest queue s
  | .preemptT1Expiry queue => Sys2Proof.Machine.execPreemptT1Expiry queue s
  | .preemptT2Expiry queue => Sys2Proof.Machine.execPreemptT2Expiry queue s
  | .preemptDone queue => Sys2Proof.Machine.execPreemptDone queue s
  | .registerWrite aqi offset value => Sys2Proof.Machine.execRegisterWrite aqi offset value s
  | .hostWrite space addr bytes => Sys2Proof.Machine.execHostWrite space addr bytes s
  | .hostRead space addr n => Sys2Proof.Machine.execHostRead space addr n s
  | .mapq queue block pasid root stage2 priv => Sys2Proof.Machine.execMapq queue block pasid root stage2 priv s
  | .revoke pasid => Sys2Proof.Machine.execRevoke pasid s
  | .enableq queue => Sys2Proof.Machine.execEnableq queue s
  | .loadobj asid base pages object => Sys2Proof.Machine.execLoadobj asid base pages object s
  | .policy bytes => Sys2Proof.Machine.execPolicy bytes s
  | .report region => Sys2Proof.Machine.execReport region s
  | .inval asid va glob => Sys2Proof.Machine.execInval asid va glob s
  | .invalComplete idx => Sys2Proof.Machine.execInvalComplete idx s
  | .faultdone ring seq service => Sys2Proof.Machine.execFaultdone ring seq service s
  | .remap entry value => Sys2Proof.Machine.execRemap entry value s
  | .debug cmd => Sys2Proof.Machine.execDebug cmd s
  | .podbar => Sys2Proof.Machine.execPodbar s
  | .power watts => Sys2Proof.Machine.execPower watts s
  | .bringUp ok => Sys2Proof.Machine.execBringUp ok s
  | .recoveryImage image => Sys2Proof.Machine.execRecoveryImage image s
  | .meterMirror => Sys2Proof.Machine.execMeterMirror s
  | .orderlyPowerDown => Sys2Proof.Machine.execOrderlyPowerDown s
  | .channelRetrain channel => Sys2Proof.Machine.execChannelRetrain channel s
  | .thermalStop => Sys2Proof.Machine.execThermalStop s
  | .thermalResume => Sys2Proof.Machine.execThermalResume s
  | .fibreTraining fibre lambdas version => Sys2Proof.Machine.execFibreTraining fibre lambdas version s
  | .fibreFlitRetry fibre ok => Sys2Proof.Machine.execFibreFlitRetry fibre ok s
  | .fibrePark fibre => Sys2Proof.Machine.execFibrePark fibre s
  | .fibreWake fibre => Sys2Proof.Machine.execFibreWake fibre s
  | .powerLoss => Sys2Proof.Machine.execPowerLoss s
  | .fibreFlitReceive flit => Sys2Proof.Machine.execFibreFlitReceive flit s
  | .hostLinkCompletion idx data => Sys2Proof.Machine.execHostLinkCompletion idx data s

end Sys2Proof.Machine
end

