-- ==== Sys2Proof/Machine/Step.lean ====
section
/-!
DEFINITION. One step of the package: the next turn of the schedule (DESIGN CHOICE, assumption 1), and the placing of an instruction for
the next step.
-/
namespace Sys2Proof.Machine

/-- A turn.  A step without an encoding that cannot occur leaves the state as it is. -/
def runTurn (t : Turn) (s : State) : Host.Outcome State Fault Refusal :=
  match t with
  | .issueGroup core =>
    match groupTurn core s with
    | .run i s' => exec i s'
    | .done s' => .next s'
  | .issueLead core =>
    match leadTurn core s with
    | .run i s' => exec i s'
    | .done s' => .next s'
  | .event i =>
    match exec i { s with cur := .none } with
    | .refused .notEnabled => .next s
    | .refused .noParty => .next s
    | o => o
  | .clk => .next (endClk s)
  | .memError corrected task cmd unit kind pa => .next (memoryError corrected task cmd unit kind pa s)
  | .rowError row => .next (rowError row s)
  | .unitBegin team sa => .next (unitBegin team sa s)
  | .lingFault code cmd => .next (lingFault code cmd s)
  | .passEdge queue => .next (passEdge queue s)
  | .throttle core => .next (throttle core s)
  | .setRegions qsag ssar => .next (setRegions qsag ssar s)
  | .setLadder queue t1 t2 => .next (setLadder queue t1 t2 s)

/-- What is due before a clk may end. -/
def runDue (d : Due) (s : State) : Host.Outcome State Fault Refusal :=
  match d with
  | .stop team => execLeadStop team { s with cur := .none }
  | .arbitrate core => execClauseArbitration core { s with cur := .none }
  | .group core => runTurn (.issueGroup core) s
  | .lead core => runTurn (.issueLead core) s
/-- What still has to come before a turn: a clk does not end before what is due in it. -/
def dueBefore (s : State) (t : Turn) : Option Due := if t = .clk then nextDue s else none
/-- One step: the first turn of the schedule; where it names none, a free one; before the end of a clk what is due in it. -/
def step (s : State) : Host.Outcome State Fault Refusal :=
  let t := s.turns.headD (Config.freeTurn s.freeCtr)
  let s' := { s with freeCtr := s.freeCtr + 1 }
  match dueBefore s t with
  | some d => runDue d s'
  | none => runTurn t { s' with turns := s.turns.tail }

/-- The state with an instruction word placed where the next step fetches it. -/
def State.withFetchWord (s : State) (nbits w : Nat) : State :=
  if nbits = 0 then s else placeWord s (BitVec.ofNat 32 w)

end Sys2Proof.Machine
end

