-- ==== Sys2Proof/Safety.lean ====
section
/-!
DEFINITION. The terms that statements use: a safe run, the conditions under which an instruction passes its checks and is
charged, and what a step leaves alone.
-/
namespace Sys2Proof

/-- A run of `n` steps that meets no fault and no refusal. -/
def safeRun (n : Nat) (s : Machine.State) : Prop :=
  match Host.Core.run core n s with
  | .next _ => True
  | .fault _ => False
  | .refused _ => False

namespace Machine

/-- The running path `c` of a group meets checks 3 and 4 of R46 for the instruction `i`, with every operand full (R17) and
no destination awaited (R18), and `s'` is the state in which the charge of `i` has been taken (R92, R300). -/
structure PathReady (i : Instr) (s : State) (c : GCtx) (s' : State) : Prop where
  ctx : gctx s = some c
  lanes : c.path.lanes ≠ []
  cls : i.classOk c.path.pos.cls = true
  full : ∀ l ∈ c.path.lanes, operandTrap i (s.thread c.gk l) = none
  free : ∀ l ∈ c.path.lanes, operandWait i (s.thread c.gk l) = false
  paid : charge s c.core c.team.task c.payer (c.path.lanes.length * i.cost) (c.path.lanes.length * i.byteCost)
    = (true, s')

/-- The lead `c` can take its next instruction `i`, whose operands are full and whose destinations await nothing, and `s'` is
the state in which the charge of `cost` AU, `bytes` of them for bytes, has been taken (R116, R300, R329). -/
structure LeadReady (i : Instr) (cost bytes : Nat) (s : State) (c : LCtx) (s' : State) : Prop where
  ctx : lctx s = some c
  free : c.team.lead.free = true
  srcs : ∀ r ∈ i.lsrcs, c.team.lead.full r = true
  dsts : ∀ r ∈ i.ldsts, c.team.lead.full r = true
  paid : charge s c.core c.team.task c.payer cost bytes = (true, s')

/-- From `s` to `t` nothing changes but where the paths of the group `gk` stand and who holds the group issue slot of
`core`. -/
def PlaceOnly (gk core : Nat) (s t : State) : Prop :=
  t = { s with groups := t.groups, cores := t.cores }
  ∧ (∀ k, k ≠ gk → t.groups.find k = s.groups.find k)
  ∧ ∀ k, t.core k = if k = core then { s.core k with gHold := (t.core k).gHold } else s.core k

/-- Every thread of the running path `c` is changed by `f` (given its lane), and nothing else changes but where the paths of
its group stand and who holds the issue slot. -/
def Ran (c : GCtx) (f : Nat → Thread → Thread) (s t : State) : Prop :=
  PlaceOnly c.gk c.core (s.onLanes c.gk c.path.lanes f) t

/-- The same, said of each thread by itself. -/
def RanEach (c : GCtx) (f : Nat → Thread → Thread) (s t : State) : Prop :=
  ∃ u : State, PlaceOnly c.gk c.core u t ∧ u = { s with threads := u.threads }
    ∧ ∀ k, u.threads.find k =
      if k / 64 = c.gk ∧ k % 64 ∈ c.path.lanes then (s.threads.find k).map (f (k % 64)) else s.threads.find k

/-- The lead `c` has gone on to its next word, and nothing else changes but who holds the lead issue slot of its core. -/
def LeadOn (c : LCtx) (s t : State) : Prop :=
  t = { s with teams := t.teams, cores := t.cores }
  ∧ (∀ k, t.teams.find k = if k = c.tk
      then (s.teams.find k).map (fun tm =>
        { tm with lead := { tm.lead with pc := tm.lead.pc + 4#64, remain := tm.lead.remain - 1 } })
      else s.teams.find k)
  ∧ ∀ k, t.core k = if k = c.core then { s.core k with lHold := (t.core k).lHold } else s.core k

/-- The lead's registers and predicates are changed by `f`, and the lead has gone on. -/
def LeadRan (c : LCtx) (f : Lead → Lead) (s t : State) : Prop := LeadOn c (s.modLead c.tk f) t

/-- The canonical form of the package's memories. -/
def State.memWf (s : State) : Prop := s.far.wf = true ∧ s.near.wf = true ∧ s.hostMem.wf = true

end Machine
end Sys2Proof
end

