-- ==== Sys2Proof/Certificates/Slice0/Obligations.lean ====
section
/-!
DEFINITION. The statements for the provers.  The tables of the spec's rules come first (`Rules`), then the statements.
-/
namespace Sys2Proof.Rules
open Sys2Proof.Machine

/-! ## The integer instructions of a group (R92 to R101) -/

/-- A row of a rule's table: the cost in AU for each executing thread, and what becomes of the thread. -/
abbrev TableRow := Nat × (Thread → Thread)

/-- v[d] := f(v[a], v[b]) for `n` AU. -/
def word2 (n : Nat) (d a b : BitVec 6) (f : Word → Word → Word) : Option TableRow :=
  some (n, fun th => th.wr d (f (th.rd a) (th.rd b)))
/-- v[d] := f(v[a]) for `n` AU. -/
def word1 (n : Nat) (d a : BitVec 6) (f : Word → Word) : Option TableRow := some (n, fun th => th.wr d (f (th.rd a)))
/-- pair(d) := f(thread) for `n` AU. -/
def pair (n : Nat) (d : BitVec 6) (f : Thread → DWord) : Option TableRow := some (n, fun th => th.wr2 d (f th))
/-- pd := f(thread) for `n` AU. -/
def predicate (n : Nat) (d : BitVec 3) (f : Thread → Bool) : Option TableRow := some (n, fun th => th.setPred d (f th))

/-- A value shifted left by a count, 0 from the width on. -/
def shiftLeft {w : Nat} (u : BitVec w) (n : Nat) : BitVec w := if w ≤ n then 0#w else BitVec.ofNat w (u.toNat * 2 ^ n)
/-- A value shifted right by a count with zero fill, 0 from the width on. -/
def shiftRight {w : Nat} (u : BitVec w) (n : Nat) : BitVec w := if w ≤ n then 0#w else BitVec.ofNat w (u.toNat / 2 ^ n)
/-- A value shifted right by a count with sign fill: the quotient rounded down, and copies of the sign from the width on. -/
def shiftSigned {w : Nat} (u : BitVec w) (n : Nat) : BitVec w :=
  if w ≤ n then (if u.msb then BitVec.allOnes w else 0#w) else BitVec.ofInt w (u.toInt / 2 ^ n)
/-- A word rotated left by a count below 32. -/
def rotateWord (u : Word) (n : Nat) : Word := BitVec.ofNat 32 (u.toNat * 2 ^ n + u.toNat / 2 ^ (32 - n))
/-- An exact value saturated to 32 bits, signed. -/
def saturated (v : Int) : Word := BitVec.ofInt 32 (Max.max (-(2 ^ 31)) (Min.min (2 ^ 31 - 1) v))
/-- The position, from the top, of the first one bit; the width when there is none. -/
def firstOneFromTop {w : Nat} (u : BitVec w) : Nat := ((List.range w).find? (fun k => u.getLsbD (w - 1 - k))).getD w
/-- The position of the lowest one bit; the width when there is none. -/
def lowestOne {w : Nat} (u : BitVec w) : Nat := ((List.range w).find? (fun k => u.getLsbD k)).getD w
/-- The number of one bits. -/
def oneBits {w : Nat} (u : BitVec w) : Nat := ((List.range w).map (fun k => if u.getLsbD k then 1 else 0)).sum

/-- The table of R95. -/
def r95 : Instr → Option TableRow
  | .add d a b _ _ => word2 1 d a b (fun u v => BitVec.ofNat 32 (u.toNat + v.toNat))
  | .sub d a b _ _ => word2 1 d a b (fun u v => BitVec.ofInt 32 (u.toNat - v.toNat))
  | .and d a b _ _ => word2 1 d a b (fun u v => u &&& v)
  | .or d a b _ _ => word2 1 d a b (fun u v => u ||| v)
  | .xor d a b _ _ => word2 1 d a b (fun u v => u ^^^ v)
  | .andn d a b _ _ => word2 1 d a b (fun u v => u &&& ~~~v)
  | .shl d a b _ _ => word2 1 d a b (fun u v => shiftLeft u v.toNat)
  | .shr d a b _ _ => word2 1 d a b (fun u v => shiftRight u v.toNat)
  | .sar d a b _ _ => word2 1 d a b (fun u v => shiftSigned u v.toNat)
  | .rol d a b _ _ => word2 1 d a b (fun u v => rotateWord u (v.toNat % 32))
  | .min d a b _ _ => word2 1 d a b (fun u v => if u.toInt ≤ v.toInt then u else v)
  | .max d a b _ _ => word2 1 d a b (fun u v => if u.toInt ≤ v.toInt then v else u)
  | .minu d a b _ _ => word2 1 d a b (fun u v => if u.toNat ≤ v.toNat then u else v)
  | .maxu d a b _ _ => word2 1 d a b (fun u v => if u.toNat ≤ v.toNat then v else u)
  | .mul d a b _ _ => word2 2 d a b (fun u v => BitVec.ofNat 32 (u.toNat * v.toNat))
  | .mulh d a b _ _ => word2 2 d a b (fun u v => BitVec.ofInt 32 (u.toInt * v.toInt / 2 ^ 32))
  | .mulhu d a b _ _ => word2 2 d a b (fun u v => BitVec.ofNat 32 (u.toNat * v.toNat / 2 ^ 32))
  | .mad d a b _ _ => some (2, fun th => th.wr d (BitVec.ofNat 32 ((th.rd d).toNat + (th.rd a).toNat * (th.rd b).toNat)))
  | .adds d a b _ _ => word2 1 d a b (fun u v => saturated (u.toInt + v.toInt))
  | .subs d a b _ _ => word2 1 d a b (fun u v => saturated (u.toInt - v.toInt))
  | .absd d a b _ _ => word2 1 d a b (fun u v => BitVec.ofNat 32 (u.toInt - v.toInt).natAbs)
  | _ => none

/-- The table of R96. -/
def r96 : Instr → Option TableRow
  | .add64 d a b _ _ => pair 1 d (fun th => BitVec.ofNat 64 ((th.rd2 a).toNat + (th.rd2 b).toNat))
  | .sub64 d a b _ _ => pair 1 d (fun th => BitVec.ofInt 64 ((th.rd2 a).toNat - (th.rd2 b).toNat))
  | .shl64 d a b _ _ => pair 1 d (fun th => shiftLeft (th.rd2 a) (th.rd b).toNat)
  | .shr64 d a b _ _ => pair 1 d (fun th => shiftRight (th.rd2 a) (th.rd b).toNat)
  | .sar64 d a b _ _ => pair 1 d (fun th => shiftSigned (th.rd2 a) (th.rd b).toNat)
  | .mul64 d a b _ _ => pair 2 d (fun th => BitVec.ofInt 64 ((th.rd a).toInt * (th.rd b).toInt))
  | .mulu64 d a b _ _ => pair 2 d (fun th => BitVec.ofNat 64 ((th.rd a).toNat * (th.rd b).toNat))
  | .mad64 d a b _ _ => pair 2 d (fun th => BitVec.ofInt 64 ((th.rd2 d).toInt + (th.rd a).toInt * (th.rd b).toInt))
  | .lea64 d a b _ _ => pair 1 d (fun th => BitVec.ofNat 64 ((th.rd2 a).toNat + (th.rd b).toNat))
  | _ => none

/-- The table of R97. -/
def r97 : Instr → Option TableRow
  | .mov d a _ => word1 1 d a (fun u => u)
  | .not d a _ => word1 1 d a (fun u => ~~~u)
  | .neg d a _ => word1 1 d a (fun u => BitVec.ofInt 32 (0 - u.toNat))
  | .abs d a _ => word1 1 d a (fun u => if u.toInt < 0 then BitVec.ofInt 32 (-u.toInt) else u)
  | .clz d a _ => word1 1 d a (fun u => BitVec.ofNat 32 (firstOneFromTop u))
  | .ctz d a _ => word1 1 d a (fun u => BitVec.ofNat 32 (lowestOne u))
  | .popc d a _ => word1 1 d a (fun u => BitVec.ofNat 32 (oneBits u))
  | .brev d a _ => word1 1 d a (fun u => BitVec.reverse u)
  | .sext8 d a _ => word1 1 d a (fun u => BitVec.ofInt 32 (u.extractLsb' 0 8).toInt)
  | .sext16 d a _ => word1 1 d a (fun u => BitVec.ofInt 32 (u.extractLsb' 0 16).toInt)
  | .zext8 d a _ => word1 1 d a (fun u => BitVec.ofNat 32 (u.toNat % 2 ^ 8))
  | .zext16 d a _ => word1 1 d a (fun u => BitVec.ofNat 32 (u.toNat % 2 ^ 16))
  | .mov64 d a _ => pair 1 d (fun th => th.rd2 a)
  | _ => none

/-- Bits `p` + `n` - 1 to `p` of v[d] from the low bits of v[a], the other bits of v[d] as they were. -/
def inserted (old u : Word) (p n : Nat) : Word :=
  BitVec.ofNat 32 (old.toNat / 2 ^ (p + n) * 2 ^ (p + n) + u.toNat % 2 ^ n * 2 ^ p + old.toNat % 2 ^ p)

/-- The table of R98; the word's field holds the length less one. -/
def r98 : Instr → Option TableRow
  | .bfxu d a _ p l => word1 1 d a (fun u => BitVec.ofNat 32 (u.extractLsb' p.toNat (l.toNat + 1)).toNat)
  | .bfxs d a _ p l => word1 1 d a (fun u => BitVec.ofInt 32 (u.extractLsb' p.toNat (l.toNat + 1)).toInt)
  | .bfi d a _ p l => some (1, fun th => th.wr d (inserted (th.rd d) (th.rd a) p.toNat (l.toNat + 1)))
  | _ => none

/-- The table of R99. -/
def r99 : Instr → Option TableRow
  | .addi d a _ i => word1 1 d a (fun u => BitVec.ofInt 32 (u.toNat + i.toInt))
  | .andi d a _ i => word1 1 d a (fun u => u &&& BitVec.ofInt 32 i.toInt)
  | .ori d a _ i => word1 1 d a (fun u => u ||| BitVec.ofInt 32 i.toInt)
  | .xori d a _ i => word1 1 d a (fun u => u ^^^ BitVec.ofInt 32 i.toInt)
  | .shli d a _ n => word1 1 d a (fun u => shiftLeft u n.toNat)
  | .shri d a _ n => word1 1 d a (fun u => shiftRight u n.toNat)
  | .sari d a _ n => word1 1 d a (fun u => shiftSigned u n.toNat)
  | .roli d a _ n => word1 1 d a (fun u => rotateWord u n.toNat)
  | .movi d i => some (1, fun th => th.wr d (BitVec.ofInt 32 i.toInt))
  | .lui d i => some (1, fun th => th.wr d (BitVec.ofNat 32 (i.toNat * 2 ^ 12)))
  | _ => none

/-- The conditions of R100. -/
def condition {w : Nat} (c : Cond) (u v : BitVec w) : Bool :=
  match c with
  | .eq => decide (u.toNat = v.toNat)
  | .ne => decide (u.toNat ≠ v.toNat)
  | .lt => decide (u.toInt < v.toInt)
  | .le => decide (u.toInt ≤ v.toInt)
  | .gt => decide (u.toInt > v.toInt)
  | .ge => decide (u.toInt ≥ v.toInt)
  | .ltu => decide (u.toNat < v.toNat)
  | .leu => decide (u.toNat ≤ v.toNat)
  | .gtu => decide (u.toNat > v.toNat)
  | .geu => decide (u.toNat ≥ v.toNat)
  | .tst => decide ((u &&& v).toNat ≠ 0)

/-- The table of R100. -/
def r100 : Instr → Option TableRow
  | .cmp p a b _ _ c => predicate 1 p (fun th => condition c (th.rd a) (th.rd b))
  | .cmpi c p a _ i => predicate 1 p (fun th => condition c (th.rd a) (BitVec.ofInt 32 i.toInt))
  | _ => none

/-- The table of R101; p7 to p0 stand in PTOR's result, bit k for pk. -/
def r101 : Instr → Option TableRow
  | .pand d a b => predicate 1 d (fun th => th.pred a && th.pred b)
  | .por d a b => predicate 1 d (fun th => th.pred a || th.pred b)
  | .pxor d a b => predicate 1 d (fun th => th.pred a != th.pred b)
  | .pnot d a => predicate 1 d (fun th => !th.pred a)
  | .ptor d => some (1, fun th => th.wr d (BitVec.ofNat 32 th.p.toNat))
  | .sel d a b _ _ k => some (1, fun th => th.wr d (if th.pred k then th.rd a else th.rd b))
  | _ => none

/-- An instruction of a table costs what the table says and, whenever the path is ready, runs: every thread of the path
becomes what the table says, the charge has been taken, and nothing else changes but where the paths of the group stand and
who holds the issue slot. -/
def RunsAsTable (table : Instr → Option TableRow) : Prop :=
  ∀ i n f, table i = some (n, f) →
    i.cost = n ∧ ∀ s c s', PathReady i s c s' → ∃ t, exec i s = .next t ∧ Ran c (fun _ => f) s' t

/-! ## Numbers (R170 to R173) and the floating-point instructions (R188 to R198, R203) -/

/-- An exact value: a NaN, an infinity, or a number, whose sign matters when it is 0. -/
inductive Ext where
  | nan
  | inf (neg : Bool)
  | num (neg : Bool) (x : ℚ)
  deriving DecidableEq
/-- The exact value that the model's decoded number stands for. -/
def Ext.of : Fp → Ext
  | .nan => .nan
  | .inf n => .inf n
  | .fin n m e => .num n ((if n then -1 else 1) * (m : ℚ) * (2 : ℚ) ^ e)
/-- The value of a code of a format. -/
def valueOf (f : Fmt) (code : Nat) : Ext := Ext.of (f.decode code)
/-- The value of a word as FP32. -/
def fp (w : Word) : Ext := valueOf fp32 w.toNat
/-- The value, 0 where it is no number. -/
def Ext.x : Ext → ℚ
  | .nan => 0
  | .inf _ => 0
  | .num _ x => x
/-- The sign. -/
def Ext.sign : Ext → Bool
  | .nan => false
  | .inf n => n
  | .num n _ => n
/-- A finite number. -/
def Ext.finite : Ext → Bool
  | .nan => false
  | .inf _ => false
  | .num _ _ => true
/-- The opposite value. -/
def Ext.neg : Ext → Ext
  | .nan => .nan
  | .inf n => .inf (!n)
  | .num n x => .num (!n) (-x)

/-- R173: the code, without its sign, of an overflow. -/
def overflowOf (f : Fmt) (r : RMode) (neg : Bool) : Nat :=
  if f.inf = true ∧ (r = .rn ∨ (r = .rd ∧ neg = true) ∨ (r = .ru ∧ neg = false)) then f.maxCode + 1 else f.maxCode
/-- R172 and R173 for an exact value `x` that is not 0: `w` is the code of the format that it gives under the mode.  `e` is the
binary exponent of `x`, `g` the spacing of the grid there, and `k` times `g` the point of the grid that the mode chooses; a
point beyond the largest finite value is an overflow. -/
def IsRounded (f : Fmt) (r : RMode) (x : ℝ) (w : Nat) : Prop :=
  ∃ e k : ℤ, (2 : ℝ) ^ e ≤ |x| ∧ |x| < (2 : ℝ) ^ (e + 1) ∧
    let g : ℝ := (2 : ℝ) ^ max (e - f.m) f.qmin
    let y : ℝ := k * g
    (match r with
      | .rn => |x - y| ≤ g / 2 ∧ (|x - y| = g / 2 → k % 2 = 0)
      | .rz => 0 ≤ x * y ∧ |y| ≤ |x| ∧ |x| < |y| + g
      | .rd => y ≤ x ∧ x < y + g
      | .ru => x ≤ y ∧ y < x + g)
    ∧ ((w < 2 ^ (1 + f.e + f.m) ∧ ∃ v : ℚ, valueOf f w = .num (decide (x < 0)) v ∧ (v : ℝ) = y)
      ∨ (∃ b : ℚ, valueOf f f.maxCode = .num false b ∧ (b : ℝ) < |y|) ∧ w = f.sign (decide (x < 0)) + overflowOf f r (decide (x < 0)))
/-- R171 to R173: `w` is the code of a format that a result gives under a mode. -/
def RoundsTo (f : Fmt) (r : RMode) (v : Ext) (w : Nat) : Prop :=
  match v with
  | .nan => w = f.nan
  | .inf n => w = f.sign n + if f.inf then f.maxCode + 1 else f.maxCode
  | .num n x => if x = 0 then w = f.sign n else IsRounded f r (x : ℝ) w

/-- The rows of R190 for a sum, in order. -/
def sumOf (r : RMode) : Ext → Ext → Ext
  | .nan, _ => .nan
  | _, .nan => .nan
  | .inf n, .inf k => if n = k then .inf n else .nan
  | .inf n, .num _ _ => .inf n
  | .num _ _, .inf k => .inf k
  | .num n x, .num k y =>
    if x + y = 0 then
      (if x = 0 ∧ y = 0 ∧ n = k then .num n 0 else .num (decide (r = .rd)) 0)
    else .num (decide (x + y < 0)) (x + y)
/-- The rows of R190 for a product. -/
def productOf : Ext → Ext → Ext
  | .nan, _ => .nan
  | _, .nan => .nan
  | .inf n, .inf k => .inf (n != k)
  | .inf n, .num k y => if y = 0 then .nan else .inf (n != k)
  | .num n x, .inf k => if x = 0 then .nan else .inf (n != k)
  | .num n x, .num k y => .num (n != k) (x * y)
/-- R191: `u` is the smaller, with -0 less than +0. -/
def smaller (u v : Ext) : Bool :=
  match u, v with
  | .inf n, .inf k => n && !k
  | .inf n, .num _ _ => n
  | .num _ _, .inf k => !k
  | .num n x, .num k y => decide (x < y) || (decide (x = 0 ∧ y = 0) && n && !k)
  | .nan, _ => false
  | _, .nan => false
/-- FMIN and FMAX of two codes of a format; of two that name one value either may stand. -/
def IsPick (f : Fmt) (larger : Bool) (u v w : Nat) : Prop :=
  if valueOf f u = .nan ∨ valueOf f v = .nan then w = f.nan
  else (w = u ∨ w = v) ∧
    (if larger then smaller (valueOf f w) (valueOf f u) = false ∧ smaller (valueOf f w) (valueOf f v) = false
     else smaller (valueOf f u) (valueOf f w) = false ∧ smaller (valueOf f v) (valueOf f w) = false)

/-- A row of a floating-point table: the cost, the destination, and what the word written is for a thread. -/
abbrev FloatRow := Nat × BitVec 6 × (Thread → Word → Prop)
/-- A relation on each half of words (R192). -/
def BothHalves (p : Nat → Nat → Nat → Prop) (u v w : Word) : Prop :=
  p (u.toNat / 2 ^ 16) (v.toNat / 2 ^ 16) (w.toNat / 2 ^ 16) ∧ p (u.toNat % 2 ^ 16) (v.toNat % 2 ^ 16) (w.toNat % 2 ^ 16)

/-- The tables of R190, R191 and R192. -/
def r190 : Instr → Option FloatRow
  | .fadd d a b _ _ r => some (2, d, fun th w => RoundsTo fp32 r (sumOf r (fp (th.rd a)) (fp (th.rd b))) w.toNat)
  | .fsub d a b _ _ r => some (2, d, fun th w => RoundsTo fp32 r (sumOf r (fp (th.rd a)) (fp (th.rd b)).neg) w.toNat)
  | .fmul d a b _ _ r => some (2, d, fun th w => RoundsTo fp32 r (productOf (fp (th.rd a)) (fp (th.rd b))) w.toNat)
  | .ffma d a b _ _ r =>
    some (2, d, fun th w => RoundsTo fp32 r (sumOf r (productOf (fp (th.rd a)) (fp (th.rd b))) (fp (th.rd d))) w.toNat)
  | .fmin d a b _ _ => some (2, d, fun th w => IsPick fp32 false (th.rd a).toNat (th.rd b).toNat w.toNat)
  | .fmax d a b _ _ => some (2, d, fun th w => IsPick fp32 true (th.rd a).toNat (th.rd b).toNat w.toNat)
  | .fabs d a _ => some (2, d, fun th w =>
      w.toNat = if fp (th.rd a) = .nan then 0x7FC00000 else (th.rd a).toNat % 2 ^ 31)
  | .fneg d a _ => some (2, d, fun th w =>
      w.toNat = if fp (th.rd a) = .nan then 0x7FC00000 else ((th.rd a).toNat + 2 ^ 31) % 2 ^ 32)
  | .hadd2 d a b _ _ r => some (2, d, fun th w =>
      BothHalves (fun u v x => RoundsTo bf16 r (sumOf r (valueOf bf16 u) (valueOf bf16 v)) x) (th.rd a) (th.rd b) w)
  | .hsub2 d a b _ _ r => some (2, d, fun th w =>
      BothHalves (fun u v x => RoundsTo bf16 r (sumOf r (valueOf bf16 u) (valueOf bf16 v).neg) x) (th.rd a) (th.rd b) w)
  | .hmul2 d a b _ _ r => some (2, d, fun th w =>
      BothHalves (fun u v x => RoundsTo bf16 r (productOf (valueOf bf16 u) (valueOf bf16 v)) x) (th.rd a) (th.rd b) w)
  | .hfma2 d a b _ _ r => some (2, d, fun th w =>
      RoundsTo bf16 r (sumOf r (productOf (valueOf bf16 ((th.rd a).toNat / 2 ^ 16)) (valueOf bf16 ((th.rd b).toNat / 2 ^ 16)))
        (valueOf bf16 ((th.rd d).toNat / 2 ^ 16))) (w.toNat / 2 ^ 16)
      ∧ RoundsTo bf16 r (sumOf r (productOf (valueOf bf16 ((th.rd a).toNat % 2 ^ 16)) (valueOf bf16 ((th.rd b).toNat % 2 ^ 16)))
        (valueOf bf16 ((th.rd d).toNat % 2 ^ 16))) (w.toNat % 2 ^ 16))
  | .hmax2 d a b _ _ => some (2, d, fun th w => BothHalves (IsPick bf16 true) (th.rd a) (th.rd b) w)
  | .hmin2 d a b _ _ => some (2, d, fun th w => BothHalves (IsPick bf16 false) (th.rd a) (th.rd b) w)
  | _ => none

/-- R195: `n` is the integer nearest to `x` by the mode. -/
def IsInteger (r : RMode) (x : ℚ) (n : ℤ) : Prop :=
  match r with
  | .rn => |x - n| ≤ 1 / 2 ∧ (|x - n| = 1 / 2 → n % 2 = 0)
  | .rz => n = if x < 0 then ⌈x⌉ else ⌊x⌋
  | .rd => n = ⌊x⌋
  | .ru => n = ⌈x⌉
/-- R195: the word of a conversion to an integer that is clamped between `lo` and `hi`. -/
def IsClamped (r : RMode) (lo hi : ℤ) (v : Ext) (w : Word) : Prop :=
  match v with
  | .nan => w = 0#32
  | .inf n => w = BitVec.ofInt 32 (if n then lo else hi)
  | .num _ x => ∃ n, IsInteger r x n ∧ w = BitVec.ofInt 32 (Max.max lo (Min.min hi n))

/-- The tables of R194 and R195, FCVTSM apart. -/
def r194 : Instr → Option FloatRow
  | .fcvtif d a _ r => some (2, d, fun th w => RoundsTo fp32 r (.num (decide ((th.rd a).toInt < 0)) (th.rd a).toInt) w.toNat)
  | .fcvtuf d a _ r => some (2, d, fun th w => RoundsTo fp32 r (.num false (th.rd a).toNat) w.toNat)
  | .fcvtfi d a _ r => some (2, d, fun th w => IsClamped r (-2 ^ 31) (2 ^ 31 - 1) (fp (th.rd a)) w)
  | .fcvtfu d a _ r => some (2, d, fun th w => IsClamped r 0 (2 ^ 32 - 1) (fp (th.rd a)) w)
  | .fcvtbf d a _ r => some (2, d, fun th w => RoundsTo bf16 r (fp (th.rd a)) w.toNat)
  | .fcvte4 d a _ r => some (2, d, fun th w => RoundsTo e4m3 r (fp (th.rd a)) w.toNat)
  | .fcvte5 d a _ r => some (2, d, fun th w => RoundsTo e5m2 r (fp (th.rd a)) w.toNat)
  | .fcvtfb d a _ => some (2, d, fun th w =>
      if valueOf bf16 ((th.rd a).toNat % 2 ^ 16) = .nan then w = 0x7FC00000#32
      else fp w = valueOf bf16 ((th.rd a).toNat % 2 ^ 16))
  | .fcvtf4 d a _ => some (2, d, fun th w =>
      if valueOf e4m3 ((th.rd a).toNat % 2 ^ 8) = .nan then w = 0x7FC00000#32
      else fp w = valueOf e4m3 ((th.rd a).toNat % 2 ^ 8))
  | .fcvtf5 d a _ => some (2, d, fun th w =>
      if valueOf e5m2 ((th.rd a).toNat % 2 ^ 8) = .nan then w = 0x7FC00000#32
      else fp w = valueOf e5m2 ((th.rd a).toNat % 2 ^ 8))
  | _ => none

/-- R197 and R198 of one operand, whose exact result for a positive number is `f`: a NaN gives a NaN, and the rows of R198 give the
results at the infinities, at zeros and at negative numbers. -/
def special1 (f : ℝ → ℝ) (atInf : Bool → Ext) (atZero : Bool → Ext) (atNegative : Option (ℝ → ℝ)) (r : RMode) (u : Ext) (w : Nat) : Prop :=
  match u with
  | .nan => w = fp32.nan
  | .inf n => RoundsTo fp32 r (atInf n) w
  | .num n x =>
    if x = 0 then RoundsTo fp32 r (atZero n) w
    else if x < 0 then
      (match atNegative with
        | none => w = fp32.nan
        | some g => IsRounded fp32 r (g x) w)
    else IsRounded fp32 r (f x) w
/-- The exact results of FDIV (R197, R198). -/
def IsQuotient (r : RMode) (u v : Ext) (w : Nat) : Prop :=
  match u, v with
  | .nan, _ => w = fp32.nan
  | _, .nan => w = fp32.nan
  | .inf _, .inf _ => w = fp32.nan
  | .inf n, .num k _ => RoundsTo fp32 r (.inf (n != k)) w
  | .num n _, .inf k => RoundsTo fp32 r (.num (n != k) 0) w
  | .num n x, .num k y =>
    if y = 0 then (if x = 0 then w = fp32.nan else RoundsTo fp32 r (.inf (n != k)) w)
    else RoundsTo fp32 r (.num (n != k) (x / y)) w
/-- The table of R197 and R198 for the functions whose result is a quotient or a root. -/
def r197 : Instr → Option FloatRow
  | .frcp d a _ r => some (8, d, fun th w =>
      special1 (fun x => 1 / x) (fun n => .num n 0) (fun n => .inf n) (some (fun x => 1 / x)) r (fp (th.rd a)) w.toNat)
  | .frsq d a _ r => some (8, d, fun th w =>
      special1 (fun x => 1 / Real.sqrt x) (fun n => if n then .nan else .num false 0) (fun n => .inf n) none r (fp (th.rd a)) w.toNat)
  | .fsqrt d a _ r => some (8, d, fun th w =>
      special1 (fun x => Real.sqrt x) (fun n => if n then .nan else .inf false) (fun n => .num n 0) none r (fp (th.rd a)) w.toNat)
  | .fdiv d a b _ _ r => some (8, d, fun th w => IsQuotient r (fp (th.rd a)) (fp (th.rd b)) w.toNat)
  | _ => none
/-- The rows of R198 for FEXP2 and FLOG2, and their exact cases: a power of two for an integer, and the exponent of a power of
two.  Where none applies, nothing is said of the word. -/
def r198 : Instr → Option FloatRow
  | .fexp2 d a _ r => some (8, d, fun th w => match fp (th.rd a) with
      | .nan => w = 0x7FC00000#32
      | .inf n => w = if n then 0#32 else 0x7F800000#32
      | .num _ x => if x = 0 then w = 0x3F800000#32 else x = ⌊x⌋ → IsRounded fp32 r ((2 : ℝ) ^ ⌊x⌋) w.toNat)
  | .flog2 d a _ r => some (8, d, fun th w => match fp (th.rd a) with
      | .nan => w = 0x7FC00000#32
      | .inf n => w = if n then 0x7FC00000#32 else 0x7F800000#32
      | .num _ x => if x = 0 then w = 0xFF800000#32 else if x < 0 then w = 0x7FC00000#32
          else ∀ k : ℤ, x = (2 : ℚ) ^ k → RoundsTo fp32 r (.num (decide (k < 0)) k) w.toNat)
  | _ => none

/-- An instruction of a floating-point table costs what the table says and, whenever the path is ready, runs: every thread of
the path has a word that the table allows written into its destination, the charge has been taken, and nothing else changes but
where the paths of the group stand and who holds the issue slot. -/
def RunsAsFloat (table : Instr → Option FloatRow) : Prop :=
  ∀ i n d p, table i = some (n, d, p) →
    i.cost = n ∧ ∀ s c s', PathReady i s c s' →
      ∃ w : Nat → Word, (∀ l ∈ c.path.lanes, p (s.thread c.gk l) (w l)) ∧ ∃ t, exec i s = .next t ∧ RanEach c (fun l th => th.wr d (w l)) s' t

/-- The conditions of R193. -/
def fcondition (c : FCond) (u v : Ext) : Prop :=
  let less : Ext → Ext → Prop := fun u v => match u, v with
    | .inf n, .inf k => n = true ∧ k = false
    | .inf n, .num _ _ => n = true
    | .num _ _, .inf k => k = false
    | .num _ x, .num _ y => x < y
    | .nan, _ => False
    | _, .nan => False
  let ordered : Prop := u ≠ .nan ∧ v ≠ .nan
  let equal : Prop := match u, v with
    | .inf n, .inf k => n = k
    | .num _ x, .num _ y => x = y
    | _, _ => False
  match c with
  | .eq => ordered ∧ equal
  | .ne => ¬ordered ∨ ¬equal
  | .lt => ordered ∧ less u v
  | .le => ordered ∧ (less u v ∨ equal)
  | .gt => ordered ∧ less v u
  | .ge => ordered ∧ (less v u ∨ equal)
  | .un => ¬ordered
  | .ord => ordered

/-- The word at a byte of a table image (R200). -/
def tableWord (tab : SMap Byte) (at_ : Nat) : Word :=
  tab.get (at_ + 3) 0#8 ++ tab.get (at_ + 2) 0#8 ++ tab.get (at_ + 1) 0#8 ++ tab.get at_ 0#8
/-- R203: the word that function `f` of a table gives at `u`; X0 and the coefficients are finite (R200). -/
def IsTabulated (tab : SMap Byte) (f : Nat) (u w : Word) : Prop :=
  let x0 := (fp (tableWord tab (16 * f))).x
  let h : ℚ := (2 : ℚ) ^ (tab.get (16 * f + 4) 0#8).toInt
  let lo := tableWord tab (16 * f + 8)
  let hi := tableWord tab (16 * f + 12)
  let c : ℤ → Nat → ℚ := fun j k => (fp (tableWord tab (64 + 1024 * f + 16 * j.toNat + 4 * k))).x
  match fp u with
  | .nan => w = 0x7FC00000#32
  | .inf n => w = if n then lo else hi
  | .num _ x =>
    if x < x0 then w = lo
    else if 64 * h ≤ x - x0 then w = hi
    else
      let j := ⌊(x - x0) / h⌋
      let t := x - x0 - j * h
      let v := c j 0 + c j 1 * t + c j 2 * t * t
      if v = 0 then w = 0#32 ∨ w = 0x80000000#32 else RoundsTo fp32 .rn (.num (decide (v < 0)) v) w.toNat

/-! ## Where the paths of a group stand (R21 to R23, R43, R51), and its control instructions (R102 to R114) -/

/-- The paths that join the parked ones, each with the next park number (R22). -/
def parkedFrom (n : Nat) : List Path → List Path
  | [] => []
  | p :: ps => { p with park := n } :: parkedFrom (n + 1) ps
/-- Nothing changes but the group `c.gk`, whose running path becomes `running`, with `parks` joining its parked paths, and who
holds the issue slot of its core. -/
def Places (c : GCtx) (running : Option Path) (parks : List Path) (s t : State) : Prop :=
  PlaceOnly c.gk c.core s t
  ∧ t.groups.find c.gk = some { c.group with
      running := running, parked := c.group.parked ++ parkedFrom c.group.parkCtr parks,
      parkCtr := c.group.parkCtr + parks.length }
/-- The same, where a path keeps the slot only in the middle of its clause (R330). -/
def StandsAt (c : GCtx) (running : Option Path) (parks : List Path) (s t : State) : Prop :=
  Places c running parks s t
  ∧ (t.core c.core).gHold = match running with
    | some p => if p.pos.remain = 0 then none else (s.core c.core).gHold
    | none => none
/-- The place after an execution that makes no transfer (R43), and under REP (R108, R110). -/
def following (p : Pos) : Pos :=
  match p.rep with
  | none => { p with pc := p.pc + 4#64, remain := p.remain - 1, repFrom := none }
  | some r =>
    if r.j + 1 < r.count then { p with rep := some { r with j := r.j + 1 }, repFrom := none }
    else { p with pc := p.pc + 8#64, remain := p.remain - 2, rep := none, repFrom := none }
/-- Some lanes of the running path after an instruction that makes no transfer. -/
def onward (c : GCtx) (lanes : List Nat) : Path :=
  { c.path with lanes := lanes, pos := following c.path.pos, wait := .none }
/-- They run on, but for a clause with Y set that ends there (R51). -/
def runOn (c : GCtx) (lanes : List Nat) : Option Path :=
  if (following c.path.pos).remain = 0 ∧ c.path.pos.y = true then none else some (onward c lanes)
/-- They are parked where a clause with Y set ends (R51). -/
def parkOn (c : GCtx) (lanes : List Nat) : List Path :=
  if (following c.path.pos).remain = 0 ∧ c.path.pos.y = true then [onward c lanes] else []
/-- Some lanes of the running path at the header at `t` (R43). -/
def atHeader (c : GCtx) (t : DWord) (lanes : List Nat) : Path :=
  { c.path with lanes := lanes, wait := .none, pos := { pc := t, remain := 0, cls := .int, y := false, rep := none, repFrom := none } }

/-- The transfers of R102: the displacement, whether there is a link, and which threads take it. -/
def r102 : Instr → Option (BitVec 19 × Bool × (Thread → Bool))
  | .br s => some (s, false, fun _ => true)
  | .brp k s => some (s, false, fun th => th.pred k)
  | .brn k s => some (s, false, fun th => !th.pred k)
  | .bz a _ s => some (s, false, fun th => decide (th.rd a = 0#32))
  | .bnz a _ s => some (s, false, fun th => decide (th.rd a ≠ 0#32))
  | .call s => some (s, true, fun _ => true)
  | .callp k s => some (s, true, fun th => th.pred k)
  | _ => none
/-- The register transfers of R104: the pair that holds the target, and whether there is a link. -/
def r104 : Instr → Option (BitVec 6 × Bool)
  | .jr a _ => some (a, false)
  | .jrl a _ => some (a, true)
  | .ret => some (62#6, false)
  | _ => none
/-- The instructions of this file and the last that change nothing but their threads. -/
def plain (i : Instr) : Bool :=
  (r95 i).isSome || (r96 i).isSome || (r97 i).isSome || (r98 i).isSome || (r99 i).isSome || (r100 i).isSome || (r101 i).isSome
    || (r190 i).isSome || (r194 i).isSome || (r197 i).isSome || (r198 i).isSome

/-- What taking a trap makes of a thread (R342 step 2, R343): t0 with the cause and CODE of `info`, and, of the place `p`,
REPJ, REPV, REMAIN, CLASS, CGEN and Y; t1 the word; t2:t3 the resume address; t4:t5 the address that goes with the cause; t6
and t7 are 0; the thread is in trap mode and has counted the trap. -/
def HasTrapped (p : Pos) (word : Word) (info : TrapInfo) (old new : Thread) : Prop :=
  new = { old with t := new.t, trapMode := true, traps := old.traps + 1#32 }
  ∧ (new.reg 64).toNat = info.cause.code + 2 ^ 8 * info.code
      + (match p.rep with
        | some r => 2 ^ 14 * (r.j % 64) + 2 ^ 20
        | none => 0)
      + 2 ^ 21 * p.remain + 2 ^ 25 * p.cls.code.toNat + (if old.gen then 2 ^ 28 else 0) + (if p.y then 2 ^ 29 else 0)
  ∧ new.reg 65 = word ∧ new.reg 67 ++ new.reg 66 = p.pc ∧ new.reg 69 ++ new.reg 68 = info.addr
  ∧ new.reg 70 = 0#32 ∧ new.reg 71 = 0#32
/-- Every thread of the running path is one that the descriptor's handler takes (R342 step 3). -/
def AllHandled (s : State) (c : GCtx) : Prop :=
  descHv c.task.desc = true ∧ ∀ l ∈ c.path.lanes, (s.thread c.gk l).trapMode = false
/-- The path that starts at the handler (R342). -/
def inHandler (c : GCtx) (lanes : List Nat) : Path :=
  { park := 0, lanes := lanes, wait := .none,
    pos := { pc := descHandler c.task.desc, remain := 0, cls := .int, y := false, rep := none, repFrom := none } }
/-- Some lanes of the running path have trapped at the place `p` with the information `info` gives for each, and form a path parked at the
handler, before the paths of `others` (R28, R342). -/
def Trapped (c : GCtx) (p : Pos) (word : Word) (info : Nat → TrapInfo) (lanes : List Nat) (others : List Path) (s t : State) : Prop :=
  ∃ f : Nat → Thread → Thread, (∀ l ∈ lanes, HasTrapped p word (info l) (s.thread c.gk l) (f l (s.thread c.gk l)))
    ∧ StandsAt c none (inHandler c lanes :: others) (s.onLanes c.gk lanes f) t

/-- The specials of R111 that groups and the lead both read, but TIME and TIMEH (R12, R113, R131). -/
def r111both (s : State) (team : Team) (task : Task) : Nat → Option Word
  | 0x02 => some 64#32
  | 0x05 => some (BitVec.ofNat 32 team.index)
  | 0x06 => some (BitVec.ofNat 32 (team.core % 96))
  | 0x07 => some (BitVec.ofNat 32 (team.core % 96 / 4))
  | 0x08 => some (BitVec.ofNat 32 (team.core / 96))
  | 0x09 => some (BitVec.ofNat 32 team.ngroups)
  | 0x0A => some (BitVec.ofNat 32 task.teams)
  | 0x0B => some (BitVec.ofNat 32 team.regs)
  | 0x12 => some (BitVec.ofNat 32 (task.gen.toNat * 2 ^ 16 + team.task % 2 ^ 16))
  | 0x13 => some (BitVec.ofNat 32 (team.quadg % 2 ^ 10 * 2 ^ 21 + team.accg % 2 ^ 8 * 2 ^ 13 + team.spadg % 2 ^ 7 * 2 ^ 6
      + team.regg % 2 ^ 6))
  | 0x14 => (s.leases.find (leaseKey team.core team.task)).map (fun l => BitVec.ofNat 32 l.bal)
  | 0x15 => some (s.core team.core).spare
  | _ => none
/-- The value of each special of R111 in a thread (R12, R112, R113, R131). -/
def r111 (s : State) (c : GCtx) (l : Nat) (th : Thread) (n : Nat) : Option Word :=
  match n with
  | 0x00 => some (BitVec.ofNat 32 l)
  | 0x01 => some (BitVec.ofNat 32 (c.gk % 8))
  | 0x03 => some (BitVec.ofNat 32 c.group.gid)
  | 0x04 => some (BitVec.ofNat 32 (64 * c.group.gid + l))
  | 0x10 => some (BitVec.ofNat 32 s.time.toNat)
  | 0x11 => some (BitVec.ofNat 32 th.timeh.toNat)
  | 0x16 => some (BitVec.ofNat 32 th.qrd.toNat)
  | 0x17 => some (if th.trapMode then 1#32 else 0#32)
  | m => r111both s c.team c.task m
/-- The number of a control and status register of R346 that may be written, with what a write makes of the thread; the other half of an index register keeps its value. -/
def r346 (n : Nat) (w : Word) (th : Thread) : Thread :=
  if n = 1 then { th with waitb := BitVec.ofNat 16 w.toNat }
  else if n = 0x010 ∨ n = 0x012 ∨ n = 0x014 ∨ n = 0x016 then
    { th with xb := th.xb.set ((n - 0x010) / 2) w 0#32, xl := th.xl.set ((n - 0x010) / 2) (th.xl.get ((n - 0x010) / 2) 0#32) 0#32 }
  else if n = 0x011 ∨ n = 0x013 ∨ n = 0x015 ∨ n = 0x017 then
    { th with xl := th.xl.set ((n - 0x010) / 2) w 0#32, xb := th.xb.set ((n - 0x010) / 2) (th.xb.get ((n - 0x010) / 2) 0#32) 0#32 }
  else if 0x038 ≤ n ∧ n ≤ 0x03F then { th with v := th.v.set n w 0#32, empty := th.empty.del n }
  else th
/-- The value of a control and status register of R346. -/
def r346v (n : Nat) (th : Thread) : Word :=
  let full : Nat → Word := fun base => BitVec.ofNat 32 (((List.range 32).map (fun k => if th.empty.has (base + k) then 0 else 2 ^ k)).sum)
  if n = 0 then th.traps
  else if n = 1 then BitVec.ofNat 32 th.waitb.toNat
  else if n = 2 then full 0
  else if n = 3 then full 32
  else if n = 0x010 ∨ n = 0x012 ∨ n = 0x014 ∨ n = 0x016 then th.xb.get ((n - 0x010) / 2) 0#32
  else if n = 0x011 ∨ n = 0x013 ∨ n = 0x015 ∨ n = 0x017 then th.xl.get ((n - 0x010) / 2) 0#32
  else if 0x038 ≤ n ∧ n ≤ 0x03F then th.v.get n 0#32
  else 0#32
/-- What the check of a transfer's target calls for, where it is no missing translation (R57, R103): the cause and the address. -/
def targetFails (s : State) (core : Nat) (k : Task) (t : DWord) : Option (Cause × DWord) :=
  if t.toInt < -2 ^ 47 ∨ 2 ^ 47 ≤ t.toInt ∨ t.toNat % 4 ≠ 0 then some (.branchTarget, 0#64)
  else
    match fetch s core k.space k.priv t with
    | .denied => some (.permission, t)
    | .word w => if w.toNat / 2 ^ 26 = 63 then none else some (.branchTarget, 0#64)
    | .miss _ => none
/-- The system handler has a trap (R31, R342 step 4): from `s`, Ling has a report, and the task fails with the cause. -/
def SystemHandles (c : Nat) (cause : Cause) (s t : State) : Prop :=
  ∃ report : List Byte, t = failTask { s with plat := { s.plat with halts := s.plat.halts ++ [(c, report)] } } c cause.code
/-- An empty or closed v register; t registers are always full (R342). -/
def notFull (n : Nat) (w : Fill) (e : SMap Fill) : SMap Fill := if n < 64 then e.put n w else e

/-! ## Memory, barriers, cross-lane operations, SEND and the vector side of SA (R122 to R146, R204, R214, R229 to R235, R264 to R266) -/

/-- The unsigned little-endian value of bytes (R2). -/
def leNat : List Byte → Nat
  | [] => 0
  | b :: bs => b.toNat + 256 * leNat bs
/-- What a group load of a size gives in registers, lowest first (R55). -/
def loaded (z : Size) (bs : List Byte) : List Word :=
  let word : Nat → Word := fun k => BitVec.ofNat 32 (leNat ((bs.drop (4 * k)).take 4))
  match z with
  | .sb => [BitVec.ofInt 32 (if leNat bs < 2 ^ 7 then leNat bs else (leNat bs : Int) - 2 ^ 8)]
  | .sh => [BitVec.ofInt 32 (if leNat bs < 2 ^ 15 then leNat bs else (leNat bs : Int) - 2 ^ 16)]
  | .d => [word 0, word 1]
  | .q => [word 0, word 1, word 2, word 3]
  | _ => [word 0]
/-- The number of bytes of a size (R55). -/
def width : Size → Nat
  | .b => 1 | .sb => 1 | .h => 2 | .sh => 2 | .w => 4 | .sw => 4 | .d => 8 | .q => 16
/-- The registers of a size (R55). -/
def regsOf (z : Size) : Nat := (width z + 3) / 4
/-- The bytes that a store of a size sends: the low bytes of v[d], or its pair or quad (R55, R93). -/
def sentBytes (z : Size) (d : BitVec 6) (th : Thread) : List Byte :=
  ((List.range (regsOf z)).flatMap (fun k => bytesOfWord (th.reg (th.ix d + k)))).take (width z)
/-- The address in a local memory (R122). -/
def localAt (z : Size) (a : BitVec 6) (o : BitVec 10) (th : Thread) : Nat :=
  (((th.rd a).toNat + o.toInt * (width z : Int)) % 2 ^ 32).toNat
/-- The address in global memory (R122). -/
def globalAt (z : Size) (a : BitVec 6) (o : BitVec 10) (th : Thread) : DWord :=
  BitVec.ofInt 64 ((th.rd2 a).toNat + o.toInt * (width z : Int))
/-- A long-latency result is on its way: its registers are empty until it is written (R16). -/
def awaits (id : Nat) (rs : List Nat) (v : Option (List Word)) (th : Thread) : Thread :=
  { th with empty := rs.foldl (fun e n => notFull n .pending e) th.empty, pend := th.pend ++ [{ id := id, dst := rs, val := v }] }
/-- The byte at `x` after the lanes of a set have stored, each its bytes from its start on, in ascending order (R124): that of the highest lane
that covers it. -/
def storedByte (lanes : List Nat) (start : Nat → Nat) (bytes : Nat → List Byte) (old : Nat → Byte) (x : Nat) : Byte :=
  match (sortLanes lanes).reverse.find? (fun l => decide (start l ≤ x) && decide (x < start l + (bytes l).length)) with
  | some l => (bytes l).getD (x - start l) 0#8
  | none => old x
/-- The bytes of a team's scratchpad, and of a task's quad pool on a quad. -/
def spadByte (t : Team) (x : Nat) : Byte := t.spad.get x 0#8
def poolByte (s : State) (c : GCtx) (x : Nat) : Byte := s.quadPool.get (2 ^ 23 * (192 * c.team.task + c.core / 4) + x) 0#8
/-- The limits of R122, and the line of the scratchpad is present (R126). -/
def inSpad (t : Team) (x n : Nat) : Prop := x + n ≤ 16384 * t.spadg ∧ x % n = 0 ∧ t.absent.find (x / 64) = none
/-- The limits of R122, and the line of the scratchpad is absent (R126, R377). -/
def lineGone (t : Team) (x n : Nat) : Prop := x + n ≤ 16384 * t.spadg ∧ x % n = 0 ∧ t.absent.find (x / 64) ≠ none
/-- Where the path goes after a switch point (R23, R110). -/
def runSwitch (c : GCtx) : Option Path := if (following c.path.pos).rep = none then none else runOn c c.path.lanes
/-- What is parked after a switch point. -/
def parkSwitch (c : GCtx) : List Path := if (following c.path.pos).rep = none then [onward c c.path.lanes] else parkOn c c.path.lanes

/-- The new value of an atomic (R130, R266). -/
def atomic {w : Nat} (o : AtomOp) (old b c : BitVec w) : BitVec w :=
  match o with
  | .add => BitVec.ofNat w (old.toNat + b.toNat)
  | .min => if old.toInt ≤ b.toInt then old else b
  | .max => if b.toInt ≤ old.toInt then old else b
  | .and => old &&& b
  | .or => old ||| b
  | .xor => old ^^^ b
  | .xch => b
  | .cas => if old = b then c else old
/-- The atomics of a set on a byte memory, lane after lane: the memory afterwards, and what each lane found (R130). -/
def atomicChain (o : AtomOp) (start : Nat → Nat) (b c : Nat → Word) : List Nat → (Nat → Byte) → (Nat → Byte) × (Nat → Word)
  | [], m => (m, fun _ => 0#32)
  | l :: ls, m =>
    let old : Word := m (start l + 3) ++ m (start l + 2) ++ m (start l + 1) ++ m (start l)
    let new := bytesOfWord (atomic o old (b l) (c l))
    let r := atomicChain o start b c ls (fun x => if start l ≤ x ∧ x < start l + 4 then new.getD (x - start l) 0#8 else m x)
    (r.1, fun k => if k = l then old else r.2 k)

/-- A packet with a body has been sent from one node to another (R272): it waits to go out, or is on the mesh of its node. -/
def Sent (s : State) (src dst : Nat) (b : Body) : Prop :=
  ∃ p : Packet, p.src = src ∧ p.dst = dst ∧ p.body = b
    ∧ (if dst = src then ∃ m ∈ (s.node src).mesh, m.item = Item.pkt p else Item.pkt p ∈ (s.node src).out)
/-- Orders 2 to 5 of R123 for an access of `n` bytes of a task under a leaf. -/
def refusedBy (s : State) (k : Task) (l : Leaf) (a : Acc) (n : Nat) : Option Cause :=
  let stores : Bool := decide (a = .write ∨ a = .atomic)
  let dir : Bool := match a with
    | .read => l.r
    | .write => l.w
    | .exec => l.x
    | .atomic => l.r && l.w
  let kindOk : Bool := if a = .atomic then decide (l.kind < 2) else decide (l.kind ≠ 3 ∨ n ≤ 8)
  let raw : Bool := l.region == 0 || match s.plat.policies.find l.region with
    | some p => p.raw
    | none => false
  if dir = false ∨ (k.priv = false ∧ l.u = false) ∨ kindOk = false then some .permission
  else if l.sab = true then some .permission
  else if l.pub = true ∧ stores = true then some .permission
  else if raw = false then some .regionRaw
  else none
/-- The first check of R122 and R123 that an access with a translation fails. -/
def accessFails (s : State) (c : GCtx) (va : DWord) (n : Nat) (a : Acc) : Option Cause :=
  if va.toInt < -2 ^ 47 ∨ 2 ^ 47 ≤ va.toInt then some .permission
  else if va.toNat % n ≠ 0 then some .align
  else match lookup s c.core c.task.space (va.toNat % 2 ^ 48) with
    | .ok l => refusedBy s c.task l a n
    | .error _ => none
/-- An access passes every check: the place that it reaches. -/
def Reaches (s : State) (c : GCtx) (va : DWord) (n : Nat) (a : Acc) (loc : Loc) : Prop :=
  accessFails s c va n a = none ∧ ∃ l, lookup s c.core c.task.space (va.toNat % 2 ^ 48) = .ok l
    ∧ loc = { kind := l.kind, pa := l.pa + va.toNat % 2 ^ 48 % l.size, pub := if l.pub then l.size else 0 }
    ∧ homeOf loc ∉ s.removed
/-- Accesses have been issued: nothing changes but threads, queues of accesses, what nodes have sent, the translations that the core caches, and the
numbers given out. -/
def Issued (c : GCtx) (s u : State) : Prop :=
  u = { s with threads := u.threads, cores := u.cores, opqs := u.opqs, nodes := u.nodes, nextId := u.nextId }
  ∧ (∀ k, u.core k = if k = c.core then { s.core k with cached := (u.core k).cached } else s.core k)
  ∧ ∀ k, ¬(k / 64 = c.gk ∧ k % 64 ∈ c.path.lanes) → u.threads.find k = s.threads.find k
/-- The forms of R122 and R266 that reach global memory: address, bytes, direction, what the access does, and the registers that await it. -/
def global : Instr → Option ((Thread → DWord) × Nat × Acc × (Thread → OpKind) × (Thread → List Nat))
  | .ld d a _ z o => some (globalAt z a o, width z, .read, fun th => .load (.size z) ((List.range (regsOf z)).map (fun k => th.ix d + k)),
      fun th => (List.range (regsOf z)).map (fun k => th.ix d + k))
  | .st d a _ z o => some (globalAt z a o, width z, .write, fun th => .store (sentBytes z d th), fun _ => [])
  | .atom32 d a b _ _ o _ => some (fun th => th.rd2 a, 4, .atomic,
      fun th => .atom o (th.rd b).toNat (if o = .cas then (th.reg (th.ix b + 1)).toNat else 0) [th.ix d], fun _ => [])
  | .atom64 d a b _ _ o _ => some (fun th => th.rd2 a, 8, .atomic,
      fun th => .atom o (th.rd2 b).toNat (if o = .cas then (th.reg (th.ix b + 3) ++ th.reg (th.ix b + 2)).toNat else 0) [th.ix d, th.ix d + 1],
      fun _ => [])
  | _ => none
/-- The conditions under which a thread's accesses may leave (R253, R254, R281, R283). -/
def mayIssue (s : State) (c : GCtx) (a : Acc) : Prop :=
  roomFor s (c.core / 96) c.path.lanes.length = true ∧ (a ≠ .read → ∀ l ∈ c.path.lanes, quiet s (s.thread c.gk l).ops = true)
/-- What a thread does at its team's scratchpad may be done: no load of the thread is unanswered, no store unsent, and no SEND of it to the
scratchpad is on its way (R253 to R257). -/
def mayTouchSpad (s : State) (c : GCtx) : Prop :=
  ∀ l ∈ c.path.lanes, quiet s (s.thread c.gk l).ops = true
    ∧ ∀ x ∈ s.sends, ¬(x.uid = c.team.uid ∧ x.gid = c.group.gid ∧ x.lane = l ∧ (x.dest_ = Consumer.spad ∨ x.dest_ = Consumer.stage))
/-- The scratchpad words that an instruction reaches within the limit and aligned (R122, R130, R144): the address and the bytes. -/
def spadReach : Instr → Option ((Thread → Nat) × Nat)
  | .lds _ a _ z o => some (localAt z a o, width z)
  | .sts _ a _ z o => some (localAt z a o, width z)
  | .atoms _ a _ _ _ _ => some (fun th => (th.rd a).toNat, 4)
  | .send _ b _ _ m => if m.getLsbD 2 && !m.getLsbD 1 && !m.getLsbD 3 && !m.getLsbD 4 then some (fun th => (th.rd b).toNat % 2 ^ 21, 4) else none
  | _ => none
/-- The running path has passed checks 3 and 4 of R46 at an instruction of its clause, and a handler takes its threads' traps. -/
structure Checked (i : Instr) (s : State) (c : GCtx) : Prop where
  ctx : gctx s = some c
  lanes : c.path.lanes ≠ []
  cls : i.classOk c.path.pos.cls = true
  full : ∀ l ∈ c.path.lanes, operandTrap i (s.thread c.gk l) = none
  free : ∀ l ∈ c.path.lanes, operandWait i (s.thread c.gk l) = false
  inside : c.path.pos.remain ≠ 0 ∧ c.path.pos.remain < 16
  handled : AllHandled s c

/-- The PHASE that waits see: one that a wider network has changed in this clk counts from the next (R49). -/
def seenPhase (s : State) (tm : Team) (k : Nat) : Bool := (tm.bars.get k Barrier.initial).phase != s.fresh.phases.contains (tm.uid, k)
/-- The wait of a fence is met for a thread: of what it issued before, no write that its scope names has still to be applied (R264). -/
def fenceOver (s : State) (c : GCtx) (scope : Net) (upto l : Nat) : Prop :=
  (∀ o ∈ opsOf s (s.thread c.gk l).ops, o.id < upto → o.kind.isLoad = false →
    scope = .core ∨ scope = .quad ∨ (scope = .die ∧ homeOf o.loc ≠ c.team.core / 96))
  ∧ (∀ i ∈ s.sends, i.uid = c.team.uid → i.gid = c.group.gid → i.lane = l → i.id < upto → scope = .core ∧ i.dest_ = Consumer.next)
  ∧ (scope = .pod → ∀ e ∈ s.fibres, ∀ f ∈ e.2.waiting, ∀ n p bs, f.2 ≠ .write n p bs)

/-- A row of R141: the destination, and what the word written in lane `l` of the set is; `th` are the threads, `set` the lanes in ascending order. -/
abbrev CrossRow := BitVec 6 × ((Nat → Thread) → List Nat → Nat → Word → Prop)
/-- The word of a chosen source lane, or the fill (R139). -/
def fromLane (d a : BitVec 6) (src : Int) (th : Nat → Thread) (set : List Nat) (l : Nat) (w : Word) : Prop :=
  (∀ m ∈ set, (m : Int) = src → w = (th m).rd a) ∧ ((∀ m ∈ set, (m : Int) ≠ src) → w = (th l).rd d)
/-- The exact sum of FP32 values, with the rules of R142 for NaNs, infinities and zeros. -/
def sumAll (vs : List Ext) : Ext :=
  if .nan ∈ vs ∨ (.inf true ∈ vs ∧ .inf false ∈ vs) then .nan
  else if .inf true ∈ vs then .inf true
  else if .inf false ∈ vs then .inf false
  else
    let x : ℚ := (vs.map Ext.x).sum
    if x = 0 then .num (vs.all (fun v => v.sign && decide (v.x = 0))) 0 else .num (decide (x < 0)) x
/-- The table of R141. -/
def r141 : Instr → Option CrossRow
  | .xperm d a b _ _ => some (d, fun th set l w => fromLane d a ((th l).rd b).toNat th set l w)
  | .xup d a b _ _ => some (d, fun th set l w => fromLane d a (l - ((th l).rd b).toNat) th set l w)
  | .xdown d a b _ _ => some (d, fun th set l w => fromLane d a (l + ((th l).rd b).toNat) th set l w)
  | .xxor d a b _ _ => some (d, fun th set l w => fromLane d a (Nat.xor l ((th l).rd b).toNat) th set l w)
  | .xstep d a _ => some (d, fun th set l w =>
      (∀ m ∈ set, m < l → (∀ k ∈ set, k < l → k ≤ m) → w = (th m).rd a) ∧ ((∀ m ∈ set, l ≤ m) → w = (th l).rd d))
  | .xredadd d a _ => some (d, fun th set _ w => w = BitVec.ofNat 32 (set.map (fun m => ((th m).rd a).toNat)).sum)
  | .xredmax d a _ => some (d, fun th set _ w => (∃ m ∈ set, w = (th m).rd a) ∧ ∀ m ∈ set, ((th m).rd a).toInt ≤ w.toInt)
  | .xredmin d a _ => some (d, fun th set _ w => (∃ m ∈ set, w = (th m).rd a) ∧ ∀ m ∈ set, w.toInt ≤ ((th m).rd a).toInt)
  | .xredand d a _ => some (d, fun th set _ w => ∀ k < 32, w.getLsbD k = true ↔ ∀ m ∈ set, ((th m).rd a).getLsbD k = true)
  | .xredor d a _ => some (d, fun th set _ w => ∀ k < 32, w.getLsbD k = true ↔ ∃ m ∈ set, ((th m).rd a).getLsbD k = true)
  | .xredfadd d a _ => some (d, fun th set _ w => RoundsTo fp32 .rn (sumAll (set.map (fun m => fp ((th m).rd a)))) w.toNat)
  | .xredfmax d a _ => some (d, fun th set _ w =>
      if ∃ m ∈ set, fp ((th m).rd a) = .nan then w = 0x7FC00000#32
      else (∃ m ∈ set, w = (th m).rd a) ∧ ∀ m ∈ set, smaller (fp w) (fp ((th m).rd a)) = false)
  | .xscanadd d a _ => some (d, fun th set l w =>
      w = BitVec.ofNat 32 ((set.filter (fun m => decide (m ≤ l))).map (fun m => ((th m).rd a).toNat)).sum)
  | .xbal d p => some (d, fun th set _ w => w = BitVec.ofNat 32 (set.filter (fun m => (th m).pred p)).length)
  | _ => none

/-- The vector side of SA (R232): the address register, the operation, the destination of a read, and the trap policy. -/
def r232 : Instr → Option (BitVec 6 × (Thread → SaOp) × Option (BitVec 6) × Bool)
  | .saadd a b x _ => some (a, fun th => .add (th.rd b), none, x)
  | .saaddh a b x _ => some (a, fun th => .addh (th.rd b), none, x)
  | .sard d a x => some (a, fun _ => .rd, some d, x)
  | .sardh d a x => some (a, fun _ => .rdh, some d, x)
  | .sardq d a x => some (a, fun _ => .rdq, some d, x)
  | .sawait a x => some (a, fun _ => .wait, none, x)
  | .sacnt d a x => some (a, fun _ => .cnt, some d, x)
  | _ => none
/-- The local checks of an SA address, of an operation on `n` elements (R220, R232, R233): a row whose scope holds the core, alignment, and finite
values. -/
def saLocal (core : Nat) (addr n : Nat) (values : List Word) : Option Cause :=
  let scope := addr / 2 ^ 27 % 4
  let die := addr / 2 ^ 29 % 8
  let quad := addr / 2 ^ 22 % 32
  if scope = 3 ∨ (scope = 0 ∧ (24 ≤ quad ∨ die ≠ core / 96 ∨ quad ≠ core % 96 / 4)) ∨ (scope = 1 ∧ die ≠ core / 96) then some .saScope
  else if n ≠ 0 ∧ addr % n ≠ 0 then some .align
  else if values.any (fun w => !(fp w).finite) then some .saInvalid
  else none
/-- Elements and values of an SA operation (R232, R233). -/
def saShape : SaOp → Nat × List Word
  | .add x => (1, [x])
  | .addh x => (2, [BitVec.ofNat 32 (x.toNat % 2 ^ 16 * 2 ^ 16), BitVec.ofNat 32 (x.toNat / 2 ^ 16 * 2 ^ 16)])
  | .rd => (1, [])
  | .rdh => (2, [])
  | .rdq => (4, [])
  | .wait => (0, [])
  | .cnt => (0, [])

/-! ## The lead (R30 to R35, R111, R115 to R120, R134, R148 to R163, R199 to R213, R236 to R246, R308 to R314) -/

/-- The lead `c` is changed by `f` and leaves the issue slot of its core, and nothing else changes. -/
def LeadAt (c : LCtx) (f : Lead → Lead) (s t : State) : Prop :=
  t = { s with teams := t.teams, cores := t.cores }
  ∧ (∀ k, t.teams.find k = if k = c.tk then (s.teams.find k).map (fun tm => { tm with lead := f tm.lead }) else s.teams.find k)
  ∧ ∀ k, t.core k = if k = c.core then { s.core k with lHold := none } else s.core k
/-- The lead has gone on to its next word and waits at the command `i` for `w`. -/
def LeadWaits (c : LCtx) (i : Instr) (w : LWait) (s t : State) : Prop :=
  LeadAt c (fun l => { l with pc := l.pc + 4#64, remain := l.remain - 1, wait := w, cmd := wordOf i }) s t
/-- Of the cores only the translations that the core of `c` caches have changed. -/
def OnlyCached (core : Nat) (s u : State) : Prop :=
  ∀ k, u.core k = if k = core then { s.core k with cached := (u.core k).cached } else s.core k
/-- Of the teams only the one of `c` has changed: it is now `tm`. -/
def TeamNow (tk : Nat) (tm : Team) (s u : State) : Prop :=
  u.teams.find tk = some tm ∧ ∀ k, k ≠ tk → u.teams.find k = s.teams.find k

/-- An entry has been made (R33). -/
def entryMade (tm : Team) (q : Nat × BitVec 16) : Bool := decide ((q.2 - tm.dqFirst).toNat < (tm.qsent - tm.dqFirst).toNat)
/-- A thread of a team awaits an entry that has not been made. -/
def awaitsNone (s : State) (tk : Nat) (tm : Team) (key : Nat) : Prop :=
  (∃ e ∈ s.groups, e.1 = key / 64 ∧ e.2.team = tk) ∧ ∃ th, s.threads.find key = some th ∧ ∃ q ∈ th.qpend, entryMade tm q = false
/-- Those threads have no atomic on its way: a set that waits for one issues nothing (R266). -/
def noAtomic (s : State) (tk : Nat) (tm : Team) : Prop :=
  ∀ key th oq, awaitsNone s tk tm key → s.threads.find key = some th → s.opqs.find th.ops = some oq →
    (∃ uid gid lane, oq.who = .thread uid gid lane) ∧ ∀ o ∈ oq.ops, ∀ x b c dst, o.kind ≠ .atom x b c dst
/-- The lead of a team is over, and stands as `lead` says (R32, R35, R37, R136, R145, R253): it is no producer and no party any more, pairs that await an entry never made are closed and hold nothing
behind them back, what was sent to its inbox is dropped and counted, and the issue slot is free. -/
def LeadOver (tk core : Nat) (tm : Team) (lead : Lead) (s t : State) : Prop :=
  ∃ bars, ∃ pend : Nat → List Pend → List Pend,
    t = { s with teams := t.teams, threads := t.threads, sends := t.sends, tasks := t.tasks, cores := t.cores, opqs := t.opqs, nodes := t.nodes }
    ∧ TeamNow tk { tm with lead := lead, producer := false, bars := bars } s t
    ∧ (∀ k, SMap.get bars k Barrier.initial =
        let b := tm.bars.get k Barrier.initial
        if b.net = .core ∧ b.members.getLsbD 8 = true then { b with n := b.n - 1, members := b.members &&& ~~~0x100#16 } else b)
    ∧ t.sends = s.sends.filter (fun x => !(x.uid == tm.uid && x.dest_ == Consumer.lead))
    ∧ (∀ k, t.tasks.find k =
        let n := 4 * (s.sends.filter (fun x => x.uid == tm.uid && x.dest_ == Consumer.lead && x.task == k)).length
        (s.tasks.find k).map (fun x => if n = 0 then x else
          { x with drop := true, dropb := BitVec.ofNat 32 (Nat.min (x.dropb.toNat + n) (2 ^ 32 - 1)) }))
    ∧ (∀ key, ¬awaitsNone s tk tm key → t.threads.find key = (s.threads.find key).map (fun th => { th with pend := pend key th.pend }))
    ∧ (∀ key th, awaitsNone s tk tm key → s.threads.find key = some th →
        t.threads.find key = some { th with
          qpend := th.qpend.filter (entryMade tm), pend := pend key th.pend,
          empty := (th.qpend.filter (fun q => !entryMade tm q)).foldl (fun m q =>
            notFull (q.1 + 1) (.closed .qClosed 0#32) (notFull q.1 (.closed .qClosed 0#32) m)) th.empty }
        ∧ ((opsOf t th.ops).filter MemOp.awaitsEntry).length ≤ (th.qpend.filter (entryMade tm)).length)
    ∧ ((∀ key, ¬awaitsNone s tk tm key) → t.opqs = s.opqs ∧ t.nodes = s.nodes ∧ ∀ key ps, pend key ps = ps)
    ∧ (∀ q, (∀ key th, awaitsNone s tk tm key → s.threads.find key = some th → th.ops ≠ q) → t.opqs.find q = s.opqs.find q)
    ∧ ∀ k, t.core k = if k = core then { s.core k with lHold := none } else s.core k

/-- s[d] := f(s[a], s[b]). -/
def lead2 (d a b : BitVec 6) (f : DWord → DWord → DWord) : Option (Lead → Lead) :=
  some (fun l => l.setReg d.toNat (f (l.reg a) (l.reg b)))
/-- s[d] := f(s[a]). -/
def lead1 (d a : BitVec 6) (f : DWord → DWord) : Option (Lead → Lead) := some (fun l => l.setReg d.toNat (f (l.reg a)))
/-- pd := f(lead). -/
def leadP (d : BitVec 3) (f : Lead → Bool) : Option (Lead → Lead) := some (fun l => l.setPred d (f l))
/-- The scalar rows of R117. -/
def r117 : Instr → Option (Lead → Lead)
  | .ladd d a b => lead2 d a b (fun u v => BitVec.ofNat 64 (u.toNat + v.toNat))
  | .lsub d a b => lead2 d a b (fun u v => BitVec.ofInt 64 (u.toNat - v.toNat))
  | .land d a b => lead2 d a b (fun u v => u &&& v)
  | .lor d a b => lead2 d a b (fun u v => u ||| v)
  | .lxor d a b => lead2 d a b (fun u v => u ^^^ v)
  | .landn d a b => lead2 d a b (fun u v => u &&& ~~~v)
  | .lshl d a b => lead2 d a b (fun u v => shiftLeft u v.toNat)
  | .lshr d a b => lead2 d a b (fun u v => shiftRight u v.toNat)
  | .lsar d a b => lead2 d a b (fun u v => shiftSigned u v.toNat)
  | .lmin d a b => lead2 d a b (fun u v => if u.toInt ≤ v.toInt then u else v)
  | .lmax d a b => lead2 d a b (fun u v => if u.toInt ≤ v.toInt then v else u)
  | .lminu d a b => lead2 d a b (fun u v => if u.toNat ≤ v.toNat then u else v)
  | .lmaxu d a b => lead2 d a b (fun u v => if u.toNat ≤ v.toNat then v else u)
  | .lmul d a b => lead2 d a b (fun u v => BitVec.ofNat 64 (u.toNat * v.toNat))
  | .lmulh d a b => lead2 d a b (fun u v => BitVec.ofInt 64 (u.toInt * v.toInt / 2 ^ 64))
  | .lmulhu d a b => lead2 d a b (fun u v => BitVec.ofNat 64 (u.toNat * v.toNat / 2 ^ 64))
  | .lmov d a => lead1 d a (fun u => u)
  | .lnot d a => lead1 d a (fun u => ~~~u)
  | .lneg d a => lead1 d a (fun u => BitVec.ofInt 64 (-(u.toNat : Int)))
  | .lclz d a => lead1 d a (fun u => BitVec.ofNat 64 (firstOneFromTop u))
  | .lpopc d a => lead1 d a (fun u => BitVec.ofNat 64 (oneBits u))
  | .lcmp p a b k => leadP p (fun l => condition k (l.reg a) (l.reg b))
  | .lsel d a b k => some (fun l => l.setReg d.toNat (if l.pred k then l.reg a else l.reg b))
  | .lpand d a b => leadP d (fun l => l.pred a && l.pred b)
  | .lpor d a b => leadP d (fun l => l.pred a || l.pred b)
  | .lpxor d a b => leadP d (fun l => l.pred a != l.pred b)
  | .lpnot d a => leadP d (fun l => !l.pred a)
  | _ => none
/-- The table of R118. -/
def r118 : Instr → Option (Lead → Lead)
  | .lmovi d i => some (fun l => l.setReg d.toNat (BitVec.ofInt 64 i.toInt))
  | .laddi d a i => lead1 d a (fun u => BitVec.ofInt 64 (u.toNat + i.toInt))
  | .landi d a i => lead1 d a (fun u => u &&& BitVec.ofInt 64 i.toInt)
  | .lori d a i => lead1 d a (fun u => u ||| BitVec.ofInt 64 i.toInt)
  | .lshli d a n => lead1 d a (fun u => shiftLeft u n.toNat)
  | .lshri d a n => lead1 d a (fun u => shiftRight u n.toNat)
  | .lsari d a n => lead1 d a (fun u => shiftSigned u n.toNat)
  | .lshin d i => lead1 d d (fun u => BitVec.ofNat 64 (u.toNat * 2 ^ 11) ||| BitVec.ofNat 64 i.toNat)
  | _ => none
/-- The transfers of R119: the displacement, and when they are taken. -/
def r119 : Instr → Option (BitVec 19 × (Lead → Bool))
  | .lbr s => some (s, fun _ => true)
  | .lbrp p s => some (s, fun l => l.pred p)
  | .lbrn p s => some (s, fun l => !l.pred p)
  | _ => none

/-- Every live thread of a team has read the entry `i` places after the oldest that is held (R33). -/
def entryIsRead (s : State) (tk : Nat) (first : BitVec 16) (i : Nat) : Prop :=
  ∀ e ∈ s.groups, e.2.team = tk → ∀ l < 64, (s.thread e.1 l).live = true →
    i < ((s.thread e.1 l).qrd - first).toNat ∧ ∀ q ∈ (s.thread e.1 l).qpend, q.2 ≠ first + BitVec.ofNat 16 i
/-- The oldest `r` entries, and no more, of a team's decision queue have been released (R33, R38). -/
def Released (s : State) (c : LCtx) (r : Nat) : Prop :=
  c.team.dq.length ≤ 64 ∧ r ≤ c.team.dq.length ∧ (∀ i < r, entryIsRead s c.tk c.team.dqFirst i)
  ∧ (r < c.team.dq.length → ¬entryIsRead s c.tk c.team.dqFirst r)
/-- The team's queue holds `dq`, `r` entries having been released. -/
def holds (s : State) (c : LCtx) (r : Nat) (dq : List DWord) (sent : BitVec 16) : State :=
  { s with teams := s.teams.mod c.tk (fun tm => { tm with dq := dq, dqFirst := c.team.dqFirst + BitVec.ofNat 16 r, qsent := sent }) }
/-- The specials of R111 that the lead reads, but QFREE. -/
def r111lead (s : State) (c : LCtx) : Nat → Option DWord
  | 0x10 => some (BitVec.ofNat 64 s.time.toNat)
  | 0x11 => some (BitVec.ofNat 64 (s.time.toNat / 2 ^ 32))
  | n => (r111both s c.team c.task n).map (fun w => BitVec.ofNat 64 w.toNat)
/-- An access of a lead passes every check of R122 and R123: the place that it reaches. -/
def LeadReaches (s : State) (c : LCtx) (va : DWord) (n : Nat) (a : Acc) (loc : Loc) : Prop :=
  -2 ^ 47 ≤ va.toInt ∧ va.toInt < 2 ^ 47 ∧ va.toNat % n = 0
  ∧ ∃ l, lookup s c.core c.task.space (va.toNat % 2 ^ 48) = .ok l ∧ refusedBy s c.task l a n = none
    ∧ loc = { kind := l.kind, pa := l.pa + va.toNat % 2 ^ 48 % l.size, pub := if l.pub then l.size else 0 }
    ∧ homeOf loc ∉ s.removed

/-- The sets and the configuration of the array that a team has, or will have as holder (R205). -/
def arrayOf (s : State) (c : LCtx) : ArraySt :=
  if arrayHolder s c.core = some c.team.uid then (s.core c.core).array
  else { c.team.array.getD ArraySt.initial with holder := some c.team.uid }
/-- As they will stand when a command that issues now runs (R206). -/
def arrayAhead (s : State) (c : LCtx) : ArraySt := c.team.mats.foldl (fun a m => a.after m.op) (arrayOf s c)
/-- A team may give the array commands (R205). -/
def mayCommand (s : State) (c : LCtx) : Prop :=
  c.team.accg ≠ 0 ∧ (arrayHolder s c.core = none ∨ arrayHolder s c.core = some c.team.uid)
/-- Commands that take effect at their turn (R207, R210). -/
def instant (m : MatCmd) : Bool :=
  match m.op with
  | .mcfg _ => true
  | .mswap => true
  | _ => false
/-- The lead's team is the holder of its core's array, on which it has run `ran` since, and its queue holds `queue` (R205, R206). -/
def Commands (c : LCtx) (ran queue : List MatCmd) (s u : State) : Prop :=
  u = { s with teams := u.teams, cores := u.cores, nextId := u.nextId }
  ∧ TeamNow c.tk { c.team with
      mats := queue, array := if arrayHolder s c.core = some c.team.uid then c.team.array else none } s u
  ∧ ∀ k, u.core k = if k = c.core then { s.core k with array := ran.foldl (fun a m => a.after m.op) (arrayOf s c) } else s.core k
/-- A command of the array has been queued, with what is left of its charge, and those at the head that take effect at once have run. -/
def Commanded (c : LCtx) (i : Instr) (op : MatOp) (left : Nat) (s t : State) : Prop :=
  ∃ u, LeadOn c u t ∧ u.nextId = s.nextId + 1
    ∧ (let new : MatCmd := MatCmd.mk s.nextId op left (CmdAt.mk c.team.lead.pc (wordOf i) c.team.lead.remain)
       Commands c ((c.team.mats ++ [new]).takeWhile instant) ((c.team.mats ++ [new]).dropWhile instant) s u)

/-- What each copy command finds at issue (R148, R149, R154 to R159): whether ARV is set, its barrier, and its plan. -/
def r148 : Instr → Option (Bool × BitVec 3 × (State → LCtx → CopyPlan → Prop))
  | .cpyin d a b v imm k => some (v, k, fun s c p =>
      let n := if imm then 16 * (b.toNat + 1) else (c.team.lead.reg b).toNat
      let m := if imm then 0 else (c.team.lead.reg (b + 1#6)).toNat
      let x := (c.team.lead.reg d).toNat
      n ≤ 2 ^ 24 ∧ n % 4 = 0 ∧ m < 16 ∧ x + n ≤ 16384 * c.team.spadg ∧ x < 2 ^ 32 ∧ x % 4 = 0
      ∧ ∃ ps, copyRange s c .read (c.team.lead.reg a) n = .ok ps
        ∧ p = CopyPlan.mk n (if m = 0 ∨ m.testBit (c.core % 4) then n else 0) .cpyin x
            (if m = 0 then [c.core] else ((List.range 4).filter (fun j => m.testBit j)).map (fun j => c.core / 4 * 4 + j))
            (ps.map Prod.fst) [])
  | .cpyout d a b v imm k => some (v, k, fun s c p =>
      let n := if imm then 16 * (b.toNat + 1) else (c.team.lead.reg b).toNat
      let m := if imm then 0 else (c.team.lead.reg (b + 1#6)).toNat
      let x := (c.team.lead.reg a).toNat
      n ≤ 2 ^ 24 ∧ n % 4 = 0 ∧ m = 0 ∧ x + n ≤ 16384 * c.team.spadg ∧ x < 2 ^ 32 ∧ x % 4 = 0
      ∧ ∃ ps, copyRange s c .write (c.team.lead.reg d) n = .ok ps ∧ p = CopyPlan.mk n n .cpyout x [] [] (ps.map Prod.fst))
  | .cpyg d a b v k => some (v, k, fun s c p =>
      let n := (c.team.lead.reg b).toNat
      let w := (c.team.lead.reg (b + 1#6)).toNat
      let rows := w / 2 ^ 48 + 1
      let srow := w % 2 ^ 24
      let drow := w / 2 ^ 24 % 2 ^ 24
      n ≤ 2 ^ 24 ∧ n % 4 = 0 ∧ srow % 4 = 0 ∧ drow % 4 = 0
      ∧ ∃ ps qs, copyRows s c .read n ((List.range rows).map (fun r => c.team.lead.reg a + BitVec.ofNat 64 (r * srow))) = .ok ps
        ∧ copyRows s c .write n ((List.range rows).map (fun r => c.team.lead.reg d + BitVec.ofNat 64 (r * drow))) = .ok qs
        ∧ formatsClash (ps.length + qs.length) ps qs = false
        ∧ p = CopyPlan.mk (rows * n) (rows * n) .cpyg 0 [] (ps.map Prod.fst) (qs.map Prod.fst))
  | .gath d a b v k => some (v, k, fun s c p =>
      let n := (c.team.lead.reg b).toNat
      let w := (c.team.lead.reg (b + 1#6)).toNat
      let rows := w / 2 ^ 51 % 2 ^ 12 + 1
      let list := w / 2 ^ 24 % 2 ^ 24
      let stride := w % 2 ^ 24
      let x := (c.team.lead.reg d).toNat
      let row : Nat → DWord := fun r =>
        c.team.lead.reg a + BitVec.ofNat 64 (leNat ((List.range 4).map (fun j => spadByte c.team (list + 4 * r + j))) * stride)
      n ≤ 2 ^ 24 ∧ n % 4 = 0 ∧ w / 2 ^ 48 % 8 = 0 ∧ stride % 4 = 0
      ∧ list + 4 * rows ≤ 16384 * c.team.spadg ∧ list % 4 = 0
      ∧ (∀ e ∈ c.team.absent, ¬(list / 64 ≤ e.1 ∧ 64 * e.1 < list + 4 * rows))
      ∧ ∃ ps, copyRows s c .read n ((List.range rows).map row) = .ok ps
        ∧ ((w < 2 ^ 63 ∧ x + rows * n ≤ 16384 * c.team.spadg ∧ x < 2 ^ 32 ∧ x % 4 = 0
            ∧ p = CopyPlan.mk (rows * n) (rows * n) .gath x [c.core] (ps.map Prod.fst) [])
          ∨ (2 ^ 63 ≤ w ∧ ∃ qs, copyRows s c .write n ((List.range rows).map (fun r => c.team.lead.reg d + BitVec.ofNat 64 (r * n))) = .ok qs
            ∧ formatsClash (ps.length + qs.length) ps qs = false
            ∧ p = CopyPlan.mk (rows * n) (rows * n) .gathg 0 [] (ps.map Prod.fst) (qs.map Prod.fst))))
  | _ => none

/-- The copy `id` of a task has issued: on the cores but `core` the lines of the teams that receive it, at their team's number, have become absent (R74, R127, R146, R154). -/
def Opened (p : CopyPlan) (core task id : Nat) (s u : State) : Prop :=
  let others := p.cores.filter (fun k => k != core)
  let takes : Nat → Option Nat := fun k => (receiver s task k).bind (fun uid =>
    (anyTeam s uid).bind (fun t => if p.addr + p.bytes ≤ 16384 * t.spadg then some uid else none))
  u = { s with teams := u.teams, images := u.images, copies := u.copies }
  ∧ (others = [] → u = s)
  ∧ (∀ n, n ≠ id → u.copies.find n = s.copies.find n)
  ∧ (∀ x, s.copies.find id = some x → ∃ r, u.copies.find id = some { x with recv := r }
      ∧ ∀ k, SMap.find r k = if k ∈ others ∧ (takes k).isSome then takes k else x.recv.find k)
  ∧ ((s.teams.map Prod.fst).Nodup → (s.images.map Prod.fst).Nodup → ∀ uid t, anyTeam s uid = some t →
      ∃ ab, anyTeam u uid = some { t with absent := ab }
        ∧ ∀ line, SMap.get ab line 0 = t.absent.get line 0
          + if p.addr / 64 ≤ line ∧ 64 * line < p.addr + p.bytes then (others.filter (fun k => takes k == some uid)).length else 0)

/-- A row that an SA address names, and the die that is its home (R220). -/
def rowOf (a : DWord) (row die : Nat) : Prop :=
  a.toNat < 2 ^ 32 ∧ a.toNat / 2 ^ 27 % 4 ≠ 3 ∧ (a.toNat / 2 ^ 27 % 4 = 0 → a.toNat / 2 ^ 22 % 32 < 24)
  ∧ row = a.toNat / 2 ^ 15 ∧ die = a.toNat / 2 ^ 29
/-- The window and the lead's earlier accesses let a command leave (R253, R283). -/
def mayLeave (s : State) (c : LCtx) : Prop := roomFor s (c.core / 96) 1 = true ∧ quiet s c.team.lead.ops = true
/-- A command is on its way to the home of its row, and the lead waits for its answer (R237). -/
def SaSent (c : LCtx) (i : Instr) (cmd : SaCmd) (home cost back : Nat) (s t : State) : Prop :=
  ∃ u, LeadWaits c i (.saCmd s.nextId (wordOf i) cost back) u t ∧ u = { s with nodes := u.nodes, nextId := u.nextId }
    ∧ Sent u (c.core / 96) home (.saCmd s.nextId c.team.uid c.team.task (c.core / 96) cmd)
/-- The commands on one row of R236 that cost 4 AU: the register that names the row, the further check, and the command. -/
def r236 : Instr → Option (BitVec 6 × (LCtx → Prop) × (LCtx → Nat → SaCmd))
  | .saopen a b => some (a, fun c => 1 ≤ (c.team.lead.reg b).toNat ∧ (c.team.lead.reg b).toNat < 2 ^ 32,
      fun c row => .open_ row (c.team.lead.reg b).toNat)
  | .saclr a => some (a, fun _ => True, fun _ row => .clear row)
  | .safree a => some (a, fun _ => True, fun _ row => .free row)
  | _ => none
/-- A row is allocated for a lead, or there is no room for it: the address that s[d] receives (R239, R246). -/
def RowGiven (c : LCtx) (d : BitVec 6) (r : Row) (s t : State) : Prop :=
  match freeRowId s r.scope c.core r.n with
  | some id => LeadRan c (fun l => l.setReg d.toNat (BitVec.ofNat 64 (id * 2 ^ 15))) { s with rows := s.rows.put id r } t
  | none => LeadRan c (fun l => l.setReg d.toNat 0xFFFFFFFFFFFFFFFF#64) s t
/-- Bytes of memory have been read in one step: a core has cached their translations, and its node has sent a read to each of their homes and knows what they have applied
(R254, R272). -/
def HasRead (core : Nat) (s u : State) : Prop :=
  u = { s with cores := u.cores, nodes := u.nodes } ∧ OnlyCached core s u
  ∧ ∀ n, u.node n = if n = core / 96 then { s.node n with c := (u.node n).c, k := (u.node n).k, a := (u.node n).a } else s.node n

/-- The commands that a child's home unit answers (R310, R311, R313, R314): the handle's register and what the lead waits for. -/
def r308 : Instr → Option (BitVec 6 × (BitVec 32 → LWait))
  | .join d a => some (a, fun h => .unit 2 d.toNat h)
  | .tstat d a => some (a, fun h => .unit 3 d.toNat h)
  | .alwrd d a => some (a, fun h => .unit 6 d.toNat h)
  | .unwind a => some (a, fun h => .unwind h)
  | _ => none
/-- A register holds the handle `h` of the child `k` of the lead's task (R294, R308). -/
def namesChild (s : State) (c : LCtx) (a : BitVec 6) (h : BitVec 32) (k : Nat) (x : Task) : Prop :=
  (c.team.lead.reg a).toNat = h.toNat ∧ k = h.toNat % 2 ^ 16 ∧ s.tasks.find k = some x ∧ x.parent = some c.team.task
  ∧ x.gen.toNat = h.toNat / 2 ^ 16

/-! ## The steps without an encoding -/

/-- One team is changed by `f`, and nothing else. -/
def OneTeam (tk : Nat) (f : Team → Team) (s t : State) : Prop :=
  t = { s with teams := t.teams } ∧ ∀ k, t.teams.find k = if k = tk then (s.teams.find k).map f else s.teams.find k
/-- One group is changed by `f`, and nothing else. -/
def OneGroup (gk : Nat) (f : Group → Group) (s t : State) : Prop :=
  t = { s with groups := t.groups } ∧ ∀ k, t.groups.find k = if k = gk then (s.groups.find k).map f else s.groups.find k
/-- One task is changed by `f`, and nothing else. -/
def OneTask (task : Nat) (f : Task → Task) (s t : State) : Prop :=
  t = { s with tasks := t.tasks } ∧ ∀ k, t.tasks.find k = if k = task then (s.tasks.find k).map f else s.tasks.find k
/-- Nothing changes but the translations that the core caches. -/
def Fetched (core : Nat) (s u : State) : Prop := u = { s with cores := u.cores } ∧ OnlyCached core s u

/-- A path's wait at a barrier, and the members whose wait it still is (R138). -/
def waitsAt (p : Path) : Option (Nat × List Nat) :=
  match p.wait with
  | .barw k ls => some (k, ls)
  | _ => none
/-- A lane's wait at barrier `k` is met (R138). -/
def waitMet (s : State) (tm : Team) (gk k l : Nat) : Bool := seenPhase s tm k != (s.thread gk l).waitb.getLsbD k
/-- What is left of a path's wait at a barrier. -/
def stillWaits (s : State) (tm : Team) (gk : Nat) (p : Path) : Path :=
  match waitsAt p with
  | some (k, ls) =>
    let rest := ls.filter (fun l => !waitMet s tm gk k l)
    { p with wait := if rest = [] then .none else .barw k rest }
  | none => p

/-- The word serves as a header (R42): its marker, N, a class, and zero where the layout of R41 has nothing. -/
def serves (w : Word) : Prop := w.toNat / 2 ^ 26 = 63 ∧ w.toNat / 2 ^ 22 % 16 ≠ 0 ∧ w.toNat / 2 ^ 19 % 8 < 6 ∧ w.toNat % 512 = 0
/-- The barriers that WAIT of a header names are met for one with these wait bits (R47), as the clk found them (R49). -/
def awaitedMet (s : State) (w : Word) (tm : Team) (waitb : BitVec 16) : Prop :=
  ∀ k < 8, w.getLsbD (10 + k) = true → seenPhase s tm k ≠ waitb.getLsbD k
/-- The wait bits once the header has issued (R47). -/
def inverted (w : Word) (waitb : BitVec 16) : BitVec 16 := waitb ^^^ BitVec.ofNat 16 (w.toNat / 2 ^ 10 % 256)
/-- WAIT and D of a header are met for a thread (R47, R48), and were when the clk began (R49). -/
def meets (s : State) (c : GCtx) (w : Word) (l : Nat) : Prop :=
  awaitedMet s w c.team (s.thread c.gk l).waitb ∧ (w.getLsbD 9 = true →
    (∀ o ∈ opsOf s (s.thread c.gk l).ops, o.kind.isLoad = true) ∧ (s.thread c.gk l).ops ∉ s.fresh.stores
    ∧ (∀ i ∈ s.sends, ¬(i.uid = c.team.uid ∧ i.gid = c.group.gid ∧ i.lane = l)) ∧ (c.team.uid, c.group.gid, l) ∉ s.fresh.sends)
/-- The same for a lead. -/
def leadMeets (s : State) (c : LCtx) (w : Word) : Prop :=
  awaitedMet s w c.team c.team.lead.waitb
  ∧ (w.getLsbD 9 = true → (∀ o ∈ opsOf s c.team.lead.ops, o.kind.isLoad = true) ∧ c.team.lead.ops ∉ s.fresh.stores)
/-- A parked thread joins the set at a header (R26). -/
def joinsAt (s : State) (c : GCtx) (w : Word) (l : Nat) : Prop :=
  ∃ q ∈ c.group.parked, l ∈ q.lanes ∧ q.pos.remain = 0 ∧ q.pos.pc = c.path.pos.pc
    ∧ (q.wait = .none ∨ ∃ scope upto, q.wait = .fence scope upto ∧ ∀ m ∈ q.lanes, fenceOver s c scope upto m)
    ∧ (s.thread c.gk l).trapMode = false ∧ meets s c w l
/-- The class of a header. -/
def classAt (w : Word) (k : Cls) : Prop := w.toNat / 2 ^ 19 % 8 = k.code.toNat
/-- A thread has trapped at a header: its record holds the cause, the word and the header's address, and zeros (R343, R344). -/
def TrappedAtHeader (w : Word) (pc : DWord) (cause : Cause) (old new : Thread) : Prop :=
  new = { old with t := new.t, trapMode := true, traps := old.traps + 1#32 }
  ∧ (new.reg 64).toNat = cause.code ∧ new.reg 65 = w ∧ new.reg 67 ++ new.reg 66 = pc
  ∧ ∀ k, 68 ≤ k → k < 72 → new.reg k = 0#32


/-- Of two sequence values the later one (R274). -/
def laterOf (a b : BitVec 16) : BitVec 16 := if (b - a).toNat < 2 ^ 15 then b else a
/-- A team is resident under its number. -/
def Resident (s : State) (uid tk : Nat) (tm : Team) : Prop := teamByUid s uid = some (tk, tm) ∧ s.teams.find tk = some tm
/-- The team of a task on a core with the lowest TEAM, resident or saved (R146). -/
def LowestThere (s : State) (task core uid : Nat) (tm : Team) : Prop :=
  tm.uid = uid ∧ tm.task = task ∧ tm.core = core
  ∧ (∀ e ∈ s.teams, e.2.task = task → e.2.core = core → e.2.uid ≠ uid → tm.index < e.2.index)
  ∧ ∀ e ∈ s.images, e.2.team.task = task → e.2.team.core = core → e.2.team.uid ≠ uid → tm.index < e.2.team.index
/-- A task has no team on a core. -/
def NoneThere (s : State) (task core : Nat) : Prop :=
  (∀ e ∈ s.teams, ¬(e.2.task = task ∧ e.2.core = core)) ∧ ∀ e ∈ s.images, ¬(e.2.team.task = task ∧ e.2.team.core = core)
/-- The copy status of a task after a drop of `n` bytes (R147, R315). -/
def dropped (n : Nat) (x : Task) : Task := { x with drop := true, dropb := BitVec.ofNat 32 (Nat.min (x.dropb.toNat + n) (2 ^ 32 - 1)) }
/-- The bytes stand in the team's scratchpad from `x` on, and all others as before. -/
def Holding (x : Nat) (bytes : List Byte) (old new : Team) : Prop :=
  ∀ a, spadByte new a = if x ≤ a ∧ a < x + bytes.length then bytes.getD (a - x) 0#8 else spadByte old a
/-- Bytes have been counted off a barrier at CORE, if one is named (R133, R144, R151). -/
def CountedOff (bar : Option Nat) (n : Nat) (old new : Team) : Prop :=
  ∀ k, new.bars.get k Barrier.initial =
    let b := old.bars.get k Barrier.initial
    if bar = some k ∧ b.net = .core ∧ n ≠ 0 then { b with pend := b.pend - BitVec.ofNat 48 n, touched := true } else b
/-- The barrier that CBAR of a destination word names (R144). -/
def barOf (dest : Word) : Option Nat := if dest.toNat / 2 ^ 28 = 0 then none else some (dest.toNat / 2 ^ 28 - 1)
/-- SPAD and STAGE, which write one scratchpad. -/
def writesSpad (d : Consumer) : Prop := d = .spad ∨ d = .stage
/-- Nothing that is on its way must be accepted before the item (R145, R257). -/
def mayAccept (before : List SendItem) (i : SendItem) : Prop :=
  ∀ e ∈ before, ¬(e.uid = i.uid ∧ e.gid = i.gid ∧ (e.dest_ = i.dest_ ∨ (writesSpad e.dest_ ∧ writesSpad i.dest_))
    ∧ (e.lane = i.lane ∨ (e.dest_ = Consumer.lead ∧ e.dest.toNat % 64 = i.dest.toNat % 64)))
/-- The two bytes pairs of a word, the lowest first. -/
def wordBytes (w : Word) : List Byte := (List.range 4).map (fun k => w.extractLsb' (8 * k) 8)
/-- A word of a copy has gone to a core, and the copy is complete when that was its last (R163). -/
def WordGone (cmd word core : Nat) (c : Copy) (y : CpWord) (s t : State) : Prop :=
  (∀ k, k ≠ cmd → t.copies.find k = s.copies.find k)
  ∧ (t.copies.find cmd = none ↔ ∀ e ∈ c.words, if e.1 = word then ∀ k ∈ c.cores, k = core ∨ k ∈ e.2.sent else e.2.done = true)
  ∧ ∀ d, t.copies.find cmd = some d → d = { c with words := d.words }
    ∧ ∀ w, w ≠ word → d.words.find w = c.words.find w
    ∧ ∃ z, d.words.find word = some z ∧ z.val = y.val ∧ z.sent = core :: y.sent

/-! ## Engines and homes at work -/

/-- A tile's element as its format's code gives it (R174, R177 to R179). -/
def weightValue (fmt code : Nat) : ℚ :=
  let signed : Nat → ℚ := fun s => if s % 2 = 1 then -1 else 1
  if fmt = 5 then ((BitVec.ofNat 8 code).toInt : ℚ)
  else if fmt = 6 then
    (if code / 16 % 8 = 7 then 0 else signed (code / 128) * (2 : ℚ) ^ (-((code / 16 % 8 : Nat) : ℤ)))
      + (if code % 8 = 7 then 0 else signed (code / 8) * (2 : ℚ) ^ (-((code % 8 : Nat) : ℤ)))
  else if fmt = 7 then
    let e : Nat → ℤ := fun c => (BitVec.ofNat 7 c).toInt
    (if code / 256 % 128 = 64 then 0 else signed (code / 2 ^ 15) * (2 : ℚ) ^ e (code / 256))
      + (if code % 128 = 64 then 0 else signed (code / 128) * (2 : ℚ) ^ e code)
  else (valueOf (fmtOf fmt) code).x
/-- The value of a term of the array (R179). -/
def termValue (t : Term) : ℚ := (if t.neg then -1 else 1) * (2 : ℚ) ^ t.exp
/-- The code of element `i` of a stretch of elements of `n` bytes. -/
def codeAt (bytes : List Byte) (n i : Nat) : Nat := leNat ((bytes.drop (n * i)).take n)
/-- The terms that a plane set holds of an element. -/
def termsOf (set : PlaneSet) (i : Nat) : List Term := (set.terms.find i).getD []
/-- R182: the products of block `blk` of column `n`. -/
def products (set : PlaneSet) (act : Nat → Ext) (n blk : Nat) : List Ext :=
  (List.range 32).flatMap (fun j =>
    (termsOf set (128 * n + 32 * blk + j)).map (fun t => productOf (.num t.neg (termValue t)) (act j)))
/-- R183: `w` is the block sum of some products. -/
def IsBlockSum (ps : List Ext) (w : Ext) : Prop :=
  if .nan ∈ ps ∨ (.inf true ∈ ps ∧ .inf false ∈ ps) then w = .nan
  else if .inf true ∈ ps then w = .inf true
  else if .inf false ∈ ps then w = .inf false
  else if ∀ p ∈ ps, p.x = 0 then w = .num false 0
  else ∃ m : ℤ, (∀ p ∈ ps, |p.x| < (2 : ℚ) ^ (m + 1)) ∧ (∃ p ∈ ps, (2 : ℚ) ^ m ≤ |p.x|) ∧ ∃ st : ℤ, ∃ code,
    let u : ℚ := (2 : ℚ) ^ (m - 54)
    let total : ℤ := 2 * (ps.map (fun p => ⌊p.x / u⌋)).sum + st
    ((∀ p ∈ ps, p.x / u = ⌊p.x / u⌋) → st = 0) ∧ ((∃ p ∈ ps, p.x / u ≠ ⌊p.x / u⌋) → st = 1)
    ∧ RoundsTo fp32 .rn (.num (decide (total < 0)) (total * u / 2)) code ∧ w = valueOf fp32 code
/-- The head of the queue of the team that holds a core's array. -/
def AtHead (s : State) (core tk : Nat) (tm : Team) (m : MatCmd) (ms : List MatCmd) : Prop :=
  tk / 8 = core ∧ Resident s tm.uid tk tm ∧ (s.core core).array.holder = some tm.uid ∧ tm.mats = m :: ms
/-- The command at the head is complete, and those after it that take effect at once have run: the team and the array afterwards. -/
def HeadDone (core tk : Nat) (new : Team) (set : ArraySt) (ms : List MatCmd) (s t : State) : Prop :=
  (∀ k, t.teams.find k = if k = tk then some { new with mats := ms.dropWhile instant } else s.teams.find k)
  ∧ ∀ k, t.core k = if k = core then { s.core k with array := (ms.takeWhile instant).foldl (fun a m => a.after m.op) set } else s.core k
/-- R200, R201: a table image in order. -/
def imageInOrder (tab : SMap Byte) : Prop :=
  ∀ f < 4, (tableWord tab (16 * f + 4)).toNat / 2 ^ 9 = 0
    ∧ (∀ j < 64, tableWord tab (64 + 1024 * f + 16 * j + 12) = 0#32)
    ∧ ((tableWord tab (16 * f + 4)).getLsbD 8 = true →
      (fp (tableWord tab (16 * f))).finite = true ∧ fp (tableWord tab (16 * f + 8)) ≠ .nan ∧ fp (tableWord tab (16 * f + 12)) ≠ .nan
      ∧ ∀ j < 64, ∀ k < 3, (fp (tableWord tab (64 + 1024 * f + 16 * j + 4 * k))).finite = true)

/-- R279: a write, atomic or command that waits at node `k` may be applied. -/
def canApply (s : State) (k : Nat) (p : Packet) : Prop :=
  (∀ j < 10, j ≠ p.src → (Stamp.at (s.node k).a j - Stamp.at p.stamp j).toNat < 2 ^ 15) ∧ (s.node k).applied k p.src = p.seq - 1#16
/-- R280: a read that waits at node `k` may be answered. -/
def canAnswer (s : State) (k : Nat) (p : Packet) : Prop := ∀ j < 10, (Stamp.at (s.node k).a j - Stamp.at p.stamp j).toNat < 2 ^ 15
/-- A response with a body has been sent from one node to another (R273). -/
def Replied (s : State) (src dst : Nat) (b : RBody) : Prop :=
  ∃ r : Resp, r.src = src ∧ r.dst = dst ∧ r.body = b
    ∧ (if dst = src then ∃ m ∈ (s.node src).mesh, m.item = Item.resp r else Item.resp r ∈ (s.node src).out)
/-- R223: an operation of a place in the order of a clk (commands 0, adds 1, reads 2) may still be performed on a row, whose storage is sound. -/
def inTurn (s : State) (row rank : Nat) : Prop := SMap.get s.fresh.rows row 0 ≤ rank ∧ ∀ r, s.rows.find row = some r → r.bad = false
/-- It has been performed there, which a drain notes (R287). -/
def turned (s : State) (row rank : Nat) : State :=
  { s with fresh := { s.fresh with rows := s.fresh.rows.put row rank }, resync := s.resync.map (fun r => { r with calmFrom := s.time.toNat }) }
/-- What is behind an answer in a thread's queue is no atomic: a set that waits for one issues nothing (R266); and nothing has gone past what
the thread awaits. -/
def loadsBehind (s : State) (th : Thread) : Prop :=
  ∀ oq, s.opqs.find th.ops = some oq → (∃ uid gid lane, oq.who = .thread uid gid lane) ∧ ∀ o ∈ oq.ops, (∀ x b c dst, o.kind ≠ .atom x b c dst) ∧ ∀ dq seen, o.kind ≠ .edge dq (some seen)
/-- The results on their way with the values that have come. -/
def valued (val : Pend → Option (List Word)) (ps : List Pend) : List Pend := ps.map (fun e => { e with val := val e })
/-- Step 4 of R229: a request names `n` elements of a row that its task may use. -/
def rowFor (s : State) (r : SaReq) (n id : Nat) (row : Row) : Prop :=
  let a := r.addr.toNat
  a / 2 ^ 27 % 4 ≠ 3 ∧ (a / 2 ^ 27 % 4 = 0 → a / 2 ^ 22 % 32 < 24) ∧ id = a / 2 ^ 15 ∧ s.rows.find id = some row
  ∧ inTree s (treeFuel s) row.owner r.task = true ∧ (n ≠ 0 → a % 2 ^ 15 + n ≤ row.n)
/-- An element of a row, signed. -/
def elemOf (row : Row) (i : Nat) : ℤ := (row.q.get i 0#64).toInt
/-- R225: values have been added to the elements from `i` on, and the square sum and the count follow. -/
def Added (i : Nat) (dqs : List ℤ) (old new : Row) : Prop :=
  new = { old with q := new.q, q2 := new.q2, count := old.count + dqs.length, factor := new.factor }
  ∧ (∀ j, new.q.get j 0#64 = if i ≤ j ∧ j < i + dqs.length then BitVec.ofInt 64 (elemOf old j + dqs.getD (j - i) 0) else old.q.get j 0#64)
  ∧ new.q2 = old.q2 + BitVec.ofInt 128 ((List.range dqs.length).map (fun k => elemOf new (i + k) ^ 2 - elemOf old (i + k) ^ 2)).sum
/-- R227: the factor r of a row. -/
def IsFactor (row : Row) (r : Word) : Prop :=
  let v : ℝ := (row.q2.toNat : ℝ) * (2 : ℝ) ^ (2 * row.e - 80) / row.n + (((fp row.eps).x : ℚ) : ℝ)
  if v = 0 then r = 0x7F800000#32 else IsRounded fp32 .rn (1 / Real.sqrt v) r.toNat
/-- R227: the code `y` that a read of an element `q` returns, for a gain element and the row's factor. -/
def IsStile (row : Row) (q : ℤ) (g : Ext) (r : Word) (y : Nat) : Prop :=
  let f := if row.ofmt = 1 then fp32 else if row.ofmt = 2 then bf16 else e4m3
  match g with
  | .nan => y = f.nan
  | .inf n => if q = 0 then y = f.nan else RoundsTo f .rn (.inf (decide (q < 0) != n)) y
  | .num n x =>
    if q = 0 then y = 0
    else if x = 0 then y = f.sign (decide (q < 0) != n)
    else RoundsTo f .rn (productOf (productOf (.num (decide (q < 0)) (q * (2 : ℚ) ^ (row.e - 40))) (fp r)) (.num n x)) y
/-- Gain element `i` of a row, 1 when it has no gain. -/
def gainValue (s : State) (row : Row) (i : Nat) : Ext :=
  match segLoc row.gain (2 * i) with
  | some l => valueOf bf16 (leNat (s.readLoc l 2))
  | none => .num false 1

/-! ## The fabric (R271 to R289) -/

/-- Something has been applied, answered or delivered, which a drain notes (R287). -/
def stirred (s : State) : State := { s with resync := s.resync.map (fun r => { r with calmFrom := s.time.toNat }) }
/-- One node is changed by `f`, and nothing else. -/
def OneNode (k : Nat) (f : Node → Node) (s t : State) : Prop :=
  t = { s with nodes := t.nodes } ∧ ∀ j, t.node j = if j = k then f (s.node j) else s.node j
/-- R278: a sequence from node `j` that holds A back at node `k`: of what waits there or is held, and of its own packets what is on the mesh. -/
def holdsBack (n : Node) (k j : Nat) (x : BitVec 16) : Prop :=
  (∃ p : Packet, (p ∈ n.early ∨ ∃ c, (c, Item.pkt p) ∈ n.held) ∧ p.src = j ∧ p.body.waits = true ∧ x = p.seq)
  ∨ (j = k ∧ ∃ e ∈ n.mesh, ∃ p : Packet, e.item = Item.pkt p ∧ x = p.seq)
/-- R278: `a` is A of node `k` for source `j`. -/
def IsApplied (n : Node) (k j : Nat) (a : BitVec 16) : Prop :=
  ((∀ x, ¬holdsBack n k j x) → a = if j = k then n.c else Stamp.at n.rcv j)
  ∧ ∀ m, holdsBack n k j m → (∀ x, holdsBack n k j x → (x - m).toNat < 2 ^ 15) → a = m - 1#16
/-- A packet has joined the early buffer of node `k`, and Rcv and A follow (R278). -/
def TakenIn (k : Nat) (p : Packet) (s t : State) : Prop :=
  t = { s with nodes := t.nodes } ∧ (∀ j, j ≠ k → t.node j = s.node j)
  ∧ t.node k = { s.node k with early := (s.node k).early ++ [p], rcv := (t.node k).rcv, a := (t.node k).a }
  ∧ ∀ j < 10, Stamp.at (t.node k).rcv j = (if j = p.src ∧ j ≠ k then p.seq else Stamp.at (s.node k).rcv j)
    ∧ IsApplied (t.node k) k j (Stamp.at (t.node k).a j)
/-- The byte of a package memory of a kind: far DRAM, near DRAM, or host memory (R352). -/
def byteOf (s : State) (kind a : Nat) : Byte :=
  if kind = 0 then s.far.byte a else if kind = 1 then s.near.byte a else s.hostMem.byte a
/-- Bytes have been written at a physical address of a kind, and every other byte stands; nothing is stored for KIND 3. -/
def Wrote (kind pa : Nat) (bytes : List Byte) (s t : State) : Prop :=
  ∀ k < 3, ∀ a, byteOf t k a = if k = kind ∧ pa ≤ a ∧ a < pa + bytes.length then bytes.getD (a - pa) 0#8 else byteOf s k a
/-- Packet number `before.length` of those that wait at node `k` may be applied. -/
def Waiting (s : State) (k : Nat) (before : List Packet) (p : Packet) (after : List Packet) : Prop :=
  (s.node k).early = before ++ p :: after ∧ canApply s k p
/-- It has left, and the home knows what its stamp names (R279). -/
def Applied (k : Nat) (before : List Packet) (p : Packet) (after : List Packet) (s t : State) : Prop :=
  (t.node k).early = before ++ after
  ∧ ∀ j < 10, j ≠ k → Stamp.at (t.node k).k j = laterOf (Stamp.at (s.node k).k j) (Stamp.at p.stamp j)
/-- The little-endian number of some bytes as a word, and its bytes. -/
def numBytes (n v : Nat) : List Byte := (List.range n).map (fun k => BitVec.ofNat 8 (v / 2 ^ (8 * k)))
/-- An error is recorded at a node, the one with the lowest code of the clk of the first, and in the error log (R285, R289, R375). -/
def Recorded (node code src dst : Nat) (s t : State) : Prop :=
  (t.node node).ferr = (let f := (s.node node).ferr
    if f.v then
      if node ∈ s.fresh.errs ∧ code < f.code then
        { f with code := code, epoch := (s.node node).epoch, src := src, dst := dst, more := Nat.min (f.more + 1) 255 }
      else { f with more := Nat.min (f.more + 1) 255 }
    else Ferr.mk true code (s.node node).epoch src dst 0 (BitVec.ofNat 32 s.time.toNat))
  ∧ t.fresh = (if (s.node node).ferr.v then s.fresh else { s.fresh with errs := node :: s.fresh.errs })
  ∧ t.plat.errSeq = s.plat.errSeq + 1
  ∧ ∃ e, t.plat.errLog = s.plat.errLog ++ [e] ∧ e.code = code ∧ e.seq = s.plat.errSeq ∧ e.time = s.time.toNat ∧ e.transient = decide (code = 1)
/-- The items of a list for a destination. -/
def itemsFor (dst : Nat) (is : List Item) : List Item := is.filter (fun i => i.dst == dst)
/-- What is under way from a source, in order. -/
def underWay (fs : List Flight) (src : Nat) : List Item :=
  fs.filterMap (fun f => match f with
    | .item j _ i => if j = src then some i else none
    | .beat _ _ _ => none)

/-! ## Tasks, allowance, queues, the distributor, pre-emption (R294 to R339) -/

/-- The balances of a task's leases together (R300). -/
def balances (s : State) (task : Nat) : Nat := ((s.leases.filter (fun e => e.1 % 65536 == task)).map (fun e => e.2.bal)).sum
/-- The home unit of a task has taken a step of R307: 1 credits, 1000 + core the request of a core, 3001 completion, 3002 UNWIND, 3003 an unwind under R306, 4000 answers. -/
def unitAt (s : State) (task step : Nat) : State := { s with fresh := { s.fresh with units := s.fresh.units.put task step } }
/-- R307: the request of a core may be answered in this clk: once for a core, those of lower cores first. -/
def requestTurn (s : State) (core task : Nat) : Prop :=
  SMap.get s.fresh.units task 0 < 1000 + core
  ∧ ∀ e ∈ s.leases, e.1 % 65536 = task → e.1 / 65536 < core → e.2.req = none ∨ 1000 + e.1 / 65536 ≤ SMap.get s.fresh.units task 0
/-- R307: a task may become final in this clk: a parent that is DRAINING has its credits first. -/
def finishTurn (s : State) (task : Nat) (x : Task) : Prop :=
  SMap.get s.fresh.units task 0 < 3001
  ∧ ∀ p y, x.parent = some p → s.tasks.find p = some y → y.state = .draining → SMap.get s.fresh.units p 0 ≤ 1
/-- The status word of R315. -/
def statusOf (x : Task) : DWord :=
  BitVec.ofNat 64 (x.state.code + 2 ^ 8 * (x.cause % 256) + 2 ^ 16 * (if x.drop then 1 else 0) + 2 ^ 17 * (if x.late then 1 else 0) + 2 ^ 32 * x.dropb.toNat)
/-- The die knows more than before (R253, R259): of each node the later value, and of itself what it has issued. -/
def Learnt (die : Nat) (v : Stamp) (s t : State) : Prop :=
  OneNode die (fun n => { n with k := (t.node die).k }) s t
  ∧ ∀ j < 10, Stamp.at (t.node die).k j = if j = die then (s.node die).c else laterOf (Stamp.at (s.node die).k j) (Stamp.at v j)
/-- The figure that JOIN, TSTAT and ALWRD report (R310, R311, R314). -/
def figureOf (s : State) (k : Nat) (x : Task) : Nat := if x.state.final = true then x.remainder else x.pool + balances s k
/-- The lead's registers after an answer of a child's home unit, and what the command's destination receives. -/
def answeredWith (fn sd : Nat) (x : Task) (figure : Nat) (l : Lead) : Lead :=
  if fn = 6 then { l.setReg sd (BitVec.ofNat 64 figure) with wait := .none }
  else { (l.setReg sd (statusOf x)).setReg (sd + 1) (BitVec.ofNat 64 figure) with wait := .none }
/-- A lead waits at the home unit of child `k` of its task, under an unreleased handle (R294, R308). -/
def AsksChild (s : State) (c : LCtx) (h : BitVec 32) (k : Nat) (x : Task) : Prop :=
  k = h.toNat % 2 ^ 16 ∧ s.tasks.find k = some x ∧ x.parent = some c.team.task ∧ x.gen.toNat = h.toNat / 2 ^ 16
/-- R294: GEN after a release. -/
def genAfter (g : BitVec 16) : BitVec 16 := if g.toNat = 2 ^ 16 - 1 then 1#16 else g + 1#16
/-- A task is UNWINDING, and its teams, images, rows and leases are taken back (R316). -/
def TakenBack (t : State) (task : Nat) : Prop :=
  (∃ x, t.tasks.find task = some x ∧ x.state = .unwinding ∧ x.ready = false) ∧ (∀ e ∈ t.teams, e.2.task ≠ task)
  ∧ (∀ e ∈ t.images, e.2.team.task ≠ task) ∧ (∀ e ∈ t.rows, e.2.owner ≠ task) ∧ ∀ k, k % 65536 = task → t.leases.find k = none
/-- An unwind of a task has begun: every task of its tree that was neither final nor UNWINDING is taken back; here the task and its children. -/
def Unwinds (s : State) (task : Nat) (t : State) : Prop :=
  ∀ x, s.tasks.find task = some x → ∀ k, k = task ∨ k ∈ x.children → ∀ y, s.tasks.find k = some y → y.state.final = false →
    y.state ≠ .unwinding → TakenBack t k

/-- It has been decided that a team is swapped out; its image is written in a later clk (R332). -/
def SwapDecided (tk : Nat) (tm : Team) (reason : BitVec 4) (s t : State) : Prop :=
  OneTeam tk (fun y => { y with swap := some reason }) { s with fresh := { s.fresh with saves := tm.uid :: s.fresh.saves } } t
/-- Records with the sequence numbers that they receive in a ring of so many. -/
def numbered (n : Nat) (rs : List FaultRec) : List FaultRec := rs.mapIdx (fun i r => { r with seq := n + i })
/-- One queue is changed by `f`, and nothing else. -/
def OneQueue (q : Nat) (f : Queue → Queue) (s t : State) : Prop :=
  t = { s with queues := t.queues } ∧ ∀ k, t.queue k = if k = q then f (s.queue k) else s.queue k
/-- QSTAT (R338). -/
def qstatOf (q : Queue) : Nat :=
  let b : Bool → Nat := fun x => if x then 1 else 0
  q.rung % 4 + 4 * b q.enabled + 8 * b q.pre + 16 * b q.done + 32 * b q.rst + 2 ^ 16 * q.seq.toNat
/-- Memory and the link may change, and nothing else. -/
def OnlyMem (s t : State) : Prop := t = { s with far := t.far, near := t.near, hostMem := t.hostMem, link := t.link }
/-- One queue is changed by `f`, and a change of QSTAT is written to the queue's control block (R338). -/
def QueueSet (q : Nat) (f : Queue → Queue) (s t : State) : Prop :=
  ∃ u, OneQueue q f s u ∧ OnlyMem u t
    ∧ ∀ k pa bytes, (match (u.queue q).block with
        | some b => if qstatOf (u.queue q) = qstatOf (s.queue q) then (3, 0, []) else (b.kind, b.pa + 48, numBytes 8 (qstatOf (u.queue q)))
        | none => (3, 0, [])) = (k, pa, bytes) → k < 4 → Wrote k pa bytes u t
/-- The consumer has passed the slot HEAD (R323). -/
def HeadUp (b : Place) (s t : State) : Prop := OnlyMem s t ∧ Wrote b.kind (b.pa + 8) (numBytes 8 (ringHead s b + 1)) s t
/-- An entry has been written to a queue's status ring (R324). -/
def StatusGiven (q : Nat) (b : Place) (handle : Nat) (status : DWord) (remainder : Nat) (s t : State) : Prop :=
  let k := (s.queue q).statusSeq
  (t.queue q).statusSeq = k + 1
  ∧ Wrote b.kind (ringNat s b 32 8 + 32 * (k % 2 ^ ringSlog s b)) (numBytes 8 handle ++ numBytes 8 status.toNat ++ numBytes 8 remainder ++ numBytes 8 k) s t
/-- The slot HEAD of a queue is due for an examination: the queue is open and enabled, and its doorbell is above HEAD (R323). -/
def Consuming (s : State) (q : Nat) (b : Place) : Prop :=
  openRing s q = some b ∧ (s.queue q).enabled = true ∧ ringHead s b < (s.queue q).bell.toNat
/-- A root has reported in its queue's status ring, and its entry is free (R294, R299, R324). -/
def RootGone (task : Nat) (x : Task) (status : DWord) (remainder : Nat) (s t : State) : Prop :=
  t.tasks.find task = none ∧ t.gens.find task = some (genAfter x.gen)
  ∧ ∀ b, openRing s x.queue = some b → StatusGiven x.queue b (2 ^ 16 * x.gen.toNat + task % 2 ^ 16) status remainder s t
/-- R328: what a core must have free for a team of `groups` groups, `granules` granules of the core's pool and `quadg` of its quad's. -/
def HasRoom (s : State) (task groups granules quadg core : Nat) : Prop :=
  groups ≤ ((List.range 8).filter (fun p => !s.groups.has (8 * core + p))).length ∧ (∃ x < 8, s.teams.find (8 * core + x) = none)
  ∧ usedGranules s core + granules ≤ Config.corePool
  ∧ (s.quadAlloc.find (192 * task + core / 4) ≠ none ∨ quadg = 0 ∨ usedQuad s (core / 4) + quadg ≤ 512)
/-- R297, R328: the core lies in the span's instance and in the placement of a task. -/
def InPlace (s : State) (x : Task) (core : Nat) : Prop :=
  let span := natBits (natOfBytes x.desc) 25 24
  let unit_ := if span = 0 then core else if span = 1 then core / 4 else if span = 2 then core / 96 else 0
  core < 768 ∧ core / 96 ∉ s.removed ∧ (x.place = BitVec.allOnes 64 ∨ span = 3 ∨ x.place.toNat = unit_)
  ∧ ∀ i, x.inst = some i → i = unit_
/-- A core's slots for the groups of a team: distinct and free. -/
def FreePlaces (s : State) (core n : Nat) (places : List Nat) : Prop :=
  places.length = n ∧ places.Nodup ∧ ∀ p ∈ places, p < 8 ∧ s.groups.find (8 * core + p) = none
/-- The lowest free lead context of a core. -/
def FreeContext (s : State) (core ctx : Nat) : Prop :=
  ctx < 8 ∧ s.teams.find (8 * core + ctx) = none ∧ ∀ x < ctx, s.teams.find (8 * core + x) ≠ none
/-- R329: the distributor prefers core `a` to core `b` for a team of a task. -/
def Preferred (s : State) (task a b : Nat) : Prop :=
  let on : Nat → Nat := fun c => (s.groups.filter (fun e => e.1 / 8 == c)).length
  let like := classClash s task
  (like a = false ∧ like b = true) ∨ (like a = like b ∧ (on a < on b ∨ (on a = on b ∧ a < b)))
/-- A team as it is launched (R29, R125, R129, R133, R199). -/
def Launched (uid task index core : Nat) (places : List Nat) (d : Nat) (tm : Team) : Prop :=
  tm.uid = uid ∧ tm.task = task ∧ tm.index = index ∧ tm.core = core ∧ tm.slots = places
  ∧ tm.ngroups = natBits d 18 16 + 1 ∧ tm.regs = 64 + 16 * natBits d 22 19
  ∧ tm.spadg = natBits d 38 32 ∧ tm.accg = natBits d 46 40 ∧ tm.quadg = natBits d 57 48
  ∧ (∀ r, tm.lead.reg r = if r = 0#6 then (BitVec.ofNat 48 (natBits d 303 256)).signExtend 64 else 0#64) ∧ (∀ r, tm.lead.full r = true)
  ∧ tm.lead.p = 0#8 ∧ tm.lead.waitb = 0#16 ∧ tm.lead.pc = (BitVec.ofNat 48 (natBits d 239 192)).signExtend 64 ∧ tm.lead.remain = 0
  ∧ tm.lead.free = true ∧ (∀ a, spadByte tm a = 0#8) ∧ (∀ k, tm.acc.get k 0#32 = 0#32)
  ∧ (∀ k, tm.bars.get k Barrier.initial = Barrier.initial) ∧ tm.dq = [] ∧ tm.qsent = 0#16 ∧ tm.tab0 = [] ∧ tm.tab1 = [] ∧ tm.gen = false
/-- A thread as it is launched (R13). -/
def FreshThread (d : Nat) (th : Thread) : Prop :=
  th = { Thread.none with v := th.v, live := true, ops := th.ops }
  ∧ ∀ r, th.reg r = if r = 0 then ((BitVec.ofNat 48 (natBits d 303 256)).signExtend 64).extractLsb' 0 32
    else if r = 1 then ((BitVec.ofNat 48 (natBits d 303 256)).signExtend 64).extractLsb' 32 32 else 0#32
/-- A group as it is launched: every thread stands at the group entry (R13, R22). -/
def freshGroup (tk gid d : Nat) : Group :=
  let pos : Pos := Pos.mk ((BitVec.ofNat 48 (natBits d 175 128)).signExtend 64) 0 .int false none none
  Machine.Group.mk tk gid none [Machine.Path.mk 0 (List.range 64) pos .none] 1 false
/-- The task was late at its first placement (R327). -/
def isLate (s : State) (x : Task) : Bool :=
  let d := natOfBytes x.desc
  let gone := (s.time - BitVec.ofNat 48 (x.admitted + natBits d 431 384)).toNat
  decide (natBits d 8 8 = 1 ∧ 0 < gone ∧ gone < 2 ^ 47)
/-- A group contends for the group slot of its core (R330), and how. -/
def GroupContends (s : State) (core : Nat) (w : Contender) : Prop :=
  w.key / 8 = core ∧ w.tie = w.key ∧ w.age = winAge (s.core core).gWins w.key
  ∧ ∃ g tm x, s.groups.find w.key = some g ∧ s.teams.find g.team = some tm ∧ s.tasks.find tm.task = some x
    ∧ w.prio = natBits (natOfBytes x.desc) 27 26 ∧ ∃ p, (g.running = some p ∨ p ∈ g.parked) ∧ canIssue s w.key g p = true
/-- A lead contends for the lead slot of its core (R330), and how. -/
def LeadContends (s : State) (core : Nat) (w : Contender) : Prop :=
  w.age = winAge (s.core core).lWins w.key
  ∧ ∃ c, lctxOf s w.key = some c ∧ c.team.core = core ∧ leadCan s c = true ∧ w.tie = c.team.since ∧ w.prio = natBits (natOfBytes c.task.desc) 27 26
/-- Of the contenders `w` wins (R330): a higher class, then longer without winning, then the lower last tie-break. -/
def Wins (contends : Contender → Prop) (w : Contender) : Prop :=
  contends w ∧ ∀ x, contends x → x = w ∨ x.prio < w.prio ∨ (x.prio = w.prio ∧ (x.age < w.age ∨ (x.age = w.age ∧ w.tie < x.tie)))
/-- Nothing but who holds the two issue slots of a core, and the running and parked paths of the group that has won. -/
def SlotsOnly (core : Nat) (s t : State) : Prop :=
  t = { s with groups := t.groups, cores := t.cores }
  ∧ ∀ k, t.core k = if k = core then { s.core k with gHold := (t.core k).gHold, lHold := (t.core k).lHold, gWins := (t.core k).gWins, lWins := (t.core k).lWins }
      else s.core k

/-- Rung 3 (R339): every task that the queue concerns, and that was not final, is UNWINDING with cause RESET, and the cut is taken. -/
def ResetBegun (q : Nat) (s t : State) : Prop :=
  (t.queue q).rung = 3 ∧ (t.queue q).resetting = true ∧ (t.queue q).pre = true
  ∧ (∀ k x, s.tasks.find k = some x → x.state.final = false → concerned s q k = true →
      ∃ y, t.tasks.find k = some y ∧ y.state = .unwinding ∧ (x.state ≠ .unwinding → y.cause = Cause.reset.code ∧ TakenBack t k)
        ∧ (x.state = .unwinding → y.cause = if x.cause = 0 then Cause.reset.code else x.cause))
  ∧ ∀ i < 10, (t.queue q).cut.get i 0#16 = (t.node i).c
/-- R337: no task that the queue concerns is left. -/
def NoneConcerned (s : State) (q : Nat) : Prop := ∀ e ∈ s.tasks, e.2.state.final = true ∨ concerned s q e.1 = false

/-! ## The host, Ling and the platform (R340, R352 to R376) -/

/-- Only the platform changes, as `f` says. -/
def PlatNow (f : Platform → Platform) (s t : State) : Prop := t = { s with plat := f s.plat }
/-- An error of a code is in the error log, with its node and DETAIL, and its interrupt is sent when it has one (R375). -/
def Logged (code : Nat) (transient : Bool) (node : Nat) (detail : Option (BitVec 96)) (s t : State) : Prop :=
  t = { s with plat := t.plat, link := t.link } ∧ (∃ more, t.link = s.link ++ more)
  ∧ t.plat = { s.plat with errLog := t.plat.errLog, errSeq := s.plat.errSeq + 1 }
  ∧ ∃ e, t.plat.errLog = s.plat.errLog ++ [e] ∧ e.code = code ∧ e.transient = transient ∧ e.seq = s.plat.errSeq ∧ e.time = s.time.toNat
    ∧ e.src / 4096 = node ∧ ∀ d, detail = some d → e.detail = d
/-- Ling serves its command ring (R358, R369). -/
def Serves (s : State) : Prop := s.plat.linkUp = true ∧ s.plat.recovery = false ∧ s.plat.invals = []
/-- A command has been performed and answered with status 0 (R369). -/
def Performed (code : Nat) (payload : List Byte) (s t : State) : Prop :=
  PlatNow (fun p => { p with answers := p.answers ++ [LingAns.mk code 0 payload] }) s t
/-- A command has a field out of range: it is answered with 0x42, which is logged (R369, R375). -/
def Declined (code : Nat) (s t : State) : Prop :=
  ∃ u, Logged 0x42 false 8 none s u ∧ PlatNow (fun p => { p with answers := p.answers ++ [LingAns.mk code 0x42 []] }) u t
/-- The number in a field of a byte string. -/
def numAt (bs : List Byte) (off n : Nat) : Nat := leNat ((bs.drop off).take n)
/-- A root of a table (R353). -/
def isRoot (root : Nat) : Prop := root % 8192 = 0 ∧ root + 8192 ≤ 384 * 2 ^ 30
/-- The fields of MAPQ are in range, and the queue stands still (R319, R338, R354, R363). -/
def mayMap (s : State) (queue : Nat) (block : Place) (pasid : BitVec 20) (root : Nat) (stage2 : Option Nat) : Prop :=
  queue < 80 ∧ (s.queue queue).enabled = false ∧ (s.queue queue).pre = false ∧ block.kind < 3 ∧ block.pa % 64 = 0
  ∧ block.pa + 64 ≤ (if block.kind = 0 then 384 * 2 ^ 30 else if block.kind = 1 then 16 * 2 ^ 30 else 2 ^ 48)
  ∧ (queue < 16 ∨ pasid ≠ 0#20) ∧ isRoot root ∧ ∀ r, stage2 = some r → isRoot r
/-- R366: a policy that Ling installs. -/
def GoodPolicy (s : State) (bs : List Byte) : Prop :=
  let region := numAt bs 2 2
  let count := numAt bs 40 2
  let owner := (s.plat.owners.find region).getD (BitVec.ofNat 256 (numAt bs 8 32))
  numAt bs 0 1 = 1 ∧ numAt bs 1 1 < 2 ∧ 1 ≤ region ∧ region ≤ 4095 ∧ count ≤ 64 ∧ numAt bs 42 22 = 0 ∧ bs.length = 128 + 64 * count
  ∧ (∀ p, s.plat.policies.find region = some p → p.pver.toNat < numAt bs 4 4)
  ∧ Config.ed25519Ok owner (bs.take (64 + 64 * count)) (BitVec.ofNat 512 (numAt bs (64 + 64 * count) 64)) = true
/-- R365: a page that is sealed. -/
def SealedPage (s : State) (space page : Nat) : Prop := ∃ l, translate s space (page * 2 ^ 16) = .ok l ∧ l.x = true ∧ l.w = false ∧ l.kind ≠ 3
/-- Where a page stands. -/
def pageLoc (s : State) (space page : Nat) : Loc :=
  match translate s space (page * 2 ^ 16) with
  | .ok l => l.loc (page * 2 ^ 16)
  | .error _ => Loc.mk 0 0 0
/-- Two pages stand apart in memory. -/
def Apart (s : State) (a b : Loc) : Prop :=
  a.kind ≠ b.kind ∨ framePa s a false + 2 ^ 16 ≤ framePa s b false ∨ framePa s b false + 2 ^ 16 ≤ framePa s a false
/-- R368: a report of a region, up to its signature. -/
def reportOf (s : State) (region : Nat) : List Byte :=
  numBytes 1 1 ++ numBytes 1 (if s.plat.abrupt then 1 else 0) ++ numBytes 2 region ++ numBytes 4 s.plat.boot.toNat ++ numBytes 8 Config.deviceId.toNat
    ++ numBytes 8 (s.plat.reportSeq + 1#64).toNat ++ numBytes 8 s.time.toNat ++ numBytes 8 (s.plat.decb.get region 0#64).toNat
    ++ numBytes 8 (s.plat.macs.get region 0#64).toNat ++ numBytes 4 (((s.plat.policies.find region).map (fun p => p.pver.toNat)).getD 0) ++ numBytes 76 0
/-- R357: an image that ends in its signature. -/
def SignedImage (image : List Byte) : Prop :=
  64 ≤ image.length ∧ Config.ed25519Ok Config.romKey (image.take (image.length - 64)) (BitVec.ofNat 512 (leNat (image.drop (image.length - 64)))) = true
/-- A team waits for record `seq` of a fault ring: ring 2n is that of stage 1 of address space n, and 2n + 1 that of stage 2 (R355). -/
def Awaits (s : State) (ring seq : Nat) (tm : Team) : Prop :=
  ∃ sp r, s.spaces.find (ring / 2) = some sp ∧ (if ring % 2 = 0 then sp.ring[seq]? else sp.ring2[seq]?) = some r
    ∧ anyTeam s r.uid = some tm ∧ tm.uid = r.uid ∧ (ring % 2, seq) ∈ tm.faultSeqs
/-- The module without power (R357, R366, R367): what flash and the host hold stays, with the owners and policies that are installed. -/
def Dark (mirror : Mirror) (s t : State) : Prop :=
  t = { State.reset with
    turns := s.turns, freeCtr := s.freeCtr, nextId := s.nextId, hostMem := s.hostMem, link := s.link, hostReads := s.hostReads, plat := t.plat }
  ∧ t.plat = { Platform.initial with image := s.plat.image, mirror := mirror, owners := s.plat.owners, policies := s.plat.policies }
/-- A read of the host is answered at once, and nothing else happens. -/
def ReadAs (bytes : List Byte) (s t : State) : Prop :=
  ∃ h, t = { s with hostReads := s.hostReads ++ [h], nextId := s.nextId + 1 } ∧ h.answer = some bytes
/-- The 64 bits of a fabric error record (R289). -/
def ferrOf (f : Ferr) : Nat :=
  f.time.toNat + 2 ^ 32 * (f.more % 256) + 2 ^ 40 * (f.dst % 16) + 2 ^ 44 * (f.src % 16) + 2 ^ 48 * f.epoch.toNat + 2 ^ 56 * (f.code % 16)
    + 2 ^ 63 * (if f.v then 1 else 0)
/-- A rate and a width to which the host link trains: PCIe 5.0 to 7.0, by 1 to 16 lanes (R357, R358). -/
def LinkTo (gen width : Nat) : Prop := (gen = 5 ∨ gen = 6 ∨ gen = 7) ∧ (width = 1 ∨ width = 4 ∨ width = 8 ∨ width = 16)
/-- One fibre is changed by `f`, and nothing else. -/
def OneFibre (fibre : Nat) (f : Fibre → Fibre) (s t : State) : Prop :=
  t = { s with fibres := t.fibres }
  ∧ ∀ k, t.fibres.get k Fibre.initial = if k = fibre then f (s.fibres.get k Fibre.initial) else s.fibres.get k Fibre.initial

/-! ## The machine as a whole -/

/-- The steps in which the module loses its power. -/
def losesPower : Instr → Bool
  | .orderlyPowerDown => true
  | .powerLoss => true
  | _ => false
/-- The word at which a path stands, and the word that it executes: under REP the word after it, with its fields moved (R108). -/
def StandsBefore (s : State) (c : GCtx) (w : Word) : Prop :=
  match c.path.pos.rep with
  | none => fetch s c.core c.task.space c.task.priv c.path.pos.pc = .word w
  | some r => ∃ v, fetch s c.core c.task.space c.task.priv (c.path.pos.pc + 4#64) = .word v ∧ formWord v r.step r.stride r.j = some w
/-- The state in which a group, or a lead, takes its turn on a core. -/
def turnOf (core : Nat) (who : Party) (s : State) : State :=
  match who with
  | .lead _ => { s.modCore core (fun x => { x with lIssued := true }) with cur := who }
  | _ => { s.modCore core (fun x => { x with gIssued := true }) with cur := who }
/-- A lease after its balance has paid, with the refill that it asks for below 1,024 AU (R300). -/
def paidFrom (l : Lease) (amount : Nat) : Lease :=
  { l with bal := l.bal - amount, req := if l.bal - amount < 1024 ∧ l.req = none then some .refill else l.req }

end Sys2Proof.Rules

open Sys2Proof Sys2Proof.Machine

/-- R95: every ALU instruction has the effect and the cost of its row, and MAD reads v[d] as well, blocking. R96: every ALU64 instruction has the effect and the cost of its row, with the register use of R59: a pair where the row names
a pair, which the word must give as an even register, and a word where it names a word. R97: every UNARY instruction has the effect of its row for 1 AU, and MOV may stand in a clause of any group class while MOV64 may not. R98:
the bit-field instructions have the effect of their mode for 1 AU, BFI reads v[d], blocking, and a BF word whose field would pass bit 31, or whose mode is 3 to 7, is no instruction (ILLEGAL_OP). R99: the immediate instructions
have the effect of their row for 1 AU. R58, R45: NOP costs 1 AU for each executing thread and changes no thread; in a LEAD clause it costs the lead 1 AU and changes nothing of the lead but where it stands. -/
def Obligations.IntegerResults : Prop :=
  (
    Rules.RunsAsTable Rules.r95 ∧ ∀ d a b x y, (Instr.mad d a b x y).srcs = [.v a 1 x, .v b 1 y, .v d 1 false])
  ∧ (
    Rules.RunsAsTable Rules.r96)
  ∧ (
    Rules.RunsAsTable Rules.r97
      ∧ (∀ d a x k, k.group = true → (Instr.mov d a x).classOk k = true)
      ∧ ∀ d a x, ∃ k : Cls, k.group = true ∧ (Instr.mov64 d a x).classOk k = false)
  ∧ (
    Rules.RunsAsTable Rules.r98
      ∧ (∀ d a x p l, (Instr.bfi d a x p l).srcs = [.v a 1 x, .v d 1 false])
      ∧ ∀ w : Word, w.extractLsb' 26 6 = 0x05#6 →
          (2 < (w.extractLsb' 0 3).toNat ∨ 32 < (w.extractLsb' 8 5).toNat + (w.extractLsb' 3 5).toNat + 1) →
          ∃ e, decode w = .error e)
  ∧ (
    Rules.RunsAsTable Rules.r99)
  ∧ (
    (∀ s c s', PathReady .nop s c s' → ∃ t, exec .nop s = .next t ∧ Ran c (fun _ th => th) s' t)
      ∧ ∀ s c s', LeadReady .nop 1 0 s c s' → ∃ t, exec .nop s = .next t ∧ LeadRan c (fun l => l) s' t)

/-- R100: CMP and CMPI write the predicate that their condition gives, for 1 AU, and CMPI has exactly the eight conditions EQ, NE, LT, LE, GT, GE, LTU and GEU, with codes 0 to 7. R101: the PRED instructions have the effect of their
row for 1 AU, each may stand in a clause of any group class, and SEL reads both of its sources under their policy bits, whichever it selects. -/
def Obligations.ComparisonResults : Prop :=
  (
    Rules.RunsAsTable Rules.r100
      ∧ [0#3, 1#3, 2#3, 3#3, 4#3, 5#3, 6#3, 7#3].map Cond.ofCode3
          = [some .eq, some .ne, some .lt, some .le, some .gt, some .ge, some .ltu, some .geu])
  ∧ (
    Rules.RunsAsTable Rules.r101
      ∧ (∀ i n f, Rules.r101 i = some (n, f) → ∀ k : Cls, k.group = true → i.classOk k = true)
      ∧ ∀ d a b x y k, (Instr.sel d a b x y k).srcs = [.v a 1 x, .v b 1 y])

/-- R170: every code of the four floating-point formats decodes as the table says, with the widths and biases of the formats, and the values at the edges are those of its second table. -/
def Obligations.CodesDecode : Prop :=
  [fp32, bf16, e4m3, e5m2].map (fun f => (f.e, f.m, f.bias)) = [(8, 23, 127), (8, 7, 127), (4, 3, 7), (5, 2, 15)]
  ∧ [fp32, bf16, e4m3, e5m2].map Fmt.maxCode = [0x7F7FFFFF, 0x7F7F, 0x7E, 0x7B]
  ∧ [fp32, bf16, e4m3, e5m2].map Fmt.nan = [0x7FC00000, 0x7FC0, 0x7F, 0x7E]
  ∧ (∀ x ∈ [(fp32, 0x00000001, (2 : ℚ) ^ (-149 : ℤ)), (fp32, 0x00800000, 2 ^ (-126 : ℤ)), (fp32, 0x3F800000, 1), (fp32, 0x7F7FFFFF, (2 - 2 ^ (-23 : ℤ)) * 2 ^ 127),
      (bf16, 0x0001, 2 ^ (-133 : ℤ)), (bf16, 0x0080, 2 ^ (-126 : ℤ)), (bf16, 0x3F80, 1), (bf16, 0x7F7F, (2 - 2 ^ (-7 : ℤ)) * 2 ^ 127),
      (e4m3, 0x01, 2 ^ (-9 : ℤ)), (e4m3, 0x08, 2 ^ (-6 : ℤ)), (e4m3, 0x38, 1), (e4m3, 0x7E, 448),
      (e5m2, 0x01, 2 ^ (-16 : ℤ)), (e5m2, 0x04, 2 ^ (-14 : ℤ)), (e5m2, 0x3C, 1), (e5m2, 0x7B, 57344),
      (fp32, 0, 0), (bf16, 0, 0), (e4m3, 0, 0), (e5m2, 0, 0)],
    Rules.valueOf x.1 x.2.1 = .num false x.2.2 ∧ Rules.valueOf x.1 (x.2.1 + 2 ^ (x.1.e + x.1.m)) = .num true (-x.2.2))
  ∧ [Rules.valueOf fp32 0x7F800000, Rules.valueOf bf16 0x7F80, Rules.valueOf e5m2 0x7C] = [.inf false, .inf false, .inf false]
  ∧ (∀ x ∈ [(fp32, 0x7FC00000), (bf16, 0x7FC0), (e4m3, 0x7F), (e5m2, 0x7E)], Rules.valueOf x.1 x.2 = .nan)
  ∧ ∀ f ∈ [fp32, bf16, e4m3, e5m2], ∀ code < 2 ^ (1 + f.e + f.m),
    let s : Bool := decide (code / 2 ^ (f.e + f.m) = 1)
    let ex : Nat := code / 2 ^ f.m % 2 ^ f.e
    let frac : Nat := code % 2 ^ f.m
    let sgn : ℚ := if s then -1 else 1
    Rules.valueOf f code =
      if ex = 0 then .num s (sgn * (frac : ℚ) * (2 : ℚ) ^ (1 - (f.bias : ℤ) - f.m))
      else if ex = 2 ^ f.e - 1 ∧ f ≠ e4m3 then (if frac = 0 then .inf s else .nan)
      else if ex = 15 ∧ f = e4m3 ∧ frac = 7 then .nan
      else .num s (sgn * ((2 : ℚ) ^ f.m + (frac : ℚ)) * (2 : ℚ) ^ ((ex : ℤ) - f.bias - f.m))

/-- R172, R173: the model's rounding of an exact number that is not 0 into any of the four formats, under any mode, is the rounding that the rules lay down: the neighbour that the mode chooses on the grid of the format, or the
overflow of R173. -/
def Obligations.RoundingIsExact : Prop :=
  ∀ f ∈ [fp32, bf16, e4m3, e5m2], ∀ (r : RMode) (neg : Bool) (m : Nat) (e : ℤ), m ≠ 0 →
    Rules.IsRounded f r (((if neg then -1 else 1) * (m : ℝ)) * (2 : ℝ) ^ e) (f.round r (.fin neg m e))

/-- R190, R191, R192: FALU and HALU write the exact value of their row, rounded once, with the special operands of R190, for 2 AU. R193: FCMP writes the predicate that its condition gives, for 2 AU. -/
def Obligations.FloatArithmetic : Prop :=
  (
    Rules.RunsAsFloat Rules.r190)
  ∧ (
    ∀ p a b x y c, (Instr.fcmp p a b x y c).cost = 2 ∧ ∀ s g s', PathReady (.fcmp p a b x y c) s g s' →
      ∃ v : Nat → Bool, (∀ l ∈ g.path.lanes, v l = true ↔ Rules.fcondition c (Rules.fp ((s.thread g.gk l).rd a)) (Rules.fp ((s.thread g.gk l).rd b)))
        ∧ ∃ t, exec (.fcmp p a b x y c) s = .next t ∧ Ran g (fun l th => th.setPred p (v l)) s' t)

/-- R194, R195: the conversions write what their row gives, for 2 AU. R196: FCVTSM costs 2 AU and, where the byte of k_c lies in the scratchpad and its line is present, writes the source divided by 2^k, rounded once into E4M3 or E5M2;
a NaN gives the format's NaN. Where the lines are absent the path is parked at it (R377), and beyond the limit it traps. -/
def Obligations.FloatConversions : Prop :=
  (
    Rules.RunsAsFloat Rules.r194)
  ∧ (
    ∀ d a b x y r, ∀ p ∈ [(Instr.fcvtsmE4 d a b x y r, e4m3), (Instr.fcvtsmE5 d a b x y r, e5m2)],
      p.1.cost = 2 ∧ (∀ s c s', PathReady p.1 s c s' →
        Rules.mayTouchSpad s c → (∀ l ∈ c.path.lanes, ((s.thread c.gk l).rd b).toNat < c.team.spadLimit ∧ c.team.lineAbsent ((s.thread c.gk l).rd b).toNat = false) →
        ∃ w : Nat → Word,
          (∀ l ∈ c.path.lanes, Rules.RoundsTo p.2 r
            (match Rules.fp ((s.thread c.gk l).rd a) with
              | .num n v => .num n (v * (2 : ℚ) ^ (-(c.team.spadByte ((s.thread c.gk l).rd b).toNat).toInt))
              | v => v) (w l).toNat)
          ∧ ∃ t, exec p.1 s = .next t ∧ RanEach c (fun l th => th.wr d (w l)) s' t)
      ∧ (∀ s c, Rules.Checked p.1 s c →
        (∀ l ∈ c.path.lanes, ((s.thread c.gk l).rd b).toNat < c.team.spadLimit ∧ c.team.lineAbsent ((s.thread c.gk l).rd b).toNat = true) →
        ∃ t, exec p.1 s = .next t ∧ Rules.StandsAt c none [c.path] s t)
      ∧ ∀ s c, Rules.Checked p.1 s c → (∀ l ∈ c.path.lanes, c.team.spadLimit ≤ ((s.thread c.gk l).rd b).toNat) →
        ∃ t, exec p.1 s = .next t ∧ Rules.Trapped c c.path.pos (wordOf p.1)
          (fun l => { cause := .permission, code := 0, addr := BitVec.ofNat 64 ((s.thread c.gk l).rd b).toNat }) c.path.lanes [] s t)

/-- R197, R198: FRCP, FRSQ, FSQRT and FDIV write the correctly rounded value of their function, with the special operands of R198, for 8 AU. R198: FEXP2 and FLOG2 give the results of the special operands, FEXP2 of an integer and FLOG2
of a power of two are exact before the one rounding, and both cost 8 AU. Where the spec leaves something open this states the model's own choice: assumption 15. -/
def Obligations.SpecialFunctions : Prop :=
  (
    Rules.RunsAsFloat Rules.r197)
  ∧ (
    Rules.RunsAsFloat Rules.r198)

/-- R203: FTAB of a valid function of the clause's generation, whose X0 is finite, costs 8 AU and writes the value of the function, rounded once. -/
def Obligations.TableEvaluation : Prop :=
  ∀ d a b x y, (Instr.ftab d a b x y).cost = 8 ∧ ∀ s c s', PathReady (.ftab d a b x y) s c s' →
    let tab : Nat → SMap Byte := fun l => if (s.thread c.gk l).gen then c.team.tab1 else c.team.tab0
    let f : Nat → Nat := fun l => ((s.thread c.gk l).rd b).toNat % 4
    (∀ l ∈ c.path.lanes, ((tab l).get (16 * f l + 5) 0#8).getLsbD 0 = true
      ∧ (Rules.fp (Rules.tableWord (tab l) (16 * f l))).finite = true
      ∧ ∀ j < 64, ∀ k < 3, (Rules.fp (Rules.tableWord (tab l) (64 + 1024 * f l + 16 * j + 4 * k))).finite = true) →
    ∃ w : Nat → Word, (∀ l ∈ c.path.lanes, Rules.IsTabulated (tab l) (f l) ((s.thread c.gk l).rd a) (w l))
      ∧ ∃ t, exec (.ftab d a b x y) s = .next t ∧ RanEach c (fun l th => th.wr d (w l)) s' t

/-- R43, R51, R108, R110: after an instruction that changes nothing but its threads the path runs on at the next word; after the last word of a clause it is at the header there, parked when the clause has Y set; and under REP the word
is executed again until its last execution. R63, R108, R109: a REP that passes its checks starts the first execution of the word after it for no charge, and in execution j the fields that its mask names are moved by j times its
stride, all other bits staying as written. Where the spec leaves something open this states the model's own choice: assumption 58. -/
def Obligations.PathsRunAndRepeat : Prop :=
  (
    ∀ i, Rules.plain i = true → ∀ s c s', PathReady i s c s' →
      ∃ f t, exec i s = .next t ∧ Rules.StandsAt c (Rules.runOn c c.path.lanes) (Rules.parkOn c c.path.lanes)
        (s'.onLanes c.gk c.path.lanes f) t)
  ∧ (
    (∀ n st sr s c s' w, PathReady (.rep n st sr) s c s' → c.path.pos.repFrom = none → 2 ≤ c.path.pos.remain →
      fetch s c.core c.task.space c.task.priv (c.path.pos.pc + 4#64) = .word w → repOk w (n.toNat + 1) st sr = true →
      s' = s ∧ ∃ t, exec (.rep n st sr) s = .next t ∧ Rules.StandsAt c
        (some { c.path with pos := { c.path.pos with rep := some { j := 0, count := n.toNat + 1, step := st, stride := sr }, repFrom := none } })
        [] s t)
    ∧ (∀ w st sr j v, formWord w st sr j = some v →
        let stride : Int := [1, 2, 4, 8, -1, -2, -4, -8].getD sr.toNat 0
        (∀ f < 3, ((v.extractLsb' (8 + 6 * f) 6).toNat : Int) =
          (w.extractLsb' (8 + 6 * f) 6).toNat + if st.getLsbD f then (j : Int) * stride else 0)
        ∧ v.extractLsb' 0 8 = w.extractLsb' 0 8 ∧ v.extractLsb' 26 6 = w.extractLsb' 26 6))

/-- R102, R103, R22, R23, R51, R56, R57: the transfers BR, BRP, BRN, BZ, BNZ, CALL and CALLP. Those threads whose condition holds go to the target, whose check has passed, with the link written by CALL and CALLP; the others go on.
Together they are parked when the transfer is backward or its clause has Y set; when they divide, a forward transfer parks those that take it while the others run on, and a backward one parks both. Where the target fails its check
(R57, R103), the threads that would take the transfer trap at it, no link is written, and the others have had their effect and stand parked at the next word. R103, R104, R105, R57: JR, JRL and RET. The threads, whose targets have
passed their checks, divide into one part for each distinct target; with a target at or below the word, or Y set, every part is parked in ascending order of target, and otherwise the part with the lowest target runs and the others
are parked in that order. JRL writes the link after the pair is read. Where every thread's target fails its check (R57, R103), each traps at the transfer, which has no effect. Where the spec leaves something open this states the
model's own choice: assumptions 25, 57. -/
def Obligations.TransfersMove : Prop :=
  (
    ∀ i disp link test, Rules.r102 i = some (disp, link, test) →
      i.cost = 1 ∧ (∀ s c s', PathReady i s c s' → c.path.pos.rep = none →
      let target : DWord := BitVec.ofInt 64 (c.path.pos.pc.toNat + 4 * disp.toInt)
      let go := c.path.lanes.filter (fun l => test (s.thread c.gk l))
      let stay := c.path.lanes.filter (fun l => !test (s.thread c.gk l))
      (go ≠ [] → checkTarget s c.core c.task.space c.task.priv target = .ok) →
      ∃ t, exec i s = .next t ∧
        Rules.StandsAt c
          (if go = [] then Rules.runOn c stay
           else if stay = [] then
             (if target.toNat ≤ c.path.pos.pc.toNat ∨ c.path.pos.y = true then none else some (Rules.atHeader c target go))
           else if target.toNat ≤ c.path.pos.pc.toNat then none
           else Rules.runOn c stay)
          (if go = [] then Rules.parkOn c stay
           else if stay = [] then
             (if target.toNat ≤ c.path.pos.pc.toNat ∨ c.path.pos.y = true then [Rules.atHeader c target go] else [])
           else if target.toNat ≤ c.path.pos.pc.toNat then [Rules.onward c stay, Rules.atHeader c target go]
           else Rules.atHeader c target go :: Rules.parkOn c stay)
          (if link then s'.onLanes c.gk go (fun _ th => th.wr2 62#6 (c.path.pos.pc + 4#64)) else s') t)
      ∧ ∀ s c, Rules.Checked i s c → c.path.pos.rep = none →
        let target : DWord := BitVec.ofInt 64 (c.path.pos.pc.toNat + 4 * disp.toInt)
        let go := c.path.lanes.filter (fun l => test (s.thread c.gk l))
        let stay := c.path.lanes.filter (fun l => !test (s.thread c.gk l))
        go ≠ [] → ∀ x, Rules.targetFails s c.core c.task target = some x →
        ∀ s', charge s c.core c.team.task (c.keep stay).payer stay.length 0 = (true, s') →
        ∃ t, exec i s = .next t ∧ Rules.Trapped c c.path.pos (wordOf i) (fun _ => { cause := x.1, code := 0, addr := x.2 }) go
          (if stay = [] then [] else [Rules.onward c stay]) s' t)
  ∧ (
    ∀ i a link, Rules.r104 i = some (a, link) →
      i.cost = 1 ∧ (∀ s c s', PathReady i s c s' →
      (∀ l ∈ c.path.lanes, checkTarget s c.core c.task.space c.task.priv ((s.thread c.gk l).rd2 a) = .ok) →
      ∃ (low : Nat) (rest : List Nat) (t : State), exec i s = .next t ∧ (low :: rest).Pairwise (· < ·)
        ∧ (∀ x, x ∈ low :: rest ↔ ∃ l ∈ c.path.lanes, ((s.thread c.gk l).rd2 a).toNat = x)
        ∧ (let part : Nat → Path := fun x =>
            Rules.atHeader c (BitVec.ofNat 64 x) (c.path.lanes.filter (fun l => decide (((s.thread c.gk l).rd2 a).toNat = x)))
          let switch : Prop := low ≤ c.path.pos.pc.toNat ∨ c.path.pos.y = true
          (switch → Rules.StandsAt c none ((low :: rest).map part)
            (if link then s'.onLanes c.gk c.path.lanes (fun _ th => th.wr2 62#6 (c.path.pos.pc + 4#64)) else s') t)
          ∧ (¬switch → Rules.StandsAt c (some (part low)) (rest.map part)
            (if link then s'.onLanes c.gk c.path.lanes (fun _ th => th.wr2 62#6 (c.path.pos.pc + 4#64)) else s') t)))
      ∧ ∀ s c, Rules.Checked i s c → ∀ x : Nat → Cause × DWord,
        (∀ l ∈ c.path.lanes, Rules.targetFails s c.core c.task ((s.thread c.gk l).rd2 a) = some (x l)) →
        ∃ t, exec i s = .next t ∧ Rules.Trapped c c.path.pos (wordOf i) (fun l => { cause := (x l).1, code := 0, addr := (x l).2 }) c.path.lanes [] s t)

/-- R46, R28, R341 to R344: taking a trap. An instruction in a clause of another class raises CLAUSE_CLASS in every thread of the set, and one whose operands are all found closed or empty under the trap policy raises what each
thread's first such operand calls for; with a handler, the threads have trapped with the record of R343 that names the instruction's own word and address, stand parked at the handler in trap mode, nothing is charged, and the
instruction has no effect. R342, R28, R298: a trap that no handler takes, because the descriptor has none or the thread is in trap mode already: the threads have their records, none of them goes on, and the system handler has the
trap of the first of them. R31, R42, R46, R298: the traps of a lead. An instruction that is no lead instruction raises CLAUSE_CLASS; a word at a header that is none raises ILLEGAL_HEADER, and the header of a clause of another
class CLAUSE_CLASS; all of them go to the system handler. R104, R340, R342, R343: TRAP and BRK. They are charged, then every thread traps with its cause and the code n, its record naming the word and the place after it; BRK halts
the group when a debugger is attached to a queue of the task. Where the spec leaves something open this states the model's own choice: assumptions 13, 48. -/
def Obligations.TrapsAreTaken : Prop :=
  (
    ∀ i, (encode i).isSome = true → ∀ s c, gctx s = some c → c.path.lanes ≠ [] → c.path.pos.remain ≠ 0 → c.path.pos.remain < 16 →
      Rules.AllHandled s c →
      (i.classOk c.path.pos.cls = false → ∃ t, exec i s = .next t ∧
        Rules.Trapped c c.path.pos (wordOf i) (fun _ => { cause := .clauseClass, code := 0, addr := 0#64 }) c.path.lanes [] s t)
      ∧ (c.path.pos.cls ≠ .lead → i.classOk c.path.pos.cls = true → ∀ info : Nat → TrapInfo,
          (∀ l ∈ c.path.lanes, operandTrap i (s.thread c.gk l) = some (info l)) → ∃ t, exec i s = .next t ∧
            Rules.Trapped c c.path.pos (wordOf i) info c.path.lanes [] s t))
  ∧ (
    ∀ i, (encode i).isSome = true → ∀ s c, gctx s = some c → c.path.lanes ≠ [] → c.path.pos.remain ≠ 0 → c.path.pos.remain < 16 →
      (∀ l ∈ c.path.lanes, descHv c.task.desc = false ∨ (s.thread c.gk l).trapMode = true) →
      ∀ info : Nat → TrapInfo,
        ((i.classOk c.path.pos.cls = false ∧ ∀ l, info l = { cause := .clauseClass, code := 0, addr := 0#64 })
          ∨ (c.path.pos.cls ≠ .lead ∧ i.classOk c.path.pos.cls = true ∧ ∀ l ∈ c.path.lanes, operandTrap i (s.thread c.gk l) = some (info l))) →
        ∃ t u l, exec i s = .next t ∧ l ∈ c.path.lanes
          ∧ (∃ f : Nat → Thread → Thread, (∀ l ∈ c.path.lanes, Rules.HasTrapped c.path.pos (wordOf i) (info l) (s.thread c.gk l) (f l (s.thread c.gk l)))
            ∧ Rules.StandsAt c none [] (s.onLanes c.gk c.path.lanes f) u)
          ∧ Rules.SystemHandles c.team.task (info l).cause u t)
  ∧ (
    (∀ i, (encode i).isSome = true → i.classOk .lead = false → ∀ s c, lctx s = some c →
      ∃ t, exec i s = .next t ∧ Rules.SystemHandles c.team.task .clauseClass s t)
    ∧ ∀ s c w, lctx s = some c → c.team.lead.free = true → c.team.lead.remain = 0 →
        fetch s c.core c.task.space c.task.priv c.team.lead.pc = .word w →
        (¬Rules.serves w → ∃ t u, exec .clauseHeaderIssue s = .next t ∧ Rules.Fetched c.core s u
          ∧ Rules.SystemHandles c.team.task .illegalHeader u t)
        ∧ (Rules.serves w → ¬Rules.classAt w .lead → ∃ t u, exec .clauseHeaderIssue s = .next t
          ∧ Rules.Fetched c.core s u ∧ Rules.SystemHandles c.team.task .clauseClass u t))
  ∧ (
    ∀ n s c, c.path.pos.rep = none → c.path.pos.remain ≠ 0 → c.path.pos.remain < 16 → Rules.AllHandled s c →
      (∀ s', PathReady (.trap n) s c s' → ∃ t, exec (.trap n) s = .next t ∧
        Rules.Trapped c { c.path.pos with pc := c.path.pos.pc + 4#64, remain := c.path.pos.remain - 1 } (wordOf (.trap n))
          (fun _ => { cause := .trap, code := n.toNat, addr := 0#64 }) c.path.lanes [] s' t)
      ∧ (∀ s', PathReady (.brk n) s c s' → ∃ t, exec (.brk n) s = .next t ∧
        Rules.Trapped { c with group := { c.group with halted := c.group.halted || debuggerOn s' c.team.task } }
          { c.path.pos with pc := c.path.pos.pc + 4#64, remain := c.path.pos.remain - 1 } (wordOf (.brk n))
          (fun _ => { cause := .brk, code := n.toNat, addr := 0#64 }) c.path.lanes [] s' t))

/-- R23, R36, R104, R350: YIELD and SLEEP are switch points: the path is parked at the next word, after SLEEP until the time counter has moved on by the largest of its threads' v[a]. EXIT ends its threads, and with the last live
thread of the group the group's slot is free. R27: XCONV. The path waits, parked at the next word; when every live path of the group waits at the same XCONV outside trap mode, all of them become one parked path that waits for
nothing. -/
def Obligations.SwitchPointsAndJoins : Prop :=
  (
    (∀ s c s', PathReady .yield s c s' → c.path.pos.rep = none →
      ∃ t, exec .yield s = .next t ∧ Rules.StandsAt c none [Rules.onward c c.path.lanes] s' t)
    ∧ (∀ a x s c s', PathReady (.sleep a x) s c s' → c.path.pos.rep = none → ∀ m,
        (∃ l ∈ c.path.lanes, ((s.thread c.gk l).rd a).toNat = m) → (∀ l ∈ c.path.lanes, ((s.thread c.gk l).rd a).toNat ≤ m) →
        ∃ t, exec (.sleep a x) s = .next t
          ∧ Rules.StandsAt c none [{ Rules.onward c c.path.lanes with wait := .sleep (s.time.toNat + m) }] s' t)
    ∧ (∀ s c s', PathReady .exit s c s' →
        ∃ t, exec .exit s = .next t ∧ (∀ l ∈ c.path.lanes, l < 64 → (t.thread c.gk l).live = false)
          ∧ (t.core c.core).gHold = none
          ∧ ((∀ l < 64, (s.thread c.gk l).live = true → l ∈ c.path.lanes) → t.groups.find c.gk = none)
          ∧ ((∃ l < 64, (s.thread c.gk l).live = true ∧ l ∉ c.path.lanes) → ∃ g, t.groups.find c.gk = some g ∧ g.running = none)))
  ∧ (
    ∀ s c s', PathReady .xconv s c s' → c.path.pos.rep = none →
      let mine : Path := { Rules.onward c c.path.lanes with wait := .xconv c.path.pos.pc }
      let all : Prop := (∀ p ∈ c.group.parked, p.wait = .xconv c.path.pos.pc)
        ∧ ∀ p ∈ c.path :: c.group.parked, ∀ l ∈ p.lanes, (s.thread c.gk l).trapMode = false
      ∃ t, exec .xconv s = .next t ∧ PlaceOnly c.gk c.core s' t ∧ (t.core c.core).gHold = none
        ∧ (¬all → t.groups.find c.gk = some { c.group with
            running := none, parked := c.group.parked ++ [{ mine with park := c.group.parkCtr }], parkCtr := c.group.parkCtr + 1 })
        ∧ (all → ∃ g p, t.groups.find c.gk = some g ∧ g.running = none ∧ g.parked = [p] ∧ p.wait = .none
            ∧ (∀ l, l ∈ p.lanes ↔ ∃ q ∈ c.path :: c.group.parked, l ∈ q.lanes)))

/-- R106, R107, R28: XSET, RDX and WRX. In range they write the index register, v[d] and the e-space register for 1 AU; where every thread is out of range, all of them trap with INDEX_BOUNDS and the number of the index register; and
of a set of which only some are out of range, those trap and the others have their effect, are charged, and stand parked at the next word. R111, R112, R12, R113, R131: SRD writes the value of its special, with the balance of the
lease as it stands after this instruction's charge, and an SRD of TIME also latches bits 47:32 of the time counter for TIMEH. Where the spec leaves something open this states the model's own choice: assumptions 5, 47. -/
def Obligations.IndexAndSpecialRegisters : Prop :=
  (
    ∀ i k (inRange : GCtx → Thread → Prop) (f : Thread → Thread),
      ((∃ a b x y, i = .xset k a b x y ∧ (∀ c th, inRange c th ↔ (th.rd a).toNat + (th.rd b).toNat + 64 ≤ c.team.regs)
          ∧ ∀ th, f th = { th with xb := th.xb.set k.toNat (th.rd a) 0#32, xl := th.xl.set k.toNat (th.rd b) 0#32 })
        ∨ (∃ d b y, i = .rdx d k b y ∧ (∀ c th, inRange c th ↔ (th.rd b).toNat < (th.xl.get k.toNat 0#32).toNat)
          ∧ ∀ th, f th = th.wr d (th.e.get ((th.xb.get k.toNat 0#32).toNat + (th.rd b).toNat) 0#32))
        ∨ (∃ a b x y, i = .wrx k a b x y ∧ (∀ c th, inRange c th ↔ (th.rd b).toNat < (th.xl.get k.toNat 0#32).toNat)
          ∧ ∀ th, f th = { th with e := th.e.set ((th.xb.get k.toNat 0#32).toNat + (th.rd b).toNat) (th.rd a) 0#32 })) →
      (∀ s c, 64 ≤ c.team.regs →
        (∀ s', PathReady i s c s' → (∀ l ∈ c.path.lanes, inRange c (s.thread c.gk l)) →
          ∃ t, exec i s = .next t ∧ Ran c (fun _ => f) s' t)
        ∧ (gctx s = some c → c.path.lanes ≠ [] → c.path.lanes.Nodup → i.classOk c.path.pos.cls = true → c.path.pos.rep = none →
            c.path.pos.remain ≠ 0 → c.path.pos.remain < 16 → Rules.AllHandled s c →
            (∀ l ∈ c.path.lanes, operandTrap i (s.thread c.gk l) = none) → (∀ l ∈ c.path.lanes, operandWait i (s.thread c.gk l) = false) →
            ∀ good bad : List Nat, c.path.lanes.filter (fun l => good.contains l) = good → c.path.lanes.filter (fun l => bad.contains l) = bad →
            (∀ l, l ∈ c.path.lanes ↔ l ∈ good ∨ l ∈ bad) → bad ≠ [] →
            (∀ l ∈ good, inRange c (s.thread c.gk l)) → (∀ l ∈ bad, ¬inRange c (s.thread c.gk l)) →
            ∀ s', charge s c.core c.team.task (c.keep good).payer good.length 0 = (true, s') →
              ∃ t, exec i s = .next t ∧
                Rules.Trapped c c.path.pos (wordOf i) (fun _ => { cause := .indexBounds, code := k.toNat, addr := 0#64 }) bad
                  (if good = [] then [] else [Rules.onward c good]) (s'.onLanes c.gk good (fun _ => f)) t)))
  ∧ (
    ∀ d n, ((Instr.srd d n).cost = 1 ∧ ∀ k : Cls, k.group = true → (Instr.srd d n).classOk k = true) ∧ ∀ s c s', PathReady (.srd d n) s c s' →
      ∀ value : Nat → Word, (∀ l ∈ c.path.lanes, Rules.r111 s' c l (s.thread c.gk l) n.toNat = some (value l)) →
        ∃ t, exec (.srd d n) s = .next t ∧ RanEach c (fun l th =>
          let th := th.wr d (value l)
          if n = 0x10#8 then { th with timeh := BitVec.ofNat 16 (s.time.toNat / 2 ^ 32) } else th) s' t)

/-- R114, R34, R35, R253: QGET takes the number of the thread's next entry: the pair is empty until that entry fills it, or closed when the entry was never made and there is no producer any more. A thread that awaits its entry awaits
it in program order, ahead of what it issues later. Where the spec leaves something open this states the model's own choice: assumptions 19, 52. -/
def Obligations.QueueGet : Prop :=
  ∀ d, (Instr.qget d).cost = 1 ∧ ∀ s c s', PathReady (.qget d) s c s' →
    let never : Thread → Prop := fun th => c.team.producer = false ∧ c.team.dq.length ≤ (th.qrd - c.team.dqFirst).toNat
    ∃ t u, exec (.qget d) s = .next t ∧ Rules.StandsAt c (Rules.runOn c c.path.lanes) (Rules.parkOn c c.path.lanes) u t ∧ Rules.Issued c s' u
      ∧ (∀ l ∈ c.path.lanes, ¬never (s.thread c.gk l) → ∃ o ∈ opsOf u (s.thread c.gk l).ops, o.kind = .edge true none ∧ o.got = none)
      ∧ u.threads = (s'.onLanes c.gk c.path.lanes (fun _ th =>
      let fill : Fill := if never th then .closed .qClosed 0#32 else .pending
      { th with
        empty := Rules.notFull (th.ix d + 1) fill (Rules.notFull (th.ix d) fill th.empty), qrd := th.qrd + 1#16,
        qpend := if never th then th.qpend else th.qpend ++ [(th.ix d, th.qrd)] })).threads

/-- R346: CSRR writes the value of its register and CSRW writes it, the read-only ones excepted, both for 1 AU; CSRW outside trap mode, and CSRR of VSH0 to VSH7 there, raise PERMISSION. R345, R348, R349: TLBI and HALT cost 1 AU. TLBI
drops the cached translations of the pages of its threads' addresses in the task's address space, the global ones that serve it included, HALT halts the group and sends Ling the trap record of every thread; both take a thread in
trap mode and raise PERMISSION otherwise. Where the spec leaves something open this states the model's own choice: assumption 48. -/
def Obligations.ControlAndTranslations : Prop :=
  (
    (∀ d h l, (Instr.csrr d h l).cost = 1 ∧ (Instr.csrw d h l).cost = 1)
    ∧ (∀ d h l s c s', PathReady (.csrr d h l) s c s' → num12 h l ∈ [0, 1, 2, 3] ++ (List.range 8).map (· + 0x010) ++ (List.range 8).map (· + 0x038) →
      (0x038 ≤ num12 h l → ∀ k ∈ c.path.lanes, (s.thread c.gk k).trapMode = true) →
      ∃ t, exec (.csrr d h l) s = .next t ∧ Ran c (fun _ th => th.wr d (Rules.r346v (num12 h l) th)) s' t)
    ∧ (∀ d h l s c s', PathReady (.csrw d h l) s c s' → num12 h l ∈ [0, 1, 2, 3] ++ (List.range 8).map (· + 0x010) ++ (List.range 8).map (· + 0x038) →
      (∀ k ∈ c.path.lanes, (s.thread c.gk k).trapMode = true) →
      (∀ k ∈ c.path.lanes, ∀ x < 4, num12 h l / 2 = 8 + x →
        ((Rules.r346 (num12 h l) ((s.thread c.gk k).rd d) (s.thread c.gk k)).xb.get x 0#32).toNat
          + ((Rules.r346 (num12 h l) ((s.thread c.gk k).rd d) (s.thread c.gk k)).xl.get x 0#32).toNat + 64 ≤ c.team.regs) →
      ∃ t, exec (.csrw d h l) s = .next t ∧ Ran c (fun _ th => Rules.r346 (num12 h l) (th.rd d) th) s' t)
    ∧ (∀ i, (∃ d h l, (i = .csrr d h l ∧ 0x038 ≤ num12 h l) ∨ i = .csrw d h l) → ∀ s c s', PathReady i s c s' → c.path.pos.remain ≠ 0 →
        c.path.pos.remain < 16 → Rules.AllHandled s c → ∃ t, exec i s = .next t ∧
          Rules.Trapped c c.path.pos (wordOf i) (fun _ => { cause := .permission, code := 0, addr := 0#64 }) c.path.lanes [] s t))
  ∧ (
    (∀ a x, (Instr.tlbi a x).cost = 1) ∧ Instr.halt.cost = 1 ∧
    (∀ a x s c s', PathReady (.tlbi a x) s c s' → (∀ l ∈ c.path.lanes, (s.thread c.gk l).trapMode = true) →
      ∃ t, exec (.tlbi a x) s = .next t ∧ ∃ kept : List TlbEntry,
        (∀ e, e ∈ kept ↔ e ∈ (s'.core c.core).cached ∧ ¬((e.space = c.task.space ∨ e.leaf.glob = true) ∧ ∃ l ∈ c.path.lanes,
          ((s.thread c.gk l).rd2 a).toNat % 2 ^ 48 / e.leaf.size = e.page * 2 ^ 16 / e.leaf.size))
        ∧ Rules.StandsAt c (Rules.runOn c c.path.lanes) (Rules.parkOn c c.path.lanes)
          (s'.modCore c.core (fun k => { k with cached := kept })) t)
    ∧ (∀ s c s', PathReady .halt s c s' → (∀ l ∈ c.path.lanes, (s.thread c.gk l).trapMode = true) →
      ∃ t, exec .halt s = .next t ∧ Rules.StandsAt { c with group := { c.group with halted := true } }
        (Rules.runOn c c.path.lanes) (Rules.parkOn c c.path.lanes)
        { s' with plat := { s'.plat with halts := s'.plat.halts ++ c.path.lanes.map (fun l => (c.team.task,
          (List.range 8).flatMap (fun k => bytesOfWord ((s.thread c.gk l).t.get k 0#32)))) } } t)
    ∧ (∀ i, (∃ a x, i = .tlbi a x) ∨ i = .halt → ∀ s c s', PathReady i s c s' → c.path.pos.remain ≠ 0 → c.path.pos.remain < 16 →
        Rules.AllHandled s c → ∃ t, exec i s = .next t ∧
          Rules.Trapped c c.path.pos (wordOf i) (fun _ => { cause := .permission, code := 0, addr := 0#64 }) c.path.lanes [] s t))

/-- R347, R202, R23: RFT. Threads whose trap registers pass its checks and name one place leave trap mode there: at a header, or inside a clause with the class, the words left, Y and the generation that t0 names, a REP there going on
with the execution it names; the path is parked when the RFT's own clause has Y set. A place that is no canonical word address raises BRANCH_TARGET, and so does one that should be a header and is none (R57, R103); being a trap in
trap mode it goes to the system handler (R342). Where the spec leaves something open this states the model's own choice: assumption 25. -/
def Obligations.ReturnFromTrap : Prop :=
  Instr.rft.cost = 1 ∧ (∀ s c s', PathReady .rft s c s' → ∀ (t0 : Word) (pc : DWord) (k : Cls),
    (∀ l ∈ c.path.lanes, (s.thread c.gk l).trapMode = true ∧ (s.thread c.gk l).t.get 0 0#32 = t0
      ∧ (s.thread c.gk l).t.get 3 0#32 ++ (s.thread c.gk l).t.get 2 0#32 = pc) →
    t0.toNat / 2 ^ 30 = 0 → k.code.toNat = t0.toNat / 2 ^ 25 % 8 → k ≠ .lead → pc.toNat % 4 = 0 → canonical pc = true →
    let remain := t0.toNat / 2 ^ 21 % 16
    (remain = 0 → checkTarget s c.core c.task.space c.task.priv pc = .ok) →
    let at_ : Pos := if remain = 0 then (Rules.atHeader c pc []).pos
      else { pc := pc, remain := remain, cls := k, y := t0.getLsbD 29, rep := none, repFrom := if t0.getLsbD 20 then some (t0.toNat / 2 ^ 14 % 64) else none }
    let p : Path := { park := 0, lanes := c.path.lanes, wait := .none, pos := at_ }
    ∃ t u, exec .rft s = .next t ∧ (t.core c.core).gHold = none
      ∧ Rules.Places c (if c.path.pos.y then none else some p) (if c.path.pos.y then [p] else []) u t
      ∧ RanEach c (fun _ th => { th with trapMode := false, gen := if remain = 0 then th.gen else t0.getLsbD 28 }) s' u)
  ∧ ∀ s c, gctx s = some c → c.path.lanes ≠ [] → Instr.rft.classOk c.path.pos.cls = true → c.path.pos.remain ≠ 0 → c.path.pos.remain < 16 →
    ∀ (t0 : Word) (pc : DWord) (k : Cls) (x : Cause × DWord),
    (∀ l ∈ c.path.lanes, (s.thread c.gk l).trapMode = true ∧ (s.thread c.gk l).t.get 0 0#32 = t0
      ∧ (s.thread c.gk l).t.get 3 0#32 ++ (s.thread c.gk l).t.get 2 0#32 = pc) →
    t0.toNat / 2 ^ 30 = 0 → k.code.toNat = t0.toNat / 2 ^ 25 % 8 → k ≠ .lead →
    ((canonical pc = false ∨ pc.toNat % 4 ≠ 0) ∧ x = (.branchTarget, 0#64)
      ∨ t0.toNat / 2 ^ 21 % 16 = 0 ∧ Rules.targetFails s c.core c.task pc = some x) →
    ∃ t u, exec .rft s = .next t
      ∧ (∃ f : Nat → Thread → Thread, (∀ l ∈ c.path.lanes, Rules.HasTrapped c.path.pos (wordOf .rft) { cause := x.1, code := 0, addr := x.2 }
          (s.thread c.gk l) (f l (s.thread c.gk l)))
        ∧ Rules.StandsAt c none [] (s.onLanes c.gk c.path.lanes f) u)
      ∧ Rules.SystemHandles c.team.task x.1 u t

/-- R55, R122, R124, R214: LDS, LDQ and LDACC. A load of the scratchpad or of the quad pool within its limit and aligned, of a line that is present, and a load of accumulator words within their limit, has marked its registers empty
and has on its way to them what the locations held before the issue. Of a set of LDS of which some lines are absent, those threads stand parked at it and the others have their effect (R126, R377). Where the spec leaves something
open this states the model's own choice: assumption 19. -/
def Obligations.LocalLoads : Prop :=
  (∀ d a x z o s c s', PathReady (.lds d a x z o) s c s' → Rules.mayTouchSpad s c →
    (∀ l ∈ c.path.lanes, Rules.inSpad c.team (Rules.localAt z a o (s.thread c.gk l)) (Rules.width z)) →
    ∃ t, exec (.lds d a x z o) s = .next t ∧ Ran c (fun _ th =>
      Rules.awaits 0 ((List.range (Rules.regsOf z)).map (fun k => th.ix d + k))
        (some (Rules.loaded z ((List.range (Rules.width z)).map (fun k => Rules.spadByte c.team (Rules.localAt z a o th + k))))) th) s' t)
  ∧ (∀ d a x z o s c s', PathReady (.ldq d a x z o) s c s' → (∀ l ∈ c.path.lanes, quiet s (s.thread c.gk l).ops = true) →
    (∀ l ∈ c.path.lanes, Rules.localAt z a o (s.thread c.gk l) + Rules.width z ≤ 16384 * c.team.quadg
      ∧ Rules.localAt z a o (s.thread c.gk l) % Rules.width z = 0) →
    ∃ t, exec (.ldq d a x z o) s = .next t ∧ Ran c (fun _ th =>
      Rules.awaits 0 ((List.range (Rules.regsOf z)).map (fun k => th.ix d + k))
        (some (Rules.loaded z ((List.range (Rules.width z)).map (fun k => Rules.poolByte s c (Rules.localAt z a o th + k))))) th) s' t)
  ∧ (∀ d a x (n : BitVec 3) o s c s', PathReady (.ldacc d a x n o) s c s' → (∀ l ∈ c.path.lanes, quiet s (s.thread c.gk l).ops = true) →
    (∀ l ∈ c.path.lanes, 0 ≤ ((s.thread c.gk l).rd a).toNat + o.toInt
      ∧ ((s.thread c.gk l).rd a).toNat + o.toInt + n.toNat < 4096 * c.team.accg) →
    (Instr.ldacc d a x n o).cost = 2 + (n.toNat + 1) ∧
    ∃ t, exec (.ldacc d a x n o) s = .next t ∧ Ran c (fun _ th =>
      Rules.awaits 0 ((List.range (n.toNat + 1)).map (fun k => th.ix d + k))
        (some ((List.range (n.toNat + 1)).map (fun k => c.team.acc.get (((th.rd a).toNat + o.toInt).toNat + k) 0#32))) th) s' t)
  ∧ (∀ d a x z o s c, Rules.Checked (.lds d a x z o) s c → Rules.mayTouchSpad s c → ∀ here away : List Nat,
    c.path.lanes.filter (fun l => here.contains l) = here → c.path.lanes.filter (fun l => away.contains l) = away →
    (∀ l ∈ c.path.lanes, ¬(l ∈ here ∧ l ∈ away)) → (∀ l ∈ c.path.lanes, l ∈ here ∨ l ∈ away) → here ≠ [] → away ≠ [] →
    (∀ l ∈ here, Rules.inSpad c.team (Rules.localAt z a o (s.thread c.gk l)) (Rules.width z)) →
    (∀ l ∈ away, Rules.lineGone c.team (Rules.localAt z a o (s.thread c.gk l)) (Rules.width z)) →
    ∀ s', charge s c.core c.team.task (c.keep here).payer (here.length * (Instr.lds d a x z o).cost) (here.length * (Instr.lds d a x z o).byteCost) = (true, s') →
    ∃ t, exec (.lds d a x z o) s = .next t
      ∧ Rules.StandsAt c (Rules.runOn c here) ({ c.path with lanes := away } :: Rules.parkOn c here)
        (s'.onLanes c.gk here (fun _ th => Rules.awaits 0 ((List.range (Rules.regsOf z)).map (fun k => th.ix d + k))
          (some (Rules.loaded z ((List.range (Rules.width z)).map (fun k => Rules.spadByte c.team (Rules.localAt z a o th + k))))) th)) t)

/-- R122, R124: STS and STQ. Every byte of the scratchpad, or of the quad pool, that no lane stores to is as before, and one that lanes store to is what the highest of them stored; no thread, no other memory and no byte of another
task changes. R130, R23: ATOMS. The lanes of a set read, change and write their words of the scratchpad one after the other in ascending order, each receives in v[d] what it found, and the instruction is a switch point. Where the
spec leaves something open this states the model's own choice: assumption 19. -/
def Obligations.LocalStoresAndAtomics : Prop :=
  (
    (∀ d a x z o s c s', PathReady (.sts d a x z o) s c s' → (∀ l ∈ c.path.lanes, l < 64) → Rules.mayTouchSpad s c →
      (∀ l ∈ c.path.lanes, Rules.inSpad c.team (Rules.localAt z a o (s.thread c.gk l)) (Rules.width z)) →
      ∃ t sp, exec (.sts d a x z o) s = .next t
        ∧ (∀ x, SMap.get sp x 0#8 = Rules.storedByte c.path.lanes (fun l => Rules.localAt z a o (s.thread c.gk l))
            (fun l => Rules.sentBytes z d (s.thread c.gk l)) (Rules.spadByte c.team) x)
        ∧ Rules.StandsAt c (Rules.runOn c c.path.lanes) (Rules.parkOn c c.path.lanes)
            { s' with teams := s'.teams.mod c.tk (fun tm => { tm with spad := sp }) } t)
    ∧ (∀ d a x z o s c s', PathReady (.stq d a x z o) s c s' → (∀ l ∈ c.path.lanes, l < 64 ∧ quiet s (s.thread c.gk l).ops = true) →
      (∀ l ∈ c.path.lanes, Rules.localAt z a o (s.thread c.gk l) + Rules.width z ≤ 16384 * c.team.quadg
        ∧ Rules.localAt z a o (s.thread c.gk l) % Rules.width z = 0) →
      ∃ t pool, exec (.stq d a x z o) s = .next t
        ∧ (∀ x, SMap.get pool x 0#8 = Rules.storedByte c.path.lanes
            (fun l => 2 ^ 23 * (192 * c.team.task + c.core / 4) + Rules.localAt z a o (s.thread c.gk l))
            (fun l => Rules.sentBytes z d (s.thread c.gk l)) (fun x => SMap.get s.quadPool x 0#8) x)
        ∧ Rules.StandsAt c (Rules.runOn c c.path.lanes) (Rules.parkOn c c.path.lanes) { s' with quadPool := pool } t))
  ∧ (
    ∀ d a b x y o s c s', PathReady (.atoms d a b x y o) s c s' → (∀ l ∈ c.path.lanes, l < 64) → Rules.mayTouchSpad s c →
      (∀ l ∈ c.path.lanes, Rules.inSpad c.team ((s.thread c.gk l).rd a).toNat 4) →
      let r := Rules.atomicChain o (fun l => ((s.thread c.gk l).rd a).toNat) (fun l => (s.thread c.gk l).rd b)
        (fun l => (s.thread c.gk l).reg ((s.thread c.gk l).ix b + 1)) (sortLanes c.path.lanes) (Rules.spadByte c.team)
      ∃ t sp, exec (.atoms d a b x y o) s = .next t ∧ (∀ x, SMap.get sp x 0#8 = r.1 x)
        ∧ Rules.StandsAt c (Rules.runSwitch c) (Rules.parkSwitch c)
          (({ s' with teams := s'.teams.mod c.tk (fun tm => { tm with spad := sp }) } : State).onLanes c.gk c.path.lanes
            (fun l th => th.wr d (r.2 l))) t)

/-- R122, R123, R253, R254, R281: LD and ST. A thread whose checks pass has one access more in its queue, of the bytes at its address, with the value of v[d] for a store; the registers of a load are empty until its answer; nothing
else changes, and no byte of any memory does. R266, R229: ATOM32 and ATOM64. Every thread whose checks pass has one atomic more in its queue, with its operands, and the path is parked until every one of them has been answered; no
register and no memory changes yet. Where the spec leaves something open this states the model's own choice: assumption 19. -/
def Obligations.GlobalAccesses : Prop :=
  (
    ∀ i va n acc kind regs, Rules.global i = some (va, n, acc, kind, regs) → (acc = .read ∨ acc = .write) →
      i.cost = 3 ∧ ∀ s c s', PathReady i s c s' → Rules.mayIssue s c acc → ∀ loc : Nat → Loc,
      (∀ l ∈ c.path.lanes, l < 64 ∧ Rules.Reaches s c (va (s.thread c.gk l)) n acc (loc l)) →
      ∃ t u, exec i s = .next t ∧ Rules.StandsAt c (Rules.runOn c c.path.lanes) (Rules.parkOn c c.path.lanes) u t ∧ Rules.Issued c s' u
        ∧ ∀ l ∈ c.path.lanes,
          (∃ o ∈ opsOf u (s.thread c.gk l).ops, o.loc = loc l ∧ o.n = n ∧ o.kind = kind (s.thread c.gk l)
            ∧ u.threads.find (tkey c.gk l) = (s.threads.find (tkey c.gk l)).map (fun th =>
                if acc = .read then Rules.awaits o.id (regs th) none th else th)))
  ∧ (
    ∀ i va n kind regs, Rules.global i = some (va, n, .atomic, kind, regs) →
      i.cost = 8 ∧ ∀ s c s', PathReady i s c s' → Rules.mayIssue s c .atomic → ∀ loc : Nat → Loc,
      (∀ l ∈ c.path.lanes, l < 64 ∧ Rules.Reaches s c (va (s.thread c.gk l)) n .atomic (loc l)) →
      ∃ t u reqs, exec i s = .next t ∧ Rules.Issued c s' u ∧ u.threads = s'.threads
        ∧ Rules.StandsAt c none [{ Rules.onward c c.path.lanes with wait := .answers reqs c.path.pos (wordOf i) 8 }] u t
        ∧ reqs.map Prod.fst = sortLanes c.path.lanes ∧ (∀ r ∈ reqs, r.2.2 = .waiting
          ∧ ∃ o ∈ opsOf u (s.thread c.gk r.1).ops, o.id = r.2.1 ∧ o.loc = loc r.1 ∧ o.n = n ∧ o.kind = kind (s.thread c.gk r.1)))

/-- R204, R175, R364: LDF. With the format of its base's page, an LDF of elements of that format in a page that the task's code may decode has one load more in its queue, which will give the elements with their scale, and has added
its bytes to the decoded-byte count of the page's region, which stays at 2^64 - 1 when it would pass it. Where the spec leaves something open this states the model's own choice: assumptions 20, 24. -/
def Obligations.DecodingLoad : Prop :=
  ∀ d a x z o s c s', PathReady (.ldf d a x z o) s c s' → Rules.mayIssue s c .read →
    (ldfScales a z o s c = [] ∨ ((∀ l ∈ c.path.lanes, quiet s (s.thread c.gk l).ops = true) ∧ readable s (c.core / 96) (ldfScales a z o s c) = true)) →
    let m := Rules.regsOf (if z = .d ∨ z = .q then z else .w)
    ∀ base page : Nat → Leaf,
    (let at_ : Nat → DWord := fun l => BitVec.ofInt 64 (((s.thread c.gk l).rd2 a).toNat + o.toInt * ((m * fmtBytes (base l).fmt : Nat) : Int))
     (∀ l ∈ c.path.lanes, l < 64 ∧ canonical ((s.thread c.gk l).rd2 a) = true ∧ canonical (at_ l) = true
       ∧ lookup s c.core c.task.space (((s.thread c.gk l).rd2 a).toNat % 2 ^ 48) = .ok (base l)
       ∧ 1 ≤ (base l).fmt ∧ (base l).fmt < 8
       ∧ (at_ l).toNat % (m * fmtBytes (base l).fmt) = 0
       ∧ lookup s c.core c.task.space ((at_ l).toNat % 2 ^ 48) = .ok (page l)
       ∧ (page l).r = true ∧ ((page l).u = true ∨ c.task.priv = true) ∧ (page l).kind ≠ 3 ∧ (page l).sab = false
       ∧ (page l).fmt = (base l).fmt ∧ (page l).geo < 3
       ∧ ((page l).region = 0 ∨ ∃ p k, s.plat.policies.find (page l).region = some p ∧ s.plat.codeObjs.find c.task.codeid = some k ∧ k.meas ∈ p.meas)
       ∧ scaleAt s (page l) ((at_ l).toNat % 2 ^ 48) ≠ 255
       ∧ homeOf ((page l).loc ((at_ l).toNat % 2 ^ 48)) ∉ s.removed) →
     ∃ t u, exec (.ldf d a x z o) s = .next t ∧ Rules.StandsAt c (Rules.runOn c c.path.lanes) (Rules.parkOn c c.path.lanes) u t
       ∧ Rules.Issued c { s' with plat := u.plat } u ∧ u.plat = { s'.plat with decb := u.plat.decb }
       ∧ (∀ r, (u.plat.decb.get r 0#64).toNat = Nat.min ((s'.plat.decb.get r 0#64).toNat
           + (((sortLanes c.path.lanes).filter (fun l => decide (r ≠ 0 ∧ (page l).region = r))).map (fun l => m * fmtBytes (base l).fmt)).sum) (2 ^ 64 - 1))
       ∧ ∀ l ∈ c.path.lanes, ∃ o ∈ opsOf u (s.thread c.gk l).ops,
           o.loc = (page l).loc ((at_ l).toNat % 2 ^ 48) ∧ o.n = m * fmtBytes (base l).fmt
           ∧ o.kind = .load (.elems (base l).fmt (scaleAt s (page l) ((at_ l).toNat % 2 ^ 48)) m)
               ((List.range m).map (fun k => (s.thread c.gk l).ix d + k))
           ∧ u.threads.find (tkey c.gk l) = (s.threads.find (tkey c.gk l)).map (Rules.awaits o.id ((List.range m).map (fun k => (s.thread c.gk l).ix d + k)) none))

/-- R122, R123, R126, R355, R377: the checks of the accesses. An access to global memory that fails a check of R122 or R123 traps with the cause of the first and its address; one to the scratchpad or the quad pool beyond the limit, or
misaligned there, traps likewise; and where a translation is missing the instruction does not issue, nothing is charged, and the team's fault is recorded for its swap-out. An access to the scratchpad all of whose lines are absent
parks the path at it, uncharged. Where the spec leaves something open this states the model's own choice: assumptions 26, 55, 56. -/
def Obligations.AccessChecks : Prop :=
  (∀ i va n acc kind regs, Rules.global i = some (va, n, acc, kind, regs) → ∀ s c, Rules.Checked i s c → ∀ cause : Nat → Cause,
    (∀ l ∈ c.path.lanes, Rules.accessFails s c (va (s.thread c.gk l)) n acc = some (cause l)) →
    ∃ t, exec i s = .next t ∧ Rules.Trapped c c.path.pos (wordOf i)
      (fun l => { cause := cause l, code := 0, addr := va (s.thread c.gk l) }) c.path.lanes [] s t)
  ∧ (∀ i va n acc kind regs, Rules.global i = some (va, n, acc, kind, regs) → ∀ s c, Rules.Checked i s c →
    (∃ l ∈ c.path.lanes, ∃ e, Rules.accessFails s c (va (s.thread c.gk l)) n acc = none
      ∧ lookup s c.core c.task.space ((va (s.thread c.gk l)).toNat % 2 ^ 48) = .error e) →
    (∀ l ∈ c.path.lanes, ∀ f, lookup s c.core c.task.space ((va (s.thread c.gk l)).toNat % 2 ^ 48) = .ok f →
      homeOf (f.loc ((va (s.thread c.gk l)).toNat % 2 ^ 48)) ∉ s.removed) →
    ∃ t u f, exec i s = .next t ∧ Rules.StandsAt c none [c.path] u t ∧ f.acc = acc.code
      ∧ u = { s with teams := s.teams.mod c.tk (fun tm =>
          if ∃ q ∈ tm.faults, q.va = f.va ∧ q.stage = f.stage ∧ q.acc = f.acc then tm else { tm with faults := tm.faults ++ [f] }) }
      ∧ ∃ l ∈ c.path.lanes, ∃ e, lookup s c.core c.task.space ((va (s.thread c.gk l)).toNat % 2 ^ 48) = .error e
          ∧ f.va = e.va ∧ f.level = e.level ∧ f.stage = e.stage ∧ f.malf = e.malf ∧ f.team = c.team.index ∧ f.uid = c.team.uid)
  ∧ (∀ i d a x z o, ∀ limit : GCtx → Nat, (∀ c : GCtx, limit c = 16384 * (if i = .ldq d a x z o ∨ i = .stq d a x z o then c.team.quadg else c.team.spadg)) →
    i ∈ [Instr.lds d a x z o, .sts d a x z o, .ldq d a x z o, .stq d a x z o] → ∀ s c, Rules.Checked i s c →
    (∀ l ∈ c.path.lanes, limit c < Rules.localAt z a o (s.thread c.gk l) + Rules.width z ∨ Rules.localAt z a o (s.thread c.gk l) % Rules.width z ≠ 0) →
    ∃ t, exec i s = .next t ∧ Rules.Trapped c c.path.pos (wordOf i)
      (fun l => { cause := if limit c < Rules.localAt z a o (s.thread c.gk l) + Rules.width z then .permission else .align, code := 0,
                  addr := BitVec.ofNat 64 (Rules.localAt z a o (s.thread c.gk l)) }) c.path.lanes [] s t)
  ∧ (∀ i at_ n, Rules.spadReach i = some (at_, n) → ∀ s c, Rules.Checked i s c →
    (∀ l ∈ c.path.lanes, Rules.lineGone c.team (at_ (s.thread c.gk l)) n) →
    ∃ t, exec i s = .next t ∧ Rules.StandsAt c none [c.path] s t)

/-- R264, R138, R47: FENCE, BARW and BARI. FENCE and BARW are charged at issue; the path goes on when what they wait for holds for every member, and otherwise waits, parked at the next word. A member of a BARW whose wait is met
inverts its wait bit, and BARI writes a predicate and waits for nothing. -/
def Obligations.FencesAndWaits : Prop :=
  (∀ n s c s', PathReady (.fence n) s c s' → ∃ t, exec (.fence n) s = .next t ∧
    ((∀ l ∈ c.path.lanes, Rules.fenceOver s c n s.nextId l) → Rules.StandsAt c (Rules.runOn c c.path.lanes) (Rules.parkOn c c.path.lanes) s' t)
    ∧ (¬(∀ l ∈ c.path.lanes, Rules.fenceOver s c n s.nextId l) →
        Rules.StandsAt c none [{ Rules.onward c c.path.lanes with wait := .fence n s.nextId }] s' t))
  ∧ (∀ k n s c s', PathReady (.barw k n) s c s' → (c.team.bars.get k.toNat Barrier.initial).net = n →
    let met : Nat → Bool := fun l => Rules.seenPhase s c.team k.toNat != (s.thread c.gk l).waitb.getLsbD k.toNat
    let rest := c.path.lanes.filter (fun l => !met l)
    ∃ t, exec (.barw k n) s = .next t ∧
      Rules.StandsAt c (if rest = [] then Rules.runOn c c.path.lanes else none)
        (if rest = [] then Rules.parkOn c c.path.lanes else [{ Rules.onward c c.path.lanes with wait := .barw k.toNat rest }])
        (s'.onLanes c.gk (c.path.lanes.filter met) (fun _ th => { th with waitb := th.waitb ^^^ BitVec.ofNat 16 (2 ^ k.toNat) })) t)
  ∧ (∀ k n p s c s', PathReady (.bari k n p) s c s' → (c.team.bars.get k.toNat Barrier.initial).net = n →
    ∃ t, exec (.bari k n p) s = .next t ∧
      Ran c (fun _ th => th.setPred p ((c.team.bars.get k.toNat Barrier.initial).phase != th.waitb.getLsbD k.toNat)) s' t)
  ∧ (∀ i, (∃ k n, i = .bara k n ∨ i = .barw k n) ∨ (∃ k n p, i = .bari k n p) ∨ (∃ k n b y, i = .barab k n b y) →
    ∀ s c, Rules.Checked i s c → (∀ k n p b y, i = .bara k n ∨ i = .barw k n ∨ i = .bari k n p ∨ i = .barab k n b y →
      (c.team.bars.get k.toNat Barrier.initial).net ≠ n) →
    ∃ t, exec i s = .next t ∧ Rules.Trapped c c.path.pos (wordOf i) (fun _ => { cause := .illegalOp, code := 0, addr := 0#64 }) c.path.lanes [] s t)

/-- R134, R135, R138: BARA and BARAB. Every member has arrived at the barrier in its present phase, BARAB has first counted in the bytes that its members expect, and once every live thread of the group has arrived, with its SENDs
accepted and its accesses out, the group has arrived; the path goes on. R138, R133: BARS. It binds its barrier to the network and gives it N, with the value of the lowest lane of the set; ARR, PEND, TOUCHED and PHASE of a barrier
at CORE stay, MEMBERS is emptied unless nothing changes, and an instance of a wider network is created by the first BARS that names it. R135, R151, R137: the end of a clk at the barriers, when no arrival is left to be counted. A
barrier at CORE with its parties arrived, no byte outstanding and something counted inverts PHASE and begins anew, and a lead that was held there for its second arrival arrives in the new phase; any other barrier at CORE stays. An
instance of a wider network whose parties have arrived inverts its PHASE, and the new phase is on its way to the teams bound to it; any other stays. Where the spec leaves something open this states the model's own choice:
assumptions 19, 52, 59. -/
def Obligations.BarriersArriveAndBind : Prop :=
  (
    ∀ i k n (bytes : Thread → Nat), ((i = .bara k n ∧ ∀ th, bytes th = 0)
        ∨ (∃ b y, i = .barab k n b y ∧ n = .core ∧ ∀ th, bytes th = (th.rd b).toNat)) →
      i.cost = 1 ∧ ∀ s c s', PathReady i s c s' → (c.team.bars.get k.toNat Barrier.initial).net = n →
      (c.team.bars.get k.toNat Barrier.initial).here.getLsbD c.group.gid = false → (∀ l ∈ c.path.lanes, (s.thread c.gk l).arr.find k.toNat = none) →
      ∃ t u, exec i s = .next t ∧ Rules.StandsAt c (Rules.runOn c c.path.lanes) (Rules.parkOn c c.path.lanes) u t
        ∧ u.threads = (s'.onLanes c.gk c.path.lanes (fun _ th => { th with arr := th.arr.put k.toNat 1 })).threads
        ∧ u = { s' with threads := u.threads, teams := u.teams, wides := u.wides, nodes := u.nodes, fibres := u.fibres, nextId := u.nextId }
        ∧ ∃ tm, u.teams.find c.tk = some tm ∧ tm = { c.team with bars := tm.bars }
          ∧ (tm.bars.get k.toNat Barrier.initial).pend = (c.team.bars.get k.toNat Barrier.initial).pend
              + BitVec.ofNat 48 (c.path.lanes.map (fun l => bytes (s.thread c.gk l))).sum
          ∧ ((∀ l < 64, (s.thread c.gk l).live = true → (l ∈ c.path.lanes ∨ (s.thread c.gk l).arr.get k.toNat 0 ≠ 0)
                ∧ quiet s (s.thread c.gk l).ops = true ∧ ∀ x ∈ s.sends, ¬(x.uid = c.team.uid ∧ x.gid = c.group.gid ∧ x.lane = l)) →
              (∃ l < 64, (s.thread c.gk l).live = true) → c.group.team = c.tk → c.group.gid < 16 →
              (tm.bars.get k.toNat Barrier.initial).here.getLsbD c.group.gid = true))
  ∧ (
    ∀ k n b y s c s', PathReady (.bars k n b y) s c s' → ∀ l0, l0 ∈ c.path.lanes → l0 < 64 → (∀ l ∈ c.path.lanes, l0 ≤ l) →
      let v := (s.thread c.gk l0).rd b
      let count := v.toNat % 2 ^ 16
      let bar := c.team.bars.get k.toNat Barrier.initial
      (n ≠ .pod → v.toNat < 2 ^ 16) → (bar.net ≠ n → barArr s c.team k.toNat = 0 ∧ bar.pend = 0#48) →
      ∃ t u tm, exec (.bars k n b y) s = .next t ∧ Rules.StandsAt c (Rules.runOn c c.path.lanes) (Rules.parkOn c c.path.lanes) u t
        ∧ u = { s' with teams := u.teams, wides := u.wides } ∧ u.teams.find c.tk = some tm
        ∧ (∀ j, j ≠ k.toNat → tm.bars.get j Barrier.initial = c.team.bars.get j Barrier.initial)
        ∧ (n = .core → u.wides = s'.wides ∧ tm.bars.get k.toNat Barrier.initial =
            if bar.net = .core ∧ bar.n = count then bar else { bar with net := .core, n := count, members := 0#16, pod := 0#16 })
        ∧ (n ≠ .core →
            let pod : BitVec 16 := if n = .pod then BitVec.ofNat 16 (v.toNat / 2 ^ 16) else 0#16
            let key := wideKey c.team n pod k.toNat
            (tm.bars.get k.toNat Barrier.initial).net = n ∧ (tm.bars.get k.toNat Barrier.initial).pod = pod
            ∧ (∃ w, u.wides.find key = some w ∧ w.n = count
                ∧ (s.wides.find key = none → w = WideBar.mk c.team.task n count [] 0 false false [] [])
                ∧ ∀ old, s.wides.find key = some old → w = if old.n = count then old else { old with n := count, members := [] })
            ∧ ∀ j, j ≠ key → u.wides.find j = s.wides.find j))
  ∧ (
    (∀ s ts, s.turns = .clk :: ts → nextDue s = none →
      let u := completePhases (releaseWaits { s with turns := ts, freeCtr := s.freeCtr + 1 })
      ∃ t, step s = .next t ∧ t.teams = u.teams ∧ t.wides = u.wides ∧ t.threads = u.threads ∧ t.fresh.phases = [])
    ∧ ∀ s, s.teams.foldl (fun s e => countArrivals s e.1) s = s → (s.teams.map Prod.fst).Nodup → (s.wides.map Prod.fst).Nodup →
      (∀ tk tm bar, s.teams.find tk = some tm → bar < 16 →
        let b := tm.bars.get bar Barrier.initial
        b.net = .core → ∃ new, (completePhases s).teams.find tk = some new
          ∧ new = { tm with bars := new.bars, lead := { tm.lead with wait := new.lead.wait } }
          ∧ (b.n ≤ b.arr ∧ b.pend = 0#48 ∧ b.touched = true →
            (tm.lead.wait ≠ .arv bar → new.bars.get bar Barrier.initial = { b with arr := 0, here := 0#16, touched := false, phase := !b.phase })
            ∧ (tm.lead.wait = .arv bar → new.lead.wait = .none ∧ new.bars.get bar Barrier.initial =
                { b with arr := 1, here := 0x100#16, members := b.members ||| 0x100#16, touched := true, phase := !b.phase })
            ∧ ∀ e ∈ s.groups, e.2.team = tk → ∀ k th, k / 64 = e.1 → (completePhases s).threads.find k = some th → th.arr.find bar = none)
          ∧ (¬(b.n ≤ b.arr ∧ b.pend = 0#48 ∧ b.touched = true) → new.bars.get bar Barrier.initial = b))
      ∧ ∀ key w, s.wides.find key = some w →
        (w.net ≠ .core ∧ key < 2 ^ 61 ∧ w.n ≤ w.arr ∧ w.touched = true →
          ∃ uids, (completePhases s).wides.find key = some { w with arr := 0, touched := false, phase := !w.phase, unseen := w.unseen ++ uids }
            ∧ (∀ tk tm k b, s.teams.find tk = some tm → tm.bars.find k = some b → b.net ≠ .core → wideKey tm b.net b.pod k = key → tm.uid ∈ uids)
            ∧ ∀ uid x k b, (uid, x) ∈ s.images → x.team.bars.find k = some b → b.net ≠ .core → wideKey x.team b.net b.pod k = key → x.team.uid ∈ uids)
        ∧ (¬(w.net ≠ .core ∧ key < 2 ^ 61 ∧ w.n ≤ w.arr ∧ w.touched = true) → (completePhases s).wides.find key = some w))

/-- R139 to R142: the cross-lane operations. Each member's destination is empty until the result, which its row of R141 gives from the values of the members of the set, or the prior value where no member is chosen; XANY and XALL write
a predicate at once. -/
def Obligations.CrossLane : Prop :=
  (∀ i d p, Rules.r141 i = some (d, p) → i.cost = 4 ∧ ∀ s c s', PathReady i s c s' → (∀ l ∈ c.path.lanes, l < 64) →
    ∃ w : Nat → Word, (∀ l ∈ c.path.lanes, p (s.thread c.gk) (sortLanes c.path.lanes) l (w l))
      ∧ ∃ t, exec i s = .next t ∧ RanEach c (fun l th => Rules.awaits 0 [th.ix d] (some [w l]) th) s' t)
  ∧ (∀ d p s c s', PathReady (.xany d p) s c s' → ∃ t, exec (.xany d p) s = .next t
      ∧ Ran c (fun _ th => th.setPred d (decide (∃ m ∈ c.path.lanes, (s.thread c.gk m).pred p = true))) s' t)
  ∧ (∀ d p s c s', PathReady (.xall d p) s c s' → ∃ t, exec (.xall d p) s = .next t
      ∧ Ran c (fun _ th => th.setPred d (decide (∀ m ∈ c.path.lanes, (s.thread c.gk m).pred p = true))) s' t)

/-- R143 to R145, R229: SEND. When every check of every consumer passes, the word is on its way to each consumer of the mask in lane order; with SA among them, one add goes to the row's home first and the path waits for its answer,
the other consumers to receive the word afterwards. Where the spec leaves something open this states the model's own choice: assumptions 19, 29. -/
def Obligations.SendToConsumers : Prop :=
  ∀ a b x y (m : BitVec 5) s c s', PathReady (.send a b x y m) s c s' → (∀ l ∈ c.path.lanes, l < 64 ∧ quiet s (s.thread c.gk l).ops = true) →
    roomFor s (c.core / 96) c.path.lanes.length = true →
    (∀ l ∈ c.path.lanes, let dest := ((s.thread c.gk l).rd b).toNat
      (m.getLsbD 3 = true ∨ m.getLsbD 4 = true → dest / 2 ^ 28 ≤ 8)
      ∧ (m.getLsbD 2 = true ∨ m.getLsbD 4 = true → Rules.inSpad c.team (dest % 2 ^ 21) 4) ∧ (m.getLsbD 3 = true → dest % 4 = 0)
      ∧ (m.getLsbD 1 = true → Rules.saLocal c.core dest 1 [(s.thread c.gk l).rd a] = none ∧ dest / 2 ^ 29 ∉ s.removed)) →
    let to_ : List Consumer := (if m.getLsbD 0 then [Consumer.lead] else []) ++ (if m.getLsbD 2 then [Consumer.spad] else [])
      ++ (if m.getLsbD 3 then [Consumer.next] else []) ++ (if m.getLsbD 4 then [Consumer.stage] else [])
    (m.getLsbD 1 = false → ∃ t new, exec (.send a b x y m) s = .next t
      ∧ Rules.StandsAt c (Rules.runOn c c.path.lanes) (Rules.parkOn c c.path.lanes)
          { s' with sends := s'.sends ++ new, nextId := s'.nextId + new.length } t
      ∧ new.map (fun i => (i.lane, i.dest_)) = (sortLanes c.path.lanes).flatMap (fun l => to_.map (fun d => (l, d)))
      ∧ ∀ i ∈ new, i.uid = c.team.uid ∧ i.core = c.core ∧ i.task = c.team.task ∧ i.gid = c.group.gid
          ∧ i.word = (s.thread c.gk i.lane).rd a ∧ i.dest = (s.thread c.gk i.lane).rd b)
    ∧ (m.getLsbD 1 = true → ∃ t u reqs, exec (.send a b x y m) s = .next t
      ∧ Rules.StandsAt c none [{ Rules.onward c c.path.lanes with wait := .answers reqs c.path.pos (wordOf (.send a b x y m)) 3 }] u t
      ∧ u = { s' with nodes := u.nodes, nextId := u.nextId } ∧ reqs.map Prod.fst = sortLanes c.path.lanes
      ∧ ∀ q ∈ reqs, q.2.2 = .waiting ∧ ∃ r : SaReq, Rules.Sent u (c.core / 96) (((s.thread c.gk q.1).rd b).toNat / 2 ^ 29) (.saReq r)
          ∧ r.id = q.2.1 ∧ r.uid = c.team.uid ∧ r.gid = c.group.gid ∧ r.lane = q.1 ∧ r.task = c.team.task ∧ r.op = .add ((s.thread c.gk q.1).rd a)
          ∧ r.addr = (s.thread c.gk q.1).rd b ∧ r.rest = to_ ∧ r.word = (s.thread c.gk q.1).rd a ∧ r.dest = (s.thread c.gk q.1).rd b)

/-- R228, R229, R232 to R235, R281: the vector side of SA. When the local checks pass, one request of each thread is on its way to the home of its row, the destination of a read is empty until the answer, and the path waits until
every request has been answered, a read also in its place in the thread's program order (R228, R281); where they fail in every thread, each traps with the cause of the first that fails and its SA address. Where the spec leaves
something open this states the model's own choice: assumption 19. -/
def Obligations.StreamRequests : Prop :=
  ∀ i a op d x, Rules.r232 i = some (a, op, d, x) →
    (∀ s c s', PathReady i s c s' → Rules.mayIssue s c .write →
      (∀ l ∈ c.path.lanes, l < 64 ∧ ((s.thread c.gk l).rd a).toNat / 2 ^ 29 ∉ s.removed
        ∧ Rules.saLocal c.core ((s.thread c.gk l).rd a).toNat (Rules.saShape (op (s.thread c.gk l))).1 (Rules.saShape (op (s.thread c.gk l))).2 = none) →
      ∃ t u reqs, exec i s = .next t
        ∧ Rules.StandsAt c none [{ Rules.onward c c.path.lanes with wait := .answers reqs c.path.pos (wordOf i) i.cost }] u t
        ∧ u = { s' with threads := u.threads, opqs := u.opqs, nodes := u.nodes, nextId := u.nextId } ∧ reqs.map Prod.fst = sortLanes c.path.lanes
        ∧ (∀ q ∈ reqs, (Rules.saShape (op (s.thread c.gk q.1))).2 = [] →
            ∃ o ∈ opsOf u (s.thread c.gk q.1).ops, o.id = q.2.1 ∧ o.kind = .edge false none ∧ o.got = none)
        ∧ (∀ k, ¬(k / 64 = c.gk ∧ k % 64 ∈ c.path.lanes) → u.threads.find k = s.threads.find k)
        ∧ ∀ q ∈ reqs, q.2.2 = .waiting
          ∧ (∃ r : SaReq, Rules.Sent u (c.core / 96) (((s.thread c.gk q.1).rd a).toNat / 2 ^ 29) (.saReq r)
            ∧ r.id = q.2.1 ∧ r.uid = c.team.uid ∧ r.gid = c.group.gid ∧ r.lane = q.1 ∧ r.task = c.team.task ∧ r.op = op (s.thread c.gk q.1)
            ∧ r.addr = (s.thread c.gk q.1).rd a ∧ r.trapPol = x ∧ r.rest = [] ∧ ∀ e, d = some e → r.dst = (s.thread c.gk q.1).ix e)
          ∧ u.threads.find (tkey c.gk q.1) = (s.threads.find (tkey c.gk q.1)).map (fun th =>
              match d with
              | some e => if op th = .cnt then th else Rules.awaits q.2.1 [th.ix e] none th
              | none => th))
    ∧ (∀ s c, Rules.Checked i s c → ∀ cause : Nat → Cause,
      (∀ l ∈ c.path.lanes, Rules.saLocal c.core ((s.thread c.gk l).rd a).toNat (Rules.saShape (op (s.thread c.gk l))).1
        (Rules.saShape (op (s.thread c.gk l))).2 = some (cause l)) →
      ∃ t, exec i s = .next t ∧ Rules.Trapped c c.path.pos (wordOf i)
        (fun l => { cause := cause l, code := 0, addr := BitVec.ofNat 64 ((s.thread c.gk l).rd a).toNat }) c.path.lanes [] s t)

/-- R95, R100, R101, R116 to R118: the lead's scalar instructions write the register or the predicate that their row names, for 1 AU, and the lead goes on. R32, R35, R119, R136, R145: a taken LBR, LBRP or LBRN stands at the header at
its target, whose check has passed, and one that is not taken goes on; a target that fails its check raises BRANCH_TARGET, or PERMISSION where its page has no X, for the system handler (R31, R57, R103). LEND ends the lead: it is
no producer and no party any more, pairs that await an entry never made are closed, and what was sent to its inbox is dropped and counted. -/
def Obligations.LeadScalarsAndTransfers : Prop :=
  (
    ∀ i f, (Rules.r117 i = some f ∨ Rules.r118 i = some f) → ∀ s c s', LeadReady i 1 0 s c s' →
      ∃ t, exec i s = .next t ∧ LeadRan c f s' t)
  ∧ (
    (∀ i disp test, Rules.r119 i = some (disp, test) → ∀ s c s', LeadReady i 1 0 s c s' →
      let target : DWord := BitVec.ofInt 64 (c.team.lead.pc.toNat + 4 * disp.toInt)
      (test c.team.lead = true → checkTarget s c.core c.task.space c.task.priv target = .ok →
        ∃ t, exec i s = .next t ∧ Rules.LeadAt c (fun l => { l with pc := target, remain := 0 }) s' t)
      ∧ (test c.team.lead = false → ∃ t, exec i s = .next t ∧ LeadOn c s' t))
    ∧ (∀ i disp test, Rules.r119 i = some (disp, test) → ∀ s c, lctx s = some c → c.team.lead.free = true → test c.team.lead = true →
      ∀ x, Rules.targetFails s c.core c.task (BitVec.ofInt 64 (c.team.lead.pc.toNat + 4 * disp.toInt)) = some x →
      ∃ t, exec i s = .next t ∧ Rules.SystemHandles c.team.task x.1 s t)
    ∧ (∀ s c s', LeadReady .lend 1 0 s c s' → Rules.noAtomic s c.tk c.team →
      ∃ t, exec .lend s = .next t ∧ Rules.LeadOver c.tk c.core c.team { c.team.lead with ended := true } s' t))

/-- R111, R112, R33, R115, R117, R134, R138: LSRD reads the special that it names; QSEND appends its entry at the end of the queue, or waits while 64 entries are held; LBARA arrives at a barrier bound to CORE, and LBARW waits at its
barrier. Where the spec leaves something open this states the model's own choice: assumption 19. -/
def Obligations.LeadReadsAndQueues : Prop :=
  (∀ d (n m : BitVec 6) s c s', LeadReady (.lsrd d n m) 1 0 s c s' →
    (∀ v, Rules.r111lead s' c (64 * n.toNat + m.toNat) = some v →
      ∃ t, exec (.lsrd d n m) s = .next t ∧ LeadRan c (fun l => l.setReg d.toNat v) s' t)
    ∧ (64 * n.toNat + m.toNat = 0x20 → ∀ r, Rules.Released s c r →
      ∃ t, exec (.lsrd d n m) s = .next t ∧ LeadRan c (fun l => l.setReg d.toNat (BitVec.ofNat 64 (64 - (c.team.dq.length - r))))
        (Rules.holds s' c r (c.team.dq.drop r) c.team.qsent) t))
  ∧ (∀ a s c, quiet s c.team.lead.ops = true → ∀ r, Rules.Released s c r →
    (c.team.dq.length - r < 64 → ∀ s', LeadReady (.qsend a) 1 0 s c s' →
      ∃ t, exec (.qsend a) s = .next t ∧ LeadOn c
        { Rules.holds s' c r (c.team.dq.drop r ++ [c.team.lead.reg a]) (c.team.qsent + 1#16) with
          fresh := { s'.fresh with entries := (c.team.uid, c.team.qsent) :: s'.fresh.entries } } t)
    ∧ (c.team.dq.length - r = 64 → ∀ s', LeadReady (.qsend a) 0 0 s c s' →
      ∃ t, exec (.qsend a) s = .next t ∧ Rules.LeadAt c (fun l => { l with wait := .qsend a.toNat, cmd := wordOf (.qsend a) }) s' t))
  ∧ (∀ (k : BitVec 4) s c s', LeadReady (.lbara k) 1 0 s c s' → quiet s c.team.lead.ops = true →
    let b := c.team.bars.get k.toNat Barrier.initial
    b.net = .core → b.here.getLsbD 8 = false →
    ∃ t bars, exec (.lbara k) s = .next t
      ∧ (∀ j, SMap.get bars j Barrier.initial = if j = k.toNat
          then { b with arr := b.arr + 1, here := b.here ||| 0x100#16, members := b.members ||| 0x100#16, touched := true }
          else c.team.bars.get j Barrier.initial)
      ∧ LeadOn c { s' with teams := s'.teams.mod c.tk (fun tm => { tm with bars := bars }) } t)
  ∧ (∀ (k : BitVec 4) s c s', LeadReady (.lbarw k) 1 0 s c s' → ∃ t, exec (.lbarw k) s = .next t ∧ Rules.LeadWaits c (.lbarw k) (.barw k.toNat) s' t)

/-- R120, R122, R123: LLD and LST. When its checks pass, the lead has one access more in its queue, of the bytes at its address, with the low bytes of s[d] for a store; s[d] of a load is empty until its answer. Where the spec leaves
something open this states the model's own choice: assumption 19. -/
def Obligations.LeadLoadsAndStores : Prop :=
  ∀ d a z (o : BitVec 10) i acc (kind : Lead → OpKind), ((i = .lld d a z o ∧ acc = .read ∧ ∀ l, kind l = .load (.lead z) [d.toNat])
      ∨ (i = .lst d a z o ∧ acc = .write ∧ ∀ l, kind l = .store ((List.range (Rules.width z)).map (fun k => (l.reg d).extractLsb' (8 * k) 8)))) →
    ∀ s c s' loc, LeadReady i 3 1 s c s' → roomFor s (c.core / 96) 1 = true → (acc = .write → quiet s c.team.lead.ops = true) →
    Rules.LeadReaches s c (BitVec.ofInt 64 ((c.team.lead.reg a).toNat + o.toInt * (Rules.width z : Int))) (Rules.width z) acc loc →
    ∃ t u, exec i s = .next t ∧ LeadOn c u t
      ∧ u = { s' with teams := u.teams, cores := u.cores, opqs := u.opqs, nodes := u.nodes, nextId := u.nextId } ∧ Rules.OnlyCached c.core s' u
      ∧ ∃ op ∈ opsOf u c.team.lead.ops, op.loc = loc ∧ op.n = Rules.width z ∧ op.kind = kind c.team.lead
        ∧ Rules.TeamNow c.tk (if acc = .read then { c.team with lead := { c.team.lead with
            empty := c.team.lead.empty.put d.toNat true, pend := c.team.lead.pend ++ [(op.id, d.toNat, none)] } } else c.team) s' u

/-- R205 to R213, R317, R364: MCFG, MLDW, MSWAP, MZERO, MSTRM and MWAIT. When its checks pass, a command joins the lead's queue with its charge, the team holds the array, and a configuration or a swap at the head of the queue has
taken effect; MLDW adds its bytes to the decoded-byte count and MSTRM its products to the MAC count of their regions, which stay at 2^64 - 1 when they would pass it; MWAIT waits for the commands issued before it. R199 to R202:
TLOAD. When its checks pass it leaves its image with the table engine for 64 AU; TSWAP, once no load is left and none has been taken in the same clk, turns the generations over for 1 AU, for clauses issued from the next clk on.
Where the spec leaves something open this states the model's own choice: assumptions 19, 24. -/
def Obligations.ArrayAndTableCommands : Prop :=
  (
    (∀ a s c s', LeadReady (.mcfg a) 1 0 s c s' → Rules.mayCommand s c → 2 ≤ (c.team.lead.reg a).toNat → (c.team.lead.reg a).toNat ≤ 4 →
      ∃ t, exec (.mcfg a) s = .next t ∧ Rules.Commanded c (.mcfg a) (.mcfg (c.team.lead.reg a).toNat) 0 s' t)
    ∧ (∀ s c s', LeadReady .mswap 1 0 s c s' → Rules.mayCommand s c →
      ∃ t, exec .mswap s = .next t ∧ Rules.Commanded c .mswap .mswap 0 s' t)
    ∧ (∀ d b s c s', LeadReady (.mzero d b) 1 0 s c s' → Rules.mayCommand s c → quiet s c.team.lead.ops = true →
      let acc := (c.team.lead.reg d).toNat
      let rows := (c.team.lead.reg b).toNat
      1 ≤ rows → rows ≤ 4096 → acc % 128 = 0 → acc + 128 * rows ≤ 4096 * c.team.accg →
      ∃ t, exec (.mzero d b) s = .next t ∧ Rules.Commanded c (.mzero d b) (.mzero acc rows) 0 s' t)
    ∧ (∀ d a b s c s',
      let acc := (c.team.lead.reg d).toNat
      let x := (c.team.lead.reg a).toNat
      let rows := (c.team.lead.reg b).toNat
      let ahead := Rules.arrayAhead s c
      let eb := if ahead.afmt = 2 then 2 else 1
      LeadReady (.mstrm d a b) (64 * rows * ahead.active.p) 0 s c s' → Rules.mayCommand s c → quiet s c.team.lead.ops = true →
      1 ≤ rows → rows ≤ 4096 → ahead.active.p ≠ 0 → acc % 128 = 0 → acc + 128 * rows ≤ 4096 * c.team.accg →
      x % eb = 0 → x + 128 * rows * eb ≤ 16384 * c.team.spadg →
      ∃ t u, exec (.mstrm d a b) s = .next t ∧ u = { s' with plat := { s'.plat with macs := u.plat.macs } }
        ∧ (∀ r, (u.plat.macs.get r 0#64).toNat
            = Nat.min ((s'.plat.macs.get r 0#64).toNat + if r = ahead.active.region ∧ r ≠ 0 then 16384 * rows else 0) (2 ^ 64 - 1))
        ∧ Rules.Commanded c (.mstrm d a b) (.mstrm acc x rows ahead.afmt ahead.active.p 0 0 []) (64 * rows * ahead.active.p) u t)
    ∧ (∀ a b s c s' (l : Leaf),
      let va := c.team.lead.reg a
      let tile := 16384 * (if l.fmt = 2 ∨ l.fmt = 7 then 2 else 1)
      let cost := (tile + (if l.geo = 2 then 512 else 0) + 63) / 64
      LeadReady (.mldw a b) cost cost s c s' → Rules.mayCommand s c → quiet s c.team.lead.ops = true →
      -2 ^ 47 ≤ va.toInt → va.toInt < 2 ^ 47 → lookup s c.core c.task.space (va.toNat % 2 ^ 48) = .ok l →
      l.r = true → (l.u = true ∨ c.task.priv = true) → l.kind ≠ 3 → l.sab = false → homeOf (l.loc (va.toNat % 2 ^ 48)) ∉ s.removed →
      2 ≤ l.fmt → l.fmt ≤ 7 → l.geo < 3 → va.toNat % tile = 0 → (b ≠ 0#6 → (c.team.lead.reg b).toNat + 128 ≤ 16384 * c.team.spadg) →
      (l.region = 0 ∨ ∃ p k, s.plat.policies.find l.region = some p ∧ s.plat.codeObjs.find c.task.codeid = some k ∧ k.meas ∈ p.meas) →
      ∃ t u, exec (.mldw a b) s = .next t ∧ u = { s' with cores := u.cores, plat := { s'.plat with decb := u.plat.decb } } ∧ Rules.OnlyCached c.core s' u
        ∧ (∀ r, (u.plat.decb.get r 0#64).toNat
            = Nat.min ((s'.plat.decb.get r 0#64).toNat + if r = l.region ∧ r ≠ 0 then tile else 0) (2 ^ 64 - 1))
        ∧ Rules.Commanded c (.mldw a b) (.mldw (l.loc (va.toNat % 2 ^ 48)) l.fmt l.geo l.pscale (scaleLoc l (va.toNat % 2 ^ 48)) l.region
            (if b = 0#6 then none else some (c.team.lead.reg b).toNat)) cost u t)
    ∧ (∀ s c s', LeadReady .mwait 1 0 s c s' → Rules.mayCommand s c →
      ∃ t u, exec .mwait s = .next t ∧ u.nextId = s'.nextId ∧ Rules.Commands c [] c.team.mats s' u ∧ Rules.LeadWaits c .mwait (.mwait s'.nextId) u t))
  ∧ (
    (∀ a s c s' ps, LeadReady (.tload a) 64 0 s c s' → (c.team.lead.reg a).toNat % 64 = 0 → quiet s c.team.lead.ops = true →
      spanAccess s c.core c.task (c.team.lead.reg a) 4160 (fun l => Rules.refusedBy s c.task l .read 4160) = .ok ps →
      ∃ t u, exec (.tload a) s = .next t ∧ LeadOn c u t ∧ u = { s' with teams := u.teams, cores := u.cores, nextId := s'.nextId + 1 } ∧ Rules.OnlyCached c.core s' u
        ∧ Rules.TeamNow c.tk { c.team with tloads := c.team.tloads
            ++ [TLoad.mk s'.nextId (ps.map Prod.fst) (CmdAt.mk c.team.lead.pc (wordOf (.tload a)) c.team.lead.remain)] } s' u)
    ∧ (∀ s c s', LeadReady .tswap 1 0 s c s' → c.team.tloads = [] → c.team.uid ∉ s.fresh.swaps →
      ∃ t, exec .tswap s = .next t ∧ LeadOn c { s' with
        teams := s'.teams.mod c.tk (fun tm => { tm with gen := !tm.gen }), fresh := { s'.fresh with swaps := c.team.uid :: s'.fresh.swaps } } t))

/-- R127, R148 to R159: CPYIN, CPYOUT, CPYG and GATH. A command whose checks pass is charged 4 AU and one for each 16 bytes; its copy is with the engine, its scratchpad lines are absent, those of the teams that receive a multicast on
other cores included, its own bytes are counted into its barrier, and with ARV the lead has arrived there, or waits to; a command of no bytes does nothing but that. R160, R161, R163, R150: PUBL leaves the publication of its buffer
with the engine for 16 AU, to follow the lead's earlier copies into the buffer; CPWAIT waits for every copy and publication issued before it. Where the spec leaves something open this states the model's own choice: assumptions 19,
63. -/
def Obligations.CopyAndPublish : Prop :=
  (
    ∀ i arv k plan, Rules.r148 i = some (arv, k, plan) → ∀ s c s' p, plan s c p →
      LeadReady i (4 + (p.bytes + 15) / 16) ((p.bytes + 15) / 16) s c s' → quiet s c.team.lead.ops = true →
      let bar := c.team.bars.get k.toNat Barrier.initial
      bar.net = .core →
      ∃ t v u ab bars, exec i s = .next t ∧ v = { s' with copies := v.copies, nextId := v.nextId, teams := v.teams, cores := v.cores } ∧ Rules.OnlyCached c.core s' v
        ∧ Rules.TeamNow c.tk { c.team with absent := ab, bars := bars } s' v ∧ Rules.Opened p c.core c.team.task s'.nextId v u
        ∧ (p.bytes = 0 → v.copies = s'.copies ∧ v.nextId = s'.nextId ∧ ab = c.team.absent ∧ bars = c.team.bars ∧ u = v)
        ∧ (p.bytes ≠ 0 → v.nextId = s'.nextId + 1 ∧ v.copies = s'.copies.put s'.nextId
              (Copy.mk s'.nextId c.team.uid c.team.task c.core p.op p.addr k.toNat p.cores (if c.core ∈ p.cores then [(c.core, c.team.uid)] else [])
                p.srcs p.dsts ((List.range (p.bytes / 4)).map (fun w => (w, CpWord.mk none [] false))) [] (p.bytes / 4) [] false)
          ∧ (∀ line, SMap.get ab line 0 = c.team.absent.get line 0
              + if c.core ∈ p.cores ∧ p.addr / 64 ≤ line ∧ 64 * line < p.addr + p.bytes then 1 else 0)
          ∧ (∀ j, SMap.get bars j Barrier.initial = if j = k.toNat ∧ BitVec.ofNat 48 p.own ≠ 0#48
              then { bar with pend := bar.pend + BitVec.ofNat 48 p.own, touched := true } else c.team.bars.get j Barrier.initial))
        ∧ (arv = false → LeadOn c u t)
        ∧ (arv = true → bar.here.getLsbD 8 = true → Rules.LeadWaits c i (.arv k.toNat) u t)
        ∧ (arv = true → bar.here.getLsbD 8 = false → ∃ bars', (∀ j, SMap.get bars' j Barrier.initial =
              let b : Barrier := SMap.get bars j Barrier.initial
              if j = k.toNat then { b with arr := b.arr + 1, here := b.here ||| 0x100#16, members := b.members ||| 0x100#16, touched := true } else b)
            ∧ LeadOn c { u with teams := u.teams.mod c.tk (fun tm => { tm with bars := bars' }) } t))
  ∧ (
    (∀ a s c s' (l : Leaf), let va := c.team.lead.reg a
      LeadReady (.publ a) 16 0 s c s' → quiet s c.team.lead.ops = true →
      -2 ^ 47 ≤ va.toInt → va.toInt < 2 ^ 47 → lookup s c.core c.task.space (va.toNat % 2 ^ 48) = .ok l →
      l.w = true → (l.u = true ∨ c.task.priv = true) → l.kind ≠ 3 → l.pub = true → homeOf (l.loc (va.toNat % 2 ^ 48)) ∉ s.removed →
      ∃ t u waits, exec (.publ a) s = .next t ∧ LeadOn c u t ∧ Rules.OnlyCached c.core s' u
        ∧ (let block : Loc := Loc.mk l.kind l.pa l.size
           let new : Copy :=
             Copy.mk s'.nextId c.team.uid c.team.task c.core .publ 0 0 [] [] [] [Seg.mk 0 (2 * l.size) block] [] [] 0 waits false
           u = { s' with cores := u.cores, nextId := s'.nextId + 1, copies := s'.copies.put s'.nextId new }
           ∧ ∀ n, n ∈ waits ↔ ∃ x, (n, x) ∈ s.copies ∧ x.uid = c.team.uid ∧ x.op ≠ .publ
              ∧ ∃ g ∈ x.dsts, g.loc.pub ≠ 0 ∧ selKey g.loc = selKey block))
    ∧ (∀ s c s', LeadReady .cpwait 1 0 s c s' → ∃ t, exec .cpwait s = .next t ∧ Rules.LeadWaits c .cpwait (.cpwait s'.nextId) s' t))

/-- R236, R237, R240 to R245: SAOPEN, SACLR, SAFREE, SAMERGE and SAEVICT. When the checks at issue pass, the command is charged, it is on its way to the home of its row, and the lead waits for the answer; the charge of SAMERGE is 4 AU
for each element of the source row, that of SAEVICT one for each 16 bytes of the image, whose pages go with the command, those of an image of eight bytes an element where they are there (assumption 62). R237, R238, R239, R246:
SAALLOC and SALOAD. SAALLOC gives its task a row as the specification describes it, cleared and not sealed, under the lowest free index with room for it; s[d] receives the address of its element 0, or all ones. SALOAD reads the
header of its image, is charged for its units of 16 bytes, and waits until the others have been read. R245, R246, R317: the units of a SALOAD. Each unit that begins reads the next sixteen bytes of the image and is no longer given
back by an unwind; with the last of them the row is allocated as the image says, bit for bit but for its owner, and s[d] receives the address of its element 0, or all ones where no row is free; where Q is not the sum of the
squares, FORMAT goes to the system handler and the charge is given back. (That each unit is a turn of its own is the model's choice, assumption 42.) Where the spec leaves something open this states the model's own choice:
assumptions 16, 19, 20, 31, 42, 62. -/
def Obligations.StreamCommandsAndRows : Prop :=
  (
    (∀ i a pre cmd, Rules.r236 i = some (a, pre, cmd) → ∀ s c s' row die, LeadReady i 4 0 s c s' → Rules.mayLeave s c → pre c →
      Rules.rowOf (c.team.lead.reg a) row die → die ∉ s.removed →
      ∃ t, exec i s = .next t ∧ Rules.SaSent c i (cmd c row) die 4 0 s' t)
    ∧ (∀ d a s c s' src home dst home' r, Rules.rowOf (c.team.lead.reg a) src home → home ∉ s.removed →
      Rules.rowOf (c.team.lead.reg d) dst home' → home' ∉ s.removed → s.rows.find src = some r → r.owner = c.team.task → (∃ x, s.rows.find dst = some x ∧ x.owner = c.team.task) →
      LeadReady (.samerge d a) (4 * r.n) (4 * r.n) s c s' → Rules.mayLeave s c →
      ∃ t, exec (.samerge d a) s = .next t ∧ Rules.SaSent c (.samerge d a) (.merge src dst) home (4 * r.n) (4 * r.n) s' t)
    ∧ (∀ d a s c s' row home (r : Row) ps, Rules.rowOf (c.team.lead.reg a) row home → home ∉ s.removed → s.rows.find row = some r →
      let n := 64 + (if ∀ e ∈ r.q, -(2 ^ 31) < e.2.toInt ∧ e.2.toInt < 2 ^ 31 then 4 else 8) * r.n
      (c.team.lead.reg d).toNat % 64 = 0 → spanAccess s c.core c.task (c.team.lead.reg d) n (sabTrap s c.task true) = .ok ps →
      LeadReady (.saevict d a) ((n + 15) / 16) ((n + 15) / 16) s c s' → Rules.mayLeave s c →
      ∃ t u, exec (.saevict d a) s = .next t ∧ u = { s' with cores := u.cores } ∧ Rules.OnlyCached c.core s' u
        ∧ Rules.SaSent c (.saevict d a) (.evict row
            (match spanAccess s c.core c.task (c.team.lead.reg d) (64 + 8 * r.n) (sabTrap s c.task true) with
              | .ok qs => qs.map Prod.fst
              | .error _ => ps.map Prod.fst) (c.team.lead.reg d).toNat) home ((n + 15) / 16) ((n + 15) / 16) u t))
  ∧ (
    (∀ d a s c s' ps gain, let va := c.team.lead.reg a
      LeadReady (.saalloc d a) 16 0 s c s' → va.toNat % 8 = 0 →
      spanAccess s c.core c.task va 32 (fun l => Rules.refusedBy s c.task l .read 32) = .ok ps →
      readable s (c.core / 96) (segLocs (ps.map Prod.fst)) = true → quiet s c.team.lead.ops = true →
      let spec := Rules.leNat (readSegs s (ps.map Prod.fst))
      let n := spec % 2 ^ 16
      let scope := spec / 2 ^ 24 % 2 ^ 8
      let ofmt := spec / 2 ^ 32 % 2 ^ 8
      let eps := spec / 2 ^ 64 % 2 ^ 32
      let t_ := spec / 2 ^ 96 % 2 ^ 32
      spec / 2 ^ 40 % 2 ^ 24 = 0 → spec / 2 ^ 192 % 2 ^ 64 = 0 → 1 ≤ n → n ≤ 32768 → scope ≤ 2 → t_ ≠ 0 → 1 ≤ ofmt → ofmt ≤ 3 →
      (eps < 0x7F800000 ∨ eps = 0x80000000) → gainPlan s c (BitVec.ofNat 64 (spec / 2 ^ 128)) n = .ok gain →
      ∃ t u, exec (.saalloc d a) s = .next t ∧ Rules.HasRead c.core s' u
        ∧ Rules.RowGiven c d (Row.mk n (BitVec.ofNat 8 (spec / 2 ^ 16)).toInt scope ofmt (BitVec.ofNat 32 (eps % 2 ^ 31)) gain t_ 0 0#128 c.team.task [] none false) u t)
    ∧ (∀ d a s c s' gs h, loadPlan s c a = .ok (gs, h) → let n := (headerBytes (natOfBytes h) + 15) / 16
      LeadReady (.saload d a) n n s c s' →
      ∃ t u, exec (.saload d a) s = .next t ∧ Rules.HasRead c.core s' u
        ∧ Rules.LeadWaits c (.saload d a) (.saload (ImageLoad.mk s'.nextId d.toNat (c.team.lead.reg a) gs h (n - 4) (wordOf (.saload d a)) n))
            { u with nextId := u.nextId + 1 } t))
  ∧ (
    ∀ s tk tm (l : ImageLoad) k, s.teams.find tk = some tm → tm.lead.wait = .saload l → l.left = k + 1 →
      let gs := segsTake 16 (segsFrom l.segs l.bytes.length)
      readable s (tm.core / 96) (segLocs gs) = true → (tm.uid, l.sd) ∉ s.fresh.inbox →
      let bytes := l.bytes ++ readSegs s gs
      ∃ t u, runTurn (.unitBegin tk true) s = .next t ∧ Rules.HasRead tm.core s u
        ∧ (k ≠ 0 → teamRefund { tm with lead := { tm.lead with wait := .saload { l with bytes := bytes, left := k } } } + 1 = teamRefund tm
            ∧ Rules.OneTeam tk (fun x => { x with lead := { x.lead with wait := .saload { l with bytes := bytes, left := k } } }) u t)
        ∧ (k = 0 → let r := imageRow s.gainTab (natOfBytes (bytes.take 64)) bytes tm.task
            let on : Nat → State → Prop := fun v from_ =>
              Rules.OneTeam tk (fun x => { x with lead := { x.lead.setReg l.sd (BitVec.ofNat 64 v) with wait := .none } }) from_ t
            (r.q2 = BitVec.ofInt 128 r.squares →
              (∀ id, freeRowId u r.scope tm.core r.n = some id → on (id * 2 ^ 15) { u with rows := u.rows.put id r })
              ∧ (freeRowId u r.scope tm.core r.n = none → on (2 ^ 64 - 1) u))
            ∧ (r.q2 ≠ BitVec.ofInt 128 r.squares → ∃ v w, Rules.OneTeam tk (fun x => { x with lead := { x.lead with wait := .none } }) u v
                ∧ w = { v with tasks := w.tasks } ∧ (∀ j, w.tasks.find j = if j = tm.task then (v.tasks.find j).map (fun y => { y with pool := y.pool + l.cost }) else v.tasks.find j)
                ∧ Rules.SystemHandles tm.task .format w t)))

/-- R308, R310 to R314: JOIN, TSTAT, ALWRD and UNWIND of a child cost 4 AU and wait for its home unit; ALWADD costs 4 AU and the amount, which a child that can take it receives, and which comes back otherwise; a register that names no
child of the task raises PERMISSION, which goes to the system handler. Where the spec leaves something open this states the model's own choice: assumption 32. -/
def Obligations.TaskCommands : Prop :=
  (∀ i a w, Rules.r308 i = some (a, w) → ∀ s c s' h k x, LeadReady i 4 0 s c s' → Rules.namesChild s c a h k x →
    ∃ t, exec i s = .next t ∧ Rules.LeadWaits c i (w h) s' t)
  ∧ (∀ i a, ((∃ w, Rules.r308 i = some (a, w)) ∨ ∃ d b, i = .alwadd d a b) → ∀ s c, lctx s = some c → c.team.lead.free = true →
    (∀ r ∈ i.lsrcs, c.team.lead.full r = true) → (∀ r ∈ i.ldsts, c.team.lead.full r = true) → (∀ h k x, ¬Rules.namesChild s c a h k x) →
    ∃ t, exec i s = .next t ∧ Rules.SystemHandles c.team.task .permission s t)
  ∧ (∀ d a b s c s' h k x, Rules.namesChild s c a h k x → SMap.get s.fresh.units k 0 ≤ 1 →
    let n := (c.team.lead.reg b).toNat
    LeadReady (.alwadd d a b) (4 + n) 0 s c s' →
    let units := s'.fresh.units.put k 1
    let takes : Prop := n ≠ 0 ∧ x.state.final = false ∧ x.state ≠ .unwinding ∧ x.pool + n < 2 ^ 64
    (takes → ∃ t, exec (.alwadd d a b) s = .next t ∧ LeadRan c (fun l => l.setReg d.toNat (c.team.lead.reg b))
      (drainIfDone { s' with fresh := { s'.fresh with units := units }, tasks := s'.tasks.mod k (fun y => { y with
        pool := y.pool + n, state := if y.state = .starved then .running else y.state, starvedAt := none }) } k) t)
    ∧ (¬takes → ∃ t, exec (.alwadd d a b) s = .next t ∧ LeadRan c (fun l => l.setReg d.toNat 0#64)
      { s' with fresh := { s'.fresh with units := units },
                tasks := if n = 0 then s'.tasks else s'.tasks.mod c.team.task (fun y => { y with pool := y.pool + n }) } t))

/-- R309, R296, R300: SPAWN and SPAWN.W read their descriptor and are charged 64 AU and the allowance; a descriptor or placement that is refused, and for SPAWN a queue that is full, give the allowance back and a code; SPAWN.W waits
for room; otherwise the child is QUEUED under the handle that s[d] receives. Where the spec leaves something open this states the model's own choice: assumptions 9, 19, 20, 23. -/
def Obligations.SpawnsAreAdmitted : Prop :=
  ∀ d a b (wait : Bool) i, i = (if wait then Instr.spawnW d a b else Instr.spawn d a b) → ∀ s c s' ps,
    let va := c.team.lead.reg a
    let place := c.team.lead.reg b
    let desc := readSegs s (ps.map Prod.fst)
    let allowance := natOfBytes desc / 2 ^ 64 % 2 ^ 64
    LeadReady i (64 + allowance) 0 s c s' → c.core < 768 → va.toNat % 64 = 0 →
    spanAccess s c.core c.task va 64 (fun l => Rules.refusedBy s c.task l .read 64) = .ok ps →
    readable s (c.core / 96) (segLocs (ps.map Prod.fst)) = true → quiet s c.team.lead.ops = true →
    ∃ t u, exec i s = .next t ∧ Rules.HasRead c.core s' u
      ∧ (let good := descOk u c.task.space desc place = true ∧ (openRing u (descQueue c.task.desc)).isSome = true
         let back : State := { u with tasks := u.tasks.mod c.team.task (fun x => { x with pool := x.pool + allowance }) }
         (¬good → LeadRan c (fun l => l.setReg d.toNat 0x8000000000000009#64) back t)
         ∧ (good → enqueue u c.team.task (c.core / 96) desc place = none →
            if wait then Rules.LeadWaits c i (.spawnW desc place d.toNat allowance s.time.toNat) u t
            else LeadRan c (fun l => l.setReg d.toNat 0x8000000000000008#64) back t)
         ∧ (good → ∀ v h, enqueue u c.team.task (c.core / 96) desc place = some (v, h) →
            LeadRan c (fun l => l.setReg d.toNat (BitVec.ofNat 64 h.toNat)) v t
            ∧ ∃ x parent q, u.tasks.find (h.toNat % 2 ^ 16) = none ∧ v.tasks.find (h.toNat % 2 ^ 16) = some x
              ∧ u.tasks.find c.team.task = some parent ∧ q = descQueue parent.desc
              ∧ x = { queuedTask (BitVec.ofNat 16 (h.toNat / 2 ^ 16)) desc place q x.ticket with
                  parent := some c.team.task, space := parent.space, priv := parent.priv, know := (u.node (c.core / 96)).k }
              ∧ v.tasks.find c.team.task = some { parent with children := parent.children ++ [h.toNat % 2 ^ 16] }
              ∧ (v.queue q).due = true ∧ (x.ticket + 1 < 2 ^ 64 → x.ticket < (v.queue q).bell.toNat)))

/-- R16, R18, R33, R37, R115, R138, R163, R213, R350: what ends a wait. A barrier whose phase differs from a waiter's wait bit releases it and inverts the bit; MWAIT and CPWAIT end when no command issued before them is left; SLEEP
ends when its time has come; a released entry lets a waiting QSEND append what its register then holds; a pair fills, in a clk after that of its QSEND, with the entry that it awaits, and what the thread awaits behind it may
follow; a register fills with its result; a lead is stopped in the clk after that in which the last group of its team has retired. Where the spec leaves something open this states the model's own choice: assumptions 7, 52. -/
def Obligations.WaitsEnd : Prop :=
  (∀ s tk tm n, s.teams.find tk = some tm → tm.lead.wait = .mwait n → (∀ m ∈ tm.mats, n ≤ m.id) →
    ∃ t, exec (.mwaitRelease tk) s = .next t ∧ Rules.OneTeam tk (fun x => { x with lead := { x.lead with wait := .none } }) s t)
  ∧ (∀ s tk tm n, s.teams.find tk = some tm → tm.lead.wait = .cpwait n → (∀ e ∈ s.copies, e.2.uid = tm.uid → n ≤ e.1) →
    ∃ t, exec (.cpwaitRelease tk) s = .next t ∧ Rules.OneTeam tk (fun x => { x with lead := { x.lead with wait := .none } }) s t)
  ∧ (∀ s tk tm k, s.teams.find tk = some tm → tm.lead.wait = .barw k →
    Rules.seenPhase s tm k ≠ tm.lead.waitb.getLsbD k →
    ∃ t, exec (.barrierWaitRelease true tk) s = .next t
      ∧ Rules.OneTeam tk (fun x => { x with lead := { x.lead with wait := .none, waitb := x.lead.waitb ^^^ (1#16 <<< k) } }) s t)
  ∧ (∀ s gk g tm, s.groups.find gk = some g → s.teams.find g.team = some tm → (∃ p ∈ g.parked, (Rules.waitsAt p).isSome = true) →
    ∃ t u, exec (.barrierWaitRelease false gk) s = .next t ∧ u = { s with threads := u.threads }
      ∧ Rules.OneGroup gk (fun x => { x with parked := x.parked.map (Rules.stillWaits s tm gk) }) u t
      ∧ (∀ key th, s.threads.find key = some th → u.threads.find key = some (if key / 64 = gk then
          { th with waitb := (g.parked.filterMap Rules.waitsAt).foldl (fun b e =>
              if e.2.contains (key % 64) && Rules.waitMet s tm gk e.1 (key % 64) then b ^^^ (1#16 <<< e.1) else b) th.waitb }
        else th))
      ∧ ∀ key, s.threads.find key = none → u.threads.find key = none)
  ∧ (∀ s gk g p n, s.groups.find gk = some g → p ∈ g.parked → p.wait = .sleep n → (s.time - BitVec.ofNat 48 n).toNat < 2 ^ 47 →
    ∃ t, exec (.sleepExpiry gk) s = .next t ∧ Rules.OneGroup gk (fun x => { x with parked := x.parked.map (fun q =>
      match q.wait with
      | .sleep m => if (s.time - BitVec.ofNat 48 m).toNat < 2 ^ 47 then { q with wait := .none } else q
      | _ => q) }) s t)
  ∧ (∀ s tk c a r s', lctxOf s tk = some c → Rules.Released s c r → c.team.lead.wait = .qsend a → c.team.dq.length - r < 64 →
    c.team.lead.halted = false → charge (Rules.holds s c r (c.team.dq.drop r) c.team.qsent) c.core c.team.task c.payer 1 0 = (true, s') →
    ∃ t u, exec (.qsendAppend tk) s = .next t ∧ Rules.OneTeam tk (fun x => { x with lead := { x.lead with wait := .none } })
        { Rules.holds s' c r (c.team.dq.drop r ++ [c.team.lead.s.get a 0#64]) (c.team.qsent + 1#16) with
          fresh := { s'.fresh with entries := (c.team.uid, c.team.qsent) :: s'.fresh.entries } } u ∧ LeadOn c u t)
  ∧ (∀ s key g tm th rest r n v, s.groups.find (key / 64) = some g → s.teams.find g.team = some tm → s.threads.find key = some th →
    th.qpend = (r, n) :: rest → tm.dq[(n - tm.dqFirst).toNat]? = some v → (tm.uid, n) ∉ s.fresh.entries →
    (∀ oq, s.opqs.find th.ops = some oq →
      (∃ uid gid lane, oq.who = .thread uid gid lane)
      ∧ ∀ o ∈ oq.ops, (∀ x b c dst, o.kind ≠ .atom x b c dst) ∧ ∀ dq seen, o.kind ≠ .edge dq (some seen)) →
    ∃ (t : State) (j : Nat) (pend : Nat → List Pend → List Pend), exec (.queueEntryFill key) s = .next t
      ∧ t = { s with threads := t.threads, teams := t.teams, opqs := t.opqs, nodes := t.nodes }
      ∧ (∀ k, t.threads.find k = if k = key then
          some { (th.setReg r (v.extractLsb' 0 32)).setReg (r + 1) (v.extractLsb' 32 32) with qpend := rest, pend := pend k th.pend }
        else (s.threads.find k).map (fun x => { x with pend := pend k x.pend }))
      ∧ (∀ q, q ≠ th.ops → t.opqs.find q = s.opqs.find q)
      ∧ ((opsOf t th.ops).filter MemOp.awaitsEntry).length = ((opsOf s th.ops).filter MemOp.awaitsEntry).length - 1
      ∧ (∀ k, t.teams.find k = if k = g.team then some { tm with dq := tm.dq.drop j, dqFirst := tm.dqFirst + BitVec.ofNat 16 j } else s.teams.find k)
      ∧ j ≤ 64 ∧ j ≤ tm.dq.length ∧ (∀ i < j, Rules.entryIsRead t g.team tm.dqFirst i)
      ∧ (j < 64 → j < tm.dq.length → ¬Rules.entryIsRead t g.team tm.dqFirst j))
  ∧ (∀ s key th before q after ws, s.threads.find key = some th → th.pend = before ++ q :: after → q.val = some ws →
    (∀ e ∈ before, ∀ n ∈ e.dst, n ∉ q.dst) →
    ∃ t, exec (.longLatencyResult false key before.length) s = .next t ∧ t = { s with threads := t.threads }
      ∧ ∀ k, t.threads.find k = if k = key then
          some ((q.dst.zip ws).foldl (fun x e => x.setReg e.1 e.2) { th with pend := before ++ after }) else s.threads.find k)
  ∧ (∀ s tk tm before after (id r : Nat) (v : DWord), s.teams.find tk = some tm → tm.lead.pend = before ++ (id, r, some v) :: after →
    ∃ t, exec (.longLatencyResult true tk before.length) s = .next t
      ∧ Rules.OneTeam tk (fun x => { x with lead := { x.lead with pend := before ++ after }.setReg r v }) s t)
  ∧ (∀ s tk tm, s.teams.find tk = some tm → (∀ e ∈ s.groups, e.2.team ≠ tk) → tm.lead.ended = false → tm.lead.stopped = false → tm.uid ∉ s.fresh.retired →
    ∃ t u, exec (.leadStop tk) s = .next t
      ∧ Rules.OneTask tm.task (fun x => { x with pool := x.pool + match tm.lead.wait with
          | .spawnW _ _ _ allow _ => allow
          | _ => 0 }) s u
      ∧ Rules.LeadOver tk (tk / 8) tm { tm.lead with stopped := true, wait := .none } u t)

/-- R26, R41, R42, R47 to R50: a header. One that does not serve traps ILLEGAL_HEADER and one of the wrong class CLAUSE_CLASS, with no thing charged. It issues for the threads whose barriers are met and, with D, whose stores are
applied, and for the parked threads at the same header that meet it too; the rest are parked at it; when no thread meets it the whole path is. The lead does the same with its own wait bits, and waits where it does not meet it.
What the same clk has brought counts from the next, and in a STARVED task (R304) nobody passes a header. Where the spec leaves something open this states the model's own choice: assumptions 13, 25, 52. -/
def Obligations.HeadersIssue : Prop :=
  (∀ s c w, gctx s = some c → c.path.pos.remain = 0 → c.path.lanes ≠ [] → fetch s c.core c.task.space c.task.priv c.path.pos.pc = .word w →
    (∀ cause, (cause = .illegalHeader ∧ ¬Rules.serves w) ∨ (cause = .clauseClass ∧ Rules.serves w ∧ Rules.classAt w .lead) → Rules.AllHandled s c →
      ∃ t u f, exec .clauseHeaderIssue s = .next t ∧ Rules.Fetched c.core s u
        ∧ (∀ l ∈ c.path.lanes, Rules.TrappedAtHeader w c.path.pos.pc cause (s.thread c.gk l) (f l (s.thread c.gk l)))
        ∧ Rules.StandsAt c none [Rules.inHandler c c.path.lanes] (u.onLanes c.gk c.path.lanes f) t)
    ∧ (Rules.serves w → ¬Rules.classAt w .lead → (∀ l ∈ c.path.lanes, ¬Rules.meets s c w l) →
      ∃ t u, exec .clauseHeaderIssue s = .next t ∧ Rules.Fetched c.core s u ∧ Rules.StandsAt c none [c.path] u t)
    ∧ (Rules.serves w → ∀ cls, cls ≠ .lead → Rules.classAt w cls → c.team.swap = none → c.task.state ≠ .starved → (∃ l ∈ c.path.lanes, Rules.meets s c w l) →
      (∀ q ∈ c.group.parked, ∀ l ∈ q.lanes, l ∉ c.path.lanes) →
      ∃ t g set left, exec .clauseHeaderIssue s = .next t ∧ t = { s with groups := t.groups, threads := t.threads, cores := t.cores }
        ∧ Rules.OnlyCached c.core s t ∧ t.groups.find c.gk = some g ∧ (∀ k, k ≠ c.gk → t.groups.find k = s.groups.find k)
        ∧ (∀ l, l ∈ set ↔ (l ∈ c.path.lanes ∧ Rules.meets s c w l) ∨ Rules.joinsAt s c w l)
        ∧ (∀ l, l ∈ left ↔ l ∈ c.path.lanes ∧ ¬Rules.meets s c w l)
        ∧ (let lefts : List Path := if left = [] then [] else [{ c.path with lanes := left }]
           g = { c.group with
             running := some { c.path with lanes := set, pos := Pos.mk (c.path.pos.pc + 4#64) (w.toNat / 2 ^ 22 % 16) cls (w.getLsbD 18) none none },
             parked := ((c.group.parked ++ Rules.parkedFrom c.group.parkCtr lefts).map (fun q =>
                 { q with lanes := q.lanes.filter (fun l => !set.contains l) })).filter (fun q => !q.lanes.isEmpty),
             parkCtr := c.group.parkCtr + lefts.length })
        ∧ ∀ k, t.threads.find k = if k / 64 = c.gk ∧ k % 64 ∈ set then
            (s.threads.find k).map (fun th => { th with waitb := Rules.inverted w th.waitb, gen := if c.team.uid ∈ s.fresh.swaps then !c.team.gen else c.team.gen }) else s.threads.find k))
  ∧ (∀ s c w, gctx s = none → lctx s = some c → c.team.lead.remain = 0 → c.team.lead.free = true →
    fetch s c.core c.task.space c.task.priv c.team.lead.pc = .word w → Rules.serves w → Rules.classAt w .lead → c.team.swap = none → c.task.state ≠ .starved →
    ∃ t u, exec .clauseHeaderIssue s = .next t ∧ Rules.Fetched c.core s u
      ∧ (Rules.leadMeets s c w →
        Rules.OneTeam c.tk (fun x => { x with lead := { x.lead with
          pc := x.lead.pc + 4#64, remain := w.toNat / 2 ^ 22 % 16, waitb := Rules.inverted w x.lead.waitb } }) u t)
      ∧ (¬Rules.leadMeets s c w → Rules.LeadAt c (fun l => l) u t))
  ∧ (∀ s c w, gctx s = some c → c.path.pos.remain = 0 → c.path.lanes ≠ [] → fetch s c.core c.task.space c.task.priv c.path.pos.pc = .word w →
    Rules.serves w → ¬Rules.classAt w .lead → c.task.state = .starved →
    ∃ t u, exec .clauseHeaderIssue s = .next t ∧ Rules.Fetched c.core s u ∧ Rules.StandsAt c none [c.path] u t)

/-- R137, R143 to R147: the acceptance of a SEND. The lead's inbox takes a word into a full register, once the lead issues nothing more in the clk, or drops it when the lead is over; SPAD and STAGE write it to the team's own
scratchpad, and STAGE counts it off its barrier; NEXT writes it to the scratchpad of the lowest team of the task on the right neighbour, holds it for one that is saved, or drops it. A completed phase of a wider network reaches a
team. -/
def Obligations.SendsArrive : Prop :=
  (∀ s before i after, s.sends = before ++ i :: after → Rules.mayAccept before i →
    let rest : State := { s with sends := before ++ after, fresh := { s.fresh with sends := (i.uid, i.gid, i.lane) :: s.fresh.sends } }
    let seen : State := { rest with fresh := { rest.fresh with inbox := (i.uid, i.dest.toNat % 64) :: rest.fresh.inbox } }
    (∀ tk tm, Rules.Resident s i.uid tk tm →
      (i.dest_ = Consumer.lead → leadMayIssue s tk = false → (tm.lead.ended = true ∨ tm.lead.stopped = true) →
        ∃ t, exec (.sendAcceptance before.length) s = .next t ∧ Rules.OneTask i.task (Rules.dropped 4) seen t)
      ∧ (i.dest_ = Consumer.lead → leadMayIssue s tk = false → tm.lead.ended = false → tm.lead.stopped = false → tm.lead.empty.find (i.dest.toNat % 64) = none →
        ∃ t, exec (.sendAcceptance before.length) s = .next t
          ∧ Rules.OneTeam tk (fun x => { x with lead := x.lead.setReg (i.dest.toNat % 64) (BitVec.ofNat 64 i.word.toNat) }) seen t)
      ∧ (i.dest_ = Consumer.spad ∨ i.dest_ = Consumer.stage → ∃ t new, exec (.sendAcceptance before.length) s = .next t
          ∧ Rules.OneTeam tk (fun _ => new) rest t ∧ new = { tm with spad := new.spad, bars := new.bars }
          ∧ Rules.Holding (i.dest.toNat % 2 ^ 21) (Rules.wordBytes i.word) tm new
          ∧ Rules.CountedOff (if i.dest_ = Consumer.stage then Rules.barOf i.dest else none) 4 tm new))
    ∧ (i.dest_ = Consumer.next →
      let right := i.core / 4 * 4 + (i.core + 1) % 4
      (∀ uid tk tm, Rules.Resident s uid tk tm → Rules.LowestThere s i.task right uid tm → i.dest.toNat % 2 ^ 21 + 4 ≤ 16384 * tm.spadg →
        ∃ t new, exec (.nextDelivery before.length) s = .next t
          ∧ Rules.OneTeam tk (fun _ => new) rest t ∧ new = { tm with spad := new.spad, bars := new.bars }
          ∧ Rules.Holding (i.dest.toNat % 2 ^ 21) (Rules.wordBytes i.word) tm new ∧ Rules.CountedOff (Rules.barOf i.dest) 4 tm new)
      ∧ (∀ uid x, (∀ e ∈ s.teams, e.2.uid ≠ uid) → (uid, x) ∈ s.images → s.images.find uid = some x → Rules.LowestThere s i.task right uid x.team →
        i.dest.toNat % 2 ^ 21 + 4 ≤ 16384 * x.team.spadg →
        ∃ t, exec (.nextDelivery before.length) s = .next t ∧ t = { rest with images := t.images }
          ∧ ∀ k, t.images.find k = if k = uid then
              some { x with held := x.held ++ [Delivery.mk (i.dest.toNat % 2 ^ 21) (Rules.wordBytes i.word) (Rules.barOf i.dest) (s.node (x.team.core / 96)).k] }
            else s.images.find k)
      ∧ (Rules.NoneThere s i.task right ∨ (∃ uid tk tm, Rules.Resident s uid tk tm ∧ Rules.LowestThere s i.task right uid tm
            ∧ 16384 * tm.spadg < i.dest.toNat % 2 ^ 21 + 4) →
        ∃ t, exec (.nextDelivery before.length) s = .next t ∧ Rules.OneTask i.task (Rules.dropped 4) rest t)))
  ∧ (∀ s tk tm bar w, s.teams.find tk = some tm →
    let b := tm.bars.get bar Barrier.initial
    let key := wideKey tm b.net b.pod bar
    b.net ≠ .core → s.wides.find key = some w → tm.uid ∈ w.unseen → (tm.uid, bar) ∉ s.fresh.phases →
    ∃ t new, exec (.widePhaseArrival tk bar) s = .next t
      ∧ t = { s with teams := t.teams, threads := t.threads, groups := t.groups, wides := t.wides, nodes := t.nodes,
                     fresh := { s.fresh with phases := (tm.uid, bar) :: s.fresh.phases } }
      ∧ t.teams.find tk = some new ∧ (∀ k, k ≠ tk → t.teams.find k = s.teams.find k)
      ∧ new = { tm with bars := new.bars, lead := match tm.lead.wait with
          | .barw k => if Rules.seenPhase s tm k ≠ tm.lead.waitb.getLsbD k
              then { tm.lead with wait := .none, waitb := tm.lead.waitb ^^^ (1#16 <<< k) } else tm.lead
          | _ => tm.lead }
      ∧ (∀ k, new.bars.get k Barrier.initial = if k = bar then { b with here := 0#16, phase := !b.phase } else tm.bars.get k Barrier.initial)
      ∧ (∀ k, t.wides.find k = if k = key then some { w with unseen := w.unseen.erase tm.uid } else s.wides.find k)
      ∧ (b.net ≠ .pod → ∀ j < 10, j ≠ tm.core / 96 →
          Stamp.at (t.node (tm.core / 96)).k j = Rules.laterOf (Stamp.at (s.node (tm.core / 96)).k j) (Stamp.at w.know j))
      ∧ ∀ e ∈ s.groups, e.2.team = tk → ∀ k th, k / 64 = e.1 → t.threads.find k = some th → th.arr.find bar = none)

/-- R126 to R128, R147, R151, R153 to R157, R160, R161, R163, R291, R317: the copy engine. A unit begins with its reads, or with the words of its source's lines that are present; a multicast reaches a core's lowest team, whose lines
become absent, or is dropped there; a word lands in a scratchpad, counted off its barrier, or goes to its home, not before an earlier PUBL of the same buffer; what arrives for a freed scratchpad is discarded; PUBL goes to its
buffer's home once the copies before it are complete, and there inverts the selector when no read of the buffer is under way on the host link. Where the spec leaves something open this states the model's own choice: assumptions
20, 30, 63, 64. -/
def Obligations.CopiesMove : Prop :=
  (∀ s cmd c unit, s.copies.find cmd = some c → c.id = cmd → unit ∉ c.begun → 4 * unit < c.nwords →
    (c.op ≠ .publ → c.op ≠ .cpyout → roomFor s (c.core / 96) (c.words.filter (fun w => w.1 / 4 == unit)).length = true →
      ∃ t, exec (.copyUnitBegin cmd unit) s = .next t ∧ t = { s with copies := t.copies, nodes := t.nodes }
        ∧ (∀ k, t.copies.find k = if k = cmd then some { c with begun := unit :: c.begun } else s.copies.find k)
        ∧ ∀ w ∈ c.words, w.1 / 4 = unit → ∀ l, segLoc c.srcs (4 * w.1) = some l → Rules.Sent t (c.core / 96) (homeOf l) (.copyRead cmd w.1 l))
    ∧ (c.op = .cpyout → ∀ tm, anyTeam s c.uid = some tm → (∀ w ∈ c.words, w.1 / 4 = unit → tm.absent.find ((c.addr + 4 * w.1) / 64) = none) →
      ∃ t d, exec (.copyUnitBegin cmd unit) s = .next t ∧ t = { s with copies := t.copies }
        ∧ (∀ k, t.copies.find k = if k = cmd then some d else s.copies.find k)
        ∧ d = { c with begun := unit :: c.begun, words := d.words }
        ∧ ∀ w, d.words.find w = if w / 4 = unit then (c.words.find w).map (fun y =>
            let x := c.addr + 4 * w
            { y with val := some (Rules.spadByte tm (x + 3) ++ Rules.spadByte tm (x + 2) ++ Rules.spadByte tm (x + 1) ++ Rules.spadByte tm x) })
          else c.words.find w))
  ∧ (∀ s cmd c word core, s.copies.find cmd = some c → c.id = cmd → (c.op = .cpyin ∨ c.op = .gath) → c.freed = false → core ∈ c.cores →
    let n := 4 * c.words.length
    (c.recv.find core = none → (Rules.NoneThere s c.task core ∨ ∃ uid tk tm, Rules.Resident s uid tk tm ∧ Rules.LowestThere s c.task core uid tm
          ∧ 16384 * tm.spadg < c.addr + n) →
      ∃ t, exec (.copyDelivery cmd word core) s = .next t ∧ t = { s with tasks := t.tasks, copies := t.copies }
        ∧ (∀ k, t.tasks.find k = if k = c.task then (s.tasks.find k).map (Rules.dropped n) else s.tasks.find k)
        ∧ (∀ k, k ≠ cmd → t.copies.find k = s.copies.find k)
        ∧ ∀ d, t.copies.find cmd = some d → d.recv.find core = some 0 ∧ ∀ w ∈ d.words, core ∈ w.2.sent)
    ∧ (∀ uid tk tm, c.recv.find core = none → Rules.Resident s uid tk tm → Rules.LowestThere s c.task core uid tm → c.addr + n ≤ 16384 * tm.spadg →
      ∃ t new, exec (.copyDelivery cmd word core) s = .next t ∧ t = { s with teams := t.teams, copies := t.copies }
        ∧ (∀ k, t.teams.find k = if k = tk then some new else s.teams.find k) ∧ new = { tm with absent := new.absent }
        ∧ (∀ line, SMap.get new.absent line 0 = SMap.get tm.absent line 0
            + if n ≠ 0 ∧ 64 * line < c.addr + n ∧ c.addr < 64 * (line + 1) then 1 else 0)
        ∧ ∀ k, t.copies.find k = if k = cmd then some { c with recv := c.recv.put core uid } else s.copies.find k)
    ∧ (∀ uid tk tm y v, c.recv.find core = some uid → Rules.Resident s uid tk tm → c.words.sorted = true → c.words.find word = some y →
      y.val = some v → core ∉ y.sent → owedEarlier s c core uid (c.addr + 4 * word) = false →
      ∃ t new, exec (.copyDelivery cmd word core) s = .next t ∧ t = { s with teams := t.teams, copies := t.copies }
        ∧ (∀ k, t.teams.find k = if k = tk then some new else s.teams.find k)
        ∧ new = { tm with spad := new.spad, bars := new.bars, absent := new.absent }
        ∧ Rules.Holding (c.addr + 4 * word) (Rules.wordBytes v) tm new ∧ Rules.CountedOff (some c.bar) 4 tm new
        ∧ (∀ line, SMap.get new.absent line 0 =
            if line = (c.addr + 4 * word) / 64 ∧ ∀ e ∈ c.words, (c.addr + 4 * e.1) / 64 = line → e.1 = word ∨ core ∈ e.2.sent
            then SMap.get tm.absent line 0 - 1 else SMap.get tm.absent line 0)
        ∧ Rules.WordGone cmd word core c y s t))
  ∧ (∀ s cmd c word y v l, s.copies.find cmd = some c → c.id = cmd → (c.op = .cpyout ∨ c.op = .cpyg ∨ c.op = .gathg) →
    c.words.find word = some y → y.val = some v → y.sent = [] → segLoc c.dsts (4 * word) = some l → roomFor s (c.core / 96) 1 = true →
    (c.overlaps = true → ∀ e ∈ c.words, e.2.val ≠ none) →
    (∀ e ∈ s.copies, e.1 < cmd → e.2.uid = c.uid → e.2.op = .publ → ∀ b ∈ e.2.dsts, ∀ g ∈ c.dsts, g.loc.pub ≠ 0 → selKey g.loc ≠ selKey b.loc) →
    ∃ t, exec (.copyDelivery cmd word c.core) s = .next t ∧ t = { s with copies := t.copies, nodes := t.nodes }
      ∧ (∀ k, k ≠ cmd → t.copies.find k = s.copies.find k)
      ∧ (∃ d, t.copies.find cmd = some d ∧ d = { c with words := d.words }
          ∧ ∀ w, d.words.find w = if w = word then some { y with sent := [c.core] } else c.words.find w)
      ∧ Rules.Sent t (c.core / 96) (homeOf l) (.copyWrite cmd word l (Rules.wordBytes v)))
  ∧ (∀ s cmd c word core y, s.copies.find cmd = some c → (c.op = .cpyin ∨ c.op = .gath) → c.freed = true → core ∈ c.cores →
    c.words.sorted = true → c.words.find word = some y → y.val ≠ none → core ∉ y.sent →
    ∃ t, exec (.copyLateDiscard cmd word core) s = .next t ∧ t = { s with copies := t.copies } ∧ Rules.WordGone cmd word core c y s t)
  ∧ (∀ s cmd c g gs, (∀ k < 10, ∀ p ∈ (s.node k).early, ∀ l, p.body ≠ .publ cmd l) → s.copies.find cmd = some c → c.id = cmd → c.op = .publ →
    c.begun = [] → c.dsts = g :: gs → (∀ w ∈ c.waits, s.copies.find w = none) → roomFor s (c.core / 96) 1 = true →
    ∃ t, exec (.publSelectorFlip cmd) s = .next t ∧ t = { s with copies := t.copies, nodes := t.nodes }
      ∧ (∀ k, t.copies.find k = if k = cmd then some { c with begun := [0] } else s.copies.find k)
      ∧ Rules.Sent t (c.core / 96) (homeOf g.loc) (.publ cmd g.loc))
  ∧ (∀ s cmd k before p after l, k < 10 → (∀ j < k, ∀ q ∈ (s.node j).early, ∀ l', q.body ≠ .publ cmd l') → (s.node k).early = before ++ p :: after →
    (∀ q ∈ before, ∀ l', q.body ≠ .publ cmd l') → p.body = .publ cmd l → applicable s k p = true →
    (∀ id q n cp a o src, LinkTxn.read id q n cp a o src ∈ s.linkReads → q.kind = l.kind → q.pa / (2 * l.pub) ≠ l.pa / (2 * l.pub)) →
    ∃ t, exec (.publSelectorFlip cmd) s = .next t ∧ t = { s with selectors := t.selectors, copies := t.copies, nodes := t.nodes }
      ∧ (t.node k).early = before ++ after
      ∧ (∀ j, t.selectors.get j false = if j = selKey l then !s.selectors.get j false else s.selectors.get j false)
      ∧ ∀ j, t.copies.find j = if j = cmd then none else s.copies.find j)

/-- R179 to R185, R200, R201, R205, R206, R209, R211, R212: the engines of a core. A waiting lead takes a free array; MLDW writes the shadow set with terms that sum exactly to each weight with its scale and its smoothing factor; MSTRM
reads the 128 activations of a row at once and adds one block of it into its accumulators, where a word of -0 keeps it when the block sum is 0, and MZERO clears a row; a table image in order is written into the inactive
generation. Where the spec leaves something open this states the model's own choice: assumptions 20, 24, 42, 46, 66. -/
def Obligations.ArrayWorks : Prop :=
  (∀ s tk c i, lctxOf s tk = some c → c.team.lead.free = true → c.team.accg ≠ 0 → arrayHolder s c.core = none → c.team.lead.remain ≠ 0 →
    nextInstr s c.core c.task.space c.task.priv (Pos.mk c.team.lead.pc c.team.lead.remain .lead false none none) = .run i → isMat i = true →
    ∃ t, exec (.matArrayAcquire tk) s = .next t ∧ t.nextId = s.nextId ∧ Rules.Commands c [] c.team.mats s t)
  ∧ (∀ s core tk tm m ms tile fmt geo pscale scale region smooth, Rules.AtHead s core tk tm m ms →
    m.op = .mldw tile fmt geo pscale scale region smooth → 2 ≤ fmt → fmt ≤ 7 → geo ≤ 2 →
    let eb := if fmt = 2 ∨ fmt = 7 then 2 else 1
    let code : Nat → Nat := fun i => Rules.codeAt (s.readLoc tile (16384 * eb)) eb i
    let sc : Nat → Nat := fun i => if geo = 0 then 127 else if geo = 1 then pscale else ((s.readLoc scale 512).getD (i / 32) 0#8).toNat
    let k : Nat → ℤ := fun ch => match smooth with
      | some a => (Rules.spadByte tm (a + ch)).toInt
      | none => 0
    (∀ a, smooth = some a → ∀ x, a ≤ x → x < a + 128 → tm.absent.find (x / 64) = none) →
    readable s (core / 96) (tileLocs tile scale fmt geo) = true →
    (∀ i < 16384, sc i ≠ 255 ∧ (fmt ≤ 4 → (Rules.valueOf (fmtOf fmt) (code i)).finite = true)) →
    (∀ b < 4, ∀ i < 32, ∀ j < 32, k (32 * b + i) - k (32 * b + j) ≤ 16) →
    ∃ t set, exec (.mldwArrayLoad core) s = .next t ∧ t = { s with teams := t.teams, cores := t.cores, nodes := t.nodes }
      ∧ Rules.HeadDone core tk tm { (s.core core).array with shadow := set } ms s t
      ∧ set.p = (if fmt = 2 then 3 else if fmt ≤ 5 then 2 else 1) ∧ set.region = region
      ∧ ∀ i < 16384, (Rules.termsOf set i).length ≤ 2 * set.p ∧
        ((Rules.termsOf set i).map Rules.termValue).sum = Rules.weightValue fmt (code i) * (2 : ℚ) ^ ((sc i : ℤ) - 127 + k (i % 128)))
  ∧ (∀ s core tk tm m ms word addr rows afmt p row blk acts, Rules.AtHead s core tk tm m ms → m.op = .mstrm word addr rows afmt p row blk acts →
    let eb := if afmt = 2 then 2 else 1
    let bytes := if blk = 0 then (List.range (128 * eb)).map (fun b => Rules.spadByte tm (addr + 128 * row * eb + b)) else acts
    let act : Nat → Rules.Ext := fun j => Rules.valueOf (fmtOf afmt) (Rules.codeAt bytes eb (32 * blk + j))
    let left := if blk = 0 then m.left - 64 * p else m.left
    let next : MatOp := if blk < 3 then .mstrm word addr rows afmt p row (blk + 1) bytes else .mstrm word addr rows afmt p (row + 1) 0 []
    (blk = 0 → ∀ x, addr + 128 * row * eb ≤ x → x < addr + 128 * (row + 1) * eb → tm.absent.find (x / 64) = none) →
    ∃ t new, exec (.mstrmArrayPass core) s = .next t ∧ t = { s with teams := t.teams, cores := t.cores } ∧ new = { tm with acc := new.acc }
      ∧ (∀ n < 128, ∃ w, Rules.IsBlockSum (Rules.products (s.core core).array.active act n blk) w
          ∧ (Rules.fp (tm.acc.get (word + 128 * row + n) 0#32) = .num true 0 → (∃ b, w = .num b 0) →
            new.acc.get (word + 128 * row + n) 0#32 = tm.acc.get (word + 128 * row + n) 0#32)
          ∧ (¬(Rules.fp (tm.acc.get (word + 128 * row + n) 0#32) = .num true 0 ∧ ∃ b, w = .num b 0) →
            Rules.RoundsTo fp32 .rn (Rules.sumOf .rn (Rules.fp (tm.acc.get (word + 128 * row + n) 0#32)) w)
              (new.acc.get (word + 128 * row + n) 0#32).toNat))
      ∧ (∀ j, ¬(word + 128 * row ≤ j ∧ j < word + 128 * row + 128) → new.acc.get j 0#32 = tm.acc.get j 0#32)
      ∧ (if blk < 3 ∨ row + 1 < rows then
          Rules.TeamNow tk { new with mats := MatCmd.mk m.id next left m.place :: ms } s t
          ∧ t.cores = s.cores
        else Rules.HeadDone core tk new (s.core core).array ms s t))
  ∧ (∀ s core tk tm m ms word n, Rules.AtHead s core tk tm m ms → m.op = .mzero word n →
    ∃ t new, exec (.mstrmArrayPass core) s = .next t ∧ t = { s with teams := t.teams, cores := t.cores } ∧ new = { tm with acc := new.acc }
      ∧ (∀ j, new.acc.get j 0#32 = if word ≤ j ∧ j < word + 128 then 0#32 else tm.acc.get j 0#32)
      ∧ (if 1 < n then Rules.TeamNow tk { new with mats := { m with op := .mzero (word + 128) (n - 1) } :: ms } s t ∧ t.cores = s.cores
        else Rules.HeadDone core tk new (s.core core).array ms s t))
  ∧ (∀ s tk tm x xs, s.teams.find tk = some tm → tm.tloads = x :: xs → genBusy s tk (!tm.gen) = false →
    readable s (tm.core / 96) (segLocs x.image) = true →
    let bytes := x.image.flatMap (fun g => s.readLoc g.loc g.size)
    (∀ tab, (∀ b, SMap.get tab b 0#8 = bytes.getD b 0#8) → Rules.imageInOrder tab) →
    ∃ t tab, exec (.tableLoad tk) s = .next t ∧ t = { s with teams := t.teams, nodes := t.nodes }
      ∧ (∀ b, SMap.get tab b 0#8 = bytes.getD b 0#8)
      ∧ Rules.TeamNow tk (if tm.gen then { tm with tloads := xs, tab0 := tab } else { tm with tloads := xs, tab1 := tab }) s t)

/-- R223 to R227, R229 to R231, R233 to R235, R237, R240 to R245: a stream accumulator's home. An add is converted, checked and counted, or refused with SA_RANGE, SA_COUNT or SA_SCOPE; a read of a sealed row returns the Stile's codes,
one of a row that is not sealed is held or refused by its policy, and COUNT is answered at once; a lead's command is performed on its task's row; and answers reach their thread or lead. Where the spec leaves something open this
states the model's own choice: assumptions 16, 28, 37, 52, 60, 61, 62. -/
def Obligations.StreamsAnswer : Prop :=
  (∀ s k before p after r xs, (s.node k).early = before ++ p :: after → p.body = .saReq r →
    ((∃ x, r.op = .add x ∧ xs = [x]) ∨ (∃ x : Word, r.op = .addh x ∧ xs = [x <<< 16, x &&& 0xFFFF0000#32])) →
    Rules.canApply s k p → saFirst s k p.body = true → Rules.inTurn s (r.addr.toNat / 2 ^ 15) 1 →
    let run := exec (.saAddApply k before.length) s
    let here := Rules.turned s (r.addr.toNat / 2 ^ 15) 1
    (∀ id row dqs, Rules.rowFor s r xs.length id row → dqs.length = xs.length →
      (∀ j < xs.length, (Rules.fp (xs.getD j 0#32)).finite = true ∧
        Rules.IsInteger .rn ((Rules.fp (xs.getD j 0#32)).x * (2 : ℚ) ^ (40 - row.e)) (dqs.getD j 0)) →
      ((∃ d ∈ dqs, (2 : ℤ) ^ 62 < |d|) → ∃ t, run = .next t ∧ t = { here with nodes := t.nodes }
        ∧ Rules.Replied t k r.node (.sa r (.refused .saRange r.addr) [] false))
      ∧ ((∀ d ∈ dqs, |d| ≤ (2 : ℤ) ^ 62) → row.t < row.count + dqs.length → ∃ t, run = .next t ∧ t = { here with nodes := t.nodes }
        ∧ Rules.Replied t k r.node (.sa r (.refused .saCount r.addr) [] false))
      ∧ ((∀ d ∈ dqs, |d| ≤ (2 : ℤ) ^ 62) → row.count + dqs.length ≤ row.t → (∀ h ∈ s.heldReqs, h.atRow id = false) →
        ∃ t new, run = .next t ∧ t = { here with nodes := t.nodes, rows := t.rows } ∧ Rules.Added (r.addr.toNat % 2 ^ 15) dqs row new
          ∧ (∀ j, t.rows.find j = if j = id then some new else s.rows.find j)
          ∧ (if new.count = row.t then ∃ f, new.factor = some f else new.factor = none)
          ∧ (t.node k).early = before ++ after ∧ Rules.Replied t k r.node (.sa r .done [] false)))
    ∧ ((∀ id row, ¬Rules.rowFor s r xs.length id row) → ∃ t, run = .next t ∧ t = { here with nodes := t.nodes }
        ∧ Rules.Replied t k r.node (.sa r (.refused .saScope r.addr) [] false)))
  ∧ (∀ s k before p after r n id row, (s.node k).early = before ++ p :: after → p.body = .saReq r →
    ((r.op = .rd ∧ n = 1) ∨ (r.op = .rdh ∧ n = 2) ∨ (r.op = .rdq ∧ n = 4) ∨ ((r.op = .wait ∨ r.op = .cnt) ∧ n = 0)) →
    Rules.canAnswer s k p → (∀ w ∈ (s.node k).early, w.body.writes = true → ¬Rules.canApply s k w) → saFirst s k p.body = true → Rules.inTurn s id 2 →
    Rules.rowFor s r n id row →
    let run := exec (.saReadRequest k before.length) s
    let here := Rules.turned s id 2
    (r.op = .cnt → ∃ t, run = .next t ∧ t = { here with nodes := t.nodes } ∧ Rules.Replied t k r.node (.sa r .done [BitVec.ofNat 32 row.count] false))
    ∧ ((r.op = .rdh ∧ row.ofmt ≠ 2) ∨ (r.op = .rdq ∧ row.ofmt ≠ 3) → ∃ t, run = .next t ∧ t = { here with nodes := t.nodes }
        ∧ Rules.Replied t k r.node (.sa r (.refused .format r.addr) [] false))
    ∧ (r.op ≠ .cnt → (r.op = .rdh → row.ofmt = 2) → (r.op = .rdq → row.ofmt = 3) →
      (row.count = row.t → (∃ e ∈ row.q, 2 ^ 56 ≤ e.2.toInt.natAbs) → ∃ t, run = .next t ∧ t = { here with nodes := t.nodes }
        ∧ Rules.Replied t k r.node (.sa r (.refused .saRange r.addr) [] false))
      ∧ (row.count = row.t → (∀ e ∈ row.q, e.2.toInt.natAbs < 2 ^ 56) → n = 0 → ∃ t, run = .next t ∧ t = { here with nodes := t.nodes }
        ∧ Rules.Replied t k r.node (.sa r .done [] false))
      ∧ (row.count = row.t → (∀ e ∈ row.q, e.2.toInt.natAbs < 2 ^ 56) → n ≠ 0 → 1 ≤ row.n → row.n ≤ 32768 →
        (Rules.fp row.eps).finite = true → 0 ≤ (Rules.fp row.eps).x → (∀ f, row.factor = some f → Rules.IsFactor row f) →
        gainReady (takeEarly s k before.length) row r p.stamp = true →
        ∃ t w f, run = .next t ∧ t = { here with nodes := t.nodes } ∧ Rules.Replied t k r.node (.sa r .done [w] false) ∧ Rules.IsFactor row f
          ∧ ∀ j < n, Rules.IsStile row (Rules.elemOf row (r.addr.toNat % 2 ^ 15 + j)) (Rules.gainValue s row (r.addr.toNat % 2 ^ 15 + j)) f
              (BitVec.toNat w / 2 ^ (32 / n * j) % 2 ^ (32 / n)))
      ∧ (row.count ≠ row.t → r.trapPol = true → ∃ t, run = .next t ∧ t = { here with nodes := t.nodes }
        ∧ Rules.Replied t k r.node (.sa r (.refused .emptyRead 0#32) [] false))
      ∧ (row.count ≠ row.t → r.trapPol = false → heldAt s k < 16384 → (n ≠ 0 → gainReady (takeEarly s k before.length) row r p.stamp = true) →
        ∃ t, run = .next t ∧ t = { here with nodes := t.nodes, heldReqs := s.heldReqs ++ [.req r p.stamp] }
          ∧ (t.node k).early = before ++ after ∧ (n ≠ 0 → Rules.Replied t k r.node (.sa r .done [] false)))))
  ∧ (∀ s k before p after id uid task n cmd, (s.node k).early = before ++ p :: after → p.body = .saCmd id uid task n cmd → Rules.canApply s k p →
    let run := exec (.saCommandPerform k before.length) s
    (∀ rw row, ((∃ x, cmd = .open_ rw x) ∨ cmd = .clear rw ∨ cmd = .free rw ∨ (∃ g a, cmd = .evict rw g a) ∨ (∃ d, cmd = .merge rw d)) →
      s.rows.find rw = some row → row.owner ≠ task → Rules.inTurn s rw 0 → (∀ d, cmd = .merge rw d → ∃ dst, s.rows.find d = some dst) →
      ∃ t, run = .next t ∧ t.rows = s.rows ∧ Rules.Replied t k n (.saDone uid id (.refused .saScope (BitVec.ofNat 32 (rw * 2 ^ 15)))))
    ∧ (∀ rw row, s.rows.find rw = some row → row.owner = task → Rules.inTurn s rw 0 →
      (∀ x, cmd = .open_ rw x → ∃ t, run = .next t ∧ Rules.Replied t k n (.saDone uid id .done)
        ∧ ∀ j, t.rows.find j = if j = rw then some { row with t := x, count := 0, factor := none } else s.rows.find j)
      ∧ (cmd = .clear rw → ∃ t, run = .next t ∧ Rules.Replied t k n (.saDone uid id .done)
        ∧ ∀ j, t.rows.find j = if j = rw then some { row with q := [], q2 := 0#128, count := 0, factor := none } else s.rows.find j)
      ∧ ((cmd = .free rw ∨ ∃ g a, cmd = .evict rw g a ∧ row.imageBytes ≤ (g.map Seg.size).sum) → ∃ t, run = .next t ∧ Rules.Replied t k n (.saDone uid id .done)
        ∧ (∀ j, t.rows.find j = if j = rw then none else s.rows.find j)
        ∧ t.heldReqs = s.heldReqs.filter (fun h => !h.atRow rw)
        ∧ (∀ h st, Held.req h st ∈ s.heldReqs → h.addr.toNat / 2 ^ 15 = rw →
            Rules.Replied t (rw / 2 ^ 14 % 8) h.node (.sa h (.refused .saScope h.addr) [] true))
        ∧ (∀ g a, cmd = .evict rw g a → ∀ j b, (row.image (s.noteGain row.gain).gainTab)[j]? = some b →
            ∃ l oq o bs i, segLoc g j = some l ∧ t.opqs.find s.nextId = some oq ∧ o ∈ oq.ops ∧ o.kind = .store bs ∧ bs[i]? = some b
              ∧ l = { o.loc with pa := o.loc.pa + i }))
      ∧ (∀ g a, cmd = .evict rw g a → (g.map Seg.size).sum < row.imageBytes → ∃ t, run = .next t ∧ t.rows = s.rows
        ∧ Rules.Replied t k n (.saDone uid id (.refused .permission (BitVec.ofNat 32 (rw * 2 ^ 15)))))
      ∧ (∀ d dst, cmd = .merge rw d → s.rows.find d = some dst → dst.owner = task → row.n = dst.n → row.e = dst.e →
        (row.count ≠ row.t → heldAt s k < 16384 → ∃ t, run = .next t ∧ t.rows = s.rows ∧ t.heldReqs = s.heldReqs ++ [.merge id uid task n rw d])
        ∧ (row.count = row.t → d / 2 ^ 14 % 8 = rw / 2 ^ 14 % 8 → SMap.get s.fresh.rows d 0 ≤ 1 → dst.count + row.n ≤ dst.t → (∀ h ∈ s.heldReqs, h.atRow d = false) →
          ∃ t new, run = .next t ∧ Rules.Replied t (rw / 2 ^ 14 % 8) n (.saDone uid id .done)
            ∧ Rules.Added 0 ((List.range row.n).map (Rules.elemOf row)) dst new ∧ ∀ j, t.rows.find j = if j = d then some new else s.rows.find j)
        ∧ (row.count = row.t → d / 2 ^ 14 % 8 ≠ rw / 2 ^ 14 % 8 → s.resync = none →
          ((s.node (rw / 2 ^ 14 % 8)).c - (s.node (rw / 2 ^ 14 % 8)).f).toNat < 16384 → (∀ h ∈ s.heldReqs, h.atRow d = false) → ∃ t, run = .next t ∧ t.rows = s.rows
          ∧ Rules.Sent t (rw / 2 ^ 14 % 8) (d / 2 ^ 14 % 8) (.saCmd id uid task n (.mergeIn d ((List.range row.n).map (fun i => row.q.get i 0#64)))))))
    ∧ (∀ d dst vs, cmd = .mergeIn d vs → s.rows.find d = some dst → dst.owner = task → dst.count + vs.length ≤ dst.t → Rules.inTurn s d 0 →
      (∀ h ∈ s.heldReqs, h.atRow d = false) →
      ∃ t new, run = .next t ∧ Rules.Replied t k n (.saDone uid id .done) ∧ Rules.Added 0 (vs.map BitVec.toInt) dst new
        ∧ ∀ j, t.rows.find j = if j = d then some new else s.rows.find j))
  ∧ (∀ s src dst idx u r, arrival s src dst idx = .item u (.resp r) →
    (∀ q w, r.body = .sa q .done [w] true → q.op = .rd ∨ q.op = .rdh ∨ q.op = .rdq →
      ∀ tk gk th, groupByUid u q.uid q.gid = some (tk, gk) → q.lane < 64 → u.threads.find (64 * gk + q.lane) = some th →
      Rules.loadsBehind u th →
      ∃ t val, exec (.saReadAnswer src dst idx) s = .next t
        ∧ t.threads.find (64 * gk + q.lane) = some ({ th with pend := Rules.valued val (th.pend.filter (fun e => e.id != q.id)) }.setReg q.dst w))
    ∧ (∀ q val, r.body = .sa q .done val false → q.rest = [] →
      ∀ tk gk g before p after rs pos word cost tm task th, groupByUid u q.uid q.gid = some (tk, gk) → u.groups.find gk = some g →
      u.teams.find tk = some tm → u.tasks.find tm.task = some task → g.parked = before ++ p :: after → p.wait = .answers rs pos word cost → p.lanes ≠ [] →
      (∃ e ∈ rs, e.2.1 = q.id) → (∀ e ∈ rs, e.2.1 ≠ q.id → e.2.2 = .done) →
      (∀ x ∈ before ++ after, x.park ≠ p.park ∧ x.lanes ≠ [] ∧ ∀ rs' pos' word' cost', x.wait = .answers rs' pos' word' cost' → ∀ e ∈ rs', e.2.1 ≠ q.id) →
      q.lane < 64 → u.threads.find (64 * gk + q.lane) = some th → Rules.loadsBehind u th →
      ∃ t got, exec (.saReadAnswer src dst idx) s = .next t
        ∧ t.groups.find gk = some { g with parked := before ++ { p with wait := .none } :: after }
        ∧ t.threads.find (64 * gk + q.lane) = some (match val with
          | [] => { th with pend := Rules.valued got th.pend }
          | w :: _ => { th with pend := Rules.valued got (if q.op.reads then th.pend.filter (fun e => e.id != q.id) else th.pend) }.setReg q.dst w))
    ∧ (∀ uid id word cost back tk tm, r.body = .saDone uid id .done → Rules.Resident u uid tk tm → tm.lead.wait = .saCmd id word cost back →
      ∃ t, exec (.saReadAnswer src dst idx) s = .next t
        ∧ ∀ k, t.teams.find k = if k = tk then some { tm with lead := { tm.lead with wait := .none } } else u.teams.find k))

/-- R274: a sequence value is at or before another when the difference to it, modulo 2^16, is below 2^15; the later of two is the second when the first is at or before it; and vectors are compared and merged entry by entry. -/
def Obligations.SequenceValuesCompare : Prop :=
  (∀ a b, le16 a b = true ↔ (65536 + b.toNat - a.toNat) % 65536 < 32768)
  ∧ (∀ a b, max16 a b = if (65536 + b.toNat - a.toNat) % 65536 < 32768 then b else a)
  ∧ (∀ v w, Stamp.le v w = true ↔ ∀ k < 10, le16 (Stamp.at v k) (Stamp.at w k) = true)
  ∧ ∀ v w k, Stamp.at (Stamp.merge v w) k = if k < 10 then max16 (Stamp.at v k) (Stamp.at w k) else 0#16

/-- R266, R273 to R282: the fabric. A stamp is rebuilt as it was sent; a packet is taken in at its home, where Rcv and A follow; what may be applied is applied to memory, with the old value of an atomic returned; a read is answered
with the bytes at its home; an answer that is late enough reaches its access, and an older one is asked for again; the token sends up to four items and a beat, and a beat brings what its node has issued and applied. Where the spec
leaves something open this states the model's own choice: assumptions 7, 44, 53. -/
def Obligations.FabricMoves : Prop :=
  (∀ (saved : Option (BitVec 192)) (new : BitVec 192), new.extractLsb' 160 20 = 0#20 → (new.extractLsb' 180 4).toNat < 10 →
    (∀ old, saved = some old → old.extractLsb' 160 20 = 0#20 ∧ old.extractLsb' 180 4 = new.extractLsb' 180 4) →
    decodeStamp saved (new.extractLsb' 184 8) (encodeStamp saved new) = .ok new)
  ∧ (∀ s d before x after, (s.node d).mesh = before ++ x :: after → (before.filter (fun e => e.point == x.point)).length < 8 →
    let rank := if x.point = s.golden.get d 0 then x.at_ else 2 ^ 48
    SMap.get s.fresh.mesh d 0 ≤ rank →
    ∃ u mesh, arrival s d d before.length = .item u x.item
      ∧ u = { Rules.stirred s with nodes := u.nodes, fresh := { s.fresh with mesh := s.fresh.mesh.put d rank } }
      ∧ (∀ k, u.node k = if k = d then { s.node k with mesh := mesh } else s.node k)
      ∧ mesh.map (fun e => (e.point, e.item)) = (before ++ after).map (fun e => (e.point, e.item))
      ∧ ∀ e ∈ mesh, e ∈ before ++ after ∨ (e.point = x.point ∧ e.at_ = s.time.toNat))
  ∧ (∀ s src dst idx before enc i after b, src ≠ dst → (s.chan dst).flights = before ++ .item src enc i :: after → (∀ f ∈ before, f.src ≠ src) →
    decodeStamp ((s.node dst).saveIn.find src) (s.node dst).epoch enc = .ok b →
    (∀ k < 10, ((s.node k).c - b.extractLsb' (16 * k) 16).toNat < 2 ^ 15) →
    ∃ u v, arrival s src dst idx = .item u (i.withStamp v) ∧ (∀ k < 10, Stamp.at v k = b.extractLsb' (16 * k) 16)
      ∧ u = { Rules.stirred s with chans := u.chans, nodes := u.nodes }
      ∧ (∀ k, u.chan k = if k = dst then { s.chan k with flights := before ++ after } else s.chan k)
      ∧ ∀ k, u.node k = if k = dst then { s.node k with saveIn := (s.node k).saveIn.put src b } else s.node k)
  ∧ (∀ s src dst idx u p, arrival s src dst idx = .item u (.pkt p) → (s.node dst).early.length < 2039 →
    ∃ t, exec (.homePacketArrival src dst idx) s = .next t ∧ Rules.TakenIn dst p u t)
  ∧ (∀ s k before p after, Rules.Waiting s k before p after →
    (∀ q op l bs, p.body = .write q op l bs → l.kind < 4 → ∃ t, exec (.homeApply k before.length) s = .next t ∧ Rules.Applied k before p after s t
      ∧ Rules.Wrote l.kind (framePa s l true) bs s t ∧ opsOf t q = (opsOf s q).filter (fun o => o.id != op)
      ∧ t.link = s.link ++ (if l.kind < 2 then [] else [.write { kind := l.kind, pa := l.pa } bs]))
    ∧ (∀ q op l n o b c, p.body = .atom q op l n o b c → l.kind < 4 → (n = 4 ∨ n = 8) → b < 2 ^ (8 * n) → c < 2 ^ (8 * n) →
      let old := Rules.leNat (s.readLoc l n)
      ∃ t, exec (.homeApply k before.length) s = .next t ∧ Rules.Applied k before p after s t
        ∧ Rules.Wrote l.kind (framePa s l true)
            (Rules.numBytes n (Rules.atomic o (BitVec.ofNat (8 * n) old) (BitVec.ofNat (8 * n) b) (BitVec.ofNat (8 * n) c)).toNat) s t
        ∧ Rules.Replied t k p.src (.mem q op (Rules.numBytes n old)))
    ∧ (∀ cmd word l bs c, p.body = .copyWrite cmd word l bs → l.kind < 4 → s.copies.find cmd = some c → c.op ≠ .publ → c.words.sorted = true →
      ∃ t, exec (.homeApply k before.length) s = .next t ∧ Rules.Applied k before p after s t ∧ Rules.Wrote l.kind (framePa s l true) bs s t
        ∧ (∀ tk tm, c.freed = false → Rules.Resident s c.uid tk tm → ∃ new, t.teams.find tk = some new ∧ new = { tm with bars := new.bars }
            ∧ Rules.CountedOff (some c.bar) 4 tm new)
        ∧ (t.copies.find cmd = none ↔ ∀ e ∈ c.words, e.1 = word ∨ e.2.done = true))
    ∧ (∀ inst team, p.body = .arrive inst team → ∃ t, exec (.homeApply k before.length) s = .next t ∧ Rules.Applied k before p after s t
      ∧ ∀ j, t.wides.find j = if j = inst then (s.wides.find j).map (fun w => w.arrive team p.stamp) else s.wides.find j))
  ∧ (∀ s k before p after, (s.node k).early = before ++ p :: after → Rules.canAnswer s k p →
    (∀ q ∈ (s.node k).early, q.body.writes = true → ¬Rules.canApply s k q) →
    (∀ q op l n, p.body = .read q op l n → ∃ t, exec (.homeReadAnswer k before.length) s = .next t ∧ (t.node k).early = before ++ after
      ∧ (l.kind < 2 → t = { Rules.stirred s with nodes := t.nodes } ∧ Rules.Replied t k p.src (.mem q op (s.readLoc l n)))
      ∧ (2 ≤ l.kind → ∃ x, x = LinkTxn.read s.nextId { kind := l.kind, pa := framePa s l false } n false q op p.src
          ∧ t = { Rules.stirred s with nodes := t.nodes, link := s.link ++ [x], linkReads := s.linkReads ++ [x], nextId := s.nextId + 1 }))
    ∧ (∀ cmd word l, p.body = .copyRead cmd word l → ∃ t, exec (.homeReadAnswer k before.length) s = .next t ∧ (t.node k).early = before ++ after
      ∧ (l.kind < 2 → t = { Rules.stirred s with nodes := t.nodes } ∧ Rules.Replied t k p.src (.copy cmd word (s.readLoc l 4)))
      ∧ (2 ≤ l.kind → ∃ x, x = LinkTxn.read s.nextId { kind := l.kind, pa := framePa s l false } 4 true cmd word p.src
          ∧ t = { Rules.stirred s with nodes := t.nodes, link := s.link ++ [x], linkReads := s.linkReads ++ [x], nextId := s.nextId + 1 })))
  ∧ (∀ s src dst idx u r, arrival s src dst idx = .item u (.resp r) →
    (∀ q op bs oq before o after, r.body = .mem q op bs → u.opqs.find q = some oq → oq.ops = before ++ o :: after → o.id = op →
      (∀ x ∈ before ++ after, x.id ≠ op) → (∀ x ∈ before, ∃ b, x.kind = .store b) → (∀ x ∈ after, x.got = none) →
      (∀ uid gid lane z rs tk gk th, oq.who = .thread uid gid lane → o.kind = .load (.size z) rs → bs.length = Rules.width z →
        groupByUid u uid gid = some (tk, gk) → lane < 64 → u.threads.find (64 * gk + lane) = some th →
        (∀ j < 10, (Stamp.at r.stamp j - Stamp.at oq.m j).toNat < 2 ^ 15) →
        ∃ t, exec (.readResponseArrival src dst idx) s = .next t ∧ (∀ x ∈ opsOf t q, x.id ≠ op)
          ∧ t.threads.find (64 * gk + lane) = some { th with pend := th.pend.map (fun e => if e.id = op then { e with val := some (Rules.loaded z bs) } else e) }
          ∧ ∀ j < 10, j ≠ dst → Stamp.at (t.node dst).k j = Rules.laterOf (Stamp.at (u.node dst).k j) (Stamp.at r.stamp j))
      ∧ ((∃ form rs, o.kind = .load form rs) → (∃ j < 10, ¬(Stamp.at r.stamp j - Stamp.at oq.m j).toNat < 2 ^ 15) →
        ∃ t, exec (.readResponseArrival src dst idx) s = .next t ∧ t.threads = u.threads ∧ ∃ x ∈ opsOf t q, x.id = op ∧ x.got = none))
    ∧ (∀ cmd word bs, r.body = .copy cmd word bs → ∃ t, exec (.readResponseArrival src dst idx) s = .next t
      ∧ t = { u with nodes := t.nodes, copies := t.copies }
      ∧ ∀ k, t.copies.find k = if k = cmd then (u.copies.find k).map (fun c => { c with
          words := c.words.mod word (fun w => { w with val := some (BitVec.ofNat 32 (Rules.leNat bs)) }) }) else u.copies.find k))
  ∧ (∀ s chan node, 4 ≤ s.plat.bringUp → chan < 10 → node ≠ chan → chan ∉ s.removed → node ∉ s.removed → (s.chan chan).pos = node →
    (s.chan chan).frozen = false →
    ∃ t sent, exec (.tokenVisit chan node) s = .next t ∧ t = { s with chans := t.chans, nodes := t.nodes }
      ∧ Rules.itemsFor chan (s.node node).out = sent ++ Rules.itemsFor chan (t.node node).out
      ∧ sent.length ≤ 4 ∧ (sent.length < 4 → Rules.itemsFor chan (t.node node).out = [])
      ∧ (t.node node).out.filter (fun i => i.dst != chan) = (s.node node).out.filter (fun i => i.dst != chan)
      ∧ (∃ c fs, (t.chan chan).flights = (s.chan chan).flights ++ fs ++ [.beat node c (Stamp.at (s.node node).a chan)]
          ∧ Rules.underWay fs node = sent ∧ fs.length = sent.length
          ∧ c = match (Rules.itemsFor chan (t.node node).out).filterMap Item.pkt? with
            | [] => (s.node node).c
            | p :: _ => p.seq - 1#16)
      ∧ (t.chan chan).pos = nextVisit s.removed chan node)
  ∧ (∀ s src dst before c a after, (s.chan dst).flights = before ++ .beat src c a :: after → (∀ f ∈ before, f.src ≠ src) →
    ∃ t, exec (.beatArrival src dst) s = .next t ∧ t = { Rules.stirred s with chans := t.chans, nodes := t.nodes }
      ∧ (∀ k, t.chan k = if k = dst then { s.chan k with flights := before ++ after } else s.chan k) ∧ (∀ k, k ≠ dst → t.node k = s.node k)
      ∧ (∀ j, Stamp.at (t.node dst).rcv j = if j = src then c else Stamp.at (s.node dst).rcv j)
      ∧ (∀ j, Stamp.at (t.node dst).k j = if j = src then Rules.laterOf (Stamp.at (s.node dst).k j) (c - 8192#16) else Stamp.at (s.node dst).k j)
      ∧ (∀ j < 10, Rules.IsApplied (t.node dst) dst j (Stamp.at (t.node dst).a j))
      ∧ (let told : Nat → Option (BitVec 16) := fun j => if j = src then some a else (s.node dst).reports.find j
         ((∃ j < 10, j ≠ dst ∧ j ∉ s.removed ∧ told j = none) → (t.node dst).f = (s.node dst).f)
         ∧ ∀ m, (∀ j < 10, j ≠ dst → j ∉ s.removed → ∃ v, told j = some v ∧ (v - m).toNat < 2 ^ 15) →
           (∃ j < 10, j ≠ dst ∧ j ∉ s.removed ∧ told j = some m) → (t.node dst).f = m))

/-- R284 to R289: errors of the fabric. A packet with a bad stamp is held and recorded, and one of another epoch only recorded; a retransmission that succeeds is recorded, and one that fails freezes the channel; a lost token is
regenerated, and a mesh that does not deliver freezes; golden status moves on; FERR is cleared by a 1 in V; and a resynchronisation returns every counter to 0 in a new epoch. Where the spec leaves something open this states the
model's own choice: assumptions 7, 17, 45, 52, 65. -/
def Obligations.FabricErrors : Prop :=
  (∀ s src dst idx u code i, arrival s src dst idx = .fault u code i →
    ∃ t, (match i with
        | .pkt _ => exec (.homePacketArrival src dst idx) s
        | .resp _ => exec (.readResponseArrival src dst idx) s) = .next t
      ∧ t = { u with nodes := t.nodes, plat := t.plat, link := t.link, fresh := t.fresh } ∧ Rules.Recorded dst code src dst u t
      ∧ (code = 6 → ∀ k, t.node k = if k = dst then { u.node k with ferr := (t.node k).ferr } else u.node k)
      ∧ (code ≠ 6 → (t.node dst).held = (u.node dst).held ++ [(code, i)] ∧ ∀ p, i = .pkt p → Stamp.at (t.node dst).rcv src = p.seq))
  ∧ (∀ s src dst, (∃ f ∈ (s.chan dst).flights, f.src = src) →
    (∃ t, exec (.linkRetransmission src dst true) s = .next t ∧ t = { s with nodes := t.nodes, plat := t.plat, link := t.link, fresh := t.fresh } ∧ Rules.Recorded dst 1 src dst s t)
    ∧ ∃ t, exec (.linkRetransmission src dst false) s = .next t ∧ Rules.Recorded dst 2 src dst s t
      ∧ t = { s with chans := t.chans, nodes := t.nodes, plat := t.plat, link := t.link, fresh := t.fresh }
      ∧ (∀ k, t.chan k = if k = dst then { s.chan k with frozen := true, flights := (s.chan k).flights.filter (fun f => f.src != src) } else s.chan k)
      ∧ (t.node src).out = Rules.underWay (s.chan dst).flights src ++ (s.node src).out ∧ (t.node src).saveOut.find dst = none)
  ∧ (∀ s chan, 4 ≤ s.plat.bringUp → chan < 10 → chan ∉ s.removed → 256 ≤ (s.time - BitVec.ofNat 48 (s.chan chan).lastPass).toNat →
    ∃ t, exec (.tokenTimeout chan) s = .next t ∧ Rules.Recorded chan 7 chan chan s t
      ∧ t = { s with chans := t.chans, nodes := t.nodes, plat := t.plat, link := t.link, fresh := t.fresh }
      ∧ ∀ k, t.chan k = if k = chan then { s.chan k with pos := nextVisit s.removed k k, lastPass := s.time.toNat } else s.chan k)
  ∧ (∀ s die before e after, (s.node die).mesh = before ++ e :: after → (before.filter (fun x => x.point == e.point)).length < 8 →
    65536 ≤ (s.time - BitVec.ofNat 48 e.at_).toNat → (s.chan die).frozen = false →
    ∃ t, exec (.meshDeliveryTimeout die) s = .next t ∧ Rules.Recorded die 9 die die s t
      ∧ t = { s with chans := t.chans, nodes := t.nodes, plat := t.plat, link := t.link, fresh := t.fresh }
      ∧ ∀ k, t.chan k = if k = die then { s.chan k with frozen := true } else s.chan k)
  ∧ (∀ s die, die < 8 → s.golden.get die 0 ≠ s.time.toNat / 512 % 128 →
    ∃ t, exec (.goldenPass die) s = .next t ∧ t = { s with golden := t.golden }
      ∧ ∀ k, t.golden.get k 0 = if k = die then (s.golden.get k 0 + 1) % 128 else s.golden.get k 0)
  ∧ (∀ s node (value : DWord), node < 10 → value.getLsbD 63 = true →
    ∃ t, exec (.ferrClear node value) s = .next t ∧ Rules.OneNode node (fun n => { n with ferr := Ferr.mk false 0 0#8 0 0 0 0#32 }) s t)
  ∧ (∀ s removed, exec (.resyncStart removed) s = .next (match s.resync with
      | none => { s with resync := some { step := 2, removed := removed, calmFrom := s.time.toNat } }
      | some r => { s with resync := some { r with removed := if r.removed = none then removed else r.removed } }))
  ∧ (∀ s r, s.resync = some r → r.removed = none → drained287 s r = true → (∀ k < 10, discards s r k = []) →
    ∃ t, exec .resyncDrainEnd s = .next t ∧ t.resync = none ∧ t.removed = s.removed
      ∧ (t.far, t.near, t.hostMem, t.threads, t.groups, t.teams) = (s.far, s.near, s.hostMem, s.threads, s.groups, s.teams)
      ∧ ∀ k < 10, (t.node k).epoch = (s.node k).epoch + 1#8 ∧ (t.node k).c = 0#16 ∧ (t.node k).f = 0#16 ∧ (t.node k).k = [] ∧ (t.node k).rcv = []
        ∧ (t.node k).a = [] ∧ (t.node k).saveOut = [] ∧ (t.node k).saveIn = [] ∧ (t.node k).early = [] ∧ (t.node k).held = [] ∧ (t.node k).ferr = Ferr.mk false 0 0#8 0 0 0 0#32
        ∧ (t.chan k).flights = [] ∧ (t.chan k).frozen = false)

/-- R300, R303 to R306: leases. A lease or refill moves what the lease may still hold; a failing request recalls every lease of the task and then pays, or makes it STARVED; and STVCYC over, the task unwinds. Where the spec leaves
something open this states the model's own choice: assumptions 33, 52. -/
def Obligations.LeasesAndStarvation : Prop :=
  (∀ s core task x l, s.tasks.find task = some x → s.leases.find (65536 * core + task) = some l → x.state = .running →
    (l.req = some .lease ∨ l.req = some .refill) → Rules.requestTurn s core task →
    ∃ t, exec (.leaseRequest core task) s = .next t ∧ t = { Rules.unitAt s task (1000 + core) with leases := t.leases, tasks := t.tasks }
      ∧ let n := Nat.min (4096 - l.bal) x.pool
        (∀ k, t.leases.find k = if k = 65536 * core + task then some { l with bal := l.bal + n, req := none } else s.leases.find k)
        ∧ ∀ k, t.tasks.find k = if k = task then some { x with pool := x.pool - n } else s.tasks.find k)
  ∧ (∀ s core task x l who amount, s.tasks.find task = some x → s.leases.find (65536 * core + task) = some l → x.state = .running →
    l.req = some (.failing who amount) → task < 65536 → Rules.requestTurn s core task →
    ∃ t, exec (.failingRequest core task) s = .next t ∧ t = { Rules.unitAt s task (1000 + core) with leases := t.leases, tasks := t.tasks }
      ∧ let total := x.pool + Rules.balances s task
        (∀ k, k ≠ 65536 * core + task → t.leases.find k = (s.leases.find k).map (fun y => if k % 65536 = task then { y with bal := 0 } else y))
        ∧ (∀ k, k ≠ task → t.tasks.find k = s.tasks.find k)
        ∧ (amount ≤ total → let lease := Nat.min 4096 total
           t.leases.find (65536 * core + task) = some { bal := lease - amount, req := none, paid := l.paid ++ [(who, amount)] }
           ∧ t.tasks.find task = some { x with pool := total - lease - (amount - lease) })
        ∧ (total < amount → t.leases.find (65536 * core + task) = some { l with bal := 0, req := none }
           ∧ t.tasks.find task = some { x with pool := total, state := .starved, starvedAt := some s.time.toNat }))
  ∧ (∀ s task x since, s.tasks.find task = some x → x.starvedAt = some since → x.state = .starved → natBits (natOfBytes x.desc) 28 28 = 1 →
    natBits (natOfBytes x.desc) 479 448 ≤ (s.time - BitVec.ofNat 48 since).toNat → SMap.get s.fresh.units task 0 < 3003 →
    ∃ t, exec (.starvationTimeout task) s = .next t ∧ Rules.Unwinds s task t)

/-- R310, R311, R313, R314: what a child's home unit answers. TSTAT and ALWRD, and a JOIN that finds the child STARVED, receive the status word and the unspent allowance, or the remainder; a JOIN of a final child credits the remainder
and releases the handle; a report of a final state brings what the child knew; UNWIND is accepted, and the child's tree is taken back unless it is UNWINDING or final. Where the spec leaves something open this states the model's
own choice: assumptions 32, 33, 52. -/
def Obligations.HomeUnitAnswers : Prop :=
  (∀ s tk c fn sd h k x, lctxOf s tk = some c → c.team.lead.wait = .unit fn sd h → Rules.AsksChild s c h k x →
    SMap.get s.fresh.units k 0 ≤ 4000 → (c.team.uid, sd) ∉ s.fresh.inbox → (fn ≠ 6 → (c.team.uid, sd + 1) ∉ s.fresh.inbox) →
    (fn = 3 ∨ fn = 6 ∨ (fn = 2 ∧ x.state = .starved) →
      ∃ t u, exec (.homeUnitAnswer tk) s = .next t
        ∧ Rules.OneTeam tk (fun y => { y with lead := Rules.answeredWith fn sd x (Rules.figureOf s k x) y.lead }) (Rules.unitAt s k 4000) u
        ∧ if x.state.final = true then Rules.Learnt (c.team.core / 96) x.know u t else t = u)
    ∧ (fn = 2 → x.state.final = true → k ≠ c.team.task → s.teams.sorted = true → SMap.get s.fresh.units c.team.task 0 ≤ 1 →
      (∀ e ∈ s.teams, e.1 ≠ tk → e.2.task = c.team.task → ∀ f r, e.2.lead.wait ≠ .unit f r h) →
      ∃ t, exec (.homeUnitAnswer tk) s = .next t
        ∧ t = { Rules.unitAt (Rules.unitAt s k 4000) c.team.task 1 with
            teams := t.teams, tasks := t.tasks, gens := t.gens, hist := t.hist, opqs := t.opqs, nodes := t.nodes }
        ∧ (∀ j, t.teams.find j = if j = tk then some { c.team with lead := Rules.answeredWith 2 sd x x.remainder c.team.lead } else s.teams.find j)
        ∧ (∀ j, t.tasks.find j = if j = k then none else if j = c.team.task then
            some { c.task with pool := c.task.pool + x.remainder, children := c.task.children.filter (fun y => y != k) } else s.tasks.find j)
        ∧ t.gens.find k = some (Rules.genAfter x.gen)
        ∧ ∀ j < 10, j ≠ c.team.core / 96 → Stamp.at (t.node (c.team.core / 96)).k j
            = Rules.laterOf (Stamp.at (s.node (c.team.core / 96)).k j) (Stamp.at x.know j)))
  ∧ (∀ s tk c h k x, lctxOf s tk = some c → c.team.lead.wait = .unwind h → Rules.AsksChild s c h k x → x.state = .running →
    (∃ e ∈ s.leases, e.1 % 65536 = k ∧ e.2.req ≠ none) → exec (.unwindAccept tk) s = .refused .notEnabled)
  ∧ (∀ s tk c h, lctxOf s tk = some c → c.team.lead.wait = .unwind h →
    (∀ k x, Rules.AsksChild s c h k x → SMap.get s.fresh.units k 0 < 3002 ∧ completes s k x = false
      ∧ (x.state = .running → ∀ e ∈ s.leases, e.1 % 65536 = k → e.2.req = none ∧ e.2.paid = [])) →
    ∃ t, exec (.unwindAccept tk) s = .next t ∧ (∀ tm, t.teams.find tk = some tm → tm.lead.wait = .none)
      ∧ (∀ k x, Rules.AsksChild s c h k x → Rules.Unwinds s k t)
      ∧ (∀ k x, Rules.AsksChild s c h k x → (x.state.final = true ∨ x.state = .unwinding) → x.children = [] →
        Rules.OneTeam tk (fun y => { y with lead := { y.lead with wait := .none } }) (Rules.unitAt s k 3002) t))

/-- R36, R247, R298 to R300, R316, R318, R324: how work ends. A team that is over retires, its lease going back with the last one on the core; a task whose children are final and whose fence is done is COMPLETED, UNWOUND or FAILED,
with its remainder, its children's among them; its rows go to its parent; and a root reports in its status ring. Where the spec leaves something open this states the model's own choice: assumptions 23, 32, 45, 52. -/
def Obligations.TeamsAndTasksEnd : Prop :=
  (∀ s tk tm x, s.teams.find tk = some tm → s.tasks.find tm.task = some x → (∀ e ∈ s.groups, e.2.team ≠ tk) →
    (tm.lead.ended = true ∨ tm.lead.stopped = true) → enginesDone s tm = true → x.children = [] → tm.task < 65536 →
    ∃ t y, exec (.teamRetirement tk) s = .next t ∧ t.teams.find tk = none ∧ (∀ k, k ≠ tk → t.teams.find k = s.teams.find k)
      ∧ t.tasks.find tm.task = some y ∧ (∀ k, k ≠ tm.task → t.tasks.find k = s.tasks.find k)
      ∧ y.retired = x.retired + 1 ∧ y.state = (if x.state = .running ∧ x.retired + 1 = x.teams then .draining else x.state)
      ∧ ((s.core tm.core).array.holder = some tm.uid → (t.core tm.core).array.holder = none)
      ∧ (if ∃ e ∈ t.teams, e.2.task = tm.task ∧ e.2.core = tm.core then t.leases = s.leases ∧ y.pool = x.pool
        else t.leases.find (65536 * tm.core + tm.task) = none ∧ ∀ l, s.leases.find (65536 * tm.core + tm.task) = some l →
          y.pool = x.pool + l.bal + (l.paid.map Prod.snd).sum))
  ∧ (∀ s task x, s.tasks.find task = some x → x.state = .draining → x.children = [] → taskQuiet s task = true → Rules.finishTurn s task x →
    ∃ t, exec (.taskCompletion task) s = .next t
      ∧ (∀ p, x.parent = some p → p ≠ task → (∀ r row, s.rows.find r = some row → t.rows.find r = some { row with owner := if row.owner = task then p else row.owner })
        ∧ ∀ y, s.tasks.find p = some y →
          if y.state = .draining then t.tasks.find task = none ∧ ∃ k, t.tasks.find p = some { y with
              pool := y.pool + x.pool, know := k, children := y.children.filter (fun j => j != task) }
          else t.tasks.find p = some y ∧ t.tasks.find task = some { x with state := .completed, remainder := x.pool, pool := 0 })
      ∧ (x.parent = none → (∀ e ∈ t.rows, e.2.owner ≠ task)
        ∧ Rules.RootGone task x (Rules.statusOf { x with state := .completed }) x.pool s t))
  ∧ ∀ s task x, s.tasks.find task = some x → x.state = .unwinding → x.children.Nodup → task ∉ x.children → taskQuiet s task = true → Rules.finishTurn s task x →
    (∀ k ∈ x.children, ∃ y, s.tasks.find k = some y ∧ y.state.final = true ∧ y.parent = some task) →
    ∃ t, exec (.unwindEnd task) s = .next t ∧ (∀ k ∈ x.children, t.tasks.find k = none)
      ∧ let total := x.pool + (x.children.map (fun k => ((s.tasks.find k).map Task.remainder).getD 0)).sum
        let final := if x.cause = 0 then TaskState.unwound else TaskState.failed
        (∀ p, x.parent = some p → (∀ y, s.tasks.find p = some y → y.state ≠ .draining) →
          ∃ k, t.tasks.find task = some { x with state := final, remainder := total, pool := 0, children := [], know := k })
        ∧ (x.parent = none → Rules.RootGone task x (Rules.statusOf { x with state := final }) total s t)

/-- R294, R296, R309, R316, R320 to R325: queues. SPAWN.W is admitted when there is room, or its team is to be swapped out after 4,096 clk; the slot HEAD of a queue becomes a task in the ready set when its TICKET is HEAD, or is
refused, and HEAD moves on. Where the spec leaves something open this states the model's own choice: assumptions 9, 23, 36, 52, 54. -/
def Obligations.QueueSlots : Prop :=
  (∀ s tk tm desc place sd allow since, s.teams.find tk = some tm → tm.lead.wait = .spawnW desc place sd allow since →
    (∀ v h, enqueue s tm.task (tm.core / 96) desc place = some (v, h) → (tm.uid, sd) ∉ s.fresh.inbox →
      ∃ t, exec (.spawnWAdmission tk) s = .next t
        ∧ Rules.OneTeam tk (fun y => { y with lead := { y.lead.setReg sd (BitVec.ofNat 64 h.toNat) with wait := .none } }) v t)
    ∧ (tm.swap = none → 4096 ≤ (s.time - BitVec.ofNat 48 since).toNat →
      ∃ t, exec (.spawnWTimeout tk) s = .next t ∧ Rules.SwapDecided tk tm 2#4 s t))
  ∧ (∀ s q b, Rules.Consuming s q b → ∃ t, exec (.consumerPeriodicCheck q) s = .next t ∧ Rules.OneQueue q (fun y => { y with due := true }) s t)
  ∧ (∀ s q b, Rules.Consuming s q b → (s.queue q).due = true →
    let head := ringHead s b
    let slot := ringSlot s b head
    (ringNat s slot 120 8 ≠ head → ∃ t, exec (.slotConsume q) s = .next t ∧ Rules.OneQueue q (fun y => { y with due := false }) s t)
    ∧ (ringNat s slot 120 8 = head → q < 16 →
      (∀ k x, (k, x) ∈ s.tasks → s.tasks.find k = some x → x.queue = q → x.ticket = head → x.state = .queued → x.ready = false →
        (∀ e ∈ s.tasks, e.2.queue = q → e.2.ticket = head → e.2.state = .queued → e.2.ready = false → e.1 = k) →
        ∃ t u, exec (.slotConsume q) s = .next t ∧ Rules.OneTask k (fun y => { y with ready := true, admitted := s.time.toNat }) s u ∧ Rules.HeadUp b u t)
      ∧ ((∀ e ∈ s.tasks, ¬(e.2.queue = q ∧ e.2.ticket = head ∧ e.2.state = .queued ∧ e.2.ready = false)) →
        ∃ t, exec (.slotConsume q) s = .next t ∧ Rules.HeadUp b s t))
    ∧ (ringNat s slot 120 8 = head → 16 ≤ q →
      let desc := s.readLoc { kind := slot.kind, pa := slot.pa, pub := 0 } 64
      let place := BitVec.ofNat 64 (ringNat s slot 64 8)
      let pasid := BitVec.ofNat 20 (ringNat s slot 76 4)
      let foreign := s.plat.revoked.contains pasid = true ∨ pasid ≠ (s.queue q).pasid
      let good := descOk s (s.queue q).space desc place = true
      (foreign ∨ ¬good → ∃ t u, exec (.slotConsume q) s = .next t ∧ t.tasks = s.tasks
        ∧ Rules.StatusGiven q b (head % 2 ^ 32) (if foreign then 10#64 else 9#64) 0 s u ∧ Rules.HeadUp b u t)
      ∧ (¬foreign → good → (∀ e < 8192, s.tasks.find (8192 * ((q - 16) % 8) + e) ≠ none) →
        ∃ t, exec (.slotConsume q) s = .next t ∧ Rules.OneQueue q (fun y => { y with due := false }) s t)
      ∧ (¬foreign → good → (∃ e < 8192, s.tasks.find (8192 * ((q - 16) % 8) + e) = none) →
        ∃ t u k gen, exec (.slotConsume q) s = .next t ∧ Rules.HeadUp b u t ∧ u = { s with tasks := u.tasks, gens := u.gens, fresh := { s.fresh with roots := k :: s.fresh.roots } }
          ∧ k / 8192 = (q - 16) % 8 ∧ s.tasks.find k = none ∧ (s.gens.find k = some gen ∨ (s.gens.find k = none ∧ gen ≠ 0#16))
          ∧ ∀ j, u.tasks.find j = if j = k then some { queuedTask gen desc place q head with space := (s.queue q).space, priv := (s.queue q).priv, know := (s.node (homeOf (Loc.mk slot.kind slot.pa 0))).a, ready := true, admitted := s.time.toNat } else s.tasks.find j)))

/-- R13, R22, R29, R125, R129, R133, R199, R253, R297, R298, R326 to R329: the distributor. Which team goes first, where a team fits, which core is preferred, and what a placed team, its lead, its groups and its threads are. Where the
spec leaves something open this states the model's own choice: assumptions 1, 33, 51. -/
def Obligations.TeamsArePlaced : Prop :=
  (∀ a b : Cand,
    (∀ x y, a.deadline = some x → b.deadline = some y → x ≠ y → (y - x).toNat ≠ 2 ^ 47 → (a.before b = true ↔ (y - x).toNat < 2 ^ 47))
    ∧ (a.deadline ≠ none → b.deadline = none → a.before b = true ∧ b.before a = false)
    ∧ (a.deadline = b.deadline → a.again ≠ b.again → a.before b = a.again)
    ∧ (a.deadline = b.deadline → a.again = b.again → a.admitted < 2 ^ 48 → b.admitted < 2 ^ 48 →
      (a.admitted < b.admitted → b.admitted < a.admitted + 2 ^ 47 → a.before b = true ∧ b.before a = false)
      ∧ (a.admitted = b.admitted → (a.before b = true ↔ a.queue < b.queue ∨ (a.queue = b.queue ∧ (a.ticket < b.ticket ∨ (a.ticket = b.ticket ∧ a.index < b.index)))))))
  ∧ (∀ s x n core, fits s x n core = true ↔ Rules.InPlace s x core ∧ Rules.HasRoom s n.task n.groups n.granules n.quadg core)
  ∧ (∀ s x n core, chosenCore s x n core = true ↔
    fits s x n core = true ∧ ∀ c < 768, c ≠ core → fits s x n c = true → Rules.Preferred s n.task core c)
  ∧ (∀ s task core ctx places x, s.tasks.find task = some x → Rules.FreeContext s core ctx → x.ready = true → x.placed < x.teams →
    (x.state = .queued ∨ x.state = .running ∨ x.state = .starved) → mayPlace s task = true → mayTake s (x.cand false x.placed) core = true →
    chosenCore s x (taskNeed task x.desc) core = true → Rules.FreePlaces s core (natBits (natOfBytes x.desc) 18 16 + 1) places →
    let d := natOfBytes x.desc
    let span := natBits d 25 24
    ∃ t tm, exec (.teamPlacement task core places) s = .next t
      ∧ Rules.TeamNow (8 * core + ctx) tm s t ∧ Rules.Launched s.nextId task x.placed core places d tm
      ∧ (∀ g p, places[g]? = some p → t.groups.find (8 * core + p) = some (Rules.freshGroup (8 * core + ctx) g d)
        ∧ ∀ l < 64, ∃ th, t.threads.find (64 * (8 * core + p) + l) = some th ∧ Rules.FreshThread d th)
      ∧ (∀ k, (∀ p ∈ places, k ≠ 8 * core + p) → t.groups.find k = s.groups.find k)
      ∧ (∀ k, (∀ p ∈ places, k / 64 ≠ 8 * core + p) → t.threads.find k = s.threads.find k)
      ∧ (∀ k, t.tasks.find k = if k = task then some { x with
          placed := x.placed + 1, state := if x.placed = 0 then .running else x.state,
          inst := if x.placed = 0 then some (if span = 0 then core else if span = 1 then core / 4 else if span = 2 then core / 96 else 0) else x.inst,
          late := if x.placed = 0 then Rules.isLate s x else x.late } else s.tasks.find k)
      ∧ (natBits d 57 48 ≠ 0 → t.quadAlloc.find (192 * task + core / 4) ≠ none)
      ∧ (if x.placed = 0 ∧ Rules.isLate s x = true then
          ∀ b, openRing s x.queue = some b → Rules.StatusGiven x.queue b (2 ^ 16 * x.gen.toNat + task % 2 ^ 16) 0x20001#64 0 s t
        else t.far = s.far ∧ t.near = s.near ∧ t.hostMem = s.hostMem)
      ∧ ∀ j < 10, j ≠ core / 96 → Stamp.at (t.node (core / 96)).k j = Rules.laterOf (Stamp.at (s.node (core / 96)).k j) (Stamp.at x.know j))

/-- R24, R330, R331, R333, R355: the slots of a core go to the contenders that win; a team is to be stopped for its reason; its image holds its context; and it enters again with it. R334 to R336, R340, R347: the debugger and what it
has halted. A group that BRK has stopped at its handler goes on as RFT from the trap records of its threads; the context image of a saved team is read in the layout of R334 to R336 (of its header VER, TASKH and TEAM, the lead's
registers and pc, and the registers of each thread); and what is written into the image of a halted team is what it resumes with, where nothing of it is halted the write is refused with 0x42. Where the spec leaves something open
this states the model's own choice: assumptions 25, 26, 35, 52, 67. -/
def Obligations.ArbitrationAndSwaps : Prop :=
  (
    (∀ s core, s.plat.thermal = false → (s.core core).gHold = none → (s.core core).gIssued = false → s.groups.sorted = true →
      ∃ t, exec (.clauseArbitration core) s = .next t ∧ Rules.SlotsOnly core s t
        ∧ ((∀ w, ¬Rules.GroupContends s core w) → (t.core core).gHold = none ∧ t.groups = s.groups)
        ∧ ∀ w g, Rules.Wins (Rules.GroupContends s core) w → s.groups.find w.key = some g →
          (t.core core).gHold = some w.key ∧ (t.core core).gWins = w.key :: (s.core core).gWins.filter (fun k => k != w.key)
          ∧ (∀ k, k ≠ w.key → t.groups.find k = s.groups.find k)
          ∧ (∀ p, g.running = some p → canIssue s w.key g p = true → t.groups.find w.key = some g)
          ∧ ((∀ p, g.running = some p → canIssue s w.key g p = false ∧ p.lanes ≠ []) → ∀ q ∈ g.parked, canIssue s w.key g q = true →
            (∀ r ∈ g.parked, canIssue s w.key g r = true → r = q ∨ q.park < r.park) → q.park < g.parkCtr →
            t.groups.find w.key = some { g with
              running := some { q with wait := .none }, parkCtr := g.parkCtr + (if g.running = none then 0 else 1),
              parked := g.parked.filter (fun r => r.park != q.park) ++ Rules.parkedFrom g.parkCtr g.running.toList }))
    ∧ (∀ s core, s.plat.thermal = false → ((s.core core).gHold ≠ none ∨ (s.core core).gIssued = true) → (s.core core).lHold = none → (s.core core).lIssued = false →
      s.teams.sorted = true →
      ∃ t, exec (.clauseArbitration core) s = .next t ∧ Rules.SlotsOnly core s t ∧ t.groups = s.groups
        ∧ ((∀ w, ¬Rules.LeadContends s core w) → (t.core core).lHold = none)
        ∧ ∀ w, Rules.Wins (Rules.LeadContends s core) w →
          (t.core core).lHold = some w.key ∧ (t.core core).lWins = w.key :: (s.core core).lWins.filter (fun k => k != w.key))
    ∧ (∀ s tk tm x, s.teams.find tk = some tm → s.tasks.find tm.task = some x → tm.swap = none →
      (∀ sp, tm.faults ≠ [] → s.spaces.find x.space = some sp →
        let first := tm.faults.filter (fun r => r.stage == 0)
        let second := tm.faults.filter (fun r => !(r.stage == 0))
        ∃ t u seqs, exec (.swapOut tk 1#4) s = .next t ∧ u = { s with spaces := u.spaces, fresh := { s.fresh with saves := tm.uid :: s.fresh.saves } }
          ∧ Rules.OneTeam tk (fun y => { y with faults := [], swap := some 1#4, faultSeqs := y.faultSeqs ++ seqs }) u t
          ∧ seqs.map Prod.fst = tm.faults.map FaultRec.stage
          ∧ (seqs.filter (fun q => q.1 == 0)).map Prod.snd = List.range' sp.ring.length first.length
          ∧ (seqs.filter (fun q => !(q.1 == 0))).map Prod.snd = List.range' sp.ring2.length second.length
          ∧ ∀ k, u.spaces.find k = if k = x.space then
              some { sp with ring := sp.ring ++ Rules.numbered sp.ring.length first, ring2 := sp.ring2 ++ Rules.numbered sp.ring2.length second }
            else s.spaces.find k)
      ∧ (∀ desc place sd allow since, tm.lead.wait = .spawnW desc place sd allow since → 4096 ≤ (s.time - BitVec.ofNat 48 since).toNat →
        ∃ t, exec (.swapOut tk 2#4) s = .next t ∧ Rules.SwapDecided tk tm 2#4 s t)
      ∧ (∀ q, concerned s q tm.task = true → (s.queue q).pre = true → 2 ≤ (s.queue q).rung →
        ∃ t, exec (.swapOut tk 3#4) s = .next t ∧ Rules.SwapDecided tk tm 3#4 s t))
    ∧ (∀ s tk tm reason, s.teams.find tk = some tm → tm.swap = some reason → saveReady s tk tm = true → tm.uid ∉ s.fresh.saves → s.heldReqs = [] → tm.task < 65536 →
      s.groups.sorted = true → s.threads.sorted = true → (∀ e ∈ s.groups, ∀ f ∈ s.groups, e.2.team = tk → f.2.team = tk → e.2.gid = f.2.gid → e = f) →
      ∃ t i, exec (.contextImageWrite tk) s = .next t ∧ t.teams.find tk = none ∧ (∀ k, k ≠ tk → t.teams.find k = s.teams.find k)
        ∧ (∀ k, t.images.find k = if k = tm.uid then some i else s.images.find k)
        ∧ i.cmd = none ∧ i.team.faultSeqs.length = tm.faultSeqs.length + tm.faults.length ∧ (tm.faults = [] → i.team.faultSeqs = tm.faultSeqs)
        ∧ i.team = { tm with swap := none, faults := [], faultSeqs := i.team.faultSeqs, heldSa := [], array :=
            if (s.core tm.core).array.holder = some tm.uid then some { (s.core tm.core).array with holder := none } else tm.array }
        ∧ i.reason = reason ∧ i.savetime = s.time.toNat ∧ i.held = [] ∧ i.k = (s.node (tm.core / 96)).k ∧ i.epoch = (s.node (tm.core / 96)).epoch
        ∧ (∀ gk g, s.groups.find gk = some g → if g.team = tk then t.groups.find gk = none ∧ i.groups.find g.gid = some g
            ∧ ∀ l < 64, i.threads.find (64 * g.gid + l) = s.threads.find (64 * gk + l)
          else t.groups.find gk = some g)
        ∧ ((s.core tm.core).array.holder = some tm.uid → (t.core tm.core).array.holder = none)
        ∧ ((∀ e ∈ t.teams, ¬(e.2.task = tm.task ∧ e.2.core = tm.core)) → t.leases.find (65536 * tm.core + tm.task) = none))
    ∧ ∀ s image i core ctx places x, s.images.find image = some i → i.team.uid = image → s.tasks.find i.team.task = some x → Rules.FreeContext s core ctx →
      i.mayEnter s = true → mayTake s (x.cand true i.team.index) core = true → chosenCore s x i.need core = true →
      Rules.FreePlaces s core i.groups.length places → (i.homes ≠ [] → roomFor s (core / 96) i.homes.length = true) → (∀ h ∈ i.homes, h ∉ s.removed) → (i.reason ≠ 2#4 ∨ i.ready = true) → i.threads.sorted = true →
      (∀ e ∈ s.teams, e.2.uid ≠ image) →
      ∃ t tm, exec (.teamReentry image core places) s = .next t ∧ t.images.find image = none ∧ Rules.TeamNow (8 * core + ctx) tm s t
        ∧ tm = { i.team with core := core, slots := places, since := s.nextId, heldSa := [], spad := tm.spad, bars := tm.bars }
        ∧ (∀ a, Rules.spadByte tm a = i.held.foldl (fun b e => if e.addr ≤ a ∧ a < e.addr + e.bytes.length then e.bytes.getD (a - e.addr) 0#8 else b)
            (Rules.spadByte i.team a))
        ∧ (i.held = [] → tm.bars = i.team.bars)
        ∧ (∀ (j gid : Nat) (g : Group) (p : Nat), i.groups[j]? = some (gid, g) → places[j]? = some p → t.groups.find (8 * core + p) = some { g with team := 8 * core + ctx }
          ∧ ∀ l < 64, ∀ th, i.threads.find (64 * gid + l) = some th → t.threads.find (64 * (8 * core + p) + l) = some th)
        ∧ (i.team.quadg ≠ 0 → t.quadAlloc.find (192 * i.team.task + core / 4) ≠ none)
        ∧ ∀ j < 10, j ≠ core / 96 → Stamp.at (t.node (core / 96)).k j = i.held.foldl (fun v e => Rules.laterOf v (Stamp.at e.know j))
            (if i.epoch = (s.node (core / 96)).epoch then
              Rules.laterOf (Stamp.at (s.node (core / 96)).k j) (Stamp.at i.k j) else Stamp.at (s.node (core / 96)).k j))
  ∧ (
    ∀ s, Rules.Serves s →
      (∀ gk g tm x q (t0 : Word) (pc : DWord) (k : Cls), s.groups.find gk = some g → s.teams.find g.team = some tm → s.tasks.find tm.task = some x →
        g.parked = [q] → q.lanes ≠ [] → (∀ l ∈ q.lanes, l < 64) → q.pos.remain = 0 → q.pos.pc = (BitVec.ofNat 48 (natBits (natOfBytes x.desc) 367 320)).signExtend 64 →
        (∀ l ∈ q.lanes, (s.thread gk l).trapMode = true ∧ (s.thread gk l).t.get 0 0#32 = t0
          ∧ (s.thread gk l).t.get 3 0#32 ++ (s.thread gk l).t.get 2 0#32 = pc) →
        t0.toNat / 2 ^ 30 = 0 → k.code.toNat = t0.toNat / 2 ^ 25 % 8 → k ≠ .lead → pc.toNat % 4 = 0 → canonical pc = true →
        let remain := t0.toNat / 2 ^ 21 % 16
        (remain = 0 → checkTarget s (gk / 8) x.space x.priv pc = .ok) →
        let at_ : Pos := if remain = 0 then { pc := pc, remain := 0, cls := .int, y := false, rep := none, repFrom := none }
          else { pc := pc, remain := remain, cls := k, y := t0.getLsbD 29, rep := none, repFrom := if t0.getLsbD 20 then some (t0.toNat / 2 ^ 14 % 64) else none }
        ∃ t u, exec (.debug (.resumeGroup gk true)) s = .next t ∧ Rules.Performed 10 [] u t ∧ u = { s with groups := u.groups, threads := u.threads }
          ∧ (∀ j, u.groups.find j = if j = gk then
              some { g with halted := false, parked := [{ park := g.parkCtr, lanes := q.lanes, wait := .none, pos := at_ }], parkCtr := g.parkCtr + 1 }
            else s.groups.find j)
          ∧ ∀ key, u.threads.find key = if key / 64 = gk ∧ key % 64 ∈ q.lanes then
              (s.threads.find key).map (fun th => { th with trapMode := false, gen := if remain = 0 then th.gen else t0.getLsbD 28 })
            else s.threads.find key)
      ∧ ∀ uid i, teamByUid s uid = none → s.images.find uid = some i →
        let size := 128 + 4 * i.team.regs
        let old := imageBytes s i (teamHandle s i.team)
        (∃ t, exec (.debug (.readImage uid)) s = .next t ∧ Rules.Performed 10 old s t)
        ∧ Rules.numAt old 0 1 = 1 ∧ Rules.numAt old 4 4 = (teamHandle s i.team).toNat ∧ Rules.numAt old 8 2 = i.team.index % 2 ^ 16
        ∧ (∀ r : BitVec 6, BitVec.ofNat 64 (Rules.numAt old (64 + 8 * r.toNat) 8) = i.team.lead.reg r) ∧ BitVec.ofNat 64 (Rules.numAt old 584 8) = i.team.lead.pc
        ∧ (∀ g l th, g < i.team.ngroups → l < 64 → i.threads.find (64 * g + l) = some th → 64 ≤ i.team.regs →
          ∀ k < 64, BitVec.ofNat 32 (Rules.numAt old (9792 + (64 * g + l) * size + 128 + 4 * k) 4) = th.reg k)
        ∧ ∀ off (new : List Byte),
          (i.team.thalt = false → i.team.lead.halted = false → (∀ e ∈ i.groups, e.2.halted = false) →
            ∃ t, exec (.debug (.writeImage uid off new)) s = .next t ∧ Rules.Declined 10 s t)
          ∧ let bs := old.take off ++ new ++ old.drop (off + new.length)
            (i.team.thalt = true → off + new.length ≤ old.length → imageIndexOk i.team bs = true → 64 ≤ i.team.regs →
              ∃ t u i', exec (.debug (.writeImage uid off new)) s = .next t ∧ Rules.Performed 10 [] u t ∧ u = { s with images := u.images }
                ∧ (∀ k, u.images.find k = if k = uid then some i' else s.images.find k)
                ∧ (∀ r : BitVec 6, i'.team.lead.reg r = BitVec.ofNat 64 (Rules.numAt bs (64 + 8 * r.toNat) 8))
                ∧ i'.team.lead.pc = BitVec.ofNat 64 (Rules.numAt bs 584 8) ∧ i'.team.qsent = BitVec.ofNat 16 (Rules.numAt bs 596 4)
                ∧ ∀ g l th, l < 64 → i.threads.find (64 * g + l) = some th → ∃ th', i'.threads.find (64 * g + l) = some th'
                  ∧ ∀ k < 64, th'.reg k = BitVec.ofNat 32 (Rules.numAt bs (9792 + (64 * g + l) * size + 128 + 4 * k) 4)))

/-- R322, R337 to R339, R360: the notify pages, pre-emption and reset. A doorbell keeps the largest value; a request clears EN and DONE, sets PRE and rung 1, and another one joins it; T1 over, rung 2 is to save every team concerned; a
reset, and T2 over, fail what the queue concerns and take the cut; and when nothing is left PRE becomes DONE. QSTAT in the control block follows. Where the spec leaves something open this states the model's own choice: assumptions
23, 34, 36. -/
def Obligations.Preemption : Prop :=
  (∀ s (aqi : Nat) (value : DWord), s.plat.linkUp = true → aqi < 64 →
    (storesDone s 0 = true → ∃ t, exec (.doorbell aqi value) s = .next t ∧ Rules.OneQueue (16 + aqi) (fun q =>
      if q.bell.toNat < value.toNat then { q with bell := value, due := true } else q) s t)
    ∧ exec (.registerWrite aqi 0 value) s = exec (.doorbell aqi value) s
    ∧ (value.getLsbD 1 = true → exec (.registerWrite aqi 8 value) s = exec (.resetRequest (16 + aqi)) s)
    ∧ (value.getLsbD 1 = false → value.getLsbD 0 = true → exec (.registerWrite aqi 8 value) s = exec (.preemptRequest (16 + aqi)) s)
    ∧ (value.getLsbD 1 = false → value.getLsbD 0 = false → exec (.registerWrite aqi 8 value) s = .next s)
    ∧ (∃ t, exec (.registerWrite aqi 24 value) s = .next t
      ∧ Rules.OneQueue (16 + aqi) (fun q => { q with ictl := BitVec.ofNat 64 (value.toNat % 2 ^ 11 + value.toNat / 2 ^ 16 % 2 * 2 ^ 16) }) s t)
    ∧ ∀ offset, offset ≠ 0 → offset ≠ 8 → offset ≠ 24 → exec (.registerWrite aqi offset value) s = .next s)
  ∧ (∀ s q b, (s.queue q).block = some b →
    let asked : Queue → Queue := fun y => { y with seq := y.seq + 1#16, enabled := false, done := false, pre := true, rung := 1, reqAt := s.time.toNat }
    let joined : Queue → Queue := fun y => { y with seq := y.seq + 1#16 }
    (∃ t, exec (.preemptRequest q) s = .next t ∧ Rules.QueueSet q (if (s.queue q).pre = true then joined else asked) s t)
    ∧ ((s.queue q).pre = true → (s.queue q).resetting = true → ∃ t, exec (.resetRequest q) s = .next t ∧ Rules.QueueSet q joined s t)
    ∧ (¬((s.queue q).pre = true ∧ (s.queue q).resetting = true) →
      ∃ t, exec (.resetRequest q) s = .next t ∧ Rules.ResetBegun q s t ∧ (t.queue q).seq = (s.queue q).seq + 1#16
        ∧ (t.queue q).enabled = ((s.queue q).enabled && (s.queue q).pre)))
  ∧ (∀ s q, (s.queue q).pre = true → (s.queue q).rung = 1 → (s.queue q).t1 ≤ (s.time - BitVec.ofNat 48 (s.queue q).reqAt).toNat → ¬Rules.NoneConcerned s q →
    s.teams.sorted = true →
    ∃ t u, exec (.preemptT1Expiry q) s = .next t ∧ Rules.QueueSet q (fun y => { y with rung := 2, rung2At := s.time.toNat }) s u
      ∧ t = { u with teams := t.teams, fresh := { s.fresh with saves := t.fresh.saves } }
      ∧ (∀ uid, uid ∈ t.fresh.saves ↔ uid ∈ s.fresh.saves ∨ ∃ e ∈ s.teams, concerned s q e.2.task = true ∧ e.2.swap = none ∧ e.2.uid = uid)
      ∧ ∀ k, t.teams.find k = (s.teams.find k).map (fun tm => if concerned s q tm.task = true ∧ tm.swap = none then { tm with swap := some 3#4 } else tm))
  ∧ (∀ s q, (s.queue q).pre = true → (s.queue q).rung = 2 → (s.queue q).t2 ≤ (s.time - BitVec.ofNat 48 (s.queue q).rung2At).toNat →
    (∃ e ∈ s.teams, concerned s q e.2.task = true) → ∃ t, exec (.preemptT2Expiry q) s = .next t ∧ Rules.ResetBegun q s t)
  ∧ ∀ s q, (s.queue q).pre = true →
    (if (s.queue q).resetting = true then Rules.NoneConcerned s q ∧ fibresDone s = true
        ∧ ∀ k < 10, k ∉ s.removed → ∀ i < 10, i ∉ s.removed → (Stamp.at (s.node k).a i - (s.queue q).cut.get i 0#16).toNat < 2 ^ 15
      else if (s.queue q).rung = 2 then ∀ e ∈ s.teams, concerned s q e.2.task = false else Rules.NoneConcerned s q) →
    ∃ t, exec (.preemptDone q) s = .next t
      ∧ Rules.QueueSet q (fun y => { y with pre := false, done := true, rst := y.resetting, resetting := false, cut := [] }) s t

/-- R261, R352, R356, R358: the host's accesses enter at node 8, line by line, and those of its own memory are answered at once; a completion goes to the node that asked; and an invalidation takes the translations from the cores and
completes when what used them is over. R2, R5, R222, R261, R289, R355, R358, R360, R362, R375: what the host reads and writes of the function itself. Of a notify page: QSTAT, ICTL and VERSION, and zero at every other offset,
DOORBELL and QCTL among them; a write of eight bytes there writes the register, and what is read-only ignores it. In BAR0 the remapping table at its entries, and at the places of assumption 68 the error log, QSAG and SSAR, the
fabric error records and the fault rings; and the rate and width of the link (assumption 69). An access of a home that has been removed goes nowhere. Where the spec leaves something open this states the model's own choice:
assumptions 21, 43, 44, 68, 69, 73. -/
def Obligations.HostAccesses : Prop :=
  (
    (∀ s addr (bytes : List Byte),
      (addr + bytes.length ≤ 2 ^ 48 → ∃ t, exec (.hostWrite 2 addr bytes) s = .next t ∧ t = { s with hostMem := t.hostMem } ∧ Rules.Wrote 2 addr bytes s t)
      ∧ (∀ kind, kind < 2 → addr + bytes.length ≤ (if kind = 0 then 384 * 2 ^ 30 else 16 * 2 ^ 30) → s.plat.linkUp = true → bytes ≠ [] →
        addr % 64 + bytes.length ≤ 64 → homeOf (Loc.mk kind addr 0) ∉ s.removed →
        ∃ t, exec (.hostWrite kind addr bytes) s = .next t ∧ t = { s with opqs := t.opqs, nodes := t.nodes, nextId := s.nextId + 1 }
          ∧ ∃ o ∈ opsOf t 0, o.id = s.nextId ∧ o.loc = Loc.mk kind addr 0 ∧ o.n = bytes.length ∧ o.kind = .store bytes))
    ∧ (∀ s addr n,
      (addr + n ≤ 2 ^ 48 → ∃ t, exec (.hostRead 2 addr n) s = .next t ∧ t = { s with hostReads := t.hostReads, nextId := s.nextId + 1 }
        ∧ ∃ h, t.hostReads = s.hostReads ++ [h] ∧ h.answer = some ((List.range n).map (fun k => Rules.byteOf s 2 (addr + k))))
      ∧ (∀ kind, kind < 2 → addr + n ≤ (if kind = 0 then 384 * 2 ^ 30 else 16 * 2 ^ 30) → s.plat.linkUp = true → n ≠ 0 → addr % 64 + n ≤ 64 →
        homeOf (Loc.mk kind addr 0) ∉ s.removed →
        ∃ t, exec (.hostRead kind addr n) s = .next t ∧ t = { s with hostReads := t.hostReads, opqs := t.opqs, nodes := t.nodes, nextId := s.nextId + 1 }
          ∧ (∃ h, t.hostReads = s.hostReads ++ [h] ∧ h.id = s.nextId ∧ h.answer = none)
          ∧ ∃ o ∈ opsOf t 0, o.id = s.nextId ∧ o.loc = Loc.mk kind addr 0 ∧ o.n = n ∧ o.kind.isLoad = true))
    ∧ (∀ s before after id place n copy q op src (data : List Byte), s.linkReads = before ++ .read id place n copy q op src :: after → s.resync = none →
      (place.kind ≠ 2 → data.length = n) →
      ∃ t, exec (.hostLinkCompletion before.length data) s = .next t ∧ t = { s with linkReads := before ++ after, nodes := t.nodes }
        ∧ (let bytes := if place.kind = 2 then (List.range n).map (fun k => Rules.byteOf s 2 (place.pa + k)) else data
           Rules.Replied t 8 src (if copy then .copy q op bytes else .mem q op bytes)))
    ∧ ∀ s before i after, s.plat.invals = before ++ i :: after →
      (i.upto = 0 → ∃ t, exec (.invalComplete before.length) s = .next t ∧ t = { s with cores := t.cores, plat := { s.plat with invals := before ++ { i with upto := s.nextId, blocks := i.frees s } :: after } }
        ∧ ∀ k, t.core k = { s.core k with cached := (s.core k).cached.filter (fun e =>
            !(decide (e.page * 2 ^ 16 / e.leaf.size = i.page * 2 ^ 16 / e.leaf.size) && if e.leaf.glob then i.glob else decide (e.space = i.space))) })
      ∧ (i.upto ≠ 0 → invalDone s i = true → ∃ t u, exec (.invalComplete before.length) s = .next t ∧ Rules.Performed 7 [] u t
        ∧ u = { s with selectors := u.selectors, plat := { s.plat with invals := before ++ after } }
        ∧ ∀ b, SMap.get u.selectors b false
            = if b ∈ i.blocks ∧ ¬(∃ e ∈ s.cores, ∃ x ∈ e.2.cached, x.leaf.pub = true ∧ x.block = b) then false else s.selectors.get b false))
  ∧ (
    (∀ s, s.plat.linkUp = true →
      (∀ aqi off : Nat, aqi < 64 → off < 4096 → off % 8 = 0 →
        (∃ (t : State) (bs : List Byte), exec (.hostRead 4 (4096 * aqi + off) 8) s = .next t ∧ Rules.ReadAs bs s t ∧ Rules.leNat bs =
          if off = 16 then Rules.qstatOf (s.queue (16 + aqi)) else if off = 24 then (s.queue (16 + aqi)).ictl.toNat else if off = 32 then 1 else 0)
        ∧ ∀ value : DWord, exec (.hostWrite 4 (4096 * aqi + off) (Rules.numBytes 8 value.toNat)) s = exec (.registerWrite aqi off value) s)
      ∧ (∀ addr (bytes : List Byte), addr + bytes.length ≤ 2 ^ 24 → exec (.hostWrite 3 addr bytes) s = .next s)
      ∧ (∀ entry < 2048, ∃ (t : State) (bs : List Byte), exec (.hostRead 3 (16 * entry) 16) s = .next t ∧ Rules.ReadAs bs s t
        ∧ Rules.leNat bs = (s.plat.remap.get entry 0#128).toNat)
      ∧ (∀ (before : List ErrEntry) (e : ErrEntry) (after : List ErrEntry), s.plat.errLog = before ++ e :: after → (∀ x ∈ after, x.seq % 32768 ≠ e.seq % 32768) →
        e.src < 2 ^ 16 → e.code < 2 ^ 8 → e.time < 2 ^ 48 → e.seq < 2 ^ 64 →
        ∃ (t : State) (bs : List Byte), exec (.hostRead 3 (0x100000 + 32 * (e.seq % 32768)) 32) s = .next t ∧ Rules.ReadAs bs s t
          ∧ Rules.leNat bs = 2 ^ 16 * e.detail.toNat + 2 ^ 112 * e.src + 2 ^ 128 * e.code + 2 ^ 136 * (if e.transient then 1 else 0)
              + 2 ^ 144 * e.time + 2 ^ 192 * e.seq)
      ∧ (∃ (t : State) (bs : List Byte), exec (.hostRead 3 0x200000 16) s = .next t ∧ Rules.ReadAs bs s t
        ∧ (s.qsag < 2 ^ 64 → s.ssar < 2 ^ 64 → Rules.leNat bs = s.qsag + 2 ^ 64 * s.ssar))
      ∧ (∀ k < 10, ∃ (t : State) (bs : List Byte), exec (.hostRead 3 (0x210000 + 8 * k) 8) s = .next t ∧ Rules.ReadAs bs s t
        ∧ Rules.leNat bs = Rules.ferrOf (s.node k).ferr)
      ∧ (∀ (ring : Nat) (sp : Space) (before : List FaultRec) (r : FaultRec) (after : List FaultRec), ring < 256 → s.spaces.find (ring / 2) = some sp → (if ring % 2 = 0 then sp.ring else sp.ring2) = before ++ r :: after →
        (∀ x ∈ after, x.seq % 1024 ≠ r.seq % 1024) → r.stage < 2 → r.acc < 4 → r.level < 4 → r.team < 2 ^ 16 → r.time < 2 ^ 48 → r.seq < 2 ^ 64 →
        ∃ (t : State) (bs : List Byte), exec (.hostRead 3 (0x800000 + 32768 * ring + 32 * (r.seq % 1024)) 32) s = .next t ∧ Rules.ReadAs bs s t
          ∧ Rules.leNat bs = r.va.toNat + 2 ^ 64 * r.pasid.toNat + 2 ^ 84 * r.stage + 2 ^ 85 * r.acc + 2 ^ 87 * r.level + 2 ^ 89 * (if r.malf then 1 else 0)
              + 2 ^ 96 * r.taskh.toNat + 2 ^ 128 * r.team + 2 ^ 144 * r.time + 2 ^ 192 * r.seq)
      ∧ ∃ (t : State) (bs : List Byte), exec (.hostRead 5 0x12 2) s = .next t ∧ Rules.ReadAs bs s t ∧ Rules.leNat bs = s.plat.linkGen % 16 + 16 * (s.plat.linkWidth % 64))
    ∧ ∀ s kind addr, s.plat.linkUp = true → kind < 2 → homeOf (Loc.mk kind addr 0) ∈ s.removed →
      (∀ bytes : List Byte, bytes ≠ [] → addr + bytes.length ≤ (if kind = 0 then 384 * 2 ^ 30 else 16 * 2 ^ 30) → addr % 64 + bytes.length ≤ 64 →
        exec (.hostWrite kind addr bytes) s = .next s)
      ∧ ∀ n, n ≠ 0 → addr + n ≤ (if kind = 0 then 384 * 2 ^ 30 else 16 * 2 ^ 30) → addr % 64 + n ≤ 64 → exec (.hostRead kind addr n) s = .next s)

/-- R138, R340, R355, R356, R362, R363, R365 to R369, R374, R375: Ling's commands. Each has its effect and is answered with status 0, or, with a field out of range, changes nothing and is answered with 0x42, which is logged. Where the
spec leaves something open this states the model's own choice: assumptions 11, 12, 16, 17, 22, 38, 41, 52, 70. -/
def Obligations.LingCommands : Prop :=
  ∀ s, Rules.Serves s →
    (∀ queue block pasid root stage2 priv,
      (Rules.mayMap s queue block pasid root stage2 → ∃ t u sp, exec (.mapq queue block pasid root stage2 priv) s = .next t ∧ Rules.Performed 1 [] u t
        ∧ u = { s with queues := u.queues, spaces := u.spaces }
        ∧ (∀ k, u.queue k = if k = queue then { s.queue k with
            block := some block, opened := false, enabled := false, due := false, statusSeq := 0, pasid := pasid, space := queue, priv := priv } else s.queue k)
        ∧ (∀ k, u.spaces.find k = if k = queue then some sp else s.spaces.find k)
        ∧ sp.root = root ∧ sp.stage2 = stage2 ∧ sp.pasid = (if stage2 = none then 0#20 else pasid))
      ∧ (¬Rules.mayMap s queue block pasid root stage2 → ∃ t, exec (.mapq queue block pasid root stage2 priv) s = .next t ∧ Rules.Declined 1 s t))
    ∧ (∀ pasid, (∃ k ∈ s.fresh.roots, ∃ x, s.tasks.find k = some x ∧ (s.queue x.queue).pasid = pasid) → exec (.revoke pasid) s = .refused .notEnabled)
    ∧ (∀ pasid, (∀ k ∈ s.fresh.roots, ∀ x, s.tasks.find k = some x → (s.queue x.queue).pasid ≠ pasid) → if pasid = 0#20 then ∃ t, exec (.revoke pasid) s = .next t ∧ Rules.Declined 2 s t
      else ∃ t u ps, exec (.revoke pasid) s = .next t ∧ Rules.Performed 2 [] u t ∧ Rules.PlatNow (fun p => { p with revoked := ps }) s u
        ∧ ∀ p, p ∈ ps ↔ p = pasid ∨ p ∈ s.plat.revoked)
    ∧ (∀ queue, (s.queue queue).pre = false →
      (∀ b, queue < 80 → (s.queue queue).block = some b → ringOk s b = true → ∃ t u, exec (.enableq queue) s = .next t ∧ Rules.Performed 3 [] u t
        ∧ Rules.QueueSet queue (fun q => { q with enabled := true, opened := true, rung := 0, done := false, rst := false, due := true }) s u)
      ∧ (80 ≤ queue ∨ (s.queue queue).block = none ∨ (∀ b, (s.queue queue).block = some b → ringOk s b = false) →
        ∃ t, exec (.enableq queue) s = .next t ∧ Rules.Declined 3 s t))
    ∧ (∀ space base pages header code, storesDone s 0 = true → header.length = 64 → base + pages ≤ 2 ^ 32 →
      ((∀ j < pages, Rules.SealedPage s space (base + j)) → code.length = 65536 * pages → (∃ c, 1 ≤ c ∧ c ≤ 65535 ∧ s.plat.codeObjs.find c = none) →
        (∀ j < pages, ∀ k < pages, j ≠ k → Rules.Apart s (Rules.pageLoc s space (base + j)) (Rules.pageLoc s space (base + k))) →
        ∃ t u c o, exec (.loadobj space base pages (header ++ code)) s = .next t ∧ Rules.Performed 4 (Rules.numBytes 2 c) u t ∧ 1 ≤ c ∧ c ≤ 65535
          ∧ s.plat.codeObjs.find c = none
          ∧ u = { s with far := u.far, near := u.near, hostMem := u.hostMem, plat := { s.plat with codeObjs := s.plat.codeObjs.put c o } }
          ∧ (∀ j < pages, ∀ b < 65536, Rules.byteOf u (Rules.pageLoc s space (base + j)).kind (framePa s (Rules.pageLoc s space (base + j)) false + b)
              = code.getD (65536 * j + b) 0#8)
          ∧ o.meas = Config.sha512 (header ++ code) ∧ o.space = space ∧ o.base = base ∧ o.pages = pages)
      ∧ ((∃ j < pages, ¬Rules.SealedPage s space (base + j)) ∨ code.length ≠ 65536 * pages →
        ∃ t, exec (.loadobj space base pages (header ++ code)) s = .next t ∧ Rules.Declined 4 s t))
    ∧ (∀ bs, let region := Rules.numAt bs 2 2
      let owner : BitVec 256 := BitVec.ofNat 256 (Rules.numAt bs 8 32)
      let meas : List (BitVec 512) := (List.range (Rules.numAt bs 40 2)).map (fun k => BitVec.ofNat 512 (Rules.numAt bs (64 + 64 * k) 64))
      let new : Policy := Policy.mk (decide (Rules.numAt bs 1 1 = 1)) (BitVec.ofNat 32 (Rules.numAt bs 4 4)) owner meas
      (Rules.GoodPolicy s bs → ∃ t u os, exec (.policy bs) s = .next t ∧ Rules.Performed 5 [] u t
        ∧ Rules.PlatNow (fun p => { p with owners := os, policies := p.policies.put region new }) s u
        ∧ ∀ k, SMap.find os k = if k = region ∧ s.plat.owners.find k = none then some owner else s.plat.owners.find k)
      ∧ (¬Rules.GoodPolicy s bs → ∃ t, exec (.policy bs) s = .next t ∧ Rules.Declined 5 s t))
    ∧ (∀ region, if 1 ≤ region ∧ region ≤ 4095 then
        ∃ t u, exec (.report region) s = .next t
          ∧ Rules.Performed 6 (Rules.reportOf s region ++ Rules.numBytes 64 (Config.ed25519Sign (Rules.reportOf s region)).toNat) u t
          ∧ Rules.PlatNow (fun p => { p with reportSeq := p.reportSeq + 1#64 }) s u
      else ∃ t, exec (.report region) s = .next t ∧ Rules.Declined 6 s t)
    ∧ (∀ space (va : DWord) glob, if s.spaces.find space ≠ none ∧ -2 ^ 47 ≤ va.toInt ∧ va.toInt < 2 ^ 47 then
        ∃ t, exec (.inval space va glob) s = .next t ∧ Rules.PlatNow (fun p => { p with invals := [Inval.mk space (va.toNat % 2 ^ 48 / 2 ^ 16) glob 0 []] }) s t
      else ∃ t, exec (.inval space va glob) s = .next t ∧ Rules.Declined 7 s t)
    ∧ (∀ ring seq tm, Rules.Awaits s ring seq tm →
      (∀ tk, Rules.Resident s tm.uid tk tm → s.images.find tm.uid = none →
        ∃ t u, exec (.faultdone ring seq true) s = .next t ∧ Rules.Performed 8 [] u t ∧ Rules.OneTeam tk (fun y => { y with faultSeqs := y.faultSeqs.filter (fun e => e != (ring % 2, seq)) }) s u)
      ∧ (∀ i, teamByUid s tm.uid = none → s.images.find tm.uid = some i →
        ∃ t u, exec (.faultdone ring seq true) s = .next t ∧ Rules.Performed 8 [] u t ∧ u = { s with images := u.images }
          ∧ let left := i.team.faultSeqs.filter (fun e => e != (ring % 2, seq))
            ∀ k, u.images.find k = if k = tm.uid then some { i with team := { i.team with faultSeqs := left }, ready := i.ready || (i.reason == 1#4 && left.isEmpty) } else s.images.find k)
      ∧ (∀ x, s.tasks.find tm.task = some x → x.state.final = false → x.state ≠ .unwinding →
        ∃ t y, exec (.faultdone ring seq false) s = .next t ∧ Rules.TakenBack t tm.task ∧ t.tasks.find tm.task = some y ∧ y.cause = Cause.unmapped.code))
    ∧ (∀ ring seq service, (∀ tm, ¬Rules.Awaits s ring seq tm) → (∀ sp r tm, s.spaces.find (ring / 2) = some sp → (r ∈ sp.ring ∨ r ∈ sp.ring2) →
        anyTeam s r.uid = some tm → tm.uid = r.uid) → ∃ t, exec (.faultdone ring seq service) s = .next t ∧ Rules.Declined 8 s t)
    ∧ (∀ entry value, if entry < 2048 then ∃ t u m, exec (.remap entry value) s = .next t ∧ Rules.Performed 9 [] u t ∧ Rules.PlatNow (fun p => { p with remap := m }) s u
        ∧ ∀ k, SMap.get m k 0#128 = if k = entry then value else s.plat.remap.get k 0#128
      else ∃ t, exec (.remap entry value) s = .next t ∧ Rules.Declined 9 s t)
    ∧ ((∃ c : BitVec 16, c ∉ s.plat.podIds) → ∃ t u c, exec .podbar s = .next t ∧ Rules.Performed 11 (Rules.numBytes 2 (BitVec.toNat c)) u t ∧ c ∉ s.plat.podIds
      ∧ Rules.PlatNow (fun p => { p with podIds := c :: p.podIds }) s u)
    ∧ ((∀ c : BitVec 16, c ∈ s.plat.podIds) → ∃ t, exec .podbar s = .next t ∧ Rules.Declined 11 s t)
    ∧ (∀ watts, if 900 ≤ watts ∧ watts ≤ 1800 then ∃ t u, exec (.power watts) s = .next t ∧ Rules.Performed 12 [] u t ∧ Rules.PlatNow (fun p => { p with powerCap := watts }) s u
      else ∃ t, exec (.power watts) s = .next t ∧ Rules.Declined 12 s t)
    ∧ (∀ (b : Bool),
      (∀ queue < 80, ∃ t u, exec (.debug (if b then .attach queue else .detach queue)) s = .next t ∧ Rules.Performed 10 [] u t
        ∧ Rules.OneQueue queue (fun q => { q with debugger := b }) s u)
      ∧ (∀ uid tk tm, Rules.Resident s uid tk tm →
        (∃ t u, exec (.debug (if b then .haltLead uid else .resumeLead uid)) s = .next t ∧ Rules.Performed 10 [] u t
          ∧ Rules.OneTeam tk (fun y => { y with lead := { y.lead with halted := b } }) s u)
        ∧ ∃ t u, exec (.debug (if b then .haltTeam uid else .resumeTeam uid)) s = .next t ∧ Rules.Performed 10 [] u t
          ∧ Rules.OneTeam tk (fun y => { y with thalt := b }) s u)
      ∧ (∀ gk g, s.groups.find gk = some g → ∃ t u, exec (.debug (if b then .haltGroup gk else .resumeGroup gk false)) s = .next t ∧ Rules.Performed 10 [] u t
        ∧ Rules.OneGroup gk (fun y => { y with halted := b }) s u)
      ∧ (∀ uid i, teamByUid s uid = none → s.images.find uid = some i →
        (∃ t u, exec (.debug (if b then .haltLead uid else .resumeLead uid)) s = .next t ∧ Rules.Performed 10 [] u t ∧ u = { s with images := u.images }
          ∧ ∀ k, u.images.find k = if k = uid then some { i with team := { i.team with lead := { i.team.lead with halted := b } } } else s.images.find k)
        ∧ ∃ t u, exec (.debug (if b then .haltTeam uid else .resumeTeam uid)) s = .next t ∧ Rules.Performed 10 [] u t ∧ u = { s with images := u.images }
          ∧ ∀ k, u.images.find k = if k = uid then some { i with team := { i.team with thalt := b } } else s.images.find k))
    ∧ (∀ key g tm th, s.groups.find (key / 64) = some g → s.teams.find g.team = some tm → s.threads.find key = some th → groupStopped s (key / 64) = true →
      (∃ t bs, exec (.debug (.readThread key)) s = .next t ∧ Rules.Performed 10 bs s t ∧ bs.length = 128 + 4 * tm.regs
        ∧ BitVec.ofNat 64 (Rules.numAt bs 0 8) = (g.pathOf (key % 64)).pos.pc ∧ Rules.numAt bs 104 1 = th.p.toNat
        ∧ (∀ k < 64, k < tm.regs → BitVec.ofNat 32 (Rules.numAt bs (128 + 4 * k) 4) = th.reg k) ∧ ∀ k < 8, BitVec.ofNat 32 (Rules.numAt bs (8 + 4 * k) 4) = th.reg (64 + k))
      ∧ ∀ bs : List Byte, bs.length = 128 + 4 * tm.regs → recordIndexOk bs tm.espace = true →
        ∃ t u new, exec (.debug (.writeThread key bs)) s = .next t ∧ Rules.Performed 10 [] u t ∧ u = { s with threads := u.threads, groups := u.groups }
          ∧ (∀ k, u.threads.find k = if k = key then some new else s.threads.find k) ∧ (∀ k, k ≠ key / 64 → u.groups.find k = s.groups.find k)
          ∧ new.p = BitVec.ofNat 8 (Rules.numAt bs 104 1) ∧ new.traps = th.traps
          ∧ (∀ k < 64, new.reg k = BitVec.ofNat 32 (Rules.numAt bs (128 + 4 * k) 4)) ∧ ∀ k < 8, new.reg (64 + k) = BitVec.ofNat 32 (Rules.numAt bs (8 + 4 * k) 4))
    ∧ ∀ uid tk tm, Rules.Resident s uid tk tm → leadStopped s tk tm = true →
      (∃ t bs, exec (.debug (.readLead uid)) s = .next t ∧ Rules.Performed 10 bs s t ∧ bs.length = 576
        ∧ (∀ r : BitVec 6, BitVec.ofNat 64 (Rules.numAt bs (8 * r.toNat) 8) = tm.lead.reg r) ∧ BitVec.ofNat 64 (Rules.numAt bs 520 8) = tm.lead.pc)
      ∧ ∀ bs : List Byte, bs.length = 576 → ∃ t u new, exec (.debug (.writeLead uid bs)) s = .next t ∧ Rules.Performed 10 [] u t
        ∧ Rules.OneTeam tk (fun y => { y with lead := new, qsent := BitVec.ofNat 16 (Rules.numAt bs 532 4) }) s u
        ∧ (∀ r : BitVec 6, new.reg r = BitVec.ofNat 64 (Rules.numAt bs (8 * r.toNat) 8)) ∧ new.pc = BitVec.ofNat 64 (Rules.numAt bs 520 8)

/-- R113, R357, R366, R367, R370 to R374: bring-up step by step, and what fails; recovery; the mirrors and the two ways in which power goes; retraining, the thermal limit; the fibres. Where the spec leaves something open this states
the model's own choice: assumptions 5, 12, 18, 39, 40, 42, 69. -/
def Obligations.PlatformSteps : Prop :=
  (∀ s, s.plat.linkUp = false → s.plat.linkDown = false →
    (s.plat.recovery = true → ∃ t gen width, exec (.bringUp true) s = .next t ∧ Rules.LinkTo gen width
      ∧ Rules.PlatNow (fun p => { p with linkUp := true, linkGen := gen, linkWidth := width }) s t)
    ∧ (s.plat.recovery = true → ∃ t, exec (.bringUp false) s = .next t ∧ Rules.PlatNow (fun p => { p with linkDown := true }) s t)
    ∧ (s.plat.recovery = false → s.plat.bringUp < 5 → ∃ t, exec (.bringUp false) s = .next t ∧ Rules.PlatNow (fun p => { p with recovery := true }) s t)
    ∧ (s.plat.recovery = false → s.plat.bringUp = 5 → ∃ t, exec (.bringUp false) s = .next t ∧ Rules.PlatNow (fun p => { p with linkDown := true }) s t)
    ∧ (s.plat.recovery = false → s.plat.bringUp < 6 → (s.plat.bringUp = 0 → Rules.SignedImage s.plat.image) →
      ∃ t, exec (.bringUp true) s = .next t ∧ t.plat.bringUp = s.plat.bringUp + 1
        ∧ (s.plat.bringUp = 0 → Rules.PlatNow (fun p => { p with bringUp := 1 }) s t)
        ∧ (s.plat.bringUp = 1 → ∃ tr, Rules.PlatNow (fun p => { p with bringUp := 2, trained := tr }) s t ∧ ∀ k < 32, SMap.find tr k = some s.time.toNat)
        ∧ (s.plat.bringUp = 2 → t = { s with cores := t.cores, plat := t.plat } ∧ ∀ k < 768, t.core k = { s.core k with spare := (t.core k).spare }
          ∧ ∀ j < 4, (t.core k).spare.getLsbD (8 * j + 7) = false → (t.core k).spare.extractLsb' (8 * j) 8 = 0#8)
        ∧ (s.plat.bringUp = 3 → t = { s with nodes := t.nodes, chans := t.chans, plat := t.plat }
          ∧ ∀ k < 10, (t.node k).epoch = 0#8 ∧ (t.node k).c = 0#16 ∧ (t.node k).out = [] ∧ (t.node k).early = []
            ∧ ∀ j < 10, Stamp.at (t.node k).k j = 0#16 ∧ Stamp.at (t.node k).rcv j = 0#16 ∧ Stamp.at (t.node k).a j = 0#16)
        ∧ (s.plat.bringUp = 4 → Rules.PlatNow (fun p => { p with
            bringUp := 5, decb := p.mirror.decb, macs := p.mirror.macs, reportSeq := p.mirror.seq, boot := p.mirror.boot + 1#32, abrupt := !p.mirror.clean,
            mirror := { p.mirror with boot := p.mirror.boot + 1#32, clean := false }, lastMirror := s.time.toNat }) s t)
        ∧ (s.plat.bringUp = 5 → ∃ gen width, Rules.LinkTo gen width
          ∧ Rules.PlatNow (fun p => { p with bringUp := 6, linkUp := true, linkGen := gen, linkWidth := width }) s t))
    ∧ (s.plat.recovery = false → s.plat.bringUp = 0 → ¬Rules.SignedImage s.plat.image →
      ∃ t, exec (.bringUp true) s = .next t ∧ Rules.PlatNow (fun p => { p with recovery := true }) s t))
  ∧ (∀ s image, s.plat.recovery = true → s.plat.linkUp = true →
    (Rules.SignedImage image → ∃ t, exec (.recoveryImage image) s = .next t ∧ Rules.PlatNow (fun p => { p with image := image }) s t)
    ∧ (¬Rules.SignedImage image → exec (.recoveryImage image) s = .next s))
  ∧ (∀ s, 5 ≤ s.plat.bringUp → 800000000 ≤ (s.time - BitVec.ofNat 48 s.plat.lastMirror).toNat →
    ∃ t, exec .meterMirror s = .next t
      ∧ Rules.PlatNow (fun p => { p with mirror := Mirror.mk p.decb p.macs p.reportSeq p.boot false, lastMirror := s.time.toNat }) s t)
  ∧ (∀ s, ∃ t, exec .orderlyPowerDown s = .next t ∧ Rules.Dark (if 5 ≤ s.plat.bringUp then
      Mirror.mk s.plat.decb s.plat.macs s.plat.reportSeq s.plat.boot true else s.plat.mirror) s t)
  ∧ (∀ s, ∃ t, exec .powerLoss s = .next t ∧ Rules.Dark { s.plat.mirror with clean := false } s t)
  ∧ (∀ s channel, channel < 32 → 2 ≤ s.plat.bringUp → ∃ t, exec (.channelRetrain channel) s = .next t
    ∧ Rules.PlatNow (fun p => { p with trained := p.trained.put channel s.time.toNat }) s t)
  ∧ (∀ s, (s.plat.thermal = false → ∃ t u, exec .thermalStop s = .next t ∧ Rules.PlatNow (fun p => { p with thermal := true }) s u ∧ Rules.Logged 0x50 false 8 none u t)
    ∧ (s.plat.thermal = true → ∃ t, exec .thermalResume s = .next t ∧ Rules.PlatNow (fun p => { p with thermal := false }) s t))
  ∧ (∀ s f, f < 64 → (s.fibres.get f Fibre.initial).up = false → 6 ≤ s.plat.bringUp → ∀ lambdas version,
    (version = 1 → 8 ≤ lambdas → ∃ t, exec (.fibreTraining f lambdas version) s = .next t
      ∧ Rules.OneFibre f (fun x => { x with up := true, lit := 4, idleFrom := s.time.toNat }) s t)
    ∧ (¬(version = 1 ∧ 8 ≤ lambdas) → ∃ t u, exec (.fibreTraining f lambdas version) s = .next t
      ∧ Rules.OneFibre f (fun x => { x with up := false, lit := 0 }) s u ∧ Rules.Logged 0x30 false (8 + f / 32) (some (BitVec.ofNat 96 f)) u t))
  ∧ (∀ s f, (s.fibres.get f Fibre.initial).up = true →
    ((s.fibres.get f Fibre.initial).waiting ≠ [] →
      (∃ t, exec (.fibreFlitRetry f true) s = .next t ∧ Rules.Logged 0x30 true (8 + f / 32) (some (BitVec.ofNat 96 f)) s t)
      ∧ (∃ t u, exec (.fibreFlitRetry f false) s = .next t
        ∧ Rules.OneFibre f (fun x => { x with up := false, lit := 0 }) s u ∧ Rules.Logged 0x30 false (8 + f / 32) (some (BitVec.ofNat 96 f)) u t)
      ∧ ((s.fibres.get f Fibre.initial).lit < 4 → ∃ t, exec (.fibreWake f) s = .next t ∧ Rules.OneFibre f (fun x => { x with lit := 4, idleFrom := s.time.toNat }) s t))
    ∧ ((s.fibres.get f Fibre.initial).waiting = [] → 2 ≤ (s.fibres.get f Fibre.initial).lit →
      8000 ≤ (s.time - BitVec.ofNat 48 (s.fibres.get f Fibre.initial).idleFrom).toNat →
      ∃ t, exec (.fibrePark f) s = .next t ∧ Rules.OneFibre f (fun x => { x with lit := x.lit - 1, idleFrom := s.time.toNat }) s t))
  ∧ ∀ s f, (s.fibres.get f Fibre.initial).up = true →
    (∀ flit (place : Place) (bytes : List Byte), place.kind < 2 → place.pa + bytes.length ≤ (if place.kind = 0 then 384 * 2 ^ 30 else 16 * 2 ^ 30) →
      ∃ t u, exec (.fibreFlitReceive ⟨f, .write flit place bytes⟩) s = .next t ∧ u = { s with far := u.far, near := u.near }
        ∧ Rules.OneFibre f (fun x => { x with acks := flit :: x.acks }) u t ∧ Rules.Wrote place.kind place.pa bytes s u)
    ∧ (∀ (id : BitVec 16) w, s.wides.find (2 ^ 60 + id.toNat) = some w →
      ∃ t w', exec (.fibreFlitReceive ⟨f, .podArrival id⟩) s = .next t ∧ t = { s with wides := t.wides, nextId := s.nextId + 1 }
        ∧ (∀ k, t.wides.find k = if k = 2 ^ 60 + id.toNat then some w' else s.wides.find k) ∧ w'.arr = w.arr + 1 ∧ w'.touched = true ∧ w'.n = w.n ∧ w'.net = w.net)
    ∧ ∀ id, ∃ t, exec (.fibreFlitReceive ⟨f, .ack id⟩) s = .next t ∧ t = { s with fibres := t.fibres }
      ∧ ∀ k, (t.fibres.get k Fibre.initial).waiting = (s.fibres.get k Fibre.initial).waiting.filter (fun x => x.1 != id)

/-- R20, R21, R46, R108, R330: a step runs the instruction that it decodes. In a turn of the group that holds a core's slot, the word at its path, formed under REP, is fetched and decoded, and the step is that instruction's meaning,
at the state with the slot marked as issued; a word that is no instruction raises ILLEGAL_OP; at a header the step is the header's. The same holds of a lead, and a step without an encoding is its own meaning. (The schedule is the
model's own, assumption 1.) Where the spec leaves something open this states the model's own choice: assumptions 1, 13, 67. -/
def Obligations.StepRunsTheInstruction : Prop :=
  ∀ s turn ts, s.turns = turn :: ts → let s0 : State := { s with turns := ts, freeCtr := s.freeCtr + 1 }
    (∀ i t, turn = .event i → exec i { s0 with cur := .none } = .next t → step s = .next t)
    ∧ (∀ core gk c, turn = .issueGroup core → (s.core core).gHold = some gk → (s.core core).gIssued = false → s.plat.thermal = false →
      let s1 := Rules.turnOf core (.group gk) s0
      gctx s1 = some c → c.path.wait = .none →
      (c.path.pos.remain = 0 → step s = exec .clauseHeaderIssue s1)
      ∧ ∀ w, c.path.pos.remain ≠ 0 → Rules.StandsBefore s1 c w →
        (∀ i, decode w = .ok i → step s = exec i s1)
        ∧ (∀ e, decode w = .error e → Rules.AllHandled s1 c → c.path.lanes ≠ [] → c.path.pos.remain < 16 → ∃ t, step s = .next t
          ∧ Rules.Trapped c c.path.pos w (fun _ => { cause := .illegalOp, code := 0, addr := 0#64 }) c.path.lanes [] s1 t))
    ∧ (∀ core tk c, turn = .issueLead core → (s.core core).lHold = some tk → (s.core core).lIssued = false → s.plat.thermal = false →
      let s1 := Rules.turnOf core (.lead tk) s0
      lctx s1 = some c → c.team.lead.free = true → leadBarred s1 tk = false →
      (c.team.lead.remain = 0 → step s = exec .clauseHeaderIssue s1)
      ∧ ∀ w i, c.team.lead.remain ≠ 0 → fetch s1 c.core c.task.space c.task.priv c.team.lead.pc = .word w → decode w = .ok i → step s = exec i s1)

/-- R58 to R91: some words of the spec, as its tables lay them out bit by bit, and the instructions that they are. -/
def Obligations.WordsDecode : Prop :=
  decode 0x00000000#32 = .ok .nop
  ∧ (∃ e, decode 0x00000001#32 = .error e)
  ∧ decode (0x02#6 ++ 26#6 ++ 2#6 ++ 28#6 ++ 0#2 ++ 8#6) = .ok (.lea64 26#6 2#6 28#6 false false)
  ∧ decode (0x0F#6 ++ 0b010001#6 ++ 10#6 ++ 0#1 ++ 4#13) = .ok (.cmpi .lt 1#3 10#6 false 4#13)
  ∧ decode (0x14#6 ++ 9#6 ++ 0#1 ++ 0x7FFEA#19) = .ok (.bnz 9#6 false 0x7FFEA#19)
  ∧ decode (0x1A#6 ++ 18#6 ++ 22#6 ++ 0#1 ++ 2#3 ++ 15#10) = .ok (.lds 18#6 22#6 false .w 15#10)
  ∧ decode (0x20#6 ++ 4#6 ++ 6#6 ++ 8#6 ++ 0#2 ++ 0b111#3 ++ 0b010#3) = .ok (.atom32 4#6 6#6 8#6 false false .cas .die)
  ∧ decode (0x26#6 ++ 7#6 ++ 2#6 ++ 3#6 ++ 0#2 ++ 0b010011#6) = .ok (.ffma 7#6 2#6 3#6 false false .rz)
  ∧ decode (0x2B#6 ++ 16#6 ++ 12#6 ++ 0#6 ++ 0#2 ++ 2#6) = .ok (.sard 16#6 12#6 false)
  ∧ decode (0x2C#6 ++ 1#6 ++ 6#6 ++ 7#6 ++ 0x22#8) = .ok (.lcmp 1#3 6#6 7#6 .lt)
  ∧ decode (0x30#6 ++ 6#6 ++ 4#6 ++ 7#6 ++ 3#8) = .ok (.mstrm 6#6 4#6 7#6)
  ∧ decode (0x33#6 ++ 12#6 ++ 10#6 ++ 0#6 ++ 2#8) = .ok (.join 12#6 10#6)
  ∧ decode (0x37#6 ++ 10#6 ++ 0#20) = .ok (.srd 10#6 0#8)

/-- R41, R58 to R91: no bit of an encoding is dropped. Every well-formed instruction that has a word is what that word decodes to, at every value of its operands; and every word that decodes to an instruction is the word of that
instruction, which is well formed. -/
def Obligations.DecodingRoundTrips : Prop :=
  (∀ i w, i.wf = true → encode i = some w → decode w = .ok i)
  ∧ ∀ w i, decode w = .ok i → encode i = some w ∧ i.wf = true

/-- R352, R376: an invariant that every step keeps, whatever it is: the memories of the package hold each byte once, in rising order of address, and none that reads as nothing written. Where the spec leaves something open this states
the model's own choice: assumption 4. -/
def Obligations.MemoriesStayCanonical : Prop :=
  ∀ s t, s.memWf → step s = .next t → t.memWf

/-- R271, R298, R337, R338, R357, R360, R374: after reset no step of bring-up has succeeded and the link is down; there is no task, team or row; every queue has QSTAT, DOORBELL and ICTL 0 and the default T1 and T2; every node's C and
vectors are 0; the power cap is 1,800 W; and the memories are canonical. Where the spec leaves something open this states the model's own choice: assumptions 3, 4, 39, 50, 51. -/
def Obligations.ResetState : Prop :=
  State.reset.memWf ∧ State.reset.plat.bringUp = 0 ∧ State.reset.plat.linkUp = false ∧ State.reset.plat.recovery = false ∧ State.reset.plat.powerCap = 1800
  ∧ State.reset.tasks = [] ∧ State.reset.teams = [] ∧ State.reset.groups = [] ∧ State.reset.rows = [] ∧ State.reset.images = []
  ∧ (∀ q, (State.reset.queue q).qstat = 0#64 ∧ (State.reset.queue q).bell = 0#64 ∧ (State.reset.queue q).ictl = 0#64
    ∧ (State.reset.queue q).t1 = 40000 ∧ (State.reset.queue q).t2 = 160000 ∧ (State.reset.queue q).block = none)
  ∧ ∀ k j, (State.reset.node k).epoch = 0#8 ∧ (State.reset.node k).c = 0#16 ∧ Stamp.at (State.reset.node k).k j = 0#16
    ∧ Stamp.at (State.reset.node k).rcv j = 0#16 ∧ Stamp.at (State.reset.node k).a j = 0#16 ∧ (State.reset.node k).ferr.word = 0#64

/-- R7, R112, R261, R272: whole-machine rules over every instruction. The time counter rises by 1 with the end of each clk and with nothing else (a loss of power apart), and no instruction of a program but SPAWN and SPAWN.W, which
write their queue, touches physical memory itself: what a program stores reaches memory at its home. Where the spec leaves something open this states the model's own choice: assumptions 1, 42, 52, 67. -/
def Obligations.TimeAndMemoryStand : Prop :=
  (∀ i s t, Rules.losesPower i = false → exec i s = .next t → t.time = s.time ∧ t.turns = s.turns)
  ∧ (∀ i w s t, encode i = some w → (∀ d a b, i ≠ .spawn d a b ∧ i ≠ .spawnW d a b) → exec i s = .next t →
    t.far = s.far ∧ t.near = s.near ∧ t.hostMem = s.hostMem)
  ∧ (∀ s ts t d, s.turns = .clk :: ts → nextDue s = some d → step s = .next t → t.time = s.time ∧ t.turns = s.turns)
  ∧ (∀ s ts, s.turns = .clk :: ts → nextDue s = none → ∃ t, step s = .next t ∧ t.time = s.time + 1#48 ∧ t.turns = ts ∧ t.fresh = Fresh.mk [] [] [] [] [] [] [] [] [] [] [] [] [] ∧ t.far = s.far ∧ t.near = s.near ∧ t.hostMem = s.hostMem)
  ∧ ∀ s turn ts t, s.turns = turn :: ts → turn ≠ .clk → (∀ i, turn = .event i → Rules.losesPower i = false) → step s = .next t →
    t.time = s.time ∧ t.turns = ts

/-- R300, R301, R303, R304: a charge. It is taken from the lease of the task on its core when that covers it, and below 1,024 AU the lease asks for a refill; a task without a lease there asks for one; a charge above the balance goes
to the home unit; and while the task is STARVED, or an answer is outstanding that holds its charges, nothing happens. What a failing request has paid for a party is taken first. Where the spec leaves something open this states the
model's own choice: assumption 33. -/
def Obligations.ChargesAreTaken : Prop :=
  ∀ s core task who amount bytes x, s.tasks.find task = some x → amount ≠ 0 →
    (s.leases.find (65536 * core + task) = none → ∃ t, charge s core task who amount bytes = (false, t) ∧ t = { s with leases := t.leases }
      ∧ ∀ k, t.leases.find k = if k = 65536 * core + task ∧ x.state = .running then some { bal := 0, req := some .lease, paid := [] } else s.leases.find k)
    ∧ (∀ l, s.leases.find (65536 * core + task) = some l → l.paid = [] →
      (x.state ≠ .running ∨ l.req = some .lease ∨ (∃ p n, l.req = some (.failing p n)) → charge s core task who amount bytes = (false, s))
      ∧ (x.state = .running → (l.req = none ∨ l.req = some .refill) →
        ∃ b t, charge s core task who amount bytes = (b, t) ∧ t = { s with leases := t.leases, hist := t.hist } ∧ (b = true ↔ amount ≤ l.bal)
          ∧ (∀ k, t.leases.find k = if k = 65536 * core + task then
              some (if amount ≤ l.bal then Rules.paidFrom l amount else { l with req := some (.failing who amount) }) else s.leases.find k)
          ∧ (l.bal < amount → t.hist = s.hist)))
    ∧ (∀ l, s.leases.find (65536 * core + task) = some l → l.paid = [(who, amount)] → x.state = .running →
      ∃ t, charge s core task who amount bytes = (true, t) ∧ t = { s with leases := t.leases, hist := t.hist }
        ∧ ∀ k, t.leases.find k = if k = 65536 * core + task then some (Rules.paidFrom { l with bal := l.bal + amount, paid := [] } amount) else s.leases.find k)
end

