-- ==== Sys2Proof/Laws/Decode.lean ====
section
/-!
SUPPORT. The fields of the words that the formats of R52 build, and the codes of the enumerated fields.
-/
namespace Sys2Proof

/-! ## Fields of a concatenation -/

theorem extract_left {n m : Nat} (a : BitVec n) (b : BitVec m) : (a ++ b).extractLsb' m n = a := by
  rw [BitVec.extractLsb'_append_eq_of_le (Nat.le_refl _)]; simp
theorem extract_right {n m s l : Nat} (a : BitVec n) (b : BitVec m) (h : s + l ≤ m) :
    (a ++ b).extractLsb' s l = b.extractLsb' s l := BitVec.extractLsb'_append_eq_of_add_le h
theorem extract_whole {n : Nat} (a : BitVec n) : a.extractLsb' 0 n = a := by simp

/-! ## wordR -/

section
variable (op : BitVec 6) (d : BitVec 6) (a : BitVec 6) (b : BitVec 6) (x : BitVec 1) (y : BitVec 1) (f : BitVec 6)
@[simp] theorem wordR_op : (wordR op d a b x y f).extractLsb' 26 6 = op :=
  extract_left (m := 26) op _
@[simp] theorem wordR_d : (wordR op d a b x y f).extractLsb' 20 6 = d :=
  (extract_right (m := 26) op _ (by omega)).trans <| extract_left (m := 20) d _
@[simp] theorem wordR_a : (wordR op d a b x y f).extractLsb' 14 6 = a :=
  (extract_right (m := 26) op _ (by omega)).trans <| (extract_right (m := 20) d _ (by omega)).trans <| extract_left (m := 14) a _
@[simp] theorem wordR_b : (wordR op d a b x y f).extractLsb' 8 6 = b :=
  (extract_right (m := 26) op _ (by omega)).trans <| (extract_right (m := 20) d _ (by omega)).trans <| (extract_right (m := 14) a _ (by omega)).trans <| extract_left (m := 8) b _
@[simp] theorem wordR_x : (wordR op d a b x y f).extractLsb' 7 1 = x :=
  (extract_right (m := 26) op _ (by omega)).trans <| (extract_right (m := 20) d _ (by omega)).trans <| (extract_right (m := 14) a _ (by omega)).trans <| (extract_right (m := 8) b _ (by omega)).trans <| extract_left (m := 7) x _
@[simp] theorem wordR_y : (wordR op d a b x y f).extractLsb' 6 1 = y :=
  (extract_right (m := 26) op _ (by omega)).trans <| (extract_right (m := 20) d _ (by omega)).trans <| (extract_right (m := 14) a _ (by omega)).trans <| (extract_right (m := 8) b _ (by omega)).trans <| (extract_right (m := 7) x _ (by omega)).trans <| extract_left (m := 6) y _
@[simp] theorem wordR_f : (wordR op d a b x y f).extractLsb' 0 6 = f :=
  (extract_right (m := 26) op _ (by omega)).trans <| (extract_right (m := 20) d _ (by omega)).trans <| (extract_right (m := 14) a _ (by omega)).trans <| (extract_right (m := 8) b _ (by omega)).trans <| (extract_right (m := 7) x _ (by omega)).trans <| (extract_right (m := 6) y _ (by omega)).trans <| extract_whole f
end

/-! ## wordI -/

section
variable (op : BitVec 6) (d : BitVec 6) (a : BitVec 6) (x : BitVec 1) (i : BitVec 13)
@[simp] theorem wordI_op : (wordI op d a x i).extractLsb' 26 6 = op :=
  extract_left (m := 26) op _
@[simp] theorem wordI_d : (wordI op d a x i).extractLsb' 20 6 = d :=
  (extract_right (m := 26) op _ (by omega)).trans <| extract_left (m := 20) d _
@[simp] theorem wordI_a : (wordI op d a x i).extractLsb' 14 6 = a :=
  (extract_right (m := 26) op _ (by omega)).trans <| (extract_right (m := 20) d _ (by omega)).trans <| extract_left (m := 14) a _
@[simp] theorem wordI_x : (wordI op d a x i).extractLsb' 13 1 = x :=
  (extract_right (m := 26) op _ (by omega)).trans <| (extract_right (m := 20) d _ (by omega)).trans <| (extract_right (m := 14) a _ (by omega)).trans <| extract_left (m := 13) x _
@[simp] theorem wordI_i : (wordI op d a x i).extractLsb' 0 13 = i :=
  (extract_right (m := 26) op _ (by omega)).trans <| (extract_right (m := 20) d _ (by omega)).trans <| (extract_right (m := 14) a _ (by omega)).trans <| (extract_right (m := 13) x _ (by omega)).trans <| extract_whole i
end

/-! ## wordM -/

section
variable (op : BitVec 6) (d : BitVec 6) (a : BitVec 6) (x : BitVec 1) (z : BitVec 3) (o : BitVec 10)
@[simp] theorem wordM_op : (wordM op d a x z o).extractLsb' 26 6 = op :=
  extract_left (m := 26) op _
@[simp] theorem wordM_d : (wordM op d a x z o).extractLsb' 20 6 = d :=
  (extract_right (m := 26) op _ (by omega)).trans <| extract_left (m := 20) d _
@[simp] theorem wordM_a : (wordM op d a x z o).extractLsb' 14 6 = a :=
  (extract_right (m := 26) op _ (by omega)).trans <| (extract_right (m := 20) d _ (by omega)).trans <| extract_left (m := 14) a _
@[simp] theorem wordM_x : (wordM op d a x z o).extractLsb' 13 1 = x :=
  (extract_right (m := 26) op _ (by omega)).trans <| (extract_right (m := 20) d _ (by omega)).trans <| (extract_right (m := 14) a _ (by omega)).trans <| extract_left (m := 13) x _
@[simp] theorem wordM_z : (wordM op d a x z o).extractLsb' 10 3 = z :=
  (extract_right (m := 26) op _ (by omega)).trans <| (extract_right (m := 20) d _ (by omega)).trans <| (extract_right (m := 14) a _ (by omega)).trans <| (extract_right (m := 13) x _ (by omega)).trans <| extract_left (m := 10) z _
@[simp] theorem wordM_o : (wordM op d a x z o).extractLsb' 0 10 = o :=
  (extract_right (m := 26) op _ (by omega)).trans <| (extract_right (m := 20) d _ (by omega)).trans <| (extract_right (m := 14) a _ (by omega)).trans <| (extract_right (m := 13) x _ (by omega)).trans <| (extract_right (m := 10) z _ (by omega)).trans <| extract_whole o
end

/-! ## wordB -/

section
variable (op : BitVec 6) (a : BitVec 6) (x : BitVec 1) (s : BitVec 19)
@[simp] theorem wordB_op : (wordB op a x s).extractLsb' 26 6 = op :=
  extract_left (m := 26) op _
@[simp] theorem wordB_a : (wordB op a x s).extractLsb' 20 6 = a :=
  (extract_right (m := 26) op _ (by omega)).trans <| extract_left (m := 20) a _
@[simp] theorem wordB_x : (wordB op a x s).extractLsb' 19 1 = x :=
  (extract_right (m := 26) op _ (by omega)).trans <| (extract_right (m := 20) a _ (by omega)).trans <| extract_left (m := 19) x _
@[simp] theorem wordB_s : (wordB op a x s).extractLsb' 0 19 = s :=
  (extract_right (m := 26) op _ (by omega)).trans <| (extract_right (m := 20) a _ (by omega)).trans <| (extract_right (m := 19) x _ (by omega)).trans <| extract_whole s
end

/-! ## wordJ -/

section
variable (op : BitVec 6) (d : BitVec 6) (i : BitVec 20)
@[simp] theorem wordJ_op : (wordJ op d i).extractLsb' 26 6 = op :=
  extract_left (m := 26) op _
@[simp] theorem wordJ_d : (wordJ op d i).extractLsb' 20 6 = d :=
  (extract_right (m := 26) op _ (by omega)).trans <| extract_left (m := 20) d _
@[simp] theorem wordJ_i : (wordJ op d i).extractLsb' 0 20 = i :=
  (extract_right (m := 26) op _ (by omega)).trans <| (extract_right (m := 20) d _ (by omega)).trans <| extract_whole i
end

/-! ## wordL -/

section
variable (op : BitVec 6) (d : BitVec 6) (a : BitVec 6) (b : BitVec 6) (g : BitVec 8)
@[simp] theorem wordL_op : (wordL op d a b g).extractLsb' 26 6 = op :=
  extract_left (m := 26) op _
@[simp] theorem wordL_d : (wordL op d a b g).extractLsb' 20 6 = d :=
  (extract_right (m := 26) op _ (by omega)).trans <| extract_left (m := 20) d _
@[simp] theorem wordL_a : (wordL op d a b g).extractLsb' 14 6 = a :=
  (extract_right (m := 26) op _ (by omega)).trans <| (extract_right (m := 20) d _ (by omega)).trans <| extract_left (m := 14) a _
@[simp] theorem wordL_b : (wordL op d a b g).extractLsb' 8 6 = b :=
  (extract_right (m := 26) op _ (by omega)).trans <| (extract_right (m := 20) d _ (by omega)).trans <| (extract_right (m := 14) a _ (by omega)).trans <| extract_left (m := 8) b _
@[simp] theorem wordL_g : (wordL op d a b g).extractLsb' 0 8 = g :=
  (extract_right (m := 26) op _ (by omega)).trans <| (extract_right (m := 20) d _ (by omega)).trans <| (extract_right (m := 14) a _ (by omega)).trans <| (extract_right (m := 8) b _ (by omega)).trans <| extract_whole g
end

/-! ## wordLI -/

section
variable (op : BitVec 6) (d : BitVec 6) (a : BitVec 6) (h : BitVec 3) (j : BitVec 11)
@[simp] theorem wordLI_op : (wordLI op d a h j).extractLsb' 26 6 = op :=
  extract_left (m := 26) op _
@[simp] theorem wordLI_d : (wordLI op d a h j).extractLsb' 20 6 = d :=
  (extract_right (m := 26) op _ (by omega)).trans <| extract_left (m := 20) d _
@[simp] theorem wordLI_a : (wordLI op d a h j).extractLsb' 14 6 = a :=
  (extract_right (m := 26) op _ (by omega)).trans <| (extract_right (m := 20) d _ (by omega)).trans <| extract_left (m := 14) a _
@[simp] theorem wordLI_h : (wordLI op d a h j).extractLsb' 11 3 = h :=
  (extract_right (m := 26) op _ (by omega)).trans <| (extract_right (m := 20) d _ (by omega)).trans <| (extract_right (m := 14) a _ (by omega)).trans <| extract_left (m := 11) h _
@[simp] theorem wordLI_j : (wordLI op d a h j).extractLsb' 0 11 = j :=
  (extract_right (m := 26) op _ (by omega)).trans <| (extract_right (m := 20) d _ (by omega)).trans <| (extract_right (m := 14) a _ (by omega)).trans <| (extract_right (m := 11) h _ (by omega)).trans <| extract_whole j
end

/-! ## wordLB -/

section
variable (op : BitVec 6) (k : BitVec 3) (p : BitVec 3) (x : BitVec 1) (s : BitVec 19)
@[simp] theorem wordLB_op : (wordLB op k p x s).extractLsb' 26 6 = op :=
  extract_left (m := 26) op _
@[simp] theorem wordLB_k : (wordLB op k p x s).extractLsb' 23 3 = k :=
  (extract_right (m := 26) op _ (by omega)).trans <| extract_left (m := 23) k _
@[simp] theorem wordLB_p : (wordLB op k p x s).extractLsb' 20 3 = p :=
  (extract_right (m := 26) op _ (by omega)).trans <| (extract_right (m := 23) k _ (by omega)).trans <| extract_left (m := 20) p _
@[simp] theorem wordLB_x : (wordLB op k p x s).extractLsb' 19 1 = x :=
  (extract_right (m := 26) op _ (by omega)).trans <| (extract_right (m := 23) k _ (by omega)).trans <| (extract_right (m := 20) p _ (by omega)).trans <| extract_left (m := 19) x _
@[simp] theorem wordLB_s : (wordLB op k p x s).extractLsb' 0 19 = s :=
  (extract_right (m := 26) op _ (by omega)).trans <| (extract_right (m := 23) k _ (by omega)).trans <| (extract_right (m := 20) p _ (by omega)).trans <| (extract_right (m := 19) x _ (by omega)).trans <| extract_whole s
end

/-! ## wordREP -/

section
variable (op : BitVec 6) (c : BitVec 6) (s : BitVec 3) (t : BitVec 3) (w : BitVec 14)
@[simp] theorem wordREP_op : (wordREP op c s t w).extractLsb' 26 6 = op :=
  extract_left (m := 26) op _
@[simp] theorem wordREP_c : (wordREP op c s t w).extractLsb' 20 6 = c :=
  (extract_right (m := 26) op _ (by omega)).trans <| extract_left (m := 20) c _
@[simp] theorem wordREP_s : (wordREP op c s t w).extractLsb' 17 3 = s :=
  (extract_right (m := 26) op _ (by omega)).trans <| (extract_right (m := 20) c _ (by omega)).trans <| extract_left (m := 17) s _
@[simp] theorem wordREP_t : (wordREP op c s t w).extractLsb' 14 3 = t :=
  (extract_right (m := 26) op _ (by omega)).trans <| (extract_right (m := 20) c _ (by omega)).trans <| (extract_right (m := 17) s _ (by omega)).trans <| extract_left (m := 14) t _
@[simp] theorem wordREP_w : (wordREP op c s t w).extractLsb' 0 14 = w :=
  (extract_right (m := 26) op _ (by omega)).trans <| (extract_right (m := 20) c _ (by omega)).trans <| (extract_right (m := 17) s _ (by omega)).trans <| (extract_right (m := 14) t _ (by omega)).trans <| extract_whole w
end

/-! ## Fields that are put together from smaller ones -/

section
variable (a : BitVec 3) (b : BitVec 3)
@[simp] theorem high_3_3 : (a ++ b).extractLsb' 3 3 = a := extract_left a b
@[simp] theorem low_3_3 : (a ++ b).extractLsb' 0 3 = b := (extract_right a b (by omega)).trans (extract_whole b)
end
section
variable (a : BitVec 2) (b : BitVec 4)
@[simp] theorem high_2_4 : (a ++ b).extractLsb' 4 2 = a := extract_left a b
@[simp] theorem low_2_4 : (a ++ b).extractLsb' 0 4 = b := (extract_right a b (by omega)).trans (extract_whole b)
end
section
variable (a : BitVec 4) (b : BitVec 2)
@[simp] theorem high_4_2 : (a ++ b).extractLsb' 2 4 = a := extract_left a b
@[simp] theorem low_4_2 : (a ++ b).extractLsb' 0 2 = b := (extract_right a b (by omega)).trans (extract_whole b)
end
section
variable (a : BitVec 1) (b : BitVec 5)
@[simp] theorem high_1_5 : (a ++ b).extractLsb' 5 1 = a := extract_left a b
@[simp] theorem low_1_5 : (a ++ b).extractLsb' 0 5 = b := (extract_right a b (by omega)).trans (extract_whole b)
end
section
variable (a : BitVec 5) (b : BitVec 3)
@[simp] theorem high_5_3 : (a ++ b).extractLsb' 3 5 = a := extract_left a b
@[simp] theorem low_5_3 : (a ++ b).extractLsb' 0 3 = b := (extract_right a b (by omega)).trans (extract_whole b)
end
section
variable (a : BitVec 4) (b : BitVec 4)
@[simp] theorem high_4_4 : (a ++ b).extractLsb' 4 4 = a := extract_left a b
@[simp] theorem low_4_4 : (a ++ b).extractLsb' 0 4 = b := (extract_right a b (by omega)).trans (extract_whole b)
end
section
variable (a : BitVec 8) (b : BitVec 5)
@[simp] theorem high_8_5 : (a ++ b).extractLsb' 5 8 = a := extract_left a b
@[simp] theorem low_8_5 : (a ++ b).extractLsb' 0 5 = b := (extract_right a b (by omega)).trans (extract_whole b)
end
section
variable (a : BitVec 5) (b : BitVec 6)
@[simp] theorem high_5_6 : (a ++ b).extractLsb' 6 5 = a := extract_left a b
@[simp] theorem low_5_6 : (a ++ b).extractLsb' 0 6 = b := (extract_right a b (by omega)).trans (extract_whole b)
end
section
variable (a : BitVec 12) (b : BitVec 8)
@[simp] theorem high_12_8 : (a ++ b).extractLsb' 8 12 = a := extract_left a b
@[simp] theorem low_12_8 : (a ++ b).extractLsb' 0 8 = b := (extract_right a b (by omega)).trans (extract_whole b)
end
section
variable (p l : BitVec 5) (c : BitVec 3)
@[simp] theorem field_pos : (p ++ l ++ c).extractLsb' 8 5 = p := by
  rw [BitVec.extractLsb'_append_eq_of_le (by omega)]; exact extract_left p l
@[simp] theorem field_len : (p ++ l ++ c).extractLsb' 3 5 = l := by
  rw [BitVec.extractLsb'_append_eq_of_le (by omega)]; exact (extract_right p l (by omega)).trans (extract_whole l)
@[simp] theorem field_fn : (p ++ l ++ c).extractLsb' 0 3 = c := (extract_right (p ++ l) c (by omega)).trans (extract_whole c)
end
section
variable (f k : BitVec 3) (v i : BitVec 1)
@[simp] theorem copy_fn : (f ++ v ++ i ++ k).extractLsb' 5 3 = f := by
  rw [BitVec.extractLsb'_append_eq_of_le (by omega), BitVec.extractLsb'_append_eq_of_le (by omega)]; exact extract_left f v
@[simp] theorem copy_v : (f ++ v ++ i ++ k).extractLsb' 4 1 = v := by
  rw [BitVec.extractLsb'_append_eq_of_le (by omega), BitVec.extractLsb'_append_eq_of_le (by omega)]
  exact (extract_right f v (by omega)).trans (extract_whole v)
@[simp] theorem copy_i : (f ++ v ++ i ++ k).extractLsb' 3 1 = i := by
  rw [BitVec.extractLsb'_append_eq_of_le (by omega)]; exact (extract_right (f ++ v) i (by omega)).trans (extract_whole i)
@[simp] theorem copy_bar : (f ++ v ++ i ++ k).extractLsb' 0 3 = k :=
  (extract_right (f ++ v ++ i) k (by omega)).trans (extract_whole k)
end

/-! ## Codes -/

@[simp] theorem RMode.ofCode_code (m : RMode) : RMode.ofCode m.code = some m := by cases m <;> rfl
@[simp] theorem Size.ofCode_code (z : Size) : Size.ofCode z.code = some z := by cases z <;> rfl
@[simp] theorem FCond.ofCode_code (c : FCond) : FCond.ofCode c.code = some c := by cases c <;> rfl
@[simp] theorem Net.ofCode_code (n : Net) : Net.ofCode n.code = some n := by cases n <;> rfl
@[simp] theorem AtomOp.ofCode_code (o : AtomOp) : AtomOp.ofCode o.code = some o := by cases o <;> rfl
@[simp] theorem Cond.ofCode6_code (c : Cond) : Cond.ofCode6 c.code6 = some c := by cases c <;> rfl
@[simp] theorem Cond.ofCode4_code (c : Cond) : Cond.ofCode4 c.code4 = some c := by cases c <;> rfl
theorem Cond.ofCode3_code (c : Cond) (h : cmpiCondOk c = true) : Cond.ofCode3 c.code3 = some c := by
  cases c <;> first | rfl | simp [cmpiCondOk] at h
@[simp] theorem ofBool_eq_one (b : Bool) : (BitVec.ofBool b == 1#1) = b := by cases b <;> rfl
@[simp] theorem withCode_some {α : Type} (a : α) (f : α → Except Reject Instr) : withCode (some a) f = f a := rfl
@[simp] theorem withCode_none {α : Type} (f : α → Except Reject Instr) : withCode none f = .error .reservedFunction := rfl

/-- A word decodes to what its fields give, when that obeys the rules of `Instr.wf`. -/
theorem decode_of_fields {w : Word} {i : Instr} (h : decodeFields w = .ok i) (hw : i.wf = true) : decode w = .ok i := by
  simp [decode, h, hw]
/-- What a word decodes to obeys the rules of `Instr.wf`. -/
theorem decode_fields {w : Word} {i : Instr} (h : decode w = .ok i) : decodeFields w = .ok i ∧ i.wf = true := by
  unfold decode at h
  split at h
  · split at h
    · rename_i j hj hw; injection h with h; subst h; exact ⟨hj, hw⟩
    · simp at h
  · simp at h

end Sys2Proof
end

