-- ==== Sys2Proof/Laws/Map.lean ====
section
/-!
SUPPORT. Laws of maps by number and of byte memory: reading after writing, and the canonical form.
-/
namespace Sys2Proof.Machine

variable {β : Type}

/-! ## Reading after writing -/

@[simp] theorem SMap.find_nil (j : Nat) : SMap.find ([] : SMap β) j = none := rfl

/-- A key that was set reads as what it was set to. -/
@[simp] theorem SMap.find_put_same (m : SMap β) (k : Nat) (v : β) : (m.put k v).find k = some v := by
  induction m with
  | nil => simp [SMap.put, SMap.find]
  | cons e m ih =>
    simp only [SMap.put]
    split
    · simp [SMap.find]
    · split
      · simp [SMap.find]
      · rename_i h; simp [SMap.find, h, ih]

/-- Setting a key leaves the other keys alone. -/
theorem SMap.find_put_other (m : SMap β) {j k : Nat} (v : β) (h : j ≠ k) : (m.put k v).find j = m.find j := by
  induction m with
  | nil => simp [SMap.put, SMap.find, h]
  | cons e m ih =>
    simp only [SMap.put]
    split
    · simp [SMap.find, h]
    · split
      · rename_i he; subst he; simp [SMap.find, h]
      · simp only [SMap.find, ih]

theorem SMap.find_put (m : SMap β) (k j : Nat) (v : β) : (m.put k v).find j = if j = k then some v else m.find j := by
  split
  · rename_i h; rw [h, SMap.find_put_same]
  · rename_i h; exact SMap.find_put_other m v h

/-- A removed key is absent, and the others stay. -/
theorem SMap.find_del (m : SMap β) (k j : Nat) : (m.del k).find j = if j = k then none else m.find j := by
  induction m with
  | nil => simp [SMap.del, SMap.find]
  | cons e m ih =>
    simp only [SMap.del]
    split
    · rename_i h
      rw [ih]
      split
      · rfl
      · rename_i hj; simp [SMap.find, ← h, hj]
    · rename_i h
      simp only [SMap.find, ih]
      by_cases hj : j = e.1
      · subst hj; simp [Ne.symm h]
      · simp [hj]

theorem SMap.find_mod (m : SMap β) (k j : Nat) (f : β → β) :
    (m.mod k f).find j = if j = k then (m.find k).map f else m.find j := by
  unfold SMap.mod
  split
  · rename_i v h; rw [SMap.find_put]; simp [h]
  · rename_i h
    split
    · rename_i hj; rw [hj]; simp [h]
    · rfl

/-- Reading a key after setting it. -/
theorem SMap.get_set [DecidableEq β] (m : SMap β) (k j : Nat) (v d : β) :
    (m.set k v d).get j d = if j = k then v else m.get j d := by
  unfold SMap.set SMap.get
  split
  · rename_i h
    rw [SMap.find_del]; split <;> simp [h]
  · rw [SMap.find_put]; split <;> simp

@[simp] theorem SMap.get_set_same [DecidableEq β] (m : SMap β) (k : Nat) (v d : β) : (m.set k v d).get k d = v := by
  rw [SMap.get_set]; simp

theorem SMap.get_set_other [DecidableEq β] (m : SMap β) {k j : Nat} (v d : β) (h : j ≠ k) :
    (m.set k v d).get j d = m.get j d := by
  rw [SMap.get_set]; simp [h]

/-- Setting the same key twice is setting it to the later value. -/
theorem SMap.put_put (m : SMap β) (k : Nat) (v w : β) : (m.put k v).put k w = m.put k w := by
  induction m with
  | nil => simp [SMap.put]
  | cons e m ih =>
    simp only [SMap.put]
    split
    · simp [SMap.put]
    · split
      · simp [SMap.put]
      · rename_i h1 h2; simp [SMap.put, h1, h2, ih]

/-! ## The canonical form -/

/-- The keys rise strictly, as a proposition about the whole list. -/
theorem SMap.sorted_iff (m : SMap β) : m.sorted = true ↔ m.Pairwise (fun a b => a.1 < b.1) := by
  induction m with
  | nil => simp [SMap.sorted]
  | cons e m ih =>
    cases m with
    | nil => simp [SMap.sorted]
    | cons e' m =>
      simp only [SMap.sorted, Bool.and_eq_true, decide_eq_true_eq, ih, List.pairwise_cons]
      constructor
      · rintro ⟨h, h'⟩
        refine ⟨?_, h'⟩
        intro x hx
        rcases List.mem_cons.mp hx with rfl | hx
        · exact h
        · exact Nat.lt_trans h (h'.1 x hx)
      · rintro ⟨h, h'⟩
        exact ⟨h e' (by simp), h'⟩

theorem SMap.mem_put {m : SMap β} {k : Nat} {v : β} {x : Nat × β} (h : x ∈ m.put k v) : x = (k, v) ∨ x ∈ m := by
  induction m with
  | nil => simpa [SMap.put] using h
  | cons e m ih =>
    simp only [SMap.put] at h
    split at h
    · simpa using h
    · split at h
      · rcases List.mem_cons.mp h with h | h
        · exact .inl h
        · exact .inr (List.mem_cons_of_mem _ h)
      · rcases List.mem_cons.mp h with h | h
        · exact .inr (by rw [h]; exact List.mem_cons_self)
        · rcases ih h with h | h
          · exact .inl h
          · exact .inr (List.mem_cons_of_mem _ h)

theorem SMap.mem_del {m : SMap β} {k : Nat} {x : Nat × β} (h : x ∈ m.del k) : x ∈ m := by
  induction m with
  | nil => simp [SMap.del] at h
  | cons e m ih =>
    simp only [SMap.del] at h
    split at h
    · exact List.mem_cons_of_mem _ (ih h)
    · rcases List.mem_cons.mp h with h | h
      · rw [h]; exact List.mem_cons_self
      · exact List.mem_cons_of_mem _ (ih h)

/-- Setting a key keeps the keys rising. -/
theorem SMap.sorted_put {m : SMap β} (k : Nat) (v : β) (h : m.sorted = true) : (m.put k v).sorted = true := by
  rw [SMap.sorted_iff] at *
  induction m with
  | nil => simp [SMap.put]
  | cons e m ih =>
    have h' := List.pairwise_cons.mp h
    simp only [SMap.put]
    split
    · rename_i hk
      refine List.pairwise_cons.mpr ⟨?_, h⟩
      intro x hx
      rcases List.mem_cons.mp hx with rfl | hx
      · exact hk
      · exact Nat.lt_trans hk (h'.1 x hx)
    · split
      · rename_i hk; subst hk
        exact List.pairwise_cons.mpr ⟨fun x hx => h'.1 x hx, h'.2⟩
      · rename_i hk hk'
        refine List.pairwise_cons.mpr ⟨?_, ih h'.2⟩
        intro x hx
        rcases SMap.mem_put hx with rfl | hx
        · show e.1 < k; omega
        · exact h'.1 x hx

/-- Removing a key keeps the keys rising. -/
theorem SMap.sorted_del {m : SMap β} (k : Nat) (h : m.sorted = true) : (m.del k).sorted = true := by
  rw [SMap.sorted_iff] at *
  induction m with
  | nil => simp [SMap.del]
  | cons e m ih =>
    have h' := List.pairwise_cons.mp h
    simp only [SMap.del]
    split
    · exact ih h'.2
    · exact List.pairwise_cons.mpr ⟨fun x hx => h'.1 x (SMap.mem_del hx), ih h'.2⟩

/-! ## Byte memory -/

/-- A byte that was written reads as what was written, and the others read as before. -/
theorem Memory.byte_setByte (m : Memory) (a b : Nat) (x : Byte) :
    (m.setByte a x).byte b = if b = a then x else m.byte b := SMap.get_set m a b x memDefault

/-- Writing bytes leaves every address outside them as it was. -/
theorem Memory.byte_setBytes_other (m : Memory) (a b : Nat) (bs : List Byte) (h : b < a ∨ a + bs.length ≤ b) :
    (m.setBytes a bs).byte b = m.byte b := by
  induction bs generalizing m a with
  | nil => rfl
  | cons x bs ih =>
    simp only [List.length_cons] at h
    rw [Memory.setBytes, ih _ _ (by omega), Memory.byte_setByte]
    simp [show b ≠ a by omega]

/-- A written byte reads as it was written. -/
theorem Memory.byte_setBytes_mem (m : Memory) (a i : Nat) (bs : List Byte) (h : i < bs.length) :
    (m.setBytes a bs).byte (a + i) = bs[i] := by
  induction bs generalizing m a i with
  | nil => simp at h
  | cons x bs ih =>
    cases i with
    | zero => rw [Memory.setBytes, Memory.byte_setBytes_other _ _ _ _ (by omega), Memory.byte_setByte]; simp
    | succ i =>
      rw [Memory.setBytes, show a + (i + 1) = a + 1 + i by omega, ih _ _ _ (by simpa using h)]; simp

/-- The bytes read back are the bytes written. -/
theorem Memory.bytes_setBytes (m : Memory) (a : Nat) (bs : List Byte) : (m.setBytes a bs).bytes a bs.length = bs := by
  have key : ∀ n k, k + n = bs.length → (m.setBytes a bs).bytes (a + k) n = bs.drop k := by
    intro n
    induction n with
    | zero => intro k h; rw [Memory.bytes, List.drop_of_length_le (by omega)]
    | succ n ih =>
      intro k h
      rw [Memory.bytes, Memory.byte_setBytes_mem _ _ _ _ (by omega), show a + k + 1 = a + (k + 1) by omega, ih _ (by omega)]
      exact (List.drop_eq_getElem_cons (by omega)).symm
  simpa using key bs.length 0 (by omega)

/-- One written byte keeps the canonical form. -/
theorem Memory.wf_setByte {m : Memory} (a : Nat) (x : Byte) (h : m.wf = true) : (m.setByte a x).wf = true := by
  simp only [Memory.wf, Bool.and_eq_true, List.all_eq_true, bne_iff_ne, ne_eq] at h ⊢
  unfold Memory.setByte SMap.set
  split
  · exact ⟨SMap.sorted_del a h.1, fun c hc => h.2 c (SMap.mem_del hc)⟩
  · rename_i hx
    refine ⟨SMap.sorted_put a x h.1, fun c hc => ?_⟩
    rcases SMap.mem_put hc with rfl | hc
    · exact hx
    · exact h.2 c hc

/-- Written bytes keep the canonical form. -/
theorem Memory.wf_setBytes {m : Memory} (a : Nat) (bs : List Byte) (h : m.wf = true) : (m.setBytes a bs).wf = true := by
  induction bs generalizing m a with
  | nil => exact h
  | cons x bs ih => exact ih (a + 1) (Memory.wf_setByte a x h)

/-- A written number keeps the canonical form. -/
theorem Memory.wf_setNat {m : Memory} (a n v : Nat) (h : m.wf = true) : (m.setNat a n v).wf = true :=
  Memory.wf_setBytes a _ h

/-- Two memories in canonical form that read alike are equal. -/
theorem Memory.ext_wf {m n : Memory} (hm : m.wf = true) (hn : n.wf = true) (h : ∀ a, m.byte a = n.byte a) : m = n := by
  have find_of_mem : ∀ (m : Memory), m.Pairwise (fun a b => a.1 < b.1) → ∀ c ∈ m, SMap.find m c.1 = some c.2 := by
    intro m
    induction m with
    | nil => simp
    | cons e m ih =>
      intro hs c hc
      have hs' := List.pairwise_cons.mp hs
      rcases List.mem_cons.mp hc with rfl | hc
      · simp [SMap.find]
      · have := hs'.1 c hc
        rw [SMap.find, if_neg (by omega)]
        exact ih hs'.2 c hc
  have mem_of_find : ∀ (m : Memory) a x, SMap.find m a = some x → (a, x) ∈ m := by
    intro m a x
    induction m with
    | nil => simp
    | cons e m ih =>
      intro hf
      rw [SMap.find] at hf
      split at hf
      · rename_i he; injection hf with hf; subst hf; subst he; exact List.mem_cons_self
      · exact List.mem_cons_of_mem _ (ih hf)
  simp only [Memory.wf, Bool.and_eq_true, List.all_eq_true, bne_iff_ne, ne_eq, SMap.sorted_iff] at hm hn
  have sub : ∀ (m n : Memory), (m.Pairwise (fun a b => a.1 < b.1)) → (∀ c ∈ m, ¬c.2 = memDefault) →
      (∀ a, m.byte a = n.byte a) → ∀ c ∈ m, c ∈ n := by
    intro m n hs hd h c hc
    have h1 := find_of_mem m hs c hc
    have h2 := h c.1
    simp only [Memory.byte, SMap.get, h1, Option.getD_some] at h2
    cases h3 : SMap.find n c.1 with
    | none => rw [h3] at h2; exact absurd h2 (hd c hc)
    | some x =>
      rw [h3] at h2
      simp only [Option.getD_some] at h2
      have := mem_of_find n c.1 x h3
      rwa [← h2] at this
  have nd : ∀ (m : Memory), (m.Pairwise (fun a b => a.1 < b.1)) → m.Nodup := fun m hs =>
    hs.imp (fun {a b} hab (e : a = b) => by rw [e] at hab; exact Nat.lt_irrefl _ hab)
  have perm : m.Perm n := (List.perm_ext_iff_of_nodup (nd m hm.1) (nd n hn.1)).mpr
    (fun c => ⟨sub m n hm.1 hm.2 h c, sub n m hn.1 hn.2 (fun a => (h a).symm) c⟩)
  exact perm.eq_of_pairwise (le := fun a b => a.1 < b.1) (fun a b _ _ h1 h2 => absurd h1 (by omega)) hm.1 hn.1

end Sys2Proof.Machine
end

