-- ==== Sys2Proof/Laws/State.lean ====
section
/-!
SUPPORT. What each change of the state leaves alone: one lemma for each field and change.
-/
namespace Sys2Proof.Machine
section
variable (s : State) (gk : Nat) (ls : List Nat) (f : Nat → Thread → Thread)
@[simp] theorem onLanes_turns : (s.onLanes gk ls f).turns = s.turns := rfl
@[simp] theorem onLanes_freeCtr : (s.onLanes gk ls f).freeCtr = s.freeCtr := rfl
@[simp] theorem onLanes_nextId : (s.onLanes gk ls f).nextId = s.nextId := rfl
@[simp] theorem onLanes_cur : (s.onLanes gk ls f).cur = s.cur := rfl
@[simp] theorem onLanes_fresh : (s.onLanes gk ls f).fresh = s.fresh := rfl
@[simp] theorem onLanes_time : (s.onLanes gk ls f).time = s.time := rfl
@[simp] theorem onLanes_groups : (s.onLanes gk ls f).groups = s.groups := rfl
@[simp] theorem onLanes_teams : (s.onLanes gk ls f).teams = s.teams := rfl
@[simp] theorem onLanes_cores : (s.onLanes gk ls f).cores = s.cores := rfl
@[simp] theorem onLanes_leases : (s.onLanes gk ls f).leases = s.leases := rfl
@[simp] theorem onLanes_hist : (s.onLanes gk ls f).hist = s.hist := rfl
@[simp] theorem onLanes_tasks : (s.onLanes gk ls f).tasks = s.tasks := rfl
@[simp] theorem onLanes_gens : (s.onLanes gk ls f).gens = s.gens := rfl
@[simp] theorem onLanes_quadPool : (s.onLanes gk ls f).quadPool = s.quadPool := rfl
@[simp] theorem onLanes_quadAlloc : (s.onLanes gk ls f).quadAlloc = s.quadAlloc := rfl
@[simp] theorem onLanes_wides : (s.onLanes gk ls f).wides = s.wides := rfl
@[simp] theorem onLanes_images : (s.onLanes gk ls f).images = s.images := rfl
@[simp] theorem onLanes_opqs : (s.onLanes gk ls f).opqs = s.opqs := rfl
@[simp] theorem onLanes_copies : (s.onLanes gk ls f).copies = s.copies := rfl
@[simp] theorem onLanes_sends : (s.onLanes gk ls f).sends = s.sends := rfl
@[simp] theorem onLanes_rows : (s.onLanes gk ls f).rows = s.rows := rfl
@[simp] theorem onLanes_heldReqs : (s.onLanes gk ls f).heldReqs = s.heldReqs := rfl
@[simp] theorem onLanes_gainTab : (s.onLanes gk ls f).gainTab = s.gainTab := rfl
@[simp] theorem onLanes_qsag : (s.onLanes gk ls f).qsag = s.qsag := rfl
@[simp] theorem onLanes_ssar : (s.onLanes gk ls f).ssar = s.ssar := rfl
@[simp] theorem onLanes_far : (s.onLanes gk ls f).far = s.far := rfl
@[simp] theorem onLanes_near : (s.onLanes gk ls f).near = s.near := rfl
@[simp] theorem onLanes_hostMem : (s.onLanes gk ls f).hostMem = s.hostMem := rfl
@[simp] theorem onLanes_link : (s.onLanes gk ls f).link = s.link := rfl
@[simp] theorem onLanes_linkReads : (s.onLanes gk ls f).linkReads = s.linkReads := rfl
@[simp] theorem onLanes_hostReads : (s.onLanes gk ls f).hostReads = s.hostReads := rfl
@[simp] theorem onLanes_selectors : (s.onLanes gk ls f).selectors = s.selectors := rfl
@[simp] theorem onLanes_nodes : (s.onLanes gk ls f).nodes = s.nodes := rfl
@[simp] theorem onLanes_chans : (s.onLanes gk ls f).chans = s.chans := rfl
@[simp] theorem onLanes_resync : (s.onLanes gk ls f).resync = s.resync := rfl
@[simp] theorem onLanes_removed : (s.onLanes gk ls f).removed = s.removed := rfl
@[simp] theorem onLanes_golden : (s.onLanes gk ls f).golden = s.golden := rfl
@[simp] theorem onLanes_queues : (s.onLanes gk ls f).queues = s.queues := rfl
@[simp] theorem onLanes_spaces : (s.onLanes gk ls f).spaces = s.spaces := rfl
@[simp] theorem onLanes_plat : (s.onLanes gk ls f).plat = s.plat := rfl
@[simp] theorem onLanes_fibres : (s.onLanes gk ls f).fibres = s.fibres := rfl
end
section
variable (s : State) (k : Nat) (f : Thread → Thread)
@[simp] theorem modThread_turns : (s.modThread k f).turns = s.turns := rfl
@[simp] theorem modThread_freeCtr : (s.modThread k f).freeCtr = s.freeCtr := rfl
@[simp] theorem modThread_nextId : (s.modThread k f).nextId = s.nextId := rfl
@[simp] theorem modThread_cur : (s.modThread k f).cur = s.cur := rfl
@[simp] theorem modThread_fresh : (s.modThread k f).fresh = s.fresh := rfl
@[simp] theorem modThread_time : (s.modThread k f).time = s.time := rfl
@[simp] theorem modThread_groups : (s.modThread k f).groups = s.groups := rfl
@[simp] theorem modThread_teams : (s.modThread k f).teams = s.teams := rfl
@[simp] theorem modThread_cores : (s.modThread k f).cores = s.cores := rfl
@[simp] theorem modThread_leases : (s.modThread k f).leases = s.leases := rfl
@[simp] theorem modThread_hist : (s.modThread k f).hist = s.hist := rfl
@[simp] theorem modThread_tasks : (s.modThread k f).tasks = s.tasks := rfl
@[simp] theorem modThread_gens : (s.modThread k f).gens = s.gens := rfl
@[simp] theorem modThread_quadPool : (s.modThread k f).quadPool = s.quadPool := rfl
@[simp] theorem modThread_quadAlloc : (s.modThread k f).quadAlloc = s.quadAlloc := rfl
@[simp] theorem modThread_wides : (s.modThread k f).wides = s.wides := rfl
@[simp] theorem modThread_images : (s.modThread k f).images = s.images := rfl
@[simp] theorem modThread_opqs : (s.modThread k f).opqs = s.opqs := rfl
@[simp] theorem modThread_copies : (s.modThread k f).copies = s.copies := rfl
@[simp] theorem modThread_sends : (s.modThread k f).sends = s.sends := rfl
@[simp] theorem modThread_rows : (s.modThread k f).rows = s.rows := rfl
@[simp] theorem modThread_heldReqs : (s.modThread k f).heldReqs = s.heldReqs := rfl
@[simp] theorem modThread_gainTab : (s.modThread k f).gainTab = s.gainTab := rfl
@[simp] theorem modThread_qsag : (s.modThread k f).qsag = s.qsag := rfl
@[simp] theorem modThread_ssar : (s.modThread k f).ssar = s.ssar := rfl
@[simp] theorem modThread_far : (s.modThread k f).far = s.far := rfl
@[simp] theorem modThread_near : (s.modThread k f).near = s.near := rfl
@[simp] theorem modThread_hostMem : (s.modThread k f).hostMem = s.hostMem := rfl
@[simp] theorem modThread_link : (s.modThread k f).link = s.link := rfl
@[simp] theorem modThread_linkReads : (s.modThread k f).linkReads = s.linkReads := rfl
@[simp] theorem modThread_hostReads : (s.modThread k f).hostReads = s.hostReads := rfl
@[simp] theorem modThread_selectors : (s.modThread k f).selectors = s.selectors := rfl
@[simp] theorem modThread_nodes : (s.modThread k f).nodes = s.nodes := rfl
@[simp] theorem modThread_chans : (s.modThread k f).chans = s.chans := rfl
@[simp] theorem modThread_resync : (s.modThread k f).resync = s.resync := rfl
@[simp] theorem modThread_removed : (s.modThread k f).removed = s.removed := rfl
@[simp] theorem modThread_golden : (s.modThread k f).golden = s.golden := rfl
@[simp] theorem modThread_queues : (s.modThread k f).queues = s.queues := rfl
@[simp] theorem modThread_spaces : (s.modThread k f).spaces = s.spaces := rfl
@[simp] theorem modThread_plat : (s.modThread k f).plat = s.plat := rfl
@[simp] theorem modThread_fibres : (s.modThread k f).fibres = s.fibres := rfl
end
section
variable (s : State) (k : Nat) (f : Team → Team)
@[simp] theorem modTeam_turns : (s.modTeam k f).turns = s.turns := rfl
@[simp] theorem modTeam_freeCtr : (s.modTeam k f).freeCtr = s.freeCtr := rfl
@[simp] theorem modTeam_nextId : (s.modTeam k f).nextId = s.nextId := rfl
@[simp] theorem modTeam_cur : (s.modTeam k f).cur = s.cur := rfl
@[simp] theorem modTeam_fresh : (s.modTeam k f).fresh = s.fresh := rfl
@[simp] theorem modTeam_time : (s.modTeam k f).time = s.time := rfl
@[simp] theorem modTeam_threads : (s.modTeam k f).threads = s.threads := rfl
@[simp] theorem modTeam_groups : (s.modTeam k f).groups = s.groups := rfl
@[simp] theorem modTeam_cores : (s.modTeam k f).cores = s.cores := rfl
@[simp] theorem modTeam_leases : (s.modTeam k f).leases = s.leases := rfl
@[simp] theorem modTeam_hist : (s.modTeam k f).hist = s.hist := rfl
@[simp] theorem modTeam_tasks : (s.modTeam k f).tasks = s.tasks := rfl
@[simp] theorem modTeam_gens : (s.modTeam k f).gens = s.gens := rfl
@[simp] theorem modTeam_quadPool : (s.modTeam k f).quadPool = s.quadPool := rfl
@[simp] theorem modTeam_quadAlloc : (s.modTeam k f).quadAlloc = s.quadAlloc := rfl
@[simp] theorem modTeam_wides : (s.modTeam k f).wides = s.wides := rfl
@[simp] theorem modTeam_images : (s.modTeam k f).images = s.images := rfl
@[simp] theorem modTeam_opqs : (s.modTeam k f).opqs = s.opqs := rfl
@[simp] theorem modTeam_copies : (s.modTeam k f).copies = s.copies := rfl
@[simp] theorem modTeam_sends : (s.modTeam k f).sends = s.sends := rfl
@[simp] theorem modTeam_rows : (s.modTeam k f).rows = s.rows := rfl
@[simp] theorem modTeam_heldReqs : (s.modTeam k f).heldReqs = s.heldReqs := rfl
@[simp] theorem modTeam_gainTab : (s.modTeam k f).gainTab = s.gainTab := rfl
@[simp] theorem modTeam_qsag : (s.modTeam k f).qsag = s.qsag := rfl
@[simp] theorem modTeam_ssar : (s.modTeam k f).ssar = s.ssar := rfl
@[simp] theorem modTeam_far : (s.modTeam k f).far = s.far := rfl
@[simp] theorem modTeam_near : (s.modTeam k f).near = s.near := rfl
@[simp] theorem modTeam_hostMem : (s.modTeam k f).hostMem = s.hostMem := rfl
@[simp] theorem modTeam_link : (s.modTeam k f).link = s.link := rfl
@[simp] theorem modTeam_linkReads : (s.modTeam k f).linkReads = s.linkReads := rfl
@[simp] theorem modTeam_hostReads : (s.modTeam k f).hostReads = s.hostReads := rfl
@[simp] theorem modTeam_selectors : (s.modTeam k f).selectors = s.selectors := rfl
@[simp] theorem modTeam_nodes : (s.modTeam k f).nodes = s.nodes := rfl
@[simp] theorem modTeam_chans : (s.modTeam k f).chans = s.chans := rfl
@[simp] theorem modTeam_resync : (s.modTeam k f).resync = s.resync := rfl
@[simp] theorem modTeam_removed : (s.modTeam k f).removed = s.removed := rfl
@[simp] theorem modTeam_golden : (s.modTeam k f).golden = s.golden := rfl
@[simp] theorem modTeam_queues : (s.modTeam k f).queues = s.queues := rfl
@[simp] theorem modTeam_spaces : (s.modTeam k f).spaces = s.spaces := rfl
@[simp] theorem modTeam_plat : (s.modTeam k f).plat = s.plat := rfl
@[simp] theorem modTeam_fibres : (s.modTeam k f).fibres = s.fibres := rfl
end
section
variable (s : State) (k : Nat) (f : Lead → Lead)
@[simp] theorem modLead_turns : (s.modLead k f).turns = s.turns := rfl
@[simp] theorem modLead_freeCtr : (s.modLead k f).freeCtr = s.freeCtr := rfl
@[simp] theorem modLead_nextId : (s.modLead k f).nextId = s.nextId := rfl
@[simp] theorem modLead_cur : (s.modLead k f).cur = s.cur := rfl
@[simp] theorem modLead_fresh : (s.modLead k f).fresh = s.fresh := rfl
@[simp] theorem modLead_time : (s.modLead k f).time = s.time := rfl
@[simp] theorem modLead_threads : (s.modLead k f).threads = s.threads := rfl
@[simp] theorem modLead_groups : (s.modLead k f).groups = s.groups := rfl
@[simp] theorem modLead_cores : (s.modLead k f).cores = s.cores := rfl
@[simp] theorem modLead_leases : (s.modLead k f).leases = s.leases := rfl
@[simp] theorem modLead_hist : (s.modLead k f).hist = s.hist := rfl
@[simp] theorem modLead_tasks : (s.modLead k f).tasks = s.tasks := rfl
@[simp] theorem modLead_gens : (s.modLead k f).gens = s.gens := rfl
@[simp] theorem modLead_quadPool : (s.modLead k f).quadPool = s.quadPool := rfl
@[simp] theorem modLead_quadAlloc : (s.modLead k f).quadAlloc = s.quadAlloc := rfl
@[simp] theorem modLead_wides : (s.modLead k f).wides = s.wides := rfl
@[simp] theorem modLead_images : (s.modLead k f).images = s.images := rfl
@[simp] theorem modLead_opqs : (s.modLead k f).opqs = s.opqs := rfl
@[simp] theorem modLead_copies : (s.modLead k f).copies = s.copies := rfl
@[simp] theorem modLead_sends : (s.modLead k f).sends = s.sends := rfl
@[simp] theorem modLead_rows : (s.modLead k f).rows = s.rows := rfl
@[simp] theorem modLead_heldReqs : (s.modLead k f).heldReqs = s.heldReqs := rfl
@[simp] theorem modLead_gainTab : (s.modLead k f).gainTab = s.gainTab := rfl
@[simp] theorem modLead_qsag : (s.modLead k f).qsag = s.qsag := rfl
@[simp] theorem modLead_ssar : (s.modLead k f).ssar = s.ssar := rfl
@[simp] theorem modLead_far : (s.modLead k f).far = s.far := rfl
@[simp] theorem modLead_near : (s.modLead k f).near = s.near := rfl
@[simp] theorem modLead_hostMem : (s.modLead k f).hostMem = s.hostMem := rfl
@[simp] theorem modLead_link : (s.modLead k f).link = s.link := rfl
@[simp] theorem modLead_linkReads : (s.modLead k f).linkReads = s.linkReads := rfl
@[simp] theorem modLead_hostReads : (s.modLead k f).hostReads = s.hostReads := rfl
@[simp] theorem modLead_selectors : (s.modLead k f).selectors = s.selectors := rfl
@[simp] theorem modLead_nodes : (s.modLead k f).nodes = s.nodes := rfl
@[simp] theorem modLead_chans : (s.modLead k f).chans = s.chans := rfl
@[simp] theorem modLead_resync : (s.modLead k f).resync = s.resync := rfl
@[simp] theorem modLead_removed : (s.modLead k f).removed = s.removed := rfl
@[simp] theorem modLead_golden : (s.modLead k f).golden = s.golden := rfl
@[simp] theorem modLead_queues : (s.modLead k f).queues = s.queues := rfl
@[simp] theorem modLead_spaces : (s.modLead k f).spaces = s.spaces := rfl
@[simp] theorem modLead_plat : (s.modLead k f).plat = s.plat := rfl
@[simp] theorem modLead_fibres : (s.modLead k f).fibres = s.fibres := rfl
end
section
variable (s : State) (k : Nat) (f : Task → Task)
@[simp] theorem modTask_turns : (s.modTask k f).turns = s.turns := rfl
@[simp] theorem modTask_freeCtr : (s.modTask k f).freeCtr = s.freeCtr := rfl
@[simp] theorem modTask_nextId : (s.modTask k f).nextId = s.nextId := rfl
@[simp] theorem modTask_cur : (s.modTask k f).cur = s.cur := rfl
@[simp] theorem modTask_fresh : (s.modTask k f).fresh = s.fresh := rfl
@[simp] theorem modTask_time : (s.modTask k f).time = s.time := rfl
@[simp] theorem modTask_threads : (s.modTask k f).threads = s.threads := rfl
@[simp] theorem modTask_groups : (s.modTask k f).groups = s.groups := rfl
@[simp] theorem modTask_teams : (s.modTask k f).teams = s.teams := rfl
@[simp] theorem modTask_cores : (s.modTask k f).cores = s.cores := rfl
@[simp] theorem modTask_leases : (s.modTask k f).leases = s.leases := rfl
@[simp] theorem modTask_hist : (s.modTask k f).hist = s.hist := rfl
@[simp] theorem modTask_gens : (s.modTask k f).gens = s.gens := rfl
@[simp] theorem modTask_quadPool : (s.modTask k f).quadPool = s.quadPool := rfl
@[simp] theorem modTask_quadAlloc : (s.modTask k f).quadAlloc = s.quadAlloc := rfl
@[simp] theorem modTask_wides : (s.modTask k f).wides = s.wides := rfl
@[simp] theorem modTask_images : (s.modTask k f).images = s.images := rfl
@[simp] theorem modTask_opqs : (s.modTask k f).opqs = s.opqs := rfl
@[simp] theorem modTask_copies : (s.modTask k f).copies = s.copies := rfl
@[simp] theorem modTask_sends : (s.modTask k f).sends = s.sends := rfl
@[simp] theorem modTask_rows : (s.modTask k f).rows = s.rows := rfl
@[simp] theorem modTask_heldReqs : (s.modTask k f).heldReqs = s.heldReqs := rfl
@[simp] theorem modTask_gainTab : (s.modTask k f).gainTab = s.gainTab := rfl
@[simp] theorem modTask_qsag : (s.modTask k f).qsag = s.qsag := rfl
@[simp] theorem modTask_ssar : (s.modTask k f).ssar = s.ssar := rfl
@[simp] theorem modTask_far : (s.modTask k f).far = s.far := rfl
@[simp] theorem modTask_near : (s.modTask k f).near = s.near := rfl
@[simp] theorem modTask_hostMem : (s.modTask k f).hostMem = s.hostMem := rfl
@[simp] theorem modTask_link : (s.modTask k f).link = s.link := rfl
@[simp] theorem modTask_linkReads : (s.modTask k f).linkReads = s.linkReads := rfl
@[simp] theorem modTask_hostReads : (s.modTask k f).hostReads = s.hostReads := rfl
@[simp] theorem modTask_selectors : (s.modTask k f).selectors = s.selectors := rfl
@[simp] theorem modTask_nodes : (s.modTask k f).nodes = s.nodes := rfl
@[simp] theorem modTask_chans : (s.modTask k f).chans = s.chans := rfl
@[simp] theorem modTask_resync : (s.modTask k f).resync = s.resync := rfl
@[simp] theorem modTask_removed : (s.modTask k f).removed = s.removed := rfl
@[simp] theorem modTask_golden : (s.modTask k f).golden = s.golden := rfl
@[simp] theorem modTask_queues : (s.modTask k f).queues = s.queues := rfl
@[simp] theorem modTask_spaces : (s.modTask k f).spaces = s.spaces := rfl
@[simp] theorem modTask_plat : (s.modTask k f).plat = s.plat := rfl
@[simp] theorem modTask_fibres : (s.modTask k f).fibres = s.fibres := rfl
end
section
variable (s : State) (k : Nat) (f : Group → Group)
@[simp] theorem modGroup_turns : (s.modGroup k f).turns = s.turns := rfl
@[simp] theorem modGroup_freeCtr : (s.modGroup k f).freeCtr = s.freeCtr := rfl
@[simp] theorem modGroup_nextId : (s.modGroup k f).nextId = s.nextId := rfl
@[simp] theorem modGroup_cur : (s.modGroup k f).cur = s.cur := rfl
@[simp] theorem modGroup_fresh : (s.modGroup k f).fresh = s.fresh := rfl
@[simp] theorem modGroup_time : (s.modGroup k f).time = s.time := rfl
@[simp] theorem modGroup_threads : (s.modGroup k f).threads = s.threads := rfl
@[simp] theorem modGroup_teams : (s.modGroup k f).teams = s.teams := rfl
@[simp] theorem modGroup_cores : (s.modGroup k f).cores = s.cores := rfl
@[simp] theorem modGroup_leases : (s.modGroup k f).leases = s.leases := rfl
@[simp] theorem modGroup_hist : (s.modGroup k f).hist = s.hist := rfl
@[simp] theorem modGroup_tasks : (s.modGroup k f).tasks = s.tasks := rfl
@[simp] theorem modGroup_gens : (s.modGroup k f).gens = s.gens := rfl
@[simp] theorem modGroup_quadPool : (s.modGroup k f).quadPool = s.quadPool := rfl
@[simp] theorem modGroup_quadAlloc : (s.modGroup k f).quadAlloc = s.quadAlloc := rfl
@[simp] theorem modGroup_wides : (s.modGroup k f).wides = s.wides := rfl
@[simp] theorem modGroup_images : (s.modGroup k f).images = s.images := rfl
@[simp] theorem modGroup_opqs : (s.modGroup k f).opqs = s.opqs := rfl
@[simp] theorem modGroup_copies : (s.modGroup k f).copies = s.copies := rfl
@[simp] theorem modGroup_sends : (s.modGroup k f).sends = s.sends := rfl
@[simp] theorem modGroup_rows : (s.modGroup k f).rows = s.rows := rfl
@[simp] theorem modGroup_heldReqs : (s.modGroup k f).heldReqs = s.heldReqs := rfl
@[simp] theorem modGroup_gainTab : (s.modGroup k f).gainTab = s.gainTab := rfl
@[simp] theorem modGroup_qsag : (s.modGroup k f).qsag = s.qsag := rfl
@[simp] theorem modGroup_ssar : (s.modGroup k f).ssar = s.ssar := rfl
@[simp] theorem modGroup_far : (s.modGroup k f).far = s.far := rfl
@[simp] theorem modGroup_near : (s.modGroup k f).near = s.near := rfl
@[simp] theorem modGroup_hostMem : (s.modGroup k f).hostMem = s.hostMem := rfl
@[simp] theorem modGroup_link : (s.modGroup k f).link = s.link := rfl
@[simp] theorem modGroup_linkReads : (s.modGroup k f).linkReads = s.linkReads := rfl
@[simp] theorem modGroup_hostReads : (s.modGroup k f).hostReads = s.hostReads := rfl
@[simp] theorem modGroup_selectors : (s.modGroup k f).selectors = s.selectors := rfl
@[simp] theorem modGroup_nodes : (s.modGroup k f).nodes = s.nodes := rfl
@[simp] theorem modGroup_chans : (s.modGroup k f).chans = s.chans := rfl
@[simp] theorem modGroup_resync : (s.modGroup k f).resync = s.resync := rfl
@[simp] theorem modGroup_removed : (s.modGroup k f).removed = s.removed := rfl
@[simp] theorem modGroup_golden : (s.modGroup k f).golden = s.golden := rfl
@[simp] theorem modGroup_queues : (s.modGroup k f).queues = s.queues := rfl
@[simp] theorem modGroup_spaces : (s.modGroup k f).spaces = s.spaces := rfl
@[simp] theorem modGroup_plat : (s.modGroup k f).plat = s.plat := rfl
@[simp] theorem modGroup_fibres : (s.modGroup k f).fibres = s.fibres := rfl
end
section
variable (s : State) (k : Nat) (f : Core → Core)
@[simp] theorem modCore_turns : (s.modCore k f).turns = s.turns := rfl
@[simp] theorem modCore_freeCtr : (s.modCore k f).freeCtr = s.freeCtr := rfl
@[simp] theorem modCore_nextId : (s.modCore k f).nextId = s.nextId := rfl
@[simp] theorem modCore_cur : (s.modCore k f).cur = s.cur := rfl
@[simp] theorem modCore_fresh : (s.modCore k f).fresh = s.fresh := rfl
@[simp] theorem modCore_time : (s.modCore k f).time = s.time := rfl
@[simp] theorem modCore_threads : (s.modCore k f).threads = s.threads := rfl
@[simp] theorem modCore_groups : (s.modCore k f).groups = s.groups := rfl
@[simp] theorem modCore_teams : (s.modCore k f).teams = s.teams := rfl
@[simp] theorem modCore_leases : (s.modCore k f).leases = s.leases := rfl
@[simp] theorem modCore_hist : (s.modCore k f).hist = s.hist := rfl
@[simp] theorem modCore_tasks : (s.modCore k f).tasks = s.tasks := rfl
@[simp] theorem modCore_gens : (s.modCore k f).gens = s.gens := rfl
@[simp] theorem modCore_quadPool : (s.modCore k f).quadPool = s.quadPool := rfl
@[simp] theorem modCore_quadAlloc : (s.modCore k f).quadAlloc = s.quadAlloc := rfl
@[simp] theorem modCore_wides : (s.modCore k f).wides = s.wides := rfl
@[simp] theorem modCore_images : (s.modCore k f).images = s.images := rfl
@[simp] theorem modCore_opqs : (s.modCore k f).opqs = s.opqs := rfl
@[simp] theorem modCore_copies : (s.modCore k f).copies = s.copies := rfl
@[simp] theorem modCore_sends : (s.modCore k f).sends = s.sends := rfl
@[simp] theorem modCore_rows : (s.modCore k f).rows = s.rows := rfl
@[simp] theorem modCore_heldReqs : (s.modCore k f).heldReqs = s.heldReqs := rfl
@[simp] theorem modCore_gainTab : (s.modCore k f).gainTab = s.gainTab := rfl
@[simp] theorem modCore_qsag : (s.modCore k f).qsag = s.qsag := rfl
@[simp] theorem modCore_ssar : (s.modCore k f).ssar = s.ssar := rfl
@[simp] theorem modCore_far : (s.modCore k f).far = s.far := rfl
@[simp] theorem modCore_near : (s.modCore k f).near = s.near := rfl
@[simp] theorem modCore_hostMem : (s.modCore k f).hostMem = s.hostMem := rfl
@[simp] theorem modCore_link : (s.modCore k f).link = s.link := rfl
@[simp] theorem modCore_linkReads : (s.modCore k f).linkReads = s.linkReads := rfl
@[simp] theorem modCore_hostReads : (s.modCore k f).hostReads = s.hostReads := rfl
@[simp] theorem modCore_selectors : (s.modCore k f).selectors = s.selectors := rfl
@[simp] theorem modCore_nodes : (s.modCore k f).nodes = s.nodes := rfl
@[simp] theorem modCore_chans : (s.modCore k f).chans = s.chans := rfl
@[simp] theorem modCore_resync : (s.modCore k f).resync = s.resync := rfl
@[simp] theorem modCore_removed : (s.modCore k f).removed = s.removed := rfl
@[simp] theorem modCore_golden : (s.modCore k f).golden = s.golden := rfl
@[simp] theorem modCore_queues : (s.modCore k f).queues = s.queues := rfl
@[simp] theorem modCore_spaces : (s.modCore k f).spaces = s.spaces := rfl
@[simp] theorem modCore_plat : (s.modCore k f).plat = s.plat := rfl
@[simp] theorem modCore_fibres : (s.modCore k f).fibres = s.fibres := rfl
end
section
variable (s : State) (k : Nat) (f : Node → Node)
@[simp] theorem modNode_turns : (s.modNode k f).turns = s.turns := rfl
@[simp] theorem modNode_freeCtr : (s.modNode k f).freeCtr = s.freeCtr := rfl
@[simp] theorem modNode_nextId : (s.modNode k f).nextId = s.nextId := rfl
@[simp] theorem modNode_cur : (s.modNode k f).cur = s.cur := rfl
@[simp] theorem modNode_fresh : (s.modNode k f).fresh = s.fresh := rfl
@[simp] theorem modNode_time : (s.modNode k f).time = s.time := rfl
@[simp] theorem modNode_threads : (s.modNode k f).threads = s.threads := rfl
@[simp] theorem modNode_groups : (s.modNode k f).groups = s.groups := rfl
@[simp] theorem modNode_teams : (s.modNode k f).teams = s.teams := rfl
@[simp] theorem modNode_cores : (s.modNode k f).cores = s.cores := rfl
@[simp] theorem modNode_leases : (s.modNode k f).leases = s.leases := rfl
@[simp] theorem modNode_hist : (s.modNode k f).hist = s.hist := rfl
@[simp] theorem modNode_tasks : (s.modNode k f).tasks = s.tasks := rfl
@[simp] theorem modNode_gens : (s.modNode k f).gens = s.gens := rfl
@[simp] theorem modNode_quadPool : (s.modNode k f).quadPool = s.quadPool := rfl
@[simp] theorem modNode_quadAlloc : (s.modNode k f).quadAlloc = s.quadAlloc := rfl
@[simp] theorem modNode_wides : (s.modNode k f).wides = s.wides := rfl
@[simp] theorem modNode_images : (s.modNode k f).images = s.images := rfl
@[simp] theorem modNode_opqs : (s.modNode k f).opqs = s.opqs := rfl
@[simp] theorem modNode_copies : (s.modNode k f).copies = s.copies := rfl
@[simp] theorem modNode_sends : (s.modNode k f).sends = s.sends := rfl
@[simp] theorem modNode_rows : (s.modNode k f).rows = s.rows := rfl
@[simp] theorem modNode_heldReqs : (s.modNode k f).heldReqs = s.heldReqs := rfl
@[simp] theorem modNode_gainTab : (s.modNode k f).gainTab = s.gainTab := rfl
@[simp] theorem modNode_qsag : (s.modNode k f).qsag = s.qsag := rfl
@[simp] theorem modNode_ssar : (s.modNode k f).ssar = s.ssar := rfl
@[simp] theorem modNode_far : (s.modNode k f).far = s.far := rfl
@[simp] theorem modNode_near : (s.modNode k f).near = s.near := rfl
@[simp] theorem modNode_hostMem : (s.modNode k f).hostMem = s.hostMem := rfl
@[simp] theorem modNode_link : (s.modNode k f).link = s.link := rfl
@[simp] theorem modNode_linkReads : (s.modNode k f).linkReads = s.linkReads := rfl
@[simp] theorem modNode_hostReads : (s.modNode k f).hostReads = s.hostReads := rfl
@[simp] theorem modNode_selectors : (s.modNode k f).selectors = s.selectors := rfl
@[simp] theorem modNode_chans : (s.modNode k f).chans = s.chans := rfl
@[simp] theorem modNode_resync : (s.modNode k f).resync = s.resync := rfl
@[simp] theorem modNode_removed : (s.modNode k f).removed = s.removed := rfl
@[simp] theorem modNode_golden : (s.modNode k f).golden = s.golden := rfl
@[simp] theorem modNode_queues : (s.modNode k f).queues = s.queues := rfl
@[simp] theorem modNode_spaces : (s.modNode k f).spaces = s.spaces := rfl
@[simp] theorem modNode_plat : (s.modNode k f).plat = s.plat := rfl
@[simp] theorem modNode_fibres : (s.modNode k f).fibres = s.fibres := rfl
end
section
variable (s : State) (k : Nat) (f : Chan → Chan)
@[simp] theorem modChan_turns : (s.modChan k f).turns = s.turns := rfl
@[simp] theorem modChan_freeCtr : (s.modChan k f).freeCtr = s.freeCtr := rfl
@[simp] theorem modChan_nextId : (s.modChan k f).nextId = s.nextId := rfl
@[simp] theorem modChan_cur : (s.modChan k f).cur = s.cur := rfl
@[simp] theorem modChan_fresh : (s.modChan k f).fresh = s.fresh := rfl
@[simp] theorem modChan_time : (s.modChan k f).time = s.time := rfl
@[simp] theorem modChan_threads : (s.modChan k f).threads = s.threads := rfl
@[simp] theorem modChan_groups : (s.modChan k f).groups = s.groups := rfl
@[simp] theorem modChan_teams : (s.modChan k f).teams = s.teams := rfl
@[simp] theorem modChan_cores : (s.modChan k f).cores = s.cores := rfl
@[simp] theorem modChan_leases : (s.modChan k f).leases = s.leases := rfl
@[simp] theorem modChan_hist : (s.modChan k f).hist = s.hist := rfl
@[simp] theorem modChan_tasks : (s.modChan k f).tasks = s.tasks := rfl
@[simp] theorem modChan_gens : (s.modChan k f).gens = s.gens := rfl
@[simp] theorem modChan_quadPool : (s.modChan k f).quadPool = s.quadPool := rfl
@[simp] theorem modChan_quadAlloc : (s.modChan k f).quadAlloc = s.quadAlloc := rfl
@[simp] theorem modChan_wides : (s.modChan k f).wides = s.wides := rfl
@[simp] theorem modChan_images : (s.modChan k f).images = s.images := rfl
@[simp] theorem modChan_opqs : (s.modChan k f).opqs = s.opqs := rfl
@[simp] theorem modChan_copies : (s.modChan k f).copies = s.copies := rfl
@[simp] theorem modChan_sends : (s.modChan k f).sends = s.sends := rfl
@[simp] theorem modChan_rows : (s.modChan k f).rows = s.rows := rfl
@[simp] theorem modChan_heldReqs : (s.modChan k f).heldReqs = s.heldReqs := rfl
@[simp] theorem modChan_gainTab : (s.modChan k f).gainTab = s.gainTab := rfl
@[simp] theorem modChan_qsag : (s.modChan k f).qsag = s.qsag := rfl
@[simp] theorem modChan_ssar : (s.modChan k f).ssar = s.ssar := rfl
@[simp] theorem modChan_far : (s.modChan k f).far = s.far := rfl
@[simp] theorem modChan_near : (s.modChan k f).near = s.near := rfl
@[simp] theorem modChan_hostMem : (s.modChan k f).hostMem = s.hostMem := rfl
@[simp] theorem modChan_link : (s.modChan k f).link = s.link := rfl
@[simp] theorem modChan_linkReads : (s.modChan k f).linkReads = s.linkReads := rfl
@[simp] theorem modChan_hostReads : (s.modChan k f).hostReads = s.hostReads := rfl
@[simp] theorem modChan_selectors : (s.modChan k f).selectors = s.selectors := rfl
@[simp] theorem modChan_nodes : (s.modChan k f).nodes = s.nodes := rfl
@[simp] theorem modChan_resync : (s.modChan k f).resync = s.resync := rfl
@[simp] theorem modChan_removed : (s.modChan k f).removed = s.removed := rfl
@[simp] theorem modChan_golden : (s.modChan k f).golden = s.golden := rfl
@[simp] theorem modChan_queues : (s.modChan k f).queues = s.queues := rfl
@[simp] theorem modChan_spaces : (s.modChan k f).spaces = s.spaces := rfl
@[simp] theorem modChan_plat : (s.modChan k f).plat = s.plat := rfl
@[simp] theorem modChan_fibres : (s.modChan k f).fibres = s.fibres := rfl
end
section
variable (s : State) (k : Nat) (f : Queue → Queue)
@[simp] theorem modQueue_turns : (s.modQueue k f).turns = s.turns := rfl
@[simp] theorem modQueue_freeCtr : (s.modQueue k f).freeCtr = s.freeCtr := rfl
@[simp] theorem modQueue_nextId : (s.modQueue k f).nextId = s.nextId := rfl
@[simp] theorem modQueue_cur : (s.modQueue k f).cur = s.cur := rfl
@[simp] theorem modQueue_fresh : (s.modQueue k f).fresh = s.fresh := rfl
@[simp] theorem modQueue_time : (s.modQueue k f).time = s.time := rfl
@[simp] theorem modQueue_threads : (s.modQueue k f).threads = s.threads := rfl
@[simp] theorem modQueue_groups : (s.modQueue k f).groups = s.groups := rfl
@[simp] theorem modQueue_teams : (s.modQueue k f).teams = s.teams := rfl
@[simp] theorem modQueue_cores : (s.modQueue k f).cores = s.cores := rfl
@[simp] theorem modQueue_leases : (s.modQueue k f).leases = s.leases := rfl
@[simp] theorem modQueue_hist : (s.modQueue k f).hist = s.hist := rfl
@[simp] theorem modQueue_tasks : (s.modQueue k f).tasks = s.tasks := rfl
@[simp] theorem modQueue_gens : (s.modQueue k f).gens = s.gens := rfl
@[simp] theorem modQueue_quadPool : (s.modQueue k f).quadPool = s.quadPool := rfl
@[simp] theorem modQueue_quadAlloc : (s.modQueue k f).quadAlloc = s.quadAlloc := rfl
@[simp] theorem modQueue_wides : (s.modQueue k f).wides = s.wides := rfl
@[simp] theorem modQueue_images : (s.modQueue k f).images = s.images := rfl
@[simp] theorem modQueue_opqs : (s.modQueue k f).opqs = s.opqs := rfl
@[simp] theorem modQueue_copies : (s.modQueue k f).copies = s.copies := rfl
@[simp] theorem modQueue_sends : (s.modQueue k f).sends = s.sends := rfl
@[simp] theorem modQueue_rows : (s.modQueue k f).rows = s.rows := rfl
@[simp] theorem modQueue_heldReqs : (s.modQueue k f).heldReqs = s.heldReqs := rfl
@[simp] theorem modQueue_gainTab : (s.modQueue k f).gainTab = s.gainTab := rfl
@[simp] theorem modQueue_qsag : (s.modQueue k f).qsag = s.qsag := rfl
@[simp] theorem modQueue_ssar : (s.modQueue k f).ssar = s.ssar := rfl
@[simp] theorem modQueue_far : (s.modQueue k f).far = s.far := rfl
@[simp] theorem modQueue_near : (s.modQueue k f).near = s.near := rfl
@[simp] theorem modQueue_hostMem : (s.modQueue k f).hostMem = s.hostMem := rfl
@[simp] theorem modQueue_link : (s.modQueue k f).link = s.link := rfl
@[simp] theorem modQueue_linkReads : (s.modQueue k f).linkReads = s.linkReads := rfl
@[simp] theorem modQueue_hostReads : (s.modQueue k f).hostReads = s.hostReads := rfl
@[simp] theorem modQueue_selectors : (s.modQueue k f).selectors = s.selectors := rfl
@[simp] theorem modQueue_nodes : (s.modQueue k f).nodes = s.nodes := rfl
@[simp] theorem modQueue_chans : (s.modQueue k f).chans = s.chans := rfl
@[simp] theorem modQueue_resync : (s.modQueue k f).resync = s.resync := rfl
@[simp] theorem modQueue_removed : (s.modQueue k f).removed = s.removed := rfl
@[simp] theorem modQueue_golden : (s.modQueue k f).golden = s.golden := rfl
@[simp] theorem modQueue_spaces : (s.modQueue k f).spaces = s.spaces := rfl
@[simp] theorem modQueue_plat : (s.modQueue k f).plat = s.plat := rfl
@[simp] theorem modQueue_fibres : (s.modQueue k f).fibres = s.fibres := rfl
end
section
variable (s : State) (f : Platform → Platform)
@[simp] theorem modPlat_turns : (s.modPlat f).turns = s.turns := rfl
@[simp] theorem modPlat_freeCtr : (s.modPlat f).freeCtr = s.freeCtr := rfl
@[simp] theorem modPlat_nextId : (s.modPlat f).nextId = s.nextId := rfl
@[simp] theorem modPlat_cur : (s.modPlat f).cur = s.cur := rfl
@[simp] theorem modPlat_fresh : (s.modPlat f).fresh = s.fresh := rfl
@[simp] theorem modPlat_time : (s.modPlat f).time = s.time := rfl
@[simp] theorem modPlat_threads : (s.modPlat f).threads = s.threads := rfl
@[simp] theorem modPlat_groups : (s.modPlat f).groups = s.groups := rfl
@[simp] theorem modPlat_teams : (s.modPlat f).teams = s.teams := rfl
@[simp] theorem modPlat_cores : (s.modPlat f).cores = s.cores := rfl
@[simp] theorem modPlat_leases : (s.modPlat f).leases = s.leases := rfl
@[simp] theorem modPlat_hist : (s.modPlat f).hist = s.hist := rfl
@[simp] theorem modPlat_tasks : (s.modPlat f).tasks = s.tasks := rfl
@[simp] theorem modPlat_gens : (s.modPlat f).gens = s.gens := rfl
@[simp] theorem modPlat_quadPool : (s.modPlat f).quadPool = s.quadPool := rfl
@[simp] theorem modPlat_quadAlloc : (s.modPlat f).quadAlloc = s.quadAlloc := rfl
@[simp] theorem modPlat_wides : (s.modPlat f).wides = s.wides := rfl
@[simp] theorem modPlat_images : (s.modPlat f).images = s.images := rfl
@[simp] theorem modPlat_opqs : (s.modPlat f).opqs = s.opqs := rfl
@[simp] theorem modPlat_copies : (s.modPlat f).copies = s.copies := rfl
@[simp] theorem modPlat_sends : (s.modPlat f).sends = s.sends := rfl
@[simp] theorem modPlat_rows : (s.modPlat f).rows = s.rows := rfl
@[simp] theorem modPlat_heldReqs : (s.modPlat f).heldReqs = s.heldReqs := rfl
@[simp] theorem modPlat_gainTab : (s.modPlat f).gainTab = s.gainTab := rfl
@[simp] theorem modPlat_qsag : (s.modPlat f).qsag = s.qsag := rfl
@[simp] theorem modPlat_ssar : (s.modPlat f).ssar = s.ssar := rfl
@[simp] theorem modPlat_far : (s.modPlat f).far = s.far := rfl
@[simp] theorem modPlat_near : (s.modPlat f).near = s.near := rfl
@[simp] theorem modPlat_hostMem : (s.modPlat f).hostMem = s.hostMem := rfl
@[simp] theorem modPlat_link : (s.modPlat f).link = s.link := rfl
@[simp] theorem modPlat_linkReads : (s.modPlat f).linkReads = s.linkReads := rfl
@[simp] theorem modPlat_hostReads : (s.modPlat f).hostReads = s.hostReads := rfl
@[simp] theorem modPlat_selectors : (s.modPlat f).selectors = s.selectors := rfl
@[simp] theorem modPlat_nodes : (s.modPlat f).nodes = s.nodes := rfl
@[simp] theorem modPlat_chans : (s.modPlat f).chans = s.chans := rfl
@[simp] theorem modPlat_resync : (s.modPlat f).resync = s.resync := rfl
@[simp] theorem modPlat_removed : (s.modPlat f).removed = s.removed := rfl
@[simp] theorem modPlat_golden : (s.modPlat f).golden = s.golden := rfl
@[simp] theorem modPlat_queues : (s.modPlat f).queues = s.queues := rfl
@[simp] theorem modPlat_spaces : (s.modPlat f).spaces = s.spaces := rfl
@[simp] theorem modPlat_fibres : (s.modPlat f).fibres = s.fibres := rfl
end

/-! ## The changed fields -/

theorem modThread_threads (s : State) (k : Nat) (f : Thread → Thread) : (s.modThread k f).threads = s.threads.mod k f := rfl
theorem modTeam_teams (s : State) (k : Nat) (f : Team → Team) : (s.modTeam k f).teams = s.teams.mod k f := rfl
theorem modTask_tasks (s : State) (k : Nat) (f : Task → Task) : (s.modTask k f).tasks = s.tasks.mod k f := rfl
theorem modGroup_groups (s : State) (k : Nat) (f : Group → Group) : (s.modGroup k f).groups = s.groups.mod k f := rfl
@[simp] theorem modPlat_plat (s : State) (f : Platform → Platform) : (s.modPlat f).plat = f s.plat := rfl

end Sys2Proof.Machine
end

