-- ==== Sys2Proof/Laws/Ops.lean ====
section
/-!
SUPPORT. What the shared operations of Machine/Ops.lean do: charging, the pipeline of checks of a group instruction and
of a lead instruction, and how a path goes on.
-/
namespace Sys2Proof.Machine

/-! ## Charging -/

/-- What `takeCharge` leaves alone: all but the leases and the charges of R329. -/
theorem takeCharge_frame (s : State) (core task amount bytes : Nat) (l : Lease) :
    takeCharge s core task amount bytes l =
      { s with leases := (takeCharge s core task amount bytes l).leases, hist := (takeCharge s core task amount bytes l).hist } := rfl

/-- A charge that a running task's lease covers is taken from it. -/
theorem charge_covered {s : State} {core task amount : Nat} {who : Payer} {t : Task} {l : Lease} (bytes : Nat)
    (ht : s.tasks.find task = some t) (hl : s.leases.find (leaseKey core task) = some l) (hr : t.state = .running)
    (hh : l.held = false) (ha : amount ≤ (l.usePaid who).bal) (h0 : amount ≠ 0) :
    charge s core task who amount bytes = (true, takeCharge s core task amount bytes (l.usePaid who)) := by
  simp only [charge, h0, ht, hl, hr, hh, ha, if_false, if_true, ne_eq, not_true_eq_false]
  split <;> rfl

/-- Whatever a charge comes to, it changes only the leases and the charges of R329. -/
theorem charge_frame (s : State) (core task : Nat) (who : Payer) (amount bytes : Nat) :
    (charge s core task who amount bytes).2 =
      { s with leases := (charge s core task who amount bytes).2.leases, hist := (charge s core task who amount bytes).2.hist } := by
  unfold charge
  split
  · rfl
  · split
    · rfl
    · split
      · split <;> rfl
      · split
        · rfl
        · split
          · rfl
          · split
            · rfl
            · split <;> rfl

/-! ## A group instruction -/

@[simp] theorem trapsOf_ok (f : Nat → Verdict) (ls : List Nat) (h : ∀ l ∈ ls, f l = .ok) :
    trapsOf (ls.map (fun l => (l, f l))) = [] := by
  simp only [trapsOf, List.filterMap_map, List.filterMap_eq_nil_iff]
  intro l hl; simp [h l hl]

theorem okLanes_ok (f : Nat → Verdict) (ls : List Nat) (h : ∀ l ∈ ls, f l = .ok) :
    okLanes (ls.map (fun l => (l, f l))) = ls := by
  unfold okLanes
  rw [List.filter_eq_self.mpr (by simpa using h)]
  simp [Function.comp_def]

theorem missOf_ok (f : Nat → Verdict) (ls : List Nat) (h : ∀ l ∈ ls, f l = .ok) :
    missOf (ls.map (fun l => (l, f l))) = none := by
  simp only [missOf, List.findSome?_map, List.findSome?_eq_none_iff]
  intro l hl; simp [h l hl]

@[simp] theorem sysTrap_none (c : GCtx) (w : Word) (p : Pos) (s : State) : sysTrap c w p none s = s := rfl
@[simp] theorem parkAfterTrap_nil (c : GCtx) (s : State) : parkAfterTrap c [] s = s := rfl
@[simp] theorem splitSet_whole (c : GCtx) (w : Word) (s : State) : splitSet c w [] [] c.path.lanes s = s := by
  simp [splitSet]
@[simp] theorem unhandled_nil (c : GCtx) (s : State) : unhandled c [] s = none := rfl

/-- When every check of every thread passes, no resource is waited for and the charge is taken, a group instruction has
its effect in the whole path, in the state in which the charge has been taken. -/
theorem groupOp_runs {i : Instr} {chk : State → GCtx → Nat → Verdict} {hold : State → GCtx → Bool}
    {fin : GCtx → List Nat → State → State} {s s' : State} {c : GCtx} (hc : gctx s = some c)
    (hl : c.path.lanes ≠ []) (hk : i.classOk c.path.pos.cls = true)
    (ht : ∀ l ∈ c.path.lanes, operandTrap i (s.thread c.gk l) = none)
    (hw : ∀ l ∈ c.path.lanes, operandWait i (s.thread c.gk l) = false)
    (hv : ∀ l ∈ c.path.lanes, chk s c l = .ok) (hh : hold s c = false)
    (hp : charge s c.core c.team.task c.payer (c.path.lanes.length * i.cost) (c.path.lanes.length * i.byteCost)
      = (true, s')) :
    groupOp i chk hold fin s = .next (fin c c.path.lanes s') := by
  have h1 : c.path.lanes.filterMap (fun l => (operandTrap i (s.thread c.gk l)).map (fun t => (l, t))) = [] := by
    rw [List.filterMap_eq_nil_iff]; intro l h; simp [ht l h]
  have h2 : c.path.lanes.filter (fun l => (operandTrap i (s.thread c.gk l)).isNone) = c.path.lanes := by
    rw [List.filter_eq_self]; intro l h; simp [ht l h]
  have h3 : c.path.lanes.any (fun l => operandWait i (s.thread c.gk l)) = false := by
    rw [List.any_eq_false]; intro l h; simp [hw l h]
  have h4 : (c.path.lanes.map (fun l => (l, chk s c l))).any (fun v => v.2 == .lost) = false := by
    rw [List.any_eq_false]; intro v h
    obtain ⟨l, hl', rfl⟩ := List.mem_map.mp h
    simp [hv l hl']
  have h5 : (c.path.lanes.map (fun l => (l, chk s c l))).filter (fun v => v.2 == .absent) = [] := by
    rw [List.filter_eq_nil_iff]; intro v h
    obtain ⟨l, hl', rfl⟩ := List.mem_map.mp h
    simp [hv l hl']
  have h6 : c.keep c.path.lanes = c := rfl
  simp only [groupOp, hc, hk, if_true, h1, h2, h3, Bool.false_eq_true, if_false, issueGroup, h4, h5,
    trapsOf_ok (chk s c) _ hv, okLanes_ok (chk s c) _ hv, missOf_ok (chk s c) _ hv, hh, hp, List.append_nil, List.nil_append,
    unhandled_nil, sysTrap_none, List.isEmpty_eq_false_iff.mpr hl, List.map_nil, splitSet_whole, parkAfterTrap_nil, h6]

/-! ## A lead instruction -/

/-- When every check passes and the charge is taken, a lead instruction has its effect in the state in which the charge
has been taken. -/
theorem leadOp_runs {i : Instr} {chk : State → LCtx → LVerdict} {cost : State → LCtx → Nat × Nat}
    {fin : LCtx → State → State} {s s' : State} {c : LCtx} (hc : lctx s = some c) (hf : c.team.lead.free = true)
    (hs : ∀ r ∈ i.lsrcs, c.team.lead.full r = true) (hd : ∀ r ∈ i.ldsts, c.team.lead.full r = true)
    (hv : chk s c = .ok)
    (hp : charge s c.core c.team.task c.payer (cost s c).1 (cost s c).2 = (true, s')) :
    leadOp i chk cost fin s = .next (fin c s') := by
  have h1 : i.lsrcs.any (fun r => !c.team.lead.full r) = false := by
    rw [List.any_eq_false]; intro r h; simp [hs r h]
  have h2 : i.ldsts.any (fun r => !c.team.lead.full r) = false := by
    rw [List.any_eq_false]; intro r h; simp [hd r h]
  simp only [leadOp, hc, hf, h1, h2, hv, hp, Bool.not_true, Bool.or_self, Bool.false_eq_true, if_false, if_true]

/-! ## The threads of a path -/

/-- The entries after a change of those whose keys satisfy `p`. -/
theorem SMap.find_mapIf {β : Type} (m : SMap β) (p : Nat → Bool) (f : Nat → β → β) (k : Nat) :
    (SMap.mapIf m p f).find k = if p k then (m.find k).map (f k) else m.find k := by
  induction m with
  | nil => simp [SMap.mapIf, SMap.find]
  | cons e m ih =>
    have hm : SMap.mapIf (e :: m) p f = (if p e.1 then (e.1, f e.1 e.2) else e) :: SMap.mapIf m p f := rfl
    have key : ∀ x : Nat × β, x.1 = e.1 →
        SMap.find (x :: SMap.mapIf m p f) k = if k = e.1 then some x.2 else SMap.find (SMap.mapIf m p f) k := by
      intro x hx; rw [← hx]; rfl
    rw [hm, key _ (by split <;> rfl), ih]
    by_cases hk : k = e.1
    · subst hk
      by_cases hp : p e.1 = true <;> simp [SMap.find, hp]
    · have : SMap.find (e :: m) k = SMap.find m k := by simp only [SMap.find, if_neg hk]
      rw [if_neg hk, this]

/-- The threads after a change of some lanes of a group. -/
theorem find_onLanes (s : State) (gk : Nat) (lanes : List Nat) (f : Nat → Thread → Thread) (k : Nat) :
    (s.onLanes gk lanes f).threads.find k =
      if k / 64 = gk ∧ k % 64 ∈ lanes then (s.threads.find k).map (f (k % 64)) else s.threads.find k := by
  simp only [State.onLanes, SMap.find_mapIf, Bool.and_eq_true, decide_eq_true_eq, List.contains_iff_mem]

/-! ## How a path goes on -/

@[simp] theorem releaseG_threads (s : State) (core : Nat) : (releaseG s core).threads = s.threads := rfl
@[simp] theorem setRunning_threads (s : State) (gk : Nat) (p : Option Path) : (setRunning s gk p).threads = s.threads := rfl
@[simp] theorem parkPath_threads (s : State) (gk : Nat) (p : Path) : (parkPath s gk p).threads = s.threads := by
  unfold parkPath; split <;> rfl

theorem PlaceOnly.refl (gk core : Nat) (s : State) : PlaceOnly gk core s s :=
  ⟨rfl, fun _ _ => rfl, fun k => by split <;> rfl⟩

theorem PlaceOnly.trans {gk core : Nat} {s t u : State} (h : PlaceOnly gk core s t) (h' : PlaceOnly gk core t u) :
    PlaceOnly gk core s u := by
  obtain ⟨h1, h2, h3⟩ := h
  obtain ⟨h1', h2', h3'⟩ := h'
  refine ⟨?_, fun k hk => (h2' k hk).trans (h2 k hk), fun k => ?_⟩
  · rw [h1', h1]
  · rw [h3' k]
    split
    · rename_i hk; rw [h3 k, if_pos hk]
    · rename_i hk; rw [h3 k, if_neg hk]

theorem placeOnly_modGroup (gk core : Nat) (s : State) (f : Group → Group) : PlaceOnly gk core s (s.modGroup gk f) :=
  ⟨rfl, fun k hk => by rw [modGroup_groups, SMap.find_mod, if_neg hk], fun k => by split <;> rfl⟩

theorem core_modCore (s : State) (k j : Nat) (f : Core → Core) :
    (s.modCore k f).core j = if j = k then f (s.core k) else s.core j := SMap.get_set _ _ _ _ _

theorem placeOnly_releaseG (gk core : Nat) (s : State) : PlaceOnly gk core s (releaseG s core) :=
  ⟨rfl, fun _ _ => rfl, fun k => by
    unfold releaseG
    rw [core_modCore]
    split
    · rename_i h; subst h; rfl
    · rfl⟩

theorem placeOnly_setRunning (gk core : Nat) (s : State) (p : Option Path) : PlaceOnly gk core s (setRunning s gk p) :=
  placeOnly_modGroup gk core s _

theorem placeOnly_parkPath (gk core : Nat) (s : State) (p : Path) : PlaceOnly gk core s (parkPath s gk p) := by
  unfold parkPath
  split
  · exact PlaceOnly.refl gk core s
  · exact placeOnly_modGroup gk core s _

theorem placeOnly_parkRunning (gk core : Nat) (s : State) (p : Path) : PlaceOnly gk core s (parkRunning s gk core p) :=
  ((placeOnly_setRunning gk core s none).trans (placeOnly_parkPath gk core _ p)).trans (placeOnly_releaseG gk core _)

/-- Going on changes only where the paths of the group stand, and the issue slot. -/
theorem placeOnly_goOn (c : GCtx) (w : PWait) (s : State) : PlaceOnly c.gk c.core s (goOn c w s) := by
  unfold goOn
  simp only
  split
  · exact placeOnly_parkRunning _ _ _ _
  · split
    · split
      · exact placeOnly_parkRunning _ _ _ _
      · exact (placeOnly_setRunning c.gk c.core s _).trans (placeOnly_releaseG c.gk c.core _)
    · exact placeOnly_setRunning c.gk c.core s _

/-- An instruction that only changes each thread by itself runs whenever its path is ready. -/
theorem threadOp_runs {i : Instr} {s s' : State} {c : GCtx} (f : Thread → Thread) (h : PathReady i s c s') :
    ∃ t, threadOp i f s = .next t ∧ Ran c (fun _ => f) s' t :=
  ⟨_, groupOp_runs h.ctx h.lanes h.cls h.full h.free (fun _ _ => rfl) rfl h.paid, placeOnly_goOn _ _ _⟩

/-! ## How a lead goes on -/

theorem modLead_teams (s : State) (k j : Nat) (f : Lead → Lead) :
    (s.modLead k f).teams.find j =
      if j = k then (s.teams.find j).map (fun tm => { tm with lead := f tm.lead }) else s.teams.find j := by
  show (s.teams.mod k _).find j = _
  rw [SMap.find_mod]
  split
  · rename_i h; rw [h]
  · rfl

/-- Going on takes the lead to its next word. -/
theorem leadOn_on (c : LCtx) (s : State) : LeadOn c s (leadOn c s) := by
  have h1 : ∀ k, (s.modLead c.tk (fun l => { l with pc := l.pc + 4#64, remain := l.remain - 1 })).teams.find k = if k = c.tk
      then (s.teams.find k).map (fun tm =>
        { tm with lead := { tm.lead with pc := tm.lead.pc + 4#64, remain := tm.lead.remain - 1 } })
      else s.teams.find k := fun k => by rw [modLead_teams]
  unfold leadOn
  simp only
  split
  · refine ⟨rfl, h1, fun k => ?_⟩
    unfold releaseL
    rw [core_modCore]
    split
    · rename_i h; subst h; rfl
    · rfl
  · exact ⟨rfl, h1, fun k => by split <;> rfl⟩

/-- A lead instruction that only changes the lead's registers runs whenever the lead is ready. -/
theorem scalarOp_runs {i : Instr} {s s' : State} {c : LCtx} (f : Lead → Lead) (h : LeadReady i 1 0 s c s') :
    ∃ t, scalarOp i f s = .next t ∧ LeadRan c f s' t :=
  ⟨_, leadOp_runs h.ctx h.free h.srcs h.dsts rfl h.paid, leadOn_on _ _⟩

end Sys2Proof.Machine
end

