-- ==== Sys2Proof/Laws/Kept.lean ====
section
/-!
SUPPORT. What no operation touches but those that write physical memory (Laws/Wrote.lean): `State.kept` is the part of the
state made of the memories, the time counter and the schedule; every operation here leaves it as it is.  `keptOut`,
`keptOpt` and `keptOpt2` say so of a function that answers an outcome or an option.
-/
set_option linter.unusedTactic false
set_option linter.unreachableTactic false
namespace Sys2Proof.Machine
/-- The memories, the time counter and the schedule. -/
def State.kept (s : State) := (s.far, s.near, s.hostMem, s.time, s.turns)
@[simp] theorem kept_mk (a1 a2 a3 a4 a5 a6 a7 a8 a9 a10 a11 a12 a13 a14 a15 a16 a17 a18 a19 a20 a21 a22 a23 a24 a25 a26 a27 a28 a29 a30 a31 a32 a33 a34 a35 a36 a37 a38 a39 a40 a41 a42) :
  (State.mk a1 a2 a3 a4 a5 a6 a7 a8 a9 a10 a11 a12 a13 a14 a15 a16 a17 a18 a19 a20 a21 a22 a23 a24 a25 a26 a27 a28 a29 a30 a31 a32 a33 a34 a35 a36 a37 a38 a39 a40 a41 a42).kept = (a27, a28, a29, a6, a1) := rfl
@[simp] theorem kept_fold (s : State) : (s.far, s.near, s.hostMem, s.time, s.turns) = s.kept := rfl
@[simp] theorem ite_kept (c : Prop) [Decidable c] (a b : State) : (if c then a else b).kept = if c then a.kept else b.kept := by split <;> rfl
@[simp] theorem foldl_kept {α : Type} (g : State → α → State) (h : ∀ s x, (g s x).kept = s.kept) (l : List α) (s : State) :
    (l.foldl g s).kept = s.kept := by
  induction l generalizing s with
  | nil => rfl
  | cons x l ih => rw [List.foldl_cons, ih, h]
@[simp] theorem foldl_kept2 {α β : Type} (g : State × β → α → State × β) (h : ∀ p x, (g p x).1.kept = p.1.kept) (l : List α) (p : State × β) :
    (l.foldl g p).1.kept = p.1.kept := by
  induction l generalizing p with
  | nil => rfl
  | cons x l ih => rw [List.foldl_cons, ih, h]
/-- If the outcome is a next state, it keeps them. -/
def keptOut (o : Out) (s : State) : Prop := ∀ t, o = .next t → t.kept = s.kept
theorem keptOut_next {t s : State} (h : t.kept = s.kept) : keptOut (.next t) s := by intro u hu; injection hu with hu; subst hu; exact h
theorem keptOut_refused (r : Refusal) (s : State) : keptOut (.refused r) s := by intro u hu; cases hu
theorem keptOut_fault (r : Fault) (s : State) : keptOut (.fault r) s := by intro u hu; cases hu
/-- If there is an answer, it keeps them. -/
def keptOpt (o : Option State) (s : State) : Prop := ∀ t, o = some t → t.kept = s.kept
theorem keptOpt_some {t s : State} (h : t.kept = s.kept) : keptOpt (some t) s := by intro u hu; injection hu with hu; subst hu; exact h
theorem keptOpt_none (s : State) : keptOpt none s := by intro u hu; cases hu
/-- If there is an answer, its state keeps them. -/
def keptOpt2 {β : Type} (o : Option (State × β)) (s : State) : Prop := ∀ t, o = some t → t.1.kept = s.kept
theorem keptOpt2_some {β : Type} {t : State × β} {s : State} (h : t.1.kept = s.kept) : keptOpt2 (some t) s := by intro u hu; injection hu with hu; subst hu; exact h
theorem keptOpt2_none {β : Type} (s : State) : keptOpt2 (none : Option (State × β)) s := by intro u hu; cases hu

@[simp] theorem onLanes_kept (s : State) (gk : Nat) (lanes : List Nat) (f : Nat → Thread → Thread) : (State.onLanes s gk lanes f).kept = s.kept := by
  unfold State.onLanes; simp

@[simp] theorem modThread_kept (s : State) (k : Nat) (f : Thread → Thread) : (State.modThread s k f).kept = s.kept := by
  unfold State.modThread; simp

@[simp] theorem modTeam_kept (s : State) (tk : Nat) (f : Team → Team) : (State.modTeam s tk f).kept = s.kept := by
  unfold State.modTeam; simp

@[simp] theorem modLead_kept (s : State) (tk : Nat) (f : Lead → Lead) : (State.modLead s tk f).kept = s.kept := by
  unfold State.modLead; simp

@[simp] theorem modTask_kept (s : State) (k : Nat) (f : Task → Task) : (State.modTask s k f).kept = s.kept := by
  unfold State.modTask; simp

@[simp] theorem modGroup_kept (s : State) (k : Nat) (f : Group → Group) : (State.modGroup s k f).kept = s.kept := by
  unfold State.modGroup; simp

@[simp] theorem modCore_kept (s : State) (k : Nat) (f : Core → Core) : (State.modCore s k f).kept = s.kept := by
  unfold State.modCore; simp

@[simp] theorem modNode_kept (s : State) (k : Nat) (f : Node → Node) : (State.modNode s k f).kept = s.kept := by
  unfold State.modNode; simp

@[simp] theorem modChan_kept (s : State) (k : Nat) (f : Chan → Chan) : (State.modChan s k f).kept = s.kept := by
  unfold State.modChan; simp

@[simp] theorem modQueue_kept (s : State) (k : Nat) (f : Queue → Queue) : (State.modQueue s k f).kept = s.kept := by
  unfold State.modQueue; simp

@[simp] theorem modPlat_kept (s : State) (f : Platform → Platform) : (State.modPlat s f).kept = s.kept := by
  unfold State.modPlat; simp

@[simp] theorem refreshA_kept (s : State) (k : Nat) : (State.refreshA s k).kept = s.kept := by
  unfold State.refreshA; simp

@[simp] theorem sendCausal_kept (s : State) (i dst : Nat) (b : Body) : (State.sendCausal s i dst b).kept = s.kept := by
  unfold State.sendCausal; simp

@[simp] theorem sendResp_kept (s : State) (k dst : Nat) (b : RBody) : (State.sendResp s k dst b).kept = s.kept := by
  unfold State.sendResp; simp

@[simp] theorem learn_kept (s : State) (i : Nat) (v : Stamp) : (State.learn s i v).kept = s.kept := by
  unfold State.learn; simp

@[simp] theorem sendOps_kept (s : State) (q node : Nat) (b os : List MemOp) : (sendOps s q node b os).1.kept = s.kept := by
  induction os generalizing s b with
  | nil => rfl
  | cons o os ih => unfold sendOps; split <;> simp [ih]

@[simp] theorem flushOps_kept (s : State) (q : Nat) : (State.flushOps s q).kept = s.kept := by
  unfold State.flushOps; split <;> simp

@[simp] theorem addOp_kept (s : State) (q : Nat) (who : Who) (task node : Nat) (o : MemOp) : (State.addOp s q who task node o).kept = s.kept := by
  unfold State.addOp; simp

@[simp] theorem delOp_kept (s : State) (q op : Nat) : (State.delOp s q op).kept = s.kept := by
  unfold State.delOp; simp

@[simp] theorem storeOver_kept (s : State) (q : Nat) : (State.storeOver s q).kept = s.kept := by
  unfold State.storeOver; simp

@[simp] theorem addEdge_kept (s : State) (q : Nat) (who : Who) (task node id : Nat) (dq : Bool) : (State.addEdge s q who task node id dq).kept = s.kept := by
  unfold State.addEdge; simp

@[simp] theorem gotEdge_kept (s : State) (q : Nat) (hit : MemOp → Bool) (know : Stamp) : (State.gotEdge s q hit know).kept = s.kept := by
  unfold State.gotEdge; simp

@[simp] theorem noteTlb_kept (s : State) (core space va : Nat) : (State.noteTlb s core space va).kept = s.kept := by
  unfold State.noteTlb; split <;> simp

@[simp] theorem modWide_kept (s : State) (k : Nat) (f : WideBar → WideBar) : (State.modWide s k f).kept = s.kept := by
  unfold State.modWide; simp

@[simp] theorem podCount_kept (s : State) (task : Nat) (pod : BitVec 16) (w : WideBar) : (podCount s task pod w).kept = s.kept := by
  unfold podCount; simp

@[simp] theorem podArrive_kept (s : State) (t : Team) (pod : BitVec 16) (know : Stamp) : (podArrive s t pod know).kept = s.kept := by
  unfold podArrive; simp

@[simp] theorem wideArrive_kept (s : State) (t : Team) (b : Barrier) (k : Nat) : (wideArrive s t b k).kept = s.kept := by
  unfold wideArrive; split <;> simp

@[simp] theorem countGroup_kept (s : State) (tk gk gid k : Nat) : (countGroup s tk gk gid k).kept = s.kept := by
  unfold countGroup; (repeat' split) <;> simp

@[simp] theorem countTeam_kept (s : State) (tk k : Nat) : (countTeam s tk k).kept = s.kept := by
  unfold countTeam; split <;> simp

@[simp] theorem countArrivals_kept (s : State) (tk : Nat) : (countArrivals s tk).kept = s.kept := by
  unfold countArrivals; simp

@[simp] theorem forgetArrivals_kept (s : State) (tk k : Nat) : (forgetArrivals s tk k).kept = s.kept := by
  unfold forgetArrivals; simp

@[simp] theorem completeBar_kept (s : State) (tk k : Nat) : (completeBar s tk k).kept = s.kept := by
  unfold completeBar; split <;> simp

@[simp] theorem completeWide_kept (s : State) (key : Nat) (w : WideBar) : (completeWide s key w).kept = s.kept := by
  unfold completeWide; simp

@[simp] theorem completePhases_kept (s : State) : (completePhases s).kept = s.kept := by
  unfold completePhases; simp

@[simp] theorem releaseGroup_kept (s : State) (tk gk : Nat) : (releaseGroup s tk gk).kept = s.kept := by
  unfold releaseGroup; split <;> simp

@[simp] theorem releaseLeadWait_kept (s : State) (tk : Nat) : (releaseLeadWait s tk).kept = s.kept := by
  unfold releaseLeadWait; simp

@[simp] theorem releaseTeam_kept (s : State) (tk : Nat) : (releaseTeam s tk).kept = s.kept := by
  unfold releaseTeam; simp

@[simp] theorem releaseWaits_kept (s : State) : (releaseWaits s).kept = s.kept := by
  unfold releaseWaits; simp

@[simp] theorem wideTeamEnd_kept (s : State) (uid : Nat) : (wideTeamEnd s uid).kept = s.kept := by
  unfold wideTeamEnd; simp

@[simp] theorem wideTaskEnd_kept (s : State) (task : Nat) : (wideTaskEnd s task).kept = s.kept := by
  unfold wideTaskEnd; simp

@[simp] theorem returnLease_kept (s : State) (core task : Nat) : (returnLease s core task).kept = s.kept := by
  unfold returnLease; split <;> simp

@[simp] theorem recallLeases_kept (s : State) (task : Nat) : (recallLeases s task).kept = s.kept := by
  unfold recallLeases; simp

@[simp] theorem refuseHeld_kept (s : State) (home row : Nat) (cause : Cause) : (refuseHeld s home row cause).kept = s.kept := by
  unfold refuseHeld; exact foldl_kept _ (fun s x => by split <;> simp) _ _

@[simp] theorem freeRow_kept (s : State) (row : Nat) : (freeRow s row).kept = s.kept := by
  unfold freeRow; simp

@[simp] theorem withdrawLoads_kept (s : State) (uid : Nat) : (withdrawLoads s uid).kept = s.kept := by
  unfold withdrawLoads; simp

@[simp] theorem dropTeam_kept (s : State) (tk : Nat) : (dropTeam s tk).kept = s.kept := by
  unfold dropTeam; split <;> simp

@[simp] theorem releaseQuad_kept (s : State) (task quad : Nat) : (releaseQuad s task quad).kept = s.kept := by
  unfold releaseQuad; simp

@[simp] theorem recordDrop_kept (s : State) (task n : Nat) : (recordDrop s task n).kept = s.kept := by
  unfold recordDrop; simp

@[simp] theorem dropInbox_kept (s : State) (uid : Nat) : (dropInbox s uid).kept = s.kept := by
  unfold dropInbox; simp

@[simp] theorem freeTeam_kept (s : State) (tk : Nat) : (freeTeam s tk).kept = s.kept := by
  unfold freeTeam; split <;> simp

@[simp] theorem cancelTask_kept (s : State) (k : Nat) : (cancelTask s k).kept = s.kept := by
  unfold cancelTask; simp

@[simp] theorem unwindTask_kept (s : State) (k : Nat) : (unwindTask s k).kept = s.kept := by
  unfold unwindTask; exact foldl_kept _ (fun s x => by split <;> simp) _ _

@[simp] theorem failTask_kept (s : State) (k cause : Nat) : (failTask s k cause).kept = s.kept := by
  unfold failTask; split <;> simp

@[simp] theorem takeCharge_kept (s : State) (core task amount bytes : Nat) (l : Lease) : (takeCharge s core task amount bytes l).kept = s.kept := by
  unfold takeCharge; simp

@[simp] theorem charge_kept (s : State) (core task : Nat) (who : Payer) (amount bytes : Nat) :
    (charge s core task who amount bytes).2.kept = s.kept := by
  rw [charge_frame]; simp

@[simp] theorem refund_kept (s : State) (task amount : Nat) : (refund s task amount).kept = s.kept := by
  unfold refund; simp

@[simp] theorem releaseG_kept (s : State) (core : Nat) : (releaseG s core).kept = s.kept := by
  unfold releaseG; simp

@[simp] theorem releaseL_kept (s : State) (core : Nat) : (releaseL s core).kept = s.kept := by
  unfold releaseL; simp

@[simp] theorem setRunning_kept (s : State) (gk : Nat) (p : Option Path) : (setRunning s gk p).kept = s.kept := by
  unfold setRunning; simp

@[simp] theorem parkPath_kept (s : State) (gk : Nat) (p : Path) : (parkPath s gk p).kept = s.kept := by
  unfold parkPath; simp

@[simp] theorem parkRunning_kept (s : State) (gk core : Nat) (p : Path) : (parkRunning s gk core p).kept = s.kept := by
  unfold parkRunning; simp

@[simp] theorem goOn_kept (c : GCtx) (w : PWait) (s : State) : (goOn c w s).kept = s.kept := by
  unfold goOn; simp

@[simp] theorem goSwitch_kept (c : GCtx) (s : State) : (goSwitch c s).kept = s.kept := by
  unfold goSwitch; simp

@[simp] theorem stallPath_kept (c : GCtx) (s : State) : (stallPath c s).kept = s.kept := by
  unfold stallPath; simp

@[simp] theorem systemHandler_kept (s : State) (task cause : Nat) (t0 word : Word) (pc addr : DWord) : (systemHandler s task cause t0 word pc addr).kept = s.kept := by
  unfold systemHandler; simp

@[simp] theorem leadTrap_kept (c : LCtx) (word : Word) (i : TrapInfo) (s : State) : (leadTrap c word i s).kept = s.kept := by
  unfold leadTrap; simp

@[simp] theorem trapLanes_kept (c : GCtx) (word : Word) (p : Pos) (resume : DWord) (ts : List (Nat × TrapInfo)) (s : State) : (trapLanes c word p resume ts s).kept = s.kept := by
  unfold trapLanes; simp

@[simp] theorem sysTrap_kept (c : GCtx) (word : Word) (p : Pos) (t : Option (Nat × TrapInfo)) (s : State) : (sysTrap c word p t s).kept = s.kept := by
  unfold sysTrap; split <;> simp

@[simp] theorem noteMiss_kept (s : State) (tk : Nat) (t : Team) (k : Task) (m : Miss) (a : Acc) : (noteMiss s tk t k m a).kept = s.kept := by
  unfold noteMiss; simp

@[simp] theorem splitSet_kept (c : GCtx) (word : Word) (ts : List (Nat × TrapInfo)) (away here : List Nat) (s : State) : (splitSet c word ts away here s).kept = s.kept := by
  unfold splitSet; simp

@[simp] theorem parkAfterTrap_kept (c : GCtx) (ts : List (Nat × TrapInfo)) (s : State) : (parkAfterTrap c ts s).kept = s.kept := by
  unfold parkAfterTrap; (repeat' split) <;> simp

theorem issueGroup_kept {i : Instr} {hold : State → GCtx → Bool} {fin : GCtx → List Nat → State → State} (hf : ∀ c ls s, (fin c ls s).kept = s.kept)
    (c : GCtx) (ts : List (Nat × TrapInfo)) (vs : List (Nat × Verdict)) (s : State) : (issueGroup i hold fin c ts vs s).kept = s.kept := by
  unfold issueGroup; simp only
  repeat' (first | (simp [hf]; done) | split)

theorem groupOp_kept {i : Instr} {chk : State → GCtx → Nat → Verdict} {hold : State → GCtx → Bool}
    {fin : GCtx → List Nat → State → State} (hf : ∀ c ls s, (fin c ls s).kept = s.kept) {s : State} :
    keptOut (groupOp i chk hold fin s) s := by
  unfold groupOp
  repeat' (first | exact keptOut_refused _ _ | (refine keptOut_next ?_) | (simp; done) | exact issueGroup_kept hf _ _ _ _ | split | dsimp only)

@[simp] theorem eachThread_kept (f : Thread → Thread) (c : GCtx) (lanes : List Nat) (s : State) : (eachThread f c lanes s).kept = s.kept := by
  unfold eachThread; simp

theorem threadOp_kept (i : Instr) (f : Thread → Thread) (s : State) : keptOut (threadOp i f s) s := by
  unfold threadOp; refine groupOp_kept (fun c ls s => ?_); simp

@[simp] theorem leadOn_kept (c : LCtx) (s : State) : (leadOn c s).kept = s.kept := by
  unfold leadOn; simp

@[simp] theorem leadOnWait_kept (i : Instr) (c : LCtx) (w : LWait) (s : State) : (leadOnWait i c w s).kept = s.kept := by
  unfold leadOnWait; simp

theorem leadOp_kept {i : Instr} {chk : State → LCtx → LVerdict} {cost : State → LCtx → Nat × Nat} {fin : LCtx → State → State}
    (hf : ∀ c s, (fin c s).kept = s.kept) {s : State} : keptOut (leadOp i chk cost fin s) s := by
  unfold leadOp
  repeat' (first | exact keptOut_refused _ _ | (refine keptOut_next ?_) | (simp [hf]; done) | split | dsimp only)

theorem scalarOp_kept (i : Instr) (f : Lead → Lead) (s : State) : keptOut (scalarOp i f s) s := by
  unfold scalarOp; refine leadOp_kept (fun c s => ?_); simp

@[simp] theorem headerTrap_kept (c : GCtx) (w : Word) (cause : Cause) (addr : DWord) (s : State) : (headerTrap c w cause addr s).kept = s.kept := by
  unfold headerTrap; simp

@[simp] theorem headerWord_kept (c : GCtx) (w : Word) (s : State) : (headerWord c w s).kept = s.kept := by
  unfold headerWord; split <;> simp

@[simp] theorem groupHeader_kept (c : GCtx) (s : State) : (groupHeader c s).kept = s.kept := by
  unfold groupHeader; split <;> simp

@[simp] theorem leadHeaderWord_kept (c : LCtx) (w : Word) (s : State) : (leadHeaderWord c w s).kept = s.kept := by
  unfold leadHeaderWord; simp

@[simp] theorem leadHeader_kept (c : LCtx) (s : State) : (leadHeader c s).kept = s.kept := by
  unfold leadHeader; (repeat' split) <;> simp

@[simp] theorem wordTrap_kept (c : GCtx) (w : Word) (cause : Cause) (addr : DWord) (s : State) : (wordTrap c w cause addr s).kept = s.kept := by
  unfold wordTrap; simp

@[simp] theorem convergeAt_kept (s : State) (gk : Nat) : (convergeAt s gk).kept = s.kept := by
  unfold convergeAt; (repeat' split) <;> simp

@[simp] theorem noteRetired_kept (s : State) (tk : Nat) : (noteRetired s tk).kept = s.kept := by
  unfold noteRetired; repeat' (first | (simp; done) | split)

@[simp] theorem retireGroup_kept (s : State) (gk : Nat) : (retireGroup s gk).kept = s.kept := by
  unfold retireGroup; split <;> simp

@[simp] theorem exitLanes_kept (s : State) (gk : Nat) (lanes : List Nat) : (exitLanes s gk lanes).kept = s.kept := by
  unfold exitLanes; split <;> simp

@[simp] theorem threadAccess_kept (c : GCtx) (lane : Nat) (loc : Loc) (n : Nat) (k : OpKind) (s : State) : (threadAccess c lane loc n k s).kept = s.kept := by
  unfold threadAccess; simp

@[simp] theorem threadLoad_kept (c : GCtx) (lane : Nat) (loc : Loc) (n : Nat) (form : LoadForm) (rs : List Nat) (s : State) : (threadLoad c lane loc n form rs s).kept = s.kept := by
  unfold threadLoad; simp

@[simp] theorem eachLane_kept (f : Nat → State → State) (hf : ∀ l s, (f l s).kept = s.kept) (lanes : List Nat) (s : State) :
    (eachLane f lanes s).kept = s.kept := foldl_kept _ (fun s x => hf x s) _ _

@[simp] theorem settle_kept (s : State) (tk gk : Nat) (p : Path) : (settle s tk gk p).kept = s.kept := by
  unfold settle; (repeat' split) <;> simp

@[simp] theorem answerPath_kept (s : State) (uid gid id : Nat) (a : Answer) : (answerPath s uid gid id a).kept = s.kept := by
  unfold answerPath; repeat' (first | (simp; done) | split | (dsimp only; done) | dsimp only)

@[simp] theorem deliver_kept (s : State) (oq : OpQ) (o : MemOp) (bs : List Byte) : (deliver s oq o bs).kept = s.kept := by
  unfold deliver; (repeat' split) <;> simp

@[simp] theorem endOp_kept (s : State) (q : Nat) (o : MemOp) : (State.endOp s q o).kept = s.kept := by
  unfold State.endOp; simp

@[simp] theorem deliverQueue_kept (n : Nat) (s : State) (id : Nat) : (deliverQueue n s id).kept = s.kept := by
  induction n generalizing s id with
  | zero => rfl
  | succ n ih =>
    unfold deliverQueue
    repeat' (first | rfl | (simp [ih]; done) | split | (refine (foldl_kept _ (fun s x => ?_) _ _).trans ?_))

@[simp] theorem runQueue_kept (s : State) (q : Nat) : (runQueue s q).kept = s.kept := by
  unfold runQueue; simp

@[simp] theorem gotAnswer_kept (s : State) (q op : Nat) (st : Stamp) (bs : List Byte) : (gotAnswer s q op st bs).kept = s.kept := by
  unfold gotAnswer; simp

@[simp] theorem see_kept (s : State) (q : Nat) (x : Sight) : (State.see s q x).kept = s.kept := by
  unfold State.see; split <;> simp

@[simp] theorem edgeCame_kept (s : State) (q : Nat) (hit : MemOp → Bool) (know : Stamp) : (edgeCame s q hit know).kept = s.kept := by
  unfold edgeCame; simp

@[simp] theorem passEdge_kept (q : Nat) (s : State) : (passEdge q s).kept = s.kept := by
  unfold passEdge; simp

@[simp] theorem takeSeq_kept (s : State) (node : Nat) : (State.takeSeq s node).kept = s.kept := by
  unfold State.takeSeq; simp

@[simp] theorem absorb_kept (s : State) (node : Nat) (ls : List Loc) : (State.absorb s node ls).kept = s.kept := by
  unfold State.absorb; simp

@[simp] theorem noteSegs_kept (s : State) (core space : Nat) (gs : List Seg) : (noteSegs s core space gs).kept = s.kept := by
  unfold noteSegs; simp

@[simp] theorem transferTo_kept (c : GCtx) (t : DWord) (taken fall : List Nat) (s : State) : (transferTo c t taken fall s).kept = s.kept := by
  unfold transferTo; simp

theorem branchOp_kept (i : Instr) (disp : BitVec 19) (link : Bool) (taken : Thread → Bool) (s : State) : keptOut (branchOp i disp link taken s) s := by
  unfold branchOp; refine groupOp_kept (fun c ls s => ?_); simp

theorem execBr_kept (s_ : BitVec 19) (s : State) : keptOut (execBr s_ s) s := by
  unfold execBr; exact branchOp_kept _ _ _ _ _

theorem execBrp_kept (p : BitVec 3) (s_ : BitVec 19) (s : State) : keptOut (execBrp p s_ s) s := by
  unfold execBrp; exact branchOp_kept _ _ _ _ _

theorem execBrn_kept (p : BitVec 3) (s_ : BitVec 19) (s : State) : keptOut (execBrn p s_ s) s := by
  unfold execBrn; exact branchOp_kept _ _ _ _ _

theorem execBz_kept (a : BitVec 6) (x : Bool) (s_ : BitVec 19) (s : State) : keptOut (execBz a x s_ s) s := by
  unfold execBz; exact branchOp_kept _ _ _ _ _

theorem execBnz_kept (a : BitVec 6) (x : Bool) (s_ : BitVec 19) (s : State) : keptOut (execBnz a x s_ s) s := by
  unfold execBnz; exact branchOp_kept _ _ _ _ _

theorem execCall_kept (s_ : BitVec 19) (s : State) : keptOut (execCall s_ s) s := by
  unfold execCall; exact branchOp_kept _ _ _ _ _

theorem execCallp_kept (p : BitVec 3) (s_ : BitVec 19) (s : State) : keptOut (execCallp p s_ s) s := by
  unfold execCallp; exact branchOp_kept _ _ _ _ _

@[simp] theorem transferEach_kept (c : GCtx) (ts : List (Nat × DWord)) (s : State) : (transferEach c ts s).kept = s.kept := by
  unfold transferEach; split <;> simp

theorem jumpOp_kept (i : Instr) (a : BitVec 6) (link : Bool) (s : State) : keptOut (jumpOp i a link s) s := by
  unfold jumpOp; refine groupOp_kept (fun c ls s => ?_); simp

theorem execJr_kept (a : BitVec 6) (x : Bool) (s : State) : keptOut (execJr a x s) s := by
  unfold execJr; exact jumpOp_kept _ _ _ _

theorem execJrl_kept (a : BitVec 6) (x : Bool) (s : State) : keptOut (execJrl a x s) s := by
  unfold execJrl; exact jumpOp_kept _ _ _ _

theorem execRet_kept (s : State) : keptOut (execRet s) s := by
  unfold execRet; exact jumpOp_kept _ _ _ _

theorem execYield_kept (s : State) : keptOut (execYield s) s := by
  unfold execYield; refine groupOp_kept (fun c ls s => ?_); simp

theorem execExit_kept (s : State) : keptOut (execExit s) s := by
  unfold execExit; refine groupOp_kept (fun c ls s => ?_); simp

theorem raiseOp_kept {i : Instr} {cause : Cause} {n : BitVec 6} {after : GCtx → State → State} (hf : ∀ c s, (after c s).kept = s.kept)
    {s : State} : keptOut (raiseOp i cause n after s) s := by
  unfold raiseOp; exact groupOp_kept (by intros; simp [hf])

theorem execTrap_kept (n : BitVec 6) (s : State) : keptOut (execTrap n s) s := by
  unfold execTrap; refine groupOp_kept (fun c ls s => ?_); simp

theorem execBrk_kept (n : BitVec 6) (s : State) : keptOut (execBrk n s) s := by
  unfold execBrk; refine groupOp_kept (fun c ls s => ?_); simp

theorem execXconv_kept (s : State) : keptOut (execXconv s) s := by
  unfold execXconv; refine groupOp_kept (fun c ls s => ?_); simp

theorem execRep_kept (c : BitVec 6) (s_ : BitVec 3) (t : BitVec 3) (s : State) : keptOut (execRep c s_ t s) s := by
  unfold execRep; refine groupOp_kept (fun c ls s => ?_); simp

theorem execClauseHeaderIssue_kept (s : State) : keptOut (execClauseHeaderIssue s) s := by
  unfold execClauseHeaderIssue; (repeat' split) <;> first | exact keptOut_refused _ _ | exact keptOut_next (by simp)

theorem laneOp_kept (i : Instr) (chk : State → GCtx → Nat → Verdict) (f : State → GCtx → Nat → Thread → Thread) (s : State) : keptOut (laneOp i chk f s) s := by
  unfold laneOp; refine groupOp_kept (fun c ls s => ?_); simp

theorem execXset_kept (k : BitVec 2) (a b : BitVec 6) (x y : Bool) (s : State) : keptOut (execXset k a b x y s) s := by
  unfold execXset; exact laneOp_kept _ _ _ _

theorem execRdx_kept (d : BitVec 6) (k : BitVec 2) (b : BitVec 6) (y : Bool) (s : State) : keptOut (execRdx d k b y s) s := by
  unfold execRdx; exact laneOp_kept _ _ _ _

theorem execWrx_kept (k : BitVec 2) (a b : BitVec 6) (x y : Bool) (s : State) : keptOut (execWrx k a b x y s) s := by
  unfold execWrx; exact laneOp_kept _ _ _ _

theorem execSrd_kept (d : BitVec 6) (n : BitVec 8) (s : State) : keptOut (execSrd d n s) s := by
  unfold execSrd; exact laneOp_kept _ _ _ _

@[simp] theorem releaseEntries_kept (s : State) (tk n : Nat) : (releaseEntries s tk n).kept = s.kept := by
  induction n generalizing s with
  | zero => rfl
  | succ n ih => unfold releaseEntries; (repeat' split) <;> simp [ih]

@[simp] theorem dqRelease_kept (s : State) (tk : Nat) : (State.dqRelease s tk).kept = s.kept := by
  unfold State.dqRelease; simp

@[simp] theorem qgetEdge_kept (c : GCtx) (l : Nat) (s : State) : (qgetEdge c l s).kept = s.kept := by
  unfold qgetEdge; simp

theorem execQget_kept (d : BitVec 6) (s : State) : keptOut (execQget d s) s := by
  unfold execQget; exact groupOp_kept (by intros; repeat' (first | with_reducible rfl | exact keptOut_refused _ _ | exact keptOut_fault _ _ | exact keptOpt_none _ | exact keptOpt2_none _ | refine keptOut_next ?_ | refine keptOpt_some ?_ | refine keptOpt2_some ?_ | (simp; done) | refine groupOp_kept (fun c ls s => ?_) | (refine (goOn_kept _ _ _).trans ?_) | split | (refine (foldl_kept _ (fun s x => ?_) _ _).trans ?_) | (refine (foldl_kept2 _ (fun p x => ?_) _ _).trans ?_) | (simp only [ite_kept]) | (dsimp only; done) | dsimp only))

theorem fillPair_kept (thread : Nat) (s : State) : keptOpt (fillPair thread s) s := by
  unfold fillPair; repeat' (first | exact keptOpt_none _ | refine keptOpt_some ?_ | (simp; done) | split)

theorem execCsrr_kept (d h l : BitVec 6) (s : State) : keptOut (execCsrr d h l s) s := by
  unfold execCsrr; exact laneOp_kept _ _ _ _

theorem execCsrw_kept (d h l : BitVec 6) (s : State) : keptOut (execCsrw d h l s) s := by
  unfold execCsrw; exact laneOp_kept _ _ _ _

theorem execRft_kept (s : State) : keptOut (execRft s) s := by
  unfold execRft; exact groupOp_kept (by intros; repeat' (first | (simp; done) | split | (dsimp only; done) | dsimp only))

theorem execTlbi_kept (a : BitVec 6) (x : Bool) (s : State) : keptOut (execTlbi a x s) s := by
  unfold execTlbi; refine groupOp_kept (fun c ls s => ?_); simp

theorem execHalt_kept (s : State) : keptOut (execHalt s) s := by
  unfold execHalt; refine groupOp_kept (fun c ls s => ?_); simp

theorem execSleep_kept (a : BitVec 6) (x : Bool) (s : State) : keptOut (execSleep a x s) s := by
  unfold execSleep; refine groupOp_kept (fun c ls s => ?_); simp

theorem execSleepExpiry_kept (group : Nat) (s : State) : keptOut (execSleepExpiry group s) s := by
  unfold execSleepExpiry; repeat' (first | exact keptOut_refused _ _ | refine keptOut_next ?_ | (simp; done) | split | (dsimp only; done) | dsimp only)

@[simp] theorem ldLane_kept (d a : BitVec 6) (z : Size) (o : BitVec 10) (c : GCtx) (l : Nat) (s : State) : (ldLane d a z o c l s).kept = s.kept := by
  unfold ldLane; repeat' (first | (simp; done) | split | (dsimp only; done) | dsimp only)

theorem execLd_kept (d a : BitVec 6) (x : Bool) (z : Size) (o : BitVec 10) (s : State) : keptOut (execLd d a x z o s) s := by
  unfold execLd; refine groupOp_kept (fun c ls s => ?_); simp

@[simp] theorem stLane_kept (d a : BitVec 6) (z : Size) (o : BitVec 10) (c : GCtx) (l : Nat) (s : State) : (stLane d a z o c l s).kept = s.kept := by
  unfold stLane; repeat' (first | (simp; done) | split | (dsimp only; done) | dsimp only)

theorem execSt_kept (d a : BitVec 6) (x : Bool) (z : Size) (o : BitVec 10) (s : State) : keptOut (execSt d a x z o s) s := by
  unfold execSt; refine groupOp_kept (fun c ls s => ?_); simp

@[simp] theorem ldsSee_kept (a : BitVec 6) (z : Size) (o : BitVec 10) (c : GCtx) (l : Nat) (s : State) : (ldsSee a z o c l s).kept = s.kept := by
  unfold ldsSee; simp

@[simp] theorem ldqSee_kept (a : BitVec 6) (z : Size) (o : BitVec 10) (c : GCtx) (l : Nat) (s : State) : (ldqSee a z o c l s).kept = s.kept := by
  unfold ldqSee; simp

theorem execLds_kept (d a : BitVec 6) (x : Bool) (z : Size) (o : BitVec 10) (s : State) : keptOut (execLds d a x z o s) s := by
  unfold execLds; refine groupOp_kept (fun c ls s => ?_); simp

theorem execSts_kept (d a : BitVec 6) (x : Bool) (z : Size) (o : BitVec 10) (s : State) : keptOut (execSts d a x z o s) s := by
  unfold execSts; refine groupOp_kept (fun c ls s => ?_); simp

theorem execLdq_kept (d a : BitVec 6) (x : Bool) (z : Size) (o : BitVec 10) (s : State) : keptOut (execLdq d a x z o s) s := by
  unfold execLdq; refine groupOp_kept (fun c ls s => ?_); simp

theorem execStq_kept (d a : BitVec 6) (x : Bool) (z : Size) (o : BitVec 10) (s : State) : keptOut (execStq d a x z o s) s := by
  unfold execStq; exact groupOp_kept (by intros; repeat' (first | with_reducible rfl | exact keptOut_refused _ _ | exact keptOut_fault _ _ | exact keptOpt_none _ | exact keptOpt2_none _ | refine keptOut_next ?_ | refine keptOpt_some ?_ | refine keptOpt2_some ?_ | (simp; done) | refine groupOp_kept (fun c ls s => ?_) | (refine (goOn_kept _ _ _).trans ?_) | (refine (eachLane_kept _ (fun l s => ?_) _ _).trans ?_) | split | (refine (foldl_kept _ (fun s x => ?_) _ _).trans ?_) | (refine (foldl_kept2 _ (fun p x => ?_) _ _).trans ?_) | (simp only [ite_kept]) | (dsimp only; done) | dsimp only))

@[simp] theorem addDecb_kept (s : State) (region n : Nat) : (addDecb s region n).kept = s.kept := by
  unfold addDecb; simp

@[simp] theorem addMacs_kept (s : State) (region n : Nat) : (addMacs s region n).kept = s.kept := by
  unfold addMacs; simp

@[simp] theorem ldfLane_kept (d a : BitVec 6) (z : Size) (o : BitVec 10) (c : GCtx) (l : Nat) (s : State) : (ldfLane d a z o c l s).kept = s.kept := by
  unfold ldfLane; repeat' (first | (simp; done) | split | (dsimp only; done) | dsimp only)

theorem execLdf_kept (d a : BitVec 6) (x : Bool) (z : Size) (o : BitVec 10) (s : State) : keptOut (execLdf d a x z o s) s := by
  unfold execLdf; refine groupOp_kept (fun c ls s => ?_); simp

theorem execLdacc_kept (d a : BitVec 6) (x : Bool) (n : BitVec 3) (o : BitVec 10) (s : State) : keptOut (execLdacc d a x n o s) s := by
  unfold execLdacc; refine groupOp_kept (fun c ls s => ?_); simp

@[simp] theorem atomsLane_kept (d a b : BitVec 6) (o : AtomOp) (c : GCtx) (l : Nat) (s : State) : (atomsLane d a b o c l s).kept = s.kept := by
  unfold atomsLane; simp

theorem execAtoms_kept (d a b : BitVec 6) (x y : Bool) (o : AtomOp) (s : State) : keptOut (execAtoms d a b x y o s) s := by
  unfold execAtoms; refine groupOp_kept (fun c ls s => ?_); simp

theorem globalAtom_kept (i : Instr) (d a b : BitVec 6) (o : AtomOp) (n : Nat) (s : State) : keptOut (globalAtom i d a b o n s) s := by
  unfold globalAtom; exact groupOp_kept (by intros; repeat' (first | (simp; done) | (refine (goOn_kept _ _ _).trans ?_) | split | (refine (foldl_kept2 _ (fun p x => ?_) _ _).trans ?_) | (dsimp only; done) | dsimp only))

theorem execAtom32_kept (d a b : BitVec 6) (x y : Bool) (o : AtomOp) (n : Net) (s : State) : keptOut (execAtom32 d a b x y o n s) s := by
  unfold execAtom32; exact globalAtom_kept _ _ _ _ _ _ _

theorem execAtom64_kept (d a b : BitVec 6) (x y : Bool) (o : AtomOp) (n : Net) (s : State) : keptOut (execAtom64 d a b x y o n s) s := by
  unfold execAtom64; exact globalAtom_kept _ _ _ _ _ _ _

theorem execFence_kept (n : Net) (s : State) : keptOut (execFence n s) s := by
  unfold execFence; refine groupOp_kept (fun c ls s => ?_); simp

@[simp] theorem leadAccess_kept (c : LCtx) (loc : Loc) (n : Nat) (k : OpKind) (s : State) : (leadAccess c loc n k s).kept = s.kept := by
  unfold leadAccess; simp

theorem execLld_kept (d a : BitVec 6) (z : Size) (o : BitVec 10) (s : State) : keptOut (execLld d a z o s) s := by
  unfold execLld; exact leadOp_kept (by intros; repeat' (first | (simp; done) | split | (dsimp only; done) | dsimp only))

theorem execLst_kept (d a : BitVec 6) (z : Size) (o : BitVec 10) (s : State) : keptOut (execLst d a z o s) s := by
  unfold execLst; exact leadOp_kept (by intros; repeat' (first | (simp; done) | split | (dsimp only; done) | dsimp only))

theorem execLongLatencyResult_kept (lead : Bool) (key idx : Nat) (s : State) : keptOut (execLongLatencyResult lead key idx s) s := by
  unfold execLongLatencyResult; (repeat' split) <;> first | exact keptOut_refused _ _ | exact keptOut_next (by simp)

theorem execQueueEntryFill_kept (thread : Nat) (s : State) : keptOut (execQueueEntryFill thread s) s := by
  unfold execQueueEntryFill; repeat' (first | exact keptOut_refused _ _ | refine keptOut_next ?_ | (have hk := fillPair_kept _ _ _ (by assumption); revert hk; simp; done) | split)

@[simp] theorem notCalm_kept (s : State) : (State.notCalm s).kept = s.kept := by
  unfold State.notCalm; simp

@[simp] theorem takeEarly_kept (s : State) (k idx : Nat) : (takeEarly s k idx).kept = s.kept := by
  unfold takeEarly; simp

@[simp] theorem takeApplied_kept (s : State) (k idx : Nat) (p : Packet) : (takeApplied s k idx p).kept = s.kept := by
  unfold takeApplied; simp

@[simp] theorem atRow_kept (s : State) (row rank : Nat) : (State.atRow s row rank).kept = s.kept := by
  unfold State.atRow; simp

@[simp] theorem sendInterrupt_kept (s : State) (addr : DWord) (data : BitVec 32) : (sendInterrupt s addr data).kept = s.kept := by
  unfold sendInterrupt; simp

@[simp] theorem logError_kept (s : State) (transient : Bool) (code src : Nat) (detail : BitVec 96) : (logError s transient code src detail).kept = s.kept := by
  unfold logError; repeat' (first | (simp; done) | split | (dsimp only; done) | dsimp only)

@[simp] theorem logMemory_kept (s : State) (transient : Bool) (node pa : Nat) : (logMemory s transient node pa).kept = s.kept := by
  unfold logMemory; simp

@[simp] theorem fabricError_kept (s : State) (node code src dst : Nat) : (fabricError s node code src dst).kept = s.kept := by
  unfold fabricError; simp

theorem fBinary_kept (i : Instr) (d a b : BitVec 6) (f : Word → Word → Word) (s : State) : keptOut (fBinary i d a b f s) s := by
  unfold fBinary; exact threadOp_kept _ _ _

theorem fUnary_kept (i : Instr) (d a : BitVec 6) (f : Word → Word) (s : State) : keptOut (fUnary i d a f s) s := by
  unfold fUnary; exact threadOp_kept _ _ _

theorem fTernary_kept (i : Instr) (d a b : BitVec 6) (f : Word → Word → Word → Word) (s : State) : keptOut (fTernary i d a b f s) s := by
  unfold fTernary; exact threadOp_kept _ _ _

theorem execFadd_kept (d a b : BitVec 6) (x y : Bool) (r : RMode) (s : State) : keptOut (execFadd d a b x y r s) s := by
  unfold execFadd; exact fBinary_kept _ _ _ _ _ _

theorem execFsub_kept (d a b : BitVec 6) (x y : Bool) (r : RMode) (s : State) : keptOut (execFsub d a b x y r s) s := by
  unfold execFsub; exact fBinary_kept _ _ _ _ _ _

theorem execFmul_kept (d a b : BitVec 6) (x y : Bool) (r : RMode) (s : State) : keptOut (execFmul d a b x y r s) s := by
  unfold execFmul; exact fBinary_kept _ _ _ _ _ _

theorem execFfma_kept (d a b : BitVec 6) (x y : Bool) (r : RMode) (s : State) : keptOut (execFfma d a b x y r s) s := by
  unfold execFfma; exact fTernary_kept _ _ _ _ _ _

theorem execFmin_kept (d a b : BitVec 6) (x y : Bool) (s : State) : keptOut (execFmin d a b x y s) s := by
  unfold execFmin; exact fBinary_kept _ _ _ _ _ _

theorem execFmax_kept (d a b : BitVec 6) (x y : Bool) (s : State) : keptOut (execFmax d a b x y s) s := by
  unfold execFmax; exact fBinary_kept _ _ _ _ _ _

theorem execFabs_kept (d a : BitVec 6) (x : Bool) (s : State) : keptOut (execFabs d a x s) s := by
  unfold execFabs; exact fUnary_kept _ _ _ _ _

theorem execFneg_kept (d a : BitVec 6) (x : Bool) (s : State) : keptOut (execFneg d a x s) s := by
  unfold execFneg; exact fUnary_kept _ _ _ _ _

theorem execHadd2_kept (d a b : BitVec 6) (x y : Bool) (r : RMode) (s : State) : keptOut (execHadd2 d a b x y r s) s := by
  unfold execHadd2; exact fBinary_kept _ _ _ _ _ _

theorem execHsub2_kept (d a b : BitVec 6) (x y : Bool) (r : RMode) (s : State) : keptOut (execHsub2 d a b x y r s) s := by
  unfold execHsub2; exact fBinary_kept _ _ _ _ _ _

theorem execHmul2_kept (d a b : BitVec 6) (x y : Bool) (r : RMode) (s : State) : keptOut (execHmul2 d a b x y r s) s := by
  unfold execHmul2; exact fBinary_kept _ _ _ _ _ _

theorem execHfma2_kept (d a b : BitVec 6) (x y : Bool) (r : RMode) (s : State) : keptOut (execHfma2 d a b x y r s) s := by
  unfold execHfma2; exact fTernary_kept _ _ _ _ _ _

theorem execHmax2_kept (d a b : BitVec 6) (x y : Bool) (s : State) : keptOut (execHmax2 d a b x y s) s := by
  unfold execHmax2; exact fBinary_kept _ _ _ _ _ _

theorem execHmin2_kept (d a b : BitVec 6) (x y : Bool) (s : State) : keptOut (execHmin2 d a b x y s) s := by
  unfold execHmin2; exact fBinary_kept _ _ _ _ _ _

theorem execFcmp_kept (p : BitVec 3) (a b : BitVec 6) (x y : Bool) (c : FCond) (s : State) : keptOut (execFcmp p a b x y c s) s := by
  unfold execFcmp; exact threadOp_kept _ _ _

theorem execFcvtif_kept (d a : BitVec 6) (x : Bool) (r : RMode) (s : State) : keptOut (execFcvtif d a x r s) s := by
  unfold execFcvtif; exact fUnary_kept _ _ _ _ _

theorem execFcvtuf_kept (d a : BitVec 6) (x : Bool) (r : RMode) (s : State) : keptOut (execFcvtuf d a x r s) s := by
  unfold execFcvtuf; exact fUnary_kept _ _ _ _ _

theorem execFcvtfi_kept (d a : BitVec 6) (x : Bool) (r : RMode) (s : State) : keptOut (execFcvtfi d a x r s) s := by
  unfold execFcvtfi; exact fUnary_kept _ _ _ _ _

theorem execFcvtfu_kept (d a : BitVec 6) (x : Bool) (r : RMode) (s : State) : keptOut (execFcvtfu d a x r s) s := by
  unfold execFcvtfu; exact fUnary_kept _ _ _ _ _

theorem execFcvtbf_kept (d a : BitVec 6) (x : Bool) (r : RMode) (s : State) : keptOut (execFcvtbf d a x r s) s := by
  unfold execFcvtbf; exact fUnary_kept _ _ _ _ _

theorem execFcvte4_kept (d a : BitVec 6) (x : Bool) (r : RMode) (s : State) : keptOut (execFcvte4 d a x r s) s := by
  unfold execFcvte4; exact fUnary_kept _ _ _ _ _

theorem execFcvte5_kept (d a : BitVec 6) (x : Bool) (r : RMode) (s : State) : keptOut (execFcvte5 d a x r s) s := by
  unfold execFcvte5; exact fUnary_kept _ _ _ _ _

theorem execFcvtfb_kept (d a : BitVec 6) (x : Bool) (s : State) : keptOut (execFcvtfb d a x s) s := by
  unfold execFcvtfb; exact fUnary_kept _ _ _ _ _

theorem execFcvtf4_kept (d a : BitVec 6) (x : Bool) (s : State) : keptOut (execFcvtf4 d a x s) s := by
  unfold execFcvtf4; exact fUnary_kept _ _ _ _ _

theorem execFcvtf5_kept (d a : BitVec 6) (x : Bool) (s : State) : keptOut (execFcvtf5 d a x s) s := by
  unfold execFcvtf5; exact fUnary_kept _ _ _ _ _

theorem execFcvtsmE4_kept (d a b : BitVec 6) (x y : Bool) (r : RMode) (s : State) : keptOut (execFcvtsmE4 d a b x y r s) s := by
  unfold execFcvtsmE4; refine groupOp_kept (fun c ls s => ?_); simp

theorem execFcvtsmE5_kept (d a b : BitVec 6) (x y : Bool) (r : RMode) (s : State) : keptOut (execFcvtsmE5 d a b x y r s) s := by
  unfold execFcvtsmE5; refine groupOp_kept (fun c ls s => ?_); simp

theorem execFrcp_kept (d a : BitVec 6) (x : Bool) (r : RMode) (s : State) : keptOut (execFrcp d a x r s) s := by
  unfold execFrcp; exact fUnary_kept _ _ _ _ _

theorem execFrsq_kept (d a : BitVec 6) (x : Bool) (r : RMode) (s : State) : keptOut (execFrsq d a x r s) s := by
  unfold execFrsq; exact fUnary_kept _ _ _ _ _

theorem execFsqrt_kept (d a : BitVec 6) (x : Bool) (r : RMode) (s : State) : keptOut (execFsqrt d a x r s) s := by
  unfold execFsqrt; exact fUnary_kept _ _ _ _ _

theorem execFexp2_kept (d a : BitVec 6) (x : Bool) (r : RMode) (s : State) : keptOut (execFexp2 d a x r s) s := by
  unfold execFexp2; exact fUnary_kept _ _ _ _ _

theorem execFlog2_kept (d a : BitVec 6) (x : Bool) (r : RMode) (s : State) : keptOut (execFlog2 d a x r s) s := by
  unfold execFlog2; exact fUnary_kept _ _ _ _ _

theorem execFdiv_kept (d a b : BitVec 6) (x y : Bool) (r : RMode) (s : State) : keptOut (execFdiv d a b x y r s) s := by
  unfold execFdiv; exact fBinary_kept _ _ _ _ _ _

theorem execFtab_kept (d a b : BitVec 6) (x y : Bool) (s : State) : keptOut (execFtab d a b x y s) s := by
  unfold execFtab; exact laneOp_kept _ _ _ _

@[simp] theorem saReply_kept (s : State) (k : Nat) (r : SaReq) (a : Answer) (val : List Word) (held : Bool) : (saReply s k r a val held).kept = s.kept := by
  unfold saReply; simp

@[simp] theorem saRefuse_kept (s : State) (k : Nat) (r : SaReq) (c : Cause) : (saRefuse s k r c).kept = s.kept := by
  unfold saRefuse; simp

@[simp] theorem saRead_kept (s : State) (k : Nat) (row : Row) (r : SaReq) (held : Bool) : (saRead s k row r held).kept = s.kept := by
  unfold saRead; simp

@[simp] theorem modAny_kept (s : State) (uid : Nat) (f : Team → Team) : (State.modAny s uid f).kept = s.kept := by
  unfold State.modAny; split <;> simp

@[simp] theorem saMark_kept (s : State) (uid id : Nat) (done : Bool) : (saMark s uid id done).kept = s.kept := by
  unfold saMark; simp

@[simp] theorem saCmdRefuse_kept (s : State) (k id uid node : Nat) (c : Cause) (row : Nat) : (saCmdRefuse s k id uid node c row).kept = s.kept := by
  unfold saCmdRefuse; simp

@[simp] theorem saCmdDone_kept (s : State) (k id uid node : Nat) : (saCmdDone s k id uid node).kept = s.kept := by
  unfold saCmdDone; simp

@[simp] theorem mergeInto_kept (s : State) (k id uid task node dst : Nat) (vs : List (BitVec 64)) : (mergeInto s k id uid task node dst vs).kept = s.kept := by
  unfold mergeInto; split <;> simp

@[simp] theorem mergeFrom_kept (s : State) (id uid task node src dst : Nat) : (mergeFrom s id uid task node src dst).kept = s.kept := by
  unfold mergeFrom; split <;> simp

@[simp] theorem settleRow_kept (n : Nat) (s : State) (id : Nat) : (settleRow n s id).kept = s.kept := by
  induction n generalizing s id with
  | zero => rfl
  | succ n ih =>
    unfold settleRow
    repeat' (first | rfl | (simp [ih]; done) | split | (refine (foldl_kept _ (fun s x => ?_) _ _).trans ?_))

@[simp] theorem putRow_kept (s : State) (id : Nat) (row : Row) : (putRow s id row).kept = s.kept := by
  unfold putRow; simp

@[simp] theorem saAdd_kept (s : State) (k : Nat) (r : SaReq) : (saAdd s k r).kept = s.kept := by
  unfold saAdd; split <;> simp

@[simp] theorem rowFault_kept (s : State) (task row : Nat) : (rowFault s task row).kept = s.kept := by
  unfold rowFault; simp

theorem saAsk_kept (s : State) (k : Nat) (r : SaReq) (stamp : Stamp) : keptOpt (saAsk s k r stamp) s := by
  unfold saAsk; (repeat' split) <;> first | exact keptOpt_none _ | exact keptOpt_some (by simp)

@[simp] theorem noteGain_kept (s : State) (g : List Seg) : (State.noteGain s g).kept = s.kept := by
  unfold State.noteGain; simp

@[simp] theorem sendRuns_kept (s : State) (k q uid task : Nat) (rs : List (Loc × List Byte)) : (sendRuns s k q uid task rs).kept = s.kept := by
  unfold sendRuns; simp

@[simp] theorem evictImage_kept (s : State) (k uid task : Nat) (image : List Seg) (r : Row) : (evictImage s k uid task image r).kept = s.kept := by
  unfold evictImage; simp

theorem saCommand_kept (s : State) (k id uid task node : Nat) (c : SaCmd) : keptOpt (saCommand s k id uid task node c) s := by
  unfold saCommand; repeat' (first | exact keptOpt_none _ | refine keptOpt_some ?_ | (simp; done) | split | simp only)

theorem atHome_kept (s : State) (node idx : Nat) (p : Packet) (f : State → Option State) (hf : keptOpt (f s) s) :
    keptOut (atHome s node idx p f) s := by
  unfold atHome
  repeat' (first | exact keptOut_refused _ _ | (refine keptOut_next ?_) | (simp; done) | (simp; exact hf _ (by assumption)) | split | dsimp only)

theorem execSaAddApply_kept (node idx : Nat) (s : State) : keptOut (execSaAddApply node idx s) s := by
  unfold execSaAddApply
  repeat' (first | exact keptOut_refused _ _ | exact saHeldLater_kept _ _ _ | split)
  all_goals (refine atHome_kept _ _ _ _ _ ?_; refine keptOpt_some ?_; simp)

theorem saHeldLater_kept (s : State) (node n : Nat) : keptOut (saHeldLater s node n) s := by
  unfold saHeldLater; repeat' (first | exact keptOut_refused _ _ | refine keptOut_next ?_ | (simp; done) | (dsimp only; done) | split | dsimp only)

theorem execSaReadRequest_kept (node idx : Nat) (s : State) : keptOut (execSaReadRequest node idx s) s := by
  unfold execSaReadRequest
  repeat' (first | exact keptOut_refused _ _ | exact saHeldLater_kept _ _ _ | split)
  all_goals (refine atHome_kept _ _ _ _ _ ?_; intro t ht; have h := saAsk_kept _ _ _ _ _ ht; simpa using h)

theorem execSaCommandPerform_kept (node idx : Nat) (s : State) : keptOut (execSaCommandPerform node idx s) s := by
  unfold execSaCommandPerform
  repeat' (first | exact keptOut_refused _ _ | exact saHeldLater_kept _ _ _ | split)
  all_goals (refine atHome_kept _ _ _ _ _ ?_; intro t ht; have h := saCommand_kept _ _ _ _ _ _ _ _ ht; simpa using h)

@[simp] theorem saRequest_kept (c : GCtx) (l : Nat) (op : SaOp) (addr : Word) (trapPol : Bool) (dst : Nat) (rest : List Consumer) (word dest : Word) (s : State) : (saRequest c l op addr trapPol dst rest word dest s).kept = s.kept := by
  unfold saRequest; simp

theorem saSet_kept (i : Instr) (one : GCtx → Nat → State → State) (c : GCtx) (lanes : List Nat) (s : State)
    (hf : ∀ c l s, (one c l s).kept = s.kept) : (saSet i one c lanes s).kept = s.kept := by
  unfold saSet; dsimp only
  refine (goOn_kept _ _ _).trans ?_
  exact foldl_kept2 _ (fun p x => hf _ _ _) _ _

theorem saVector_kept (i : Instr) (a : BitVec 6) (x : Bool) (op : Thread → SaOp) (d : Option (BitVec 6)) (s : State) : keptOut (saVector i a x op d s) s := by
  unfold saVector; exact groupOp_kept (by intros; repeat' (first | (simp; done) | (refine (saSet_kept _ _ _ _ _ (fun c l s => ?_)).trans ?_)))

theorem execSaadd_kept (a b : BitVec 6) (x y : Bool) (s : State) : keptOut (execSaadd a b x y s) s := by
  unfold execSaadd; exact saVector_kept _ _ _ _ _ _

theorem execSaaddh_kept (a b : BitVec 6) (x y : Bool) (s : State) : keptOut (execSaaddh a b x y s) s := by
  unfold execSaaddh; exact saVector_kept _ _ _ _ _ _

theorem execSard_kept (d a : BitVec 6) (x : Bool) (s : State) : keptOut (execSard d a x s) s := by
  unfold execSard; exact saVector_kept _ _ _ _ _ _

theorem execSardh_kept (d a : BitVec 6) (x : Bool) (s : State) : keptOut (execSardh d a x s) s := by
  unfold execSardh; exact saVector_kept _ _ _ _ _ _

theorem execSardq_kept (d a : BitVec 6) (x : Bool) (s : State) : keptOut (execSardq d a x s) s := by
  unfold execSardq; exact saVector_kept _ _ _ _ _ _

theorem execSawait_kept (a : BitVec 6) (x : Bool) (s : State) : keptOut (execSawait a x s) s := by
  unfold execSawait; exact saVector_kept _ _ _ _ _ _

theorem execSacnt_kept (d a : BitVec 6) (x : Bool) (s : State) : keptOut (execSacnt d a x s) s := by
  unfold execSacnt; exact saVector_kept _ _ _ _ _ _

@[simp] theorem sendRest_kept (r : SaReq) (s : State) : (sendRest r s).kept = s.kept := by
  unfold sendRest; exact foldl_kept _ (fun s x => by simp) _ _

@[simp] theorem saAnswer_kept (s : State) (r : SaReq) (a : Answer) (val : List Word) (held : Bool) : (saAnswer s r a val held).kept = s.kept := by
  unfold saAnswer; (repeat' split) <;> simp

@[simp] theorem saEdge_kept (s : State) (r : SaReq) (know : Stamp) : (saEdge s r know).kept = s.kept := by
  unfold saEdge; repeat' (first | (simp; done) | split)

@[simp] theorem saLeadAnswer_kept (s : State) (uid id : Nat) (a : Answer) : (saLeadAnswer s uid id a).kept = s.kept := by
  unfold saLeadAnswer; (repeat' split) <;> simp

@[simp] theorem saSend_kept (i : Instr) (c : LCtx) (cmd : SaCmd) (home cost back : Nat) (s : State) : (saSend i c cmd home cost back s).kept = s.kept := by
  unfold saSend; simp

theorem saSimple_kept (i : Instr) (a : BitVec 6) (pre : LCtx → LVerdict) (cmd : LCtx → Nat → SaCmd) (s : State) : keptOut (saSimple i a pre cmd s) s := by
  unfold saSimple; refine leadOp_kept (fun c s => ?_); (repeat' split) <;> simp

theorem execSaopen_kept (a b : BitVec 6) (s : State) : keptOut (execSaopen a b s) s := by
  unfold execSaopen; exact saSimple_kept _ _ _ _ _

theorem execSaclr_kept (a : BitVec 6) (s : State) : keptOut (execSaclr a s) s := by
  unfold execSaclr; exact saSimple_kept _ _ _ _ _

theorem execSafree_kept (a : BitVec 6) (s : State) : keptOut (execSafree a s) s := by
  unfold execSafree; exact saSimple_kept _ _ _ _ _

theorem execSamerge_kept (d a : BitVec 6) (s : State) : keptOut (execSamerge d a s) s := by
  unfold execSamerge; refine leadOp_kept (fun c s => ?_); (repeat' split) <;> simp

theorem execSaevict_kept (d a : BitVec 6) (s : State) : keptOut (execSaevict d a s) s := by
  unfold execSaevict; refine leadOp_kept (fun c s => ?_); (repeat' split) <;> simp

@[simp] theorem allocRow_kept (s : State) (core : Nat) (r : Row) : (allocRow s core r).1.kept = s.kept := by
  unfold allocRow; split <;> simp

theorem execSaalloc_kept (d a : BitVec 6) (s : State) : keptOut (execSaalloc d a s) s := by
  unfold execSaalloc; refine leadOp_kept (fun c s => ?_); (repeat' split) <;> simp

theorem execSaload_kept (d a : BitVec 6) (s : State) : keptOut (execSaload d a s) s := by
  unfold execSaload; refine leadOp_kept (fun c s => ?_); (repeat' split) <;> simp

@[simp] theorem arriveSet_kept (k : BitVec 4) (c : GCtx) (lanes : List Nat) (s : State) : (arriveSet k c lanes s).kept = s.kept := by
  unfold arriveSet; simp

theorem execBara_kept (k : BitVec 4) (n : Net) (s : State) : keptOut (execBara k n s) s := by
  unfold execBara; refine groupOp_kept (fun c ls s => ?_); simp

@[simp] theorem barwSet_kept (k : Nat) (c : GCtx) (lanes : List Nat) (s : State) : (barwSet k c lanes s).kept = s.kept := by
  unfold barwSet; simp

theorem execBarw_kept (k : BitVec 4) (n : Net) (s : State) : keptOut (execBarw k n s) s := by
  unfold execBarw; refine groupOp_kept (fun c ls s => ?_); simp

theorem execBarab_kept (k : BitVec 4) (n : Net) (b : BitVec 6) (y : Bool) (s : State) : keptOut (execBarab k n b y s) s := by
  unfold execBarab; refine groupOp_kept (fun c ls s => ?_); simp

theorem execBari_kept (k : BitVec 4) (n : Net) (p : BitVec 3) (s : State) : keptOut (execBari k n p s) s := by
  unfold execBari; exact laneOp_kept _ _ _ _

@[simp] theorem bindCore_kept (tk k n : Nat) (s : State) : (bindCore tk k n s).kept = s.kept := by
  unfold bindCore; simp

@[simp] theorem bindWide_kept (t : Team) (tk k : Nat) (net : Net) (pod : BitVec 16) (n : Nat) (s : State) : (bindWide t tk k net pod n s).kept = s.kept := by
  unfold bindWide; simp

theorem execBars_kept (k : BitVec 4) (n : Net) (b : BitVec 6) (y : Bool) (s : State) : keptOut (execBars k n b y s) s := by
  unfold execBars; refine groupOp_kept (fun c ls s => ?_); (repeat' split) <;> simp

theorem execBarrierWaitRelease_kept (lead : Bool) (key : Nat) (s : State) : keptOut (execBarrierWaitRelease lead key s) s := by
  unfold execBarrierWaitRelease; (repeat' split) <;> first | exact keptOut_refused _ _ | exact keptOut_next (by simp)

theorem execWidePhaseArrival_kept (team bar : Nat) (s : State) : keptOut (execWidePhaseArrival team bar s) s := by
  unfold execWidePhaseArrival; repeat' (first | exact keptOut_refused _ _ | refine keptOut_next ?_ | (simp; done) | split | (dsimp only; done) | dsimp only)

@[simp] theorem sendWords_kept (c : GCtx) (l : Nat) (ds : List Consumer) (word dest : Word) (s : State) : (sendWords c l ds word dest s).kept = s.kept := by
  unfold sendWords; exact foldl_kept _ (fun s x => by simp) _ _

theorem execSend_kept (a b : BitVec 6) (x y : Bool) (m : BitVec 5) (s : State) : keptOut (execSend a b x y m s) s := by
  unfold execSend; exact groupOp_kept (by intros; repeat' (first | with_reducible rfl | exact keptOut_refused _ _ | exact keptOut_fault _ _ | exact keptOpt_none _ | exact keptOpt2_none _ | refine keptOut_next ?_ | refine keptOpt_some ?_ | refine keptOpt2_some ?_ | (simp; done) | refine groupOp_kept (fun c ls s => ?_) | (refine (saSet_kept _ _ _ _ _ (fun c l s => ?_)).trans ?_) | (refine (goOn_kept _ _ _).trans ?_) | (refine (eachLane_kept _ (fun l s => ?_) _ _).trans ?_) | split | (refine (foldl_kept _ (fun s x => ?_) _ _).trans ?_) | (refine (foldl_kept2 _ (fun p x => ?_) _ _).trans ?_) | (simp only [ite_kept]) | (dsimp only; done) | dsimp only))

@[simp] theorem landBytes_kept (s : State) (uid addr : Nat) (bytes : List Byte) (bar : Option Nat) : (landBytes s uid addr bytes bar).kept = s.kept := by
  unfold landBytes; split <;> simp

@[simp] theorem deliverNext_kept (s : State) (i : SendItem) (core : Nat) : (deliverNext s i core).kept = s.kept := by
  unfold deliverNext; (repeat' split) <;> simp

@[simp] theorem takeSend_kept (s : State) (idx : Nat) : (takeSend s idx).kept = s.kept := by
  unfold takeSend; repeat' (first | (simp; done) | split)

theorem sendToLead_kept (s : State) (tk : Nat) (t : Team) (i : SendItem) : keptOpt (sendToLead s tk t i) s := by
  unfold sendToLead; repeat' (first | exact keptOpt_none _ | refine keptOpt_some ?_ | (simp; done) | split | (dsimp only; done) | dsimp only)

theorem execNextDelivery_kept (idx : Nat) (s : State) : keptOut (execNextDelivery idx s) s := by
  unfold execNextDelivery; (repeat' split) <;> first | exact keptOut_refused _ _ | exact keptOut_next (by simp)

@[simp] theorem arvArrive_kept (i : Instr) (c : LCtx) (bar : Nat) (s : State) : (arvArrive i c bar s).kept = s.kept := by
  unfold arvArrive; repeat' (first | (simp; done) | split)

@[simp] theorem openFor_kept (s : State) (c : Copy) (core uid : Nat) : (openFor s c core uid).kept = s.kept := by
  unfold openFor; simp

@[simp] theorem openIssued_kept (s : State) (c : Copy) : (openIssued s c).kept = s.kept := by
  unfold openIssued; repeat' (first | (simp; done) | split | (refine (foldl_kept _ (fun s x => ?_) _ _).trans ?_))

@[simp] theorem copyIssue_kept (i : Instr) (v : Bool) (k : BitVec 3) (p : CopyPlan) (c : LCtx) (s : State) : (copyIssue i v k p c s).kept = s.kept := by
  unfold copyIssue; simp

theorem copyOp_kept (i : Instr) (v : Bool) (k : BitVec 3) (plan : State → LCtx → Except LVerdict CopyPlan) (s : State) : keptOut (copyOp i v k plan s) s := by
  unfold copyOp; refine leadOp_kept (fun c s => ?_); (repeat' split) <;> simp

theorem execCpyin_kept (d a b : BitVec 6) (v i : Bool) (k : BitVec 3) (s : State) : keptOut (execCpyin d a b v i k s) s := by
  unfold execCpyin; exact copyOp_kept _ _ _ _ _

theorem execCpyout_kept (d a b : BitVec 6) (v i : Bool) (k : BitVec 3) (s : State) : keptOut (execCpyout d a b v i k s) s := by
  unfold execCpyout; exact copyOp_kept _ _ _ _ _

theorem execCpyg_kept (d a b : BitVec 6) (v : Bool) (k : BitVec 3) (s : State) : keptOut (execCpyg d a b v k s) s := by
  unfold execCpyg; exact copyOp_kept _ _ _ _ _

theorem execGath_kept (d a b : BitVec 6) (v : Bool) (k : BitVec 3) (s : State) : keptOut (execGath d a b v k s) s := by
  unfold execGath; exact copyOp_kept _ _ _ _ _

theorem execPubl_kept (a : BitVec 6) (s : State) : keptOut (execPubl a s) s := by
  unfold execPubl; refine leadOp_kept (fun c s => ?_); (repeat' split) <;> simp

theorem execCpwait_kept (s : State) : keptOut (execCpwait s) s := by
  unfold execCpwait; refine leadOp_kept (fun c s => ?_); simp

theorem execCpwaitRelease_kept (team : Nat) (s : State) : keptOut (execCpwaitRelease team s) s := by
  unfold execCpwaitRelease; (repeat' split) <;> first | exact keptOut_refused _ _ | exact keptOut_next (by simp)

@[simp] theorem modWord_kept (s : State) (cmd word : Nat) (f : CpWord → CpWord) : (State.modWord s cmd word f).kept = s.kept := by
  unfold State.modWord; simp

@[simp] theorem finishCopy_kept (s : State) (cmd : Nat) : (finishCopy s cmd).kept = s.kept := by
  unfold finishCopy; split <;> simp

@[simp] theorem beginUnit_kept (s : State) (cmd unit : Nat) : (beginUnit s cmd unit).kept = s.kept := by
  unfold beginUnit; simp

@[simp] theorem sendReads_kept (c : Copy) (s : State) (ws : List Nat) : (sendReads c s ws).kept = s.kept := by
  unfold sendReads; exact foldl_kept _ (fun s x => by split <;> simp) _ _

theorem execCopyUnitBegin_kept (cmd unit : Nat) (s : State) : keptOut (execCopyUnitBegin cmd unit s) s := by
  unfold execCopyUnitBegin; repeat' (first | exact keptOut_refused _ _ | refine keptOut_next ?_ | (simp; done) | split | (dsimp only; done) | dsimp only)

theorem sendWord_kept (s : State) (c : Copy) (word core : Nat) : keptOpt (sendWord s c word core) s := by
  unfold sendWord; (repeat' split) <;> first | exact keptOpt_none _ | exact keptOpt_some (by simp)

@[simp] theorem copyWritten_kept (s : State) (cmd word : Nat) : (copyWritten s cmd word).kept = s.kept := by
  unfold copyWritten; split <;> simp

@[simp] theorem dropCore_kept (s : State) (c : Copy) (core : Nat) : (dropCore s c core).kept = s.kept := by
  unfold dropCore; simp

@[simp] theorem openCopy_kept (s : State) (c : Copy) (core : Nat) : (openCopy s c core).kept = s.kept := by
  unfold openCopy; (repeat' split) <;> simp

theorem landWord_kept (s : State) (c : Copy) (word core uid : Nat) : keptOpt (landWord s c word core uid) s := by
  unfold landWord; repeat' (first | exact keptOpt_none _ | refine keptOpt_some ?_ | (simp; done) | split | (dsimp only; done) | dsimp only)

theorem execCopyDelivery_kept (cmd word core : Nat) (s : State) : keptOut (execCopyDelivery cmd word core s) s := by
  unfold execCopyDelivery; repeat' (first | exact keptOut_refused _ _ | refine keptOut_next ?_ | (simp; done) | (have hk := landWord_kept _ _ _ _ _ _ (by assumption); revert hk; simp; done) | (have hk := sendWord_kept _ _ _ _ _ (by assumption); revert hk; simp; done) | split)

theorem execCopyLateDiscard_kept (cmd word core : Nat) (s : State) : keptOut (execCopyLateDiscard cmd word core s) s := by
  unfold execCopyLateDiscard; (repeat' split) <;> first | exact keptOut_refused _ _ | exact keptOut_next (by simp)

@[simp] theorem flipSelector_kept (s : State) (cmd : Nat) (l : Loc) : (flipSelector s cmd l).kept = s.kept := by
  unfold flipSelector; simp

theorem publSend_kept (s : State) (c : Copy) : keptOut (publSend s c) s := by
  unfold publSend; (repeat' split) <;> first | exact keptOut_refused _ _ | exact keptOut_next (by simp)

theorem execPublSelectorFlip_kept (cmd : Nat) (s : State) : keptOut (execPublSelectorFlip cmd s) s := by
  unfold execPublSelectorFlip; repeat' (first | exact keptOut_refused _ _ | refine keptOut_next ?_ | (simp; done) | exact publSend_kept _ _ | split)

@[simp] theorem sendItems_kept (s : State) (k j : Nat) (is : List Item) : (sendItems s k j is).kept = s.kept := by
  unfold sendItems; simp

theorem execTokenVisit_kept (chan node : Nat) (s : State) : keptOut (execTokenVisit chan node s) s := by
  unfold execTokenVisit; repeat' (first | exact keptOut_refused _ _ | refine keptOut_next ?_ | (simp; done) | split | (dsimp only; done) | dsimp only)

@[simp] theorem takeBeat_kept (s : State) (src dst : Nat) (c a : BitVec 16) : (takeBeat s src dst c a).kept = s.kept := by
  unfold takeBeat; simp

@[simp] theorem takeFlight_kept (s : State) (dst idx : Nat) : (takeFlight s dst idx).kept = s.kept := by
  unfold takeFlight; simp

theorem execBeatArrival_kept (src dst : Nat) (s : State) : keptOut (execBeatArrival src dst s) s := by
  unfold execBeatArrival; (repeat' split) <;> first | exact keptOut_refused _ _ | exact keptOut_next (by simp)

@[simp] theorem takeMesh_kept (s : State) (k idx : Nat) (e : MeshItem) : (takeMesh s k idx e).kept = s.kept := by
  unfold takeMesh; simp

@[simp] theorem holdItem_kept (s : State) (src dst code : Nat) (i : Item) : (holdItem s src dst code i).kept = s.kept := by
  unfold holdItem; repeat' (first | (simp; done) | split)

@[simp] theorem arrivalFault_kept (s : State) (src dst code : Nat) (i : Item) : (arrivalFault s src dst code i).kept = s.kept := by
  unfold arrivalFault; (repeat' split) <;> simp

theorem arrival_item {s t : State} {src dst idx : Nat} {i : Item} (h : arrival s src dst idx = .item t i) : t.kept = s.kept := by
  unfold arrival at h
  (repeat' split at h) <;> first | (cases h; done) | (injection h with h1 h2; subst h1; simp; done) | (simp only at h; split at h <;> first | (cases h; done) | (split at h <;> first | (cases h; done) | (injection h with h1 h2; subst h1; simp)))

theorem arrival_fault {s t : State} {src dst idx code : Nat} {i : Item} (h : arrival s src dst idx = .fault t code i) : t.kept = s.kept := by
  unfold arrival at h
  (repeat' split at h) <;> first | (cases h; done) | (injection h with h1 h2; subst h1; simp; done) | (simp only at h; split at h <;> first | (cases h; done) | (injection h with h1 h2; subst h1; simp; done) | (split at h <;> first | (cases h; done) | (injection h with h1 h2; subst h1; simp)))

@[simp] theorem putEarly_kept (s : State) (k : Nat) (p : Packet) : (putEarly s k p).kept = s.kept := by
  unfold putEarly; first | rfl | simp | (split <;> simp)

@[simp] theorem sendAgain_kept (s : State) (src dst : Nat) : (sendAgain s src dst).kept = s.kept := by
  unfold sendAgain; simp

@[simp] theorem meshAgain_kept (s : State) (k : Nat) (p : Packet) : (meshAgain s k p).kept = s.kept := by
  unfold meshAgain; simp

theorem execHomePacketArrival_kept (src dst idx : Nat) (s : State) : keptOut (execHomePacketArrival src dst idx s) s := by
  unfold execHomePacketArrival; repeat' (first | exact keptOut_refused _ _ | refine keptOut_next ?_ | (have hk := arrival_item ‹_›; simp [hk]; done) | (have hk := arrival_fault ‹_›; simp [hk]; done) | split | (simp; done) | (dsimp only; done) | dsimp only)

@[simp] theorem linkRead_kept (s : State) (l : Loc) (n : Nat) (copy : Bool) (q op src : Nat) : (linkRead s l n copy q op src).kept = s.kept := by
  unfold linkRead; simp

theorem answerRead_kept (s : State) (k : Nat) (p : Packet) : keptOpt (answerRead s k p) s := by
  unfold answerRead; (repeat' split) <;> first | exact keptOpt_none _ | exact keptOpt_some (by simp)

theorem execHomeReadAnswer_kept (node idx : Nat) (s : State) : keptOut (execHomeReadAnswer node idx s) s := by
  unfold execHomeReadAnswer; repeat' (first | exact keptOut_refused _ _ | refine keptOut_next ?_ | (have hk := answerRead_kept _ _ _ _ (by assumption); revert hk; simp; done) | split)

theorem takeResponse_kept (s : State) (dst : Nat) (r : Resp) : keptOpt (takeResponse s dst r) s := by
  unfold takeResponse; (repeat' split) <;> first | exact keptOpt_none _ | exact keptOpt_some (by simp)

theorem execReadResponseArrival_kept (src dst idx : Nat) (s : State) : keptOut (execReadResponseArrival src dst idx s) s := by
  unfold execReadResponseArrival; repeat' (first | exact keptOut_refused _ _ | refine keptOut_next ?_ | (have hk := arrival_item ‹_›; have hk2 := takeResponse_kept _ _ _ _ ‹_›; exact hk2.trans hk) | (have hk := arrival_fault ‹_›; simp [hk]; done) | split)

theorem takeSaResponse_kept (s : State) (dst : Nat) (r : Resp) : keptOpt (takeSaResponse s dst r) s := by
  unfold takeSaResponse; repeat' (first | exact keptOpt_none _ | exact keptOpt_some (by simp) | exact keptOpt_some ((saEdge_kept _ _ _).trans (by simp)) | split | dsimp only)

theorem execSaReadAnswer_kept (src dst idx : Nat) (s : State) : keptOut (execSaReadAnswer src dst idx s) s := by
  unfold execSaReadAnswer; repeat' (first | exact keptOut_refused _ _ | refine keptOut_next ?_ | (have hk := arrival_item ‹_›; have hk2 := takeSaResponse_kept _ _ _ _ ‹_›; exact hk2.trans hk) | split)

theorem execLinkRetransmission_kept (src dst : Nat) (ok : Bool) (s : State) : keptOut (execLinkRetransmission src dst ok s) s := by
  unfold execLinkRetransmission; (repeat' split) <;> first | exact keptOut_refused _ _ | exact keptOut_next (by simp)

theorem execTokenTimeout_kept (chan : Nat) (s : State) : keptOut (execTokenTimeout chan s) s := by
  unfold execTokenTimeout; repeat' (first | exact keptOut_refused _ _ | refine keptOut_next ?_ | (simp; done) | split | (dsimp only; done) | dsimp only)

theorem execMeshDeliveryTimeout_kept (die : Nat) (s : State) : keptOut (execMeshDeliveryTimeout die s) s := by
  unfold execMeshDeliveryTimeout; repeat' (first | exact keptOut_refused _ _ | refine keptOut_next ?_ | (simp; done) | split | dsimp only)

theorem execGoldenPass_kept (die : Nat) (s : State) : keptOut (execGoldenPass die s) s := by
  unfold execGoldenPass; repeat' (first | exact keptOut_refused _ _ | refine keptOut_next ?_ | (simp; done) | split | (dsimp only; done) | dsimp only)

theorem execFerrClear_kept (node : Nat) (value : DWord) (s : State) : keptOut (execFerrClear node value s) s := by
  unfold execFerrClear; (repeat' split) <;> first | exact keptOut_refused _ _ | exact keptOut_next (by simp)

theorem execResyncStart_kept (removed : Option Nat) (s : State) : keptOut (execResyncStart removed s) s := by
  unfold execResyncStart; (repeat' split) <;> first | exact keptOut_refused _ _ | exact keptOut_next (by simp)

@[simp] theorem discardAll_kept (s : State) (r : Resync) : (discardAll s r).kept = s.kept := by
  unfold discardAll; simp

@[simp] theorem loseWord_kept (s : State) (cmd word : Nat) : (loseWord s cmd word).kept = s.kept := by
  unfold loseWord; simp

@[simp] theorem loseOp_kept (s : State) (q op : Nat) : (loseOp s q op).kept = s.kept := by
  unfold loseOp; simp

@[simp] theorem loseItem_kept (s : State) (i : Item) : (loseItem s i).kept = s.kept := by
  unfold loseItem; repeat' (first | (simp; done) | split)

@[simp] theorem loseHost_kept (s : State) (r : Resync) : (loseHost s r).kept = s.kept := by
  unfold loseHost; repeat' (first | (simp; done) | split)

@[simp] theorem resetFabric_kept (s : State) (r : Resync) : (resetFabric s r).kept = s.kept := by
  unfold resetFabric; simp

@[simp] theorem resynced_kept (s : State) (r : Resync) : (resynced s r).kept = s.kept := by
  unfold resynced; simp

theorem execResyncDrainEnd_kept (s : State) : keptOut (execResyncDrainEnd s) s := by
  unfold execResyncDrainEnd; (repeat' split) <;> first | exact keptOut_refused _ _ | exact keptOut_next (by simp)

@[simp] theorem statusInterrupt_kept (s : State) (n : Nat) : (statusInterrupt s n).kept = s.kept := by
  unfold statusInterrupt; repeat' (first | (simp; done) | split | (dsimp only; done) | dsimp only)

@[simp] theorem putTask_kept (s : State) (k : Nat) (t : Task) : (putTask s k t).kept = s.kept := by
  unfold putTask; simp

@[simp] theorem releaseTask_kept (s : State) (k : Nat) : (releaseTask s k).kept = s.kept := by
  unfold releaseTask; (repeat' split) <;> simp

@[simp] theorem unitStep_kept (s : State) (k step : Nat) : (State.unitStep s k step).kept = s.kept := by
  unfold State.unitStep; simp

@[simp] theorem creditChild_kept (s : State) (p k : Nat) : (creditChild s p k).kept = s.kept := by
  unfold creditChild; split <;> simp

@[simp] theorem creditChildren_kept (s : State) (k : Nat) : (creditChildren s k).kept = s.kept := by
  unfold creditChildren; split <;> simp

@[simp] theorem drainIfDone_kept (s : State) (k : Nat) : (drainIfDone s k).kept = s.kept := by
  unfold drainIfDone; split <;> simp

@[simp] theorem spawnRead_kept (s : State) (c : LCtx) (a : BitVec 6) : (spawnRead s c a).kept = s.kept := by
  unfold spawnRead; split <;> simp

@[simp] theorem spawnBack_kept (c : LCtx) (d : BitVec 6) (allow code : Nat) (s : State) : (spawnBack c d allow code s).kept = s.kept := by
  unfold spawnBack; simp

@[simp] theorem decideSwap_kept (s : State) (tk : Nat) (t : Team) (reason : BitVec 4) : (decideSwap s tk t reason).kept = s.kept := by
  unfold decideSwap; simp

theorem execSpawnWTimeout_kept (team : Nat) (s : State) : keptOut (execSpawnWTimeout team s) s := by
  unfold execSpawnWTimeout; (repeat' split) <;> first | exact keptOut_refused _ _ | exact keptOut_next (by simp)

theorem unitOp_kept (i : Instr) (fn sd : Nat) (a : BitVec 6) (s : State) : keptOut (unitOp i fn sd a s) s := by
  unfold unitOp; refine leadOp_kept (fun c s => ?_); simp

theorem execJoin_kept (d a : BitVec 6) (s : State) : keptOut (execJoin d a s) s := by
  unfold execJoin; exact unitOp_kept _ _ _ _ _

theorem execTstat_kept (d a : BitVec 6) (s : State) : keptOut (execTstat d a s) s := by
  unfold execTstat; exact unitOp_kept _ _ _ _ _

theorem execAlwrd_kept (d a : BitVec 6) (s : State) : keptOut (execAlwrd d a s) s := by
  unfold execAlwrd; exact unitOp_kept _ _ _ _ _

theorem execUnwind_kept (a : BitVec 6) (s : State) : keptOut (execUnwind a s) s := by
  unfold execUnwind; refine leadOp_kept (fun c s => ?_); simp

@[simp] theorem topUp_kept (s : State) (parent k a : Nat) : (topUp s parent k a).1.kept = s.kept := by
  unfold topUp; (repeat' split) <;> simp

theorem execAlwadd_kept (d a b : BitVec 6) (s : State) : keptOut (execAlwadd d a b s) s := by
  unfold execAlwadd; refine leadOp_kept (fun c s => ?_); simp

@[simp] theorem unitReply_kept (s : State) (tk : Nat) (t : Team) (fn sd : Nat) (x : Task) (figure : Nat) : (unitReply s tk t fn sd x figure).kept = s.kept := by
  unfold unitReply; simp

@[simp] theorem replyOthers_kept (s : State) (parent : Nat) (h : BitVec 32) (x : Task) : (replyOthers s parent h x).kept = s.kept := by
  unfold replyOthers; refine (foldl_kept _ (fun s x => ?_) _ _).trans ?_ <;> (repeat' split) <;> simp

theorem unitAnswer_kept (s : State) (tk : Nat) (t : Team) (fn sd : Nat) (h : BitVec 32) (k : Nat) (x : Task) : keptOpt (unitAnswer s tk t fn sd h k x) s := by
  unfold unitAnswer; (repeat' split) <;> first | exact keptOpt_none _ | exact keptOpt_some (by simp)

@[simp] theorem waitTrap_kept (s : State) (t : Team) (i : TrapInfo) : (waitTrap s t i).kept = s.kept := by
  unfold waitTrap; simp

@[simp] theorem answerStep_kept (s : State) (t : Team) (fn k : Nat) (x : Task) : (State.answerStep s t fn k x).kept = s.kept := by
  unfold State.answerStep; simp

theorem execHomeUnitAnswer_kept (team : Nat) (s : State) : keptOut (execHomeUnitAnswer team s) s := by
  unfold execHomeUnitAnswer; repeat' (first | exact keptOut_refused _ _ | refine keptOut_next ?_ | (simp; done) | (have hk := unitAnswer_kept _ _ _ _ _ _ _ _ _ (by assumption); revert hk; simp; done) | split)

theorem execLeaseRequest_kept (core task : Nat) (s : State) : keptOut (execLeaseRequest core task s) s := by
  unfold execLeaseRequest; repeat' (first | exact keptOut_refused _ _ | refine keptOut_next ?_ | (simp; done) | split | (dsimp only; done) | dsimp only)

@[simp] theorem recallBalances_kept (s : State) (task : Nat) : (recallBalances s task).kept = s.kept := by
  unfold recallBalances; simp

@[simp] theorem meetCharge_kept (s : State) (core task : Nat) (l : Lease) (who : Payer) (amount pool : Nat) : (meetCharge s core task l who amount pool).kept = s.kept := by
  unfold meetCharge; simp

theorem execFailingRequest_kept (core task : Nat) (s : State) : keptOut (execFailingRequest core task s) s := by
  unfold execFailingRequest; (repeat' split) <;> first | exact keptOut_refused _ _ | exact keptOut_next (by simp)

theorem execStarvationTimeout_kept (task : Nat) (s : State) : keptOut (execStarvationTimeout task s) s := by
  unfold execStarvationTimeout; (repeat' split) <;> first | exact keptOut_refused _ _ | exact keptOut_next (by simp)

@[simp] theorem retireTeam_kept (s : State) (tk : Nat) (t : Team) : (retireTeam s tk t).kept = s.kept := by
  unfold retireTeam; simp

theorem execTeamRetirement_kept (team : Nat) (s : State) : keptOut (execTeamRetirement team s) s := by
  unfold execTeamRetirement; (repeat' split) <;> first | exact keptOut_refused _ _ | exact keptOut_next (by simp)

@[simp] theorem passRows_kept (s : State) (k : Nat) (parent : Option Nat) : (passRows s k parent).kept = s.kept := by
  unfold passRows; split <;> simp

@[simp] theorem finishStep_kept (s : State) (task : Nat) (t : Task) : (State.finishStep s task t).kept = s.kept := by
  unfold State.finishStep; repeat' (first | (simp; done) | split)

@[simp] theorem makeReady_kept (s : State) (k : Nat) : (makeReady s k).kept = s.kept := by
  unfold makeReady; simp

theorem execConsumerPeriodicCheck_kept (queue : Nat) (s : State) : keptOut (execConsumerPeriodicCheck queue s) s := by
  unfold execConsumerPeriodicCheck; (repeat' split) <;> first | exact keptOut_refused _ _ | exact keptOut_next (by simp)

theorem unaryOp_kept (i : Instr) (d a : BitVec 6) (f : Word → Word) (s : State) : keptOut (unaryOp i d a f s) s := by
  unfold unaryOp; exact threadOp_kept _ _ _

theorem binaryOp_kept (i : Instr) (d a b : BitVec 6) (f : Word → Word → Word) (s : State) : keptOut (binaryOp i d a b f s) s := by
  unfold binaryOp; exact threadOp_kept _ _ _

theorem pairOp_kept (i : Instr) (d a b : BitVec 6) (f : DWord → DWord → DWord) (s : State) : keptOut (pairOp i d a b f s) s := by
  unfold pairOp; exact threadOp_kept _ _ _

theorem pairWordOp_kept (i : Instr) (d a b : BitVec 6) (f : DWord → Word → DWord) (s : State) : keptOut (pairWordOp i d a b f s) s := by
  unfold pairWordOp; exact threadOp_kept _ _ _

theorem wideOp_kept (i : Instr) (d a b : BitVec 6) (f : Word → Word → DWord) (s : State) : keptOut (wideOp i d a b f s) s := by
  unfold wideOp; exact threadOp_kept _ _ _

theorem predOp_kept (i : Instr) (p : BitVec 3) (f : Thread → Bool) (s : State) : keptOut (predOp i p f s) s := by
  unfold predOp; exact threadOp_kept _ _ _

theorem execNop_kept (s : State) : keptOut (execNop s) s := by
  unfold execNop; repeat' (first | exact scalarOp_kept _ _ _ | exact threadOp_kept _ _ _ | split)

theorem execAdd_kept (d a b : BitVec 6) (x y : Bool) (s : State) : keptOut (execAdd d a b x y s) s := by
  unfold execAdd; exact binaryOp_kept _ _ _ _ _ _

theorem execSub_kept (d a b : BitVec 6) (x y : Bool) (s : State) : keptOut (execSub d a b x y s) s := by
  unfold execSub; exact binaryOp_kept _ _ _ _ _ _

theorem execAnd_kept (d a b : BitVec 6) (x y : Bool) (s : State) : keptOut (execAnd d a b x y s) s := by
  unfold execAnd; exact binaryOp_kept _ _ _ _ _ _

theorem execOr_kept (d a b : BitVec 6) (x y : Bool) (s : State) : keptOut (execOr d a b x y s) s := by
  unfold execOr; exact binaryOp_kept _ _ _ _ _ _

theorem execXor_kept (d a b : BitVec 6) (x y : Bool) (s : State) : keptOut (execXor d a b x y s) s := by
  unfold execXor; exact binaryOp_kept _ _ _ _ _ _

theorem execAndn_kept (d a b : BitVec 6) (x y : Bool) (s : State) : keptOut (execAndn d a b x y s) s := by
  unfold execAndn; exact binaryOp_kept _ _ _ _ _ _

theorem execShl_kept (d a b : BitVec 6) (x y : Bool) (s : State) : keptOut (execShl d a b x y s) s := by
  unfold execShl; exact binaryOp_kept _ _ _ _ _ _

theorem execShr_kept (d a b : BitVec 6) (x y : Bool) (s : State) : keptOut (execShr d a b x y s) s := by
  unfold execShr; exact binaryOp_kept _ _ _ _ _ _

theorem execSar_kept (d a b : BitVec 6) (x y : Bool) (s : State) : keptOut (execSar d a b x y s) s := by
  unfold execSar; exact binaryOp_kept _ _ _ _ _ _

theorem execRol_kept (d a b : BitVec 6) (x y : Bool) (s : State) : keptOut (execRol d a b x y s) s := by
  unfold execRol; exact binaryOp_kept _ _ _ _ _ _

theorem execMin_kept (d a b : BitVec 6) (x y : Bool) (s : State) : keptOut (execMin d a b x y s) s := by
  unfold execMin; exact binaryOp_kept _ _ _ _ _ _

theorem execMax_kept (d a b : BitVec 6) (x y : Bool) (s : State) : keptOut (execMax d a b x y s) s := by
  unfold execMax; exact binaryOp_kept _ _ _ _ _ _

theorem execMinu_kept (d a b : BitVec 6) (x y : Bool) (s : State) : keptOut (execMinu d a b x y s) s := by
  unfold execMinu; exact binaryOp_kept _ _ _ _ _ _

theorem execMaxu_kept (d a b : BitVec 6) (x y : Bool) (s : State) : keptOut (execMaxu d a b x y s) s := by
  unfold execMaxu; exact binaryOp_kept _ _ _ _ _ _

theorem execMul_kept (d a b : BitVec 6) (x y : Bool) (s : State) : keptOut (execMul d a b x y s) s := by
  unfold execMul; exact binaryOp_kept _ _ _ _ _ _

theorem execMulh_kept (d a b : BitVec 6) (x y : Bool) (s : State) : keptOut (execMulh d a b x y s) s := by
  unfold execMulh; exact binaryOp_kept _ _ _ _ _ _

theorem execMulhu_kept (d a b : BitVec 6) (x y : Bool) (s : State) : keptOut (execMulhu d a b x y s) s := by
  unfold execMulhu; exact binaryOp_kept _ _ _ _ _ _

theorem execMad_kept (d a b : BitVec 6) (x y : Bool) (s : State) : keptOut (execMad d a b x y s) s := by
  unfold execMad; exact threadOp_kept _ _ _

theorem execAdds_kept (d a b : BitVec 6) (x y : Bool) (s : State) : keptOut (execAdds d a b x y s) s := by
  unfold execAdds; exact binaryOp_kept _ _ _ _ _ _

theorem execSubs_kept (d a b : BitVec 6) (x y : Bool) (s : State) : keptOut (execSubs d a b x y s) s := by
  unfold execSubs; exact binaryOp_kept _ _ _ _ _ _

theorem execAbsd_kept (d a b : BitVec 6) (x y : Bool) (s : State) : keptOut (execAbsd d a b x y s) s := by
  unfold execAbsd; exact binaryOp_kept _ _ _ _ _ _

theorem execAdd64_kept (d a b : BitVec 6) (x y : Bool) (s : State) : keptOut (execAdd64 d a b x y s) s := by
  unfold execAdd64; exact pairOp_kept _ _ _ _ _ _

theorem execSub64_kept (d a b : BitVec 6) (x y : Bool) (s : State) : keptOut (execSub64 d a b x y s) s := by
  unfold execSub64; exact pairOp_kept _ _ _ _ _ _

theorem execShl64_kept (d a b : BitVec 6) (x y : Bool) (s : State) : keptOut (execShl64 d a b x y s) s := by
  unfold execShl64; exact pairWordOp_kept _ _ _ _ _ _

theorem execShr64_kept (d a b : BitVec 6) (x y : Bool) (s : State) : keptOut (execShr64 d a b x y s) s := by
  unfold execShr64; exact pairWordOp_kept _ _ _ _ _ _

theorem execSar64_kept (d a b : BitVec 6) (x y : Bool) (s : State) : keptOut (execSar64 d a b x y s) s := by
  unfold execSar64; exact pairWordOp_kept _ _ _ _ _ _

theorem execMul64_kept (d a b : BitVec 6) (x y : Bool) (s : State) : keptOut (execMul64 d a b x y s) s := by
  unfold execMul64; exact wideOp_kept _ _ _ _ _ _

theorem execMulu64_kept (d a b : BitVec 6) (x y : Bool) (s : State) : keptOut (execMulu64 d a b x y s) s := by
  unfold execMulu64; exact wideOp_kept _ _ _ _ _ _

theorem execMad64_kept (d a b : BitVec 6) (x y : Bool) (s : State) : keptOut (execMad64 d a b x y s) s := by
  unfold execMad64; exact threadOp_kept _ _ _

theorem execLea64_kept (d a b : BitVec 6) (x y : Bool) (s : State) : keptOut (execLea64 d a b x y s) s := by
  unfold execLea64; exact pairWordOp_kept _ _ _ _ _ _

theorem execMov_kept (d a : BitVec 6) (x : Bool) (s : State) : keptOut (execMov d a x s) s := by
  unfold execMov; exact unaryOp_kept _ _ _ _ _

theorem execNot_kept (d a : BitVec 6) (x : Bool) (s : State) : keptOut (execNot d a x s) s := by
  unfold execNot; exact unaryOp_kept _ _ _ _ _

theorem execNeg_kept (d a : BitVec 6) (x : Bool) (s : State) : keptOut (execNeg d a x s) s := by
  unfold execNeg; exact unaryOp_kept _ _ _ _ _

theorem execAbs_kept (d a : BitVec 6) (x : Bool) (s : State) : keptOut (execAbs d a x s) s := by
  unfold execAbs; exact unaryOp_kept _ _ _ _ _

theorem execClz_kept (d a : BitVec 6) (x : Bool) (s : State) : keptOut (execClz d a x s) s := by
  unfold execClz; exact unaryOp_kept _ _ _ _ _

theorem execCtz_kept (d a : BitVec 6) (x : Bool) (s : State) : keptOut (execCtz d a x s) s := by
  unfold execCtz; exact unaryOp_kept _ _ _ _ _

theorem execPopc_kept (d a : BitVec 6) (x : Bool) (s : State) : keptOut (execPopc d a x s) s := by
  unfold execPopc; exact unaryOp_kept _ _ _ _ _

theorem execBrev_kept (d a : BitVec 6) (x : Bool) (s : State) : keptOut (execBrev d a x s) s := by
  unfold execBrev; exact unaryOp_kept _ _ _ _ _

theorem execSext8_kept (d a : BitVec 6) (x : Bool) (s : State) : keptOut (execSext8 d a x s) s := by
  unfold execSext8; exact unaryOp_kept _ _ _ _ _

theorem execSext16_kept (d a : BitVec 6) (x : Bool) (s : State) : keptOut (execSext16 d a x s) s := by
  unfold execSext16; exact unaryOp_kept _ _ _ _ _

theorem execZext8_kept (d a : BitVec 6) (x : Bool) (s : State) : keptOut (execZext8 d a x s) s := by
  unfold execZext8; exact unaryOp_kept _ _ _ _ _

theorem execZext16_kept (d a : BitVec 6) (x : Bool) (s : State) : keptOut (execZext16 d a x s) s := by
  unfold execZext16; exact unaryOp_kept _ _ _ _ _

theorem execMov64_kept (d a : BitVec 6) (x : Bool) (s : State) : keptOut (execMov64 d a x s) s := by
  unfold execMov64; exact threadOp_kept _ _ _

theorem execBfxu_kept (d a : BitVec 6) (x : Bool) (p l : BitVec 5) (s : State) : keptOut (execBfxu d a x p l s) s := by
  unfold execBfxu; exact unaryOp_kept _ _ _ _ _

theorem execBfxs_kept (d a : BitVec 6) (x : Bool) (p l : BitVec 5) (s : State) : keptOut (execBfxs d a x p l s) s := by
  unfold execBfxs; exact unaryOp_kept _ _ _ _ _

theorem execBfi_kept (d a : BitVec 6) (x : Bool) (p l : BitVec 5) (s : State) : keptOut (execBfi d a x p l s) s := by
  unfold execBfi; exact threadOp_kept _ _ _

theorem execAddi_kept (d a : BitVec 6) (x : Bool) (i : BitVec 13) (s : State) : keptOut (execAddi d a x i s) s := by
  unfold execAddi; exact unaryOp_kept _ _ _ _ _

theorem execAndi_kept (d a : BitVec 6) (x : Bool) (i : BitVec 13) (s : State) : keptOut (execAndi d a x i s) s := by
  unfold execAndi; exact unaryOp_kept _ _ _ _ _

theorem execOri_kept (d a : BitVec 6) (x : Bool) (i : BitVec 13) (s : State) : keptOut (execOri d a x i s) s := by
  unfold execOri; exact unaryOp_kept _ _ _ _ _

theorem execXori_kept (d a : BitVec 6) (x : Bool) (i : BitVec 13) (s : State) : keptOut (execXori d a x i s) s := by
  unfold execXori; exact unaryOp_kept _ _ _ _ _

theorem execShli_kept (d a : BitVec 6) (x : Bool) (n : BitVec 5) (s : State) : keptOut (execShli d a x n s) s := by
  unfold execShli; exact unaryOp_kept _ _ _ _ _

theorem execShri_kept (d a : BitVec 6) (x : Bool) (n : BitVec 5) (s : State) : keptOut (execShri d a x n s) s := by
  unfold execShri; exact unaryOp_kept _ _ _ _ _

theorem execSari_kept (d a : BitVec 6) (x : Bool) (n : BitVec 5) (s : State) : keptOut (execSari d a x n s) s := by
  unfold execSari; exact unaryOp_kept _ _ _ _ _

theorem execRoli_kept (d a : BitVec 6) (x : Bool) (n : BitVec 5) (s : State) : keptOut (execRoli d a x n s) s := by
  unfold execRoli; exact unaryOp_kept _ _ _ _ _

theorem execMovi_kept (d : BitVec 6) (i : BitVec 20) (s : State) : keptOut (execMovi d i s) s := by
  unfold execMovi; exact threadOp_kept _ _ _

theorem execLui_kept (d : BitVec 6) (i : BitVec 20) (s : State) : keptOut (execLui d i s) s := by
  unfold execLui; exact threadOp_kept _ _ _

theorem execCmp_kept (p : BitVec 3) (a b : BitVec 6) (x y : Bool) (c : Cond) (s : State) : keptOut (execCmp p a b x y c s) s := by
  unfold execCmp; exact predOp_kept _ _ _ _

theorem execCmpi_kept (c : Cond) (p : BitVec 3) (a : BitVec 6) (x : Bool) (i : BitVec 13) (s : State) : keptOut (execCmpi c p a x i s) s := by
  unfold execCmpi; exact predOp_kept _ _ _ _

theorem execPand_kept (d a b : BitVec 3) (s : State) : keptOut (execPand d a b s) s := by
  unfold execPand; exact predOp_kept _ _ _ _

theorem execPor_kept (d a b : BitVec 3) (s : State) : keptOut (execPor d a b s) s := by
  unfold execPor; exact predOp_kept _ _ _ _

theorem execPxor_kept (d a b : BitVec 3) (s : State) : keptOut (execPxor d a b s) s := by
  unfold execPxor; exact predOp_kept _ _ _ _

theorem execPnot_kept (d a : BitVec 3) (s : State) : keptOut (execPnot d a s) s := by
  unfold execPnot; exact predOp_kept _ _ _ _

theorem execPtor_kept (d : BitVec 6) (s : State) : keptOut (execPtor d s) s := by
  unfold execPtor; exact threadOp_kept _ _ _

theorem execSel_kept (d a b : BitVec 6) (x y : Bool) (k : BitVec 3) (s : State) : keptOut (execSel d a b x y k s) s := by
  unfold execSel; exact threadOp_kept _ _ _

theorem lBinary_kept (i : Instr) (d a b : BitVec 6) (f : DWord → DWord → DWord) (s : State) : keptOut (lBinary i d a b f s) s := by
  unfold lBinary; exact scalarOp_kept _ _ _

theorem lUnary_kept (i : Instr) (d a : BitVec 6) (f : DWord → DWord) (s : State) : keptOut (lUnary i d a f s) s := by
  unfold lUnary; exact scalarOp_kept _ _ _

theorem lPred_kept (i : Instr) (p : BitVec 3) (f : Lead → Bool) (s : State) : keptOut (lPred i p f s) s := by
  unfold lPred; exact scalarOp_kept _ _ _

theorem execLadd_kept (d a b : BitVec 6) (s : State) : keptOut (execLadd d a b s) s := by
  unfold execLadd; exact lBinary_kept _ _ _ _ _ _

theorem execLsub_kept (d a b : BitVec 6) (s : State) : keptOut (execLsub d a b s) s := by
  unfold execLsub; exact lBinary_kept _ _ _ _ _ _

theorem execLand_kept (d a b : BitVec 6) (s : State) : keptOut (execLand d a b s) s := by
  unfold execLand; exact lBinary_kept _ _ _ _ _ _

theorem execLor_kept (d a b : BitVec 6) (s : State) : keptOut (execLor d a b s) s := by
  unfold execLor; exact lBinary_kept _ _ _ _ _ _

theorem execLxor_kept (d a b : BitVec 6) (s : State) : keptOut (execLxor d a b s) s := by
  unfold execLxor; exact lBinary_kept _ _ _ _ _ _

theorem execLandn_kept (d a b : BitVec 6) (s : State) : keptOut (execLandn d a b s) s := by
  unfold execLandn; exact lBinary_kept _ _ _ _ _ _

theorem execLshl_kept (d a b : BitVec 6) (s : State) : keptOut (execLshl d a b s) s := by
  unfold execLshl; exact lBinary_kept _ _ _ _ _ _

theorem execLshr_kept (d a b : BitVec 6) (s : State) : keptOut (execLshr d a b s) s := by
  unfold execLshr; exact lBinary_kept _ _ _ _ _ _

theorem execLsar_kept (d a b : BitVec 6) (s : State) : keptOut (execLsar d a b s) s := by
  unfold execLsar; exact lBinary_kept _ _ _ _ _ _

theorem execLmin_kept (d a b : BitVec 6) (s : State) : keptOut (execLmin d a b s) s := by
  unfold execLmin; exact lBinary_kept _ _ _ _ _ _

theorem execLmax_kept (d a b : BitVec 6) (s : State) : keptOut (execLmax d a b s) s := by
  unfold execLmax; exact lBinary_kept _ _ _ _ _ _

theorem execLminu_kept (d a b : BitVec 6) (s : State) : keptOut (execLminu d a b s) s := by
  unfold execLminu; exact lBinary_kept _ _ _ _ _ _

theorem execLmaxu_kept (d a b : BitVec 6) (s : State) : keptOut (execLmaxu d a b s) s := by
  unfold execLmaxu; exact lBinary_kept _ _ _ _ _ _

theorem execLmul_kept (d a b : BitVec 6) (s : State) : keptOut (execLmul d a b s) s := by
  unfold execLmul; exact lBinary_kept _ _ _ _ _ _

theorem execLmulh_kept (d a b : BitVec 6) (s : State) : keptOut (execLmulh d a b s) s := by
  unfold execLmulh; exact lBinary_kept _ _ _ _ _ _

theorem execLmulhu_kept (d a b : BitVec 6) (s : State) : keptOut (execLmulhu d a b s) s := by
  unfold execLmulhu; exact lBinary_kept _ _ _ _ _ _

theorem execLmov_kept (d a : BitVec 6) (s : State) : keptOut (execLmov d a s) s := by
  unfold execLmov; exact lUnary_kept _ _ _ _ _

theorem execLnot_kept (d a : BitVec 6) (s : State) : keptOut (execLnot d a s) s := by
  unfold execLnot; exact lUnary_kept _ _ _ _ _

theorem execLneg_kept (d a : BitVec 6) (s : State) : keptOut (execLneg d a s) s := by
  unfold execLneg; exact lUnary_kept _ _ _ _ _

theorem execLclz_kept (d a : BitVec 6) (s : State) : keptOut (execLclz d a s) s := by
  unfold execLclz; exact lUnary_kept _ _ _ _ _

theorem execLpopc_kept (d a : BitVec 6) (s : State) : keptOut (execLpopc d a s) s := by
  unfold execLpopc; exact lUnary_kept _ _ _ _ _

theorem execLcmp_kept (p : BitVec 3) (a b : BitVec 6) (c : Cond) (s : State) : keptOut (execLcmp p a b c s) s := by
  unfold execLcmp; exact lPred_kept _ _ _ _

theorem execLsel_kept (d a b : BitVec 6) (k : BitVec 3) (s : State) : keptOut (execLsel d a b k s) s := by
  unfold execLsel; exact scalarOp_kept _ _ _

theorem execLpand_kept (d a b : BitVec 3) (s : State) : keptOut (execLpand d a b s) s := by
  unfold execLpand; exact lPred_kept _ _ _ _

theorem execLpor_kept (d a b : BitVec 3) (s : State) : keptOut (execLpor d a b s) s := by
  unfold execLpor; exact lPred_kept _ _ _ _

theorem execLpxor_kept (d a b : BitVec 3) (s : State) : keptOut (execLpxor d a b s) s := by
  unfold execLpxor; exact lPred_kept _ _ _ _

theorem execLpnot_kept (d a : BitVec 3) (s : State) : keptOut (execLpnot d a s) s := by
  unfold execLpnot; exact lPred_kept _ _ _ _

theorem execLsrd_kept (d n m : BitVec 6) (s : State) : keptOut (execLsrd d n m s) s := by
  unfold execLsrd; exact leadOp_kept (by intros; repeat' (first | (simp; done) | split | (dsimp only; done) | dsimp only))

theorem execLbara_kept (k : BitVec 4) (s : State) : keptOut (execLbara k s) s := by
  unfold execLbara; refine leadOp_kept (fun c s => ?_); simp

theorem execLbarw_kept (k : BitVec 4) (s : State) : keptOut (execLbarw k s) s := by
  unfold execLbarw; refine leadOp_kept (fun c s => ?_); simp

theorem execLmovi_kept (d : BitVec 6) (i : BitVec 11) (s : State) : keptOut (execLmovi d i s) s := by
  unfold execLmovi; exact scalarOp_kept _ _ _

theorem execLaddi_kept (d a : BitVec 6) (i : BitVec 11) (s : State) : keptOut (execLaddi d a i s) s := by
  unfold execLaddi; exact lUnary_kept _ _ _ _ _

theorem execLandi_kept (d a : BitVec 6) (i : BitVec 11) (s : State) : keptOut (execLandi d a i s) s := by
  unfold execLandi; exact lUnary_kept _ _ _ _ _

theorem execLori_kept (d a : BitVec 6) (i : BitVec 11) (s : State) : keptOut (execLori d a i s) s := by
  unfold execLori; exact lUnary_kept _ _ _ _ _

theorem execLshli_kept (d a n : BitVec 6) (s : State) : keptOut (execLshli d a n s) s := by
  unfold execLshli; exact lUnary_kept _ _ _ _ _

theorem execLshri_kept (d a n : BitVec 6) (s : State) : keptOut (execLshri d a n s) s := by
  unfold execLshri; exact lUnary_kept _ _ _ _ _

theorem execLsari_kept (d a n : BitVec 6) (s : State) : keptOut (execLsari d a n s) s := by
  unfold execLsari; exact lUnary_kept _ _ _ _ _

theorem execLshin_kept (d : BitVec 6) (i : BitVec 11) (s : State) : keptOut (execLshin d i s) s := by
  unfold execLshin; exact lUnary_kept _ _ _ _ _

theorem lBranch_kept (i : Instr) (disp : BitVec 19) (taken : Lead → Bool) (s : State) : keptOut (lBranch i disp taken s) s := by
  unfold lBranch; refine leadOp_kept (fun c s => ?_); simp

theorem execLbr_kept (s_ : BitVec 19) (s : State) : keptOut (execLbr s_ s) s := by
  unfold execLbr; exact lBranch_kept _ _ _ _

theorem execLbrp_kept (p : BitVec 3) (s_ : BitVec 19) (s : State) : keptOut (execLbrp p s_ s) s := by
  unfold execLbrp; exact lBranch_kept _ _ _ _

theorem execLbrn_kept (p : BitVec 3) (s_ : BitVec 19) (s : State) : keptOut (execLbrn p s_ s) s := by
  unfold execLbrn; exact lBranch_kept _ _ _ _

@[simp] theorem closeThread_kept (t : Team) (gk l : Nat) (s : State) : (closeThread t gk l s).kept = s.kept := by
  unfold closeThread; simp

@[simp] theorem closePairs_kept (s : State) (tk : Nat) : (closePairs s tk).kept = s.kept := by
  unfold closePairs; split <;> simp

@[simp] theorem leadGone_kept (s : State) (tk : Nat) (uid : Nat) : (leadGone s tk uid).kept = s.kept := by
  unfold leadGone; simp

theorem execLend_kept (s : State) : keptOut (execLend s) s := by
  unfold execLend; refine leadOp_kept (fun c s => ?_); simp

theorem execLeadStop_kept (team : Nat) (s : State) : keptOut (execLeadStop team s) s := by
  unfold execLeadStop; (repeat' split) <;> first | exact keptOut_refused _ _ | exact keptOut_next (by simp)

@[simp] theorem makeEntry_kept (s : State) (tk a : Nat) : (makeEntry s tk a).kept = s.kept := by
  unfold makeEntry; repeat' (first | (simp; done) | split)

theorem execQsend_kept (a : BitVec 6) (s : State) : keptOut (execQsend a s) s := by
  unfold execQsend; exact leadOp_kept (by intros; repeat' (first | (simp; done) | split | (dsimp only; done) | dsimp only))

theorem execQsendAppend_kept (team : Nat) (s : State) : keptOut (execQsendAppend team s) s := by
  unfold execQsendAppend; repeat' (first | exact keptOut_refused _ _ | refine keptOut_next ?_ | (simp; done) | split | (dsimp only; done) | dsimp only)

@[simp] theorem takeArray_kept (s : State) (tk : Nat) (t : Team) : (takeArray s tk t).kept = s.kept := by
  unfold takeArray; simp

@[simp] theorem drainMats_kept (n : Nat) (s : State) (id : Nat) : (drainMats n s id).kept = s.kept := by
  induction n generalizing s id with
  | zero => rfl
  | succ n ih =>
    unfold drainMats
    repeat' (first | rfl | (simp [ih]; done) | split | (refine (foldl_kept _ (fun s x => ?_) _ _).trans ?_))

@[simp] theorem matDone_kept (s : State) (tk : Nat) : (matDone s tk).kept = s.kept := by
  unfold matDone; split <;> simp

@[simp] theorem modMat_kept (s : State) (tk : Nat) (f : MatCmd → MatCmd) : (modMat s tk f).kept = s.kept := by
  unfold modMat; simp

@[simp] theorem matIssue_kept (i : Instr) (op : MatOp) (left : Nat) (c : LCtx) (s : State) : (matIssue i op left c s).kept = s.kept := by
  unfold matIssue; simp

theorem execMcfg_kept (a : BitVec 6) (s : State) : keptOut (execMcfg a s) s := by
  unfold execMcfg; refine leadOp_kept (fun c s => ?_); simp

theorem execMldw_kept (a b : BitVec 6) (s : State) : keptOut (execMldw a b s) s := by
  unfold execMldw; exact leadOp_kept (by intros; repeat' (first | (simp; done) | split | (dsimp only; done) | dsimp only))

theorem execMswap_kept (s : State) : keptOut (execMswap s) s := by
  unfold execMswap; refine leadOp_kept (fun c s => ?_); simp

theorem execMzero_kept (d b : BitVec 6) (s : State) : keptOut (execMzero d b s) s := by
  unfold execMzero; refine leadOp_kept (fun c s => ?_); simp

theorem execMstrm_kept (d a b : BitVec 6) (s : State) : keptOut (execMstrm d a b s) s := by
  unfold execMstrm; refine leadOp_kept (fun c s => ?_); simp

theorem execMwait_kept (s : State) : keptOut (execMwait s) s := by
  unfold execMwait; refine leadOp_kept (fun c s => ?_); simp

theorem execMwaitRelease_kept (team : Nat) (s : State) : keptOut (execMwaitRelease team s) s := by
  unfold execMwaitRelease; (repeat' split) <;> first | exact keptOut_refused _ _ | exact keptOut_next (by simp)

theorem execMatArrayAcquire_kept (team : Nat) (s : State) : keptOut (execMatArrayAcquire team s) s := by
  unfold execMatArrayAcquire; (repeat' split) <;> first | exact keptOut_refused _ _ | exact keptOut_next (by simp)

@[simp] theorem engineTrap_kept (s : State) (t : Team) (p : CmdAt) (cause : Cause) : (engineTrap s t p cause).kept = s.kept := by
  unfold engineTrap; simp

@[simp] theorem tileLoaded_kept (s : State) (tk : Nat) (set : PlaneSet) : (tileLoaded s tk set).kept = s.kept := by
  unfold tileLoaded; simp

@[simp] theorem tileFailed_kept (s : State) (tk : Nat) (t : Team) (m : MatCmd) : (tileFailed s tk t m).kept = s.kept := by
  unfold tileFailed; simp

theorem execMldwArrayLoad_kept (core : Nat) (s : State) : keptOut (execMldwArrayLoad core s) s := by
  unfold execMldwArrayLoad; repeat' (first | exact keptOut_refused _ _ | refine keptOut_next ?_ | (simp; done) | split | (dsimp only; done) | dsimp only)

theorem execMstrmArrayPass_kept (core : Nat) (s : State) : keptOut (execMstrmArrayPass core s) s := by
  unfold execMstrmArrayPass; repeat' (first | exact keptOut_refused _ _ | refine keptOut_next ?_ | (simp; done) | split | simp only)

theorem execTload_kept (a : BitVec 6) (s : State) : keptOut (execTload a s) s := by
  unfold execTload; refine leadOp_kept (fun c s => ?_); (repeat' split) <;> simp

@[simp] theorem swapGen_kept (c : LCtx) (s : State) : (swapGen c s).kept = s.kept := by
  unfold swapGen; simp

theorem execTswap_kept (s : State) : keptOut (execTswap s) s := by
  unfold execTswap; refine leadOp_kept (fun c s => ?_); simp

theorem execTableLoad_kept (team : Nat) (s : State) : keptOut (execTableLoad team s) s := by
  unfold execTableLoad; repeat' (first | exact keptOut_refused _ _ | refine keptOut_next ?_ | (simp; done) | split | (dsimp only; done) | dsimp only)

@[simp] theorem launchGroups_kept (s : State) (tk core uid : Nat) (d : List Byte) (n : Nat) (l : List Nat) : (launchGroups s tk core uid d n l).kept = s.kept := by
  induction l generalizing s n with
  | nil => rfl
  | cons x l ih => unfold launchGroups; simp [ih]

@[simp] theorem allocQuad_kept (s : State) (task quad quadg : Nat) : (allocQuad s task quad quadg).kept = s.kept := by
  unfold allocQuad; simp

@[simp] theorem clearWins_kept (s : State) (core tk : Nat) (places : List Nat) : (clearWins s core tk places).kept = s.kept := by
  unfold clearWins; simp

@[simp] theorem giveGroup_kept (s : State) (core gk : Nat) : (giveGroup s core gk).kept = s.kept := by
  unfold giveGroup; (repeat' split) <;> simp

@[simp] theorem arbitrateGroup_kept (s : State) (core : Nat) : (arbitrateGroup s core).kept = s.kept := by
  unfold arbitrateGroup; (repeat' split) <;> simp

@[simp] theorem arbitrateLead_kept (s : State) (core : Nat) : (arbitrateLead s core).kept = s.kept := by
  unfold arbitrateLead; (repeat' split) <;> simp

theorem execClauseArbitration_kept (core : Nat) (s : State) : keptOut (execClauseArbitration core s) s := by
  unfold execClauseArbitration; (repeat' split) <;> first | exact keptOut_refused _ _ | exact keptOut_next (by simp)

theorem acceptLead_kept (s : State) (idx tk : Nat) (t : Team) (i : SendItem) : keptOpt (acceptLead s idx tk t i) s := by
  unfold acceptLead; repeat' (first | exact keptOpt_none _ | refine keptOpt_some ?_ | (have hk := sendToLead_kept _ _ _ _ _ (by assumption); revert hk; simp; done) | split)

theorem execSendAcceptance_kept (idx : Nat) (s : State) : keptOut (execSendAcceptance idx s) s := by
  unfold execSendAcceptance; repeat' (first | exact keptOut_refused _ _ | refine keptOut_next ?_ | (simp; done) | (have hk := acceptLead_kept _ _ _ _ _ _ (by assumption); revert hk; simp; done) | split)

theorem execUnwindAccept_kept (team : Nat) (s : State) : keptOut (execUnwindAccept team s) s := by
  unfold execUnwindAccept; (repeat' split) <;> first | exact keptOut_refused _ _ | exact keptOut_next (by simp)

@[simp] theorem writeFault_kept (s : State) (space : Nat) (r : FaultRec) : (writeFault s space r).kept = s.kept := by
  unfold writeFault; simp

@[simp] theorem writeFaults_kept (s : State) (tk : Nat) : (writeFaults s tk).kept = s.kept := by
  unfold writeFaults; repeat' (first | (simp; done) | split)

theorem execSwapOut_kept (team : Nat) (reason : BitVec 4) (s : State) : keptOut (execSwapOut team reason s) s := by
  unfold execSwapOut; (repeat' split) <;> first | exact keptOut_refused _ _ | exact keptOut_next (by simp)

@[simp] theorem withdrawHeld_kept (s : State) (ids : List Nat) : (withdrawHeld s ids).kept = s.kept := by
  unfold withdrawHeld; simp

@[simp] theorem unread_kept (s : State) (gk : Nat) (h : Held) : (unread s gk h).kept = s.kept := by
  cases h <;> simp [unread]

@[simp] theorem withdrawPath_kept (task tk gk : Nat) (s : State) (p : Path) : (withdrawPath task tk gk s p).kept = s.kept := by
  unfold withdrawPath; split <;> simp

@[simp] theorem withdrawPaths_kept (s : State) (tk : Nat) (t : Team) : (withdrawPaths s tk t).kept = s.kept := by
  unfold withdrawPaths; simp

@[simp] theorem saveTeam_kept (s : State) (tk : Nat) (reason : BitVec 4) : (saveTeam s tk reason).kept = s.kept := by
  unfold saveTeam; repeat' (first | (simp; done) | split | (dsimp only; done) | dsimp only)

theorem execContextImageWrite_kept (team : Nat) (s : State) : keptOut (execContextImageWrite team s) s := by
  unfold execContextImageWrite; (repeat' split) <;> first | exact keptOut_refused _ _ | exact keptOut_next (by simp)

@[simp] theorem resendRead_kept (tk : Nat) (s : State) (h : HeldSa) : (resendRead tk s h).kept = s.kept := by
  unfold resendRead; (repeat' split) <;> simp

@[simp] theorem enterGroup_kept (i : Saved) (core tk : Nat) (s : State) (x : (Nat × Group) × Nat) : (enterGroup i core tk s x).kept = s.kept := by
  unfold enterGroup; simp

@[simp] theorem moveQueues_kept (s : State) (uid die : Nat) : (moveQueues s uid die).kept = s.kept := by
  unfold moveQueues; simp

@[simp] theorem resendCmd_kept (s : State) (t : Team) (core : Nat) (c : Option (Nat × SaCmd × Nat)) : (resendCmd s t core c).kept = s.kept := by
  unfold resendCmd; repeat' (first | (simp; done) | split)

@[simp] theorem landHeld_kept (uid core : Nat) (s : State) (d : Delivery) : (landHeld uid core s d).kept = s.kept := by
  unfold landHeld; simp

@[simp] theorem enterTeam_kept (s : State) (i : Saved) (core ctx : Nat) (places : List Nat) : (enterTeam s i core ctx places).kept = s.kept := by
  unfold enterTeam; simp

@[simp] theorem failConcerned_kept (s : State) (q : Nat) : (failConcerned s q).kept = s.kept := by
  unfold failConcerned; simp

theorem execDoorbell_kept (aqi : Nat) (value : DWord) (s : State) : keptOut (execDoorbell aqi value s) s := by
  unfold execDoorbell; (repeat' split) <;> first | exact keptOut_refused _ _ | exact keptOut_next (by simp)

@[simp] theorem answer_kept (s : State) (code status : Nat) (payload : List Byte) : (answer s code status payload).kept = s.kept := by
  unfold answer; simp

@[simp] theorem lingRefuse_kept (s : State) (code : Nat) : (lingRefuse s code).kept = s.kept := by
  unfold lingRefuse; simp

theorem ling_kept {code : Nat} {ok : Bool} {f : State → State} {payload : List Byte} {s : State} (hf : (f s).kept = s.kept) :
    keptOut (ling code ok f payload s) s := by
  unfold ling
  repeat' (first | exact keptOut_refused _ _ | (refine keptOut_next ?_) | (simp [hf]; done) | split)

@[simp] theorem lingFault_kept (code cmd : Nat) (s : State) : (lingFault code cmd s).kept = s.kept := by
  unfold lingFault; simp

theorem execMapq_kept (queue : Nat) (block : Place) (pasid : BitVec 20) (root : Nat) (stage2 : Option Nat) (priv : Bool) (s : State) : keptOut (execMapq queue block pasid root stage2 priv s) s := by
  unfold execMapq; refine ling_kept ?_; repeat' (first | (simp; done))

theorem execRevoke_kept (pasid : BitVec 20) (s : State) : keptOut (execRevoke pasid s) s := by
  unfold execRevoke; repeat' (first | exact keptOut_refused _ _ | (simp; done) | (refine ling_kept ?_) | split)

theorem execPolicy_kept (bytes : List Byte) (s : State) : keptOut (execPolicy bytes s) s := by
  unfold execPolicy; repeat' (first | (simp; done) | (refine ling_kept ?_))

theorem execReport_kept (region : Nat) (s : State) : keptOut (execReport region s) s := by
  unfold execReport; refine ling_kept ?_; repeat' (first | (simp; done))

theorem execInval_kept (asid : Nat) (va : DWord) (glob : Bool) (s : State) : keptOut (execInval asid va glob s) s := by
  unfold execInval; (repeat' split) <;> first | exact keptOut_refused _ _ | exact keptOut_next (by simp)

@[simp] theorem dropCached_kept (s : State) (i : Inval) : (dropCached s i).kept = s.kept := by
  unfold dropCached; simp

@[simp] theorem freeSelectors_kept (s : State) (blocks : List Nat) : (freeSelectors s blocks).kept = s.kept := by
  unfold freeSelectors; simp

theorem execInvalComplete_kept (idx : Nat) (s : State) : keptOut (execInvalComplete idx s) s := by
  unfold execInvalComplete; (repeat' split) <;> first | exact keptOut_refused _ _ | exact keptOut_next (by simp)

@[simp] theorem serviced_kept (s : State) (uid ring seq : Nat) : (serviced s uid ring seq).kept = s.kept := by
  unfold serviced; simp

theorem execFaultdone_kept (ring seq : Nat) (service : Bool) (s : State) : keptOut (execFaultdone ring seq service s) s := by
  unfold execFaultdone; repeat' (first | (simp; done) | (refine ling_kept ?_) | split)

theorem execRemap_kept (entry : Nat) (value : QWord) (s : State) : keptOut (execRemap entry value s) s := by
  unfold execRemap; refine ling_kept ?_; repeat' (first | (simp; done))

theorem execPodbar_kept (s : State) : keptOut (execPodbar s) s := by
  unfold execPodbar; generalize newPodId s = r
  cases r
  · exact ling_kept rfl
  · exact ling_kept (by simp)

theorem execPower_kept (watts : Nat) (s : State) : keptOut (execPower watts s) s := by
  unfold execPower; refine ling_kept ?_; repeat' (first | (simp; done))

@[simp] theorem rftPath_kept (s : State) (gk : Nat) (p : Path) : (rftPath s gk p).kept = s.kept := by
  unfold rftPath; split <;> simp

@[simp] theorem resumeGroup_kept (s : State) (gk : Nat) (rft : Bool) : (resumeGroup s gk rft).kept = s.kept := by
  unfold resumeGroup; repeat' (first | (simp; done) | split | (dsimp only; done) | dsimp only)

@[simp] theorem putResident_kept (s : State) (tk : Nat) (i : Saved) : (putResident s tk i).kept = s.kept := by
  unfold putResident; simp

theorem writeImage_kept (s : State) (uid off : Nat) (bytes : List Byte) : keptOpt (writeImage s uid off bytes) s := by
  unfold writeImage; repeat' (first | exact keptOpt_none _ | refine keptOpt_some ?_ | (simp; done) | split | (dsimp only; done) | dsimp only)

theorem debugAnswer_kept (r : Option (State × List Byte)) (s : State) (h : keptOpt2 r s) : keptOut (debugAnswer r s) s := by
  unfold debugAnswer; cases r
  · exact ling_kept rfl
  · exact ling_kept (h _ rfl)

theorem haltLead_kept (s : State) (uid : Nat) (b : Bool) : keptOpt2 (haltLead s uid b) s := by
  unfold haltLead; (repeat' split) <;> first | exact keptOpt2_none _ | exact keptOpt2_some (by simp)

theorem haltTeam_kept (s : State) (uid : Nat) (b : Bool) : keptOpt2 (haltTeam s uid b) s := by
  unfold haltTeam; (repeat' split) <;> first | exact keptOpt2_none _ | exact keptOpt2_some (by simp)

theorem readThread_kept (s : State) (key : Nat) : keptOpt2 (readThread s key) s := by
  unfold readThread; (repeat' split) <;> first | exact keptOpt2_none _ | exact keptOpt2_some (by simp)

theorem writeThread_kept (s : State) (key : Nat) (bs : List Byte) : keptOpt2 (writeThread s key bs) s := by
  unfold writeThread; (repeat' split) <;> first | exact keptOpt2_none _ | exact keptOpt2_some (by simp)

theorem readLead_kept (s : State) (uid : Nat) : keptOpt2 (readLead s uid) s := by
  unfold readLead; (repeat' split) <;> first | exact keptOpt2_none _ | exact keptOpt2_some (by simp)

theorem writeLead_kept (s : State) (uid : Nat) (bs : List Byte) : keptOpt2 (writeLead s uid bs) s := by
  unfold writeLead; (repeat' split) <;> first | exact keptOpt2_none _ | exact keptOpt2_some (by simp)

theorem debugDo_kept (cmd : DebugCmd) (s : State) : keptOpt2 (debugDo cmd s) s := by
  cases cmd <;> simp only [debugDo]
  all_goals first
    | exact haltLead_kept _ _ _ | exact haltTeam_kept _ _ _ | exact readThread_kept _ _ | exact writeThread_kept _ _ _
    | exact readLead_kept _ _ | exact writeLead_kept _ _ _
    | (intro t ht; simp only [Option.map_eq_some_iff] at ht; obtain ⟨i, hi, rfl⟩ := ht; rfl)
    | (intro t ht; simp only [Option.map_eq_some_iff] at ht; obtain ⟨i, hi, rfl⟩ := ht; exact writeImage_kept _ _ _ _ _ hi)
    | (split <;> first | exact keptOpt2_none _ | (refine keptOpt2_some ?_; simp))

theorem execDebug_kept (cmd : DebugCmd) (s : State) : keptOut (execDebug cmd s) s := by
  unfold execDebug; exact debugAnswer_kept _ _ (debugDo_kept _ _)

@[simp] theorem hostOp_kept (s : State) (l : Loc) (n : Nat) (k : OpKind) : (hostOp s l n k).kept = s.kept := by
  unfold hostOp; simp

@[simp] theorem hostStore_kept (s : State) (kind addr : Nat) (bytes : List Byte) : (hostStore s kind addr bytes).kept = s.kept := by
  unfold hostStore; simp

@[simp] theorem readNow_kept (s : State) (space addr n : Nat) (bs : List Byte) : (readNow s space addr n bs).kept = s.kept := by
  unfold readNow; simp

@[simp] theorem hostLoad_kept (s : State) (kind addr n : Nat) : (hostLoad s kind addr n).kept = s.kept := by
  unfold hostLoad; simp

theorem execHostRead_kept (space addr n : Nat) (s : State) : keptOut (execHostRead space addr n s) s := by
  unfold execHostRead; (repeat' split) <;> first | exact keptOut_refused _ _ | exact keptOut_fault _ _ | exact keptOut_next (by simp)

theorem execHostLinkCompletion_kept (idx : Nat) (data : List Byte) (s : State) : keptOut (execHostLinkCompletion idx data s) s := by
  unfold execHostLinkCompletion; repeat' (first | exact keptOut_refused _ _ | refine keptOut_next ?_ | (simp; done) | split | (dsimp only; done) | dsimp only)

@[simp] theorem selfTest_kept (s : State) : (selfTest s).kept = s.kept := by
  unfold selfTest; simp

@[simp] theorem startFabric_kept (s : State) : (startFabric s).kept = s.kept := by
  unfold startFabric; simp

@[simp] theorem linkTrained_kept (s : State) : (linkTrained s).kept = s.kept := by
  unfold linkTrained; simp

@[simp] theorem stepDone_kept (s : State) : (stepDone s).kept = s.kept := by
  unfold stepDone; simp

theorem execBringUp_kept (ok : Bool) (s : State) : keptOut (execBringUp ok s) s := by
  unfold execBringUp; (repeat' split) <;> first | exact keptOut_refused _ _ | exact keptOut_next (by simp)

theorem execRecoveryImage_kept (image : List Byte) (s : State) : keptOut (execRecoveryImage image s) s := by
  unfold execRecoveryImage; (repeat' split) <;> first | exact keptOut_refused _ _ | exact keptOut_next (by simp)

theorem execMeterMirror_kept (s : State) : keptOut (execMeterMirror s) s := by
  unfold execMeterMirror; (repeat' split) <;> first | exact keptOut_refused _ _ | exact keptOut_next (by simp)

theorem execChannelRetrain_kept (channel : Nat) (s : State) : keptOut (execChannelRetrain channel s) s := by
  unfold execChannelRetrain; (repeat' split) <;> first | exact keptOut_refused _ _ | exact keptOut_next (by simp)

theorem execThermalStop_kept (s : State) : keptOut (execThermalStop s) s := by
  unfold execThermalStop; (repeat' split) <;> first | exact keptOut_refused _ _ | exact keptOut_next (by simp)

theorem execThermalResume_kept (s : State) : keptOut (execThermalResume s) s := by
  unfold execThermalResume; (repeat' split) <;> first | exact keptOut_refused _ _ | exact keptOut_next (by simp)

@[simp] theorem loseUnit_kept (s : State) (task cmd unit : Nat) : (loseUnit s task cmd unit).kept = s.kept := by
  unfold loseUnit; simp

@[simp] theorem memoryError_kept (corrected : Bool) (task cmd unit kind pa : Nat) (s : State) : (memoryError corrected task cmd unit kind pa s).kept = s.kept := by
  unfold memoryError; simp

@[simp] theorem rowError_kept (row : Nat) (s : State) : (rowError row s).kept = s.kept := by
  unfold rowError; simp

@[simp] theorem throttle_kept (core : Nat) (s : State) : (throttle core s).kept = s.kept := by
  unfold throttle; simp

@[simp] theorem loadEnd_kept (s : State) (tk : Nat) (t : Team) (l : ImageLoad) : (loadEnd s tk t l).kept = s.kept := by
  unfold loadEnd; repeat' (first | (simp; done) | split | dsimp only)

@[simp] theorem loadUnit_kept (s : State) (tk : Nat) (t : Team) (l : ImageLoad) : (loadUnit s tk t l).kept = s.kept := by
  unfold loadUnit; repeat' (first | (simp; done) | split | dsimp only)

@[simp] theorem leadUnit_kept (s : State) (tk : Nat) (t : Team) : (leadUnit s tk t).kept = s.kept := by
  unfold leadUnit; repeat' (first | (simp; done) | split)

@[simp] theorem mldwUnit_kept (s : State) (tk : Nat) (t : Team) : (mldwUnit s tk t).kept = s.kept := by
  unfold mldwUnit; repeat' (first | (simp; done) | split)

@[simp] theorem unitBegin_kept (team : Nat) (sa : Bool) (s : State) : (unitBegin team sa s).kept = s.kept := by
  unfold unitBegin; repeat' (first | (simp; done) | split)

@[simp] theorem setRegions_kept (qsag ssar : Nat) (s : State) : (setRegions qsag ssar s).kept = s.kept := by
  unfold setRegions; simp

@[simp] theorem logFibre_kept (s : State) (transient : Bool) (fibre : Nat) : (logFibre s transient fibre).kept = s.kept := by
  unfold logFibre; simp

@[simp] theorem setFibre_kept (s : State) (f : Nat) (x : Fibre) : (State.setFibre s f x).kept = s.kept := by
  unfold State.setFibre; simp

theorem execFibreTraining_kept (fibre lambdas version : Nat) (s : State) : keptOut (execFibreTraining fibre lambdas version s) s := by
  unfold execFibreTraining; (repeat' split) <;> first | exact keptOut_refused _ _ | exact keptOut_next (by simp)

theorem execFibreFlitRetry_kept (fibre : Nat) (ok : Bool) (s : State) : keptOut (execFibreFlitRetry fibre ok s) s := by
  unfold execFibreFlitRetry; (repeat' split) <;> first | exact keptOut_refused _ _ | exact keptOut_next (by simp)

theorem execFibrePark_kept (fibre : Nat) (s : State) : keptOut (execFibrePark fibre s) s := by
  unfold execFibrePark; repeat' (first | exact keptOut_refused _ _ | refine keptOut_next ?_ | (simp; done) | split | (dsimp only; done) | dsimp only)

theorem execFibreWake_kept (fibre : Nat) (s : State) : keptOut (execFibreWake fibre s) s := by
  unfold execFibreWake; repeat' (first | exact keptOut_refused _ _ | refine keptOut_next ?_ | (simp; done) | split | (dsimp only; done) | dsimp only)

@[simp] theorem acknowledge_kept (s : State) (fibre id : Nat) : (acknowledge s fibre id).kept = s.kept := by
  unfold acknowledge; simp

theorem xlane_kept (i : Instr) (d : BitVec 6) (f : (Nat → Thread) → List Nat → Nat → Option Word) (s : State) : keptOut (xlane i d f s) s := by
  unfold xlane; refine groupOp_kept (fun c ls s => ?_); simp

theorem xmove_kept (i : Instr) (d a : BitVec 6) (src : (Nat → Thread) → List Nat → Nat → Option Nat) (s : State) : keptOut (xmove i d a src s) s := by
  unfold xmove; exact xlane_kept _ _ _ _

theorem xreduce_kept (i : Instr) (d : BitVec 6) (f : (Nat → Thread) → List Nat → Word) (s : State) : keptOut (xreduce i d f s) s := by
  unfold xreduce; exact xlane_kept _ _ _ _

theorem execXperm_kept (d a b : BitVec 6) (x y : Bool) (s : State) : keptOut (execXperm d a b x y s) s := by
  unfold execXperm; exact xmove_kept _ _ _ _ _

theorem execXup_kept (d a b : BitVec 6) (x y : Bool) (s : State) : keptOut (execXup d a b x y s) s := by
  unfold execXup; exact xmove_kept _ _ _ _ _

theorem execXdown_kept (d a b : BitVec 6) (x y : Bool) (s : State) : keptOut (execXdown d a b x y s) s := by
  unfold execXdown; exact xmove_kept _ _ _ _ _

theorem execXxor_kept (d a b : BitVec 6) (x y : Bool) (s : State) : keptOut (execXxor d a b x y s) s := by
  unfold execXxor; exact xmove_kept _ _ _ _ _

theorem execXstep_kept (d a : BitVec 6) (x : Bool) (s : State) : keptOut (execXstep d a x s) s := by
  unfold execXstep; exact xmove_kept _ _ _ _ _

theorem execXredadd_kept (d a : BitVec 6) (x : Bool) (s : State) : keptOut (execXredadd d a x s) s := by
  unfold execXredadd; exact xreduce_kept _ _ _ _

theorem execXredmax_kept (d a : BitVec 6) (x : Bool) (s : State) : keptOut (execXredmax d a x s) s := by
  unfold execXredmax; exact xreduce_kept _ _ _ _

theorem execXredmin_kept (d a : BitVec 6) (x : Bool) (s : State) : keptOut (execXredmin d a x s) s := by
  unfold execXredmin; exact xreduce_kept _ _ _ _

theorem execXredand_kept (d a : BitVec 6) (x : Bool) (s : State) : keptOut (execXredand d a x s) s := by
  unfold execXredand; exact xreduce_kept _ _ _ _

theorem execXredor_kept (d a : BitVec 6) (x : Bool) (s : State) : keptOut (execXredor d a x s) s := by
  unfold execXredor; exact xreduce_kept _ _ _ _

theorem execXredfadd_kept (d a : BitVec 6) (x : Bool) (s : State) : keptOut (execXredfadd d a x s) s := by
  unfold execXredfadd; exact xreduce_kept _ _ _ _

theorem execXredfmax_kept (d a : BitVec 6) (x : Bool) (s : State) : keptOut (execXredfmax d a x s) s := by
  unfold execXredfmax; exact xreduce_kept _ _ _ _

theorem execXscanadd_kept (d a : BitVec 6) (x : Bool) (s : State) : keptOut (execXscanadd d a x s) s := by
  unfold execXscanadd; exact xlane_kept _ _ _ _

theorem execXbal_kept (d : BitVec 6) (p : BitVec 3) (s : State) : keptOut (execXbal d p s) s := by
  unfold execXbal; exact xreduce_kept _ _ _ _

theorem execXany_kept (d p : BitVec 3) (s : State) : keptOut (execXany d p s) s := by
  unfold execXany; refine groupOp_kept (fun c ls s => ?_); simp

theorem execXall_kept (d p : BitVec 3) (s : State) : keptOut (execXall d p s) s := by
  unfold execXall; refine groupOp_kept (fun c ls s => ?_); simp


/-- The instructions and steps that write physical memory. -/
def Instr.writesPhysical : Instr → Bool
  | .spawn _ _ _ => true
  | .spawnW _ _ _ => true
  | .taskCompletion _ => true
  | .homeApply _ _ => true
  | .unwindEnd _ => true
  | .spawnWAdmission _ => true
  | .slotConsume _ => true
  | .teamPlacement _ _ _ => true
  | .teamReentry _ _ _ => true
  | .preemptRequest _ => true
  | .resetRequest _ => true
  | .preemptT1Expiry _ => true
  | .preemptT2Expiry _ => true
  | .preemptDone _ => true
  | .registerWrite _ _ _ => true
  | .hostWrite _ _ _ => true
  | .enableq _ => true
  | .loadobj _ _ _ _ => true
  | .orderlyPowerDown => true
  | .powerLoss => true
  | .fibreFlitReceive _ => true
  | _ => false

/-- No other instruction or step touches the memories, the time counter or the schedule. -/
theorem exec_kept (i : Instr) (s : State) (h : Instr.writesPhysical i = false) : keptOut (exec i s) s := by
  cases i
  case nop => exact execNop_kept _
  case add => exact execAdd_kept _ _ _ _ _ _
  case sub => exact execSub_kept _ _ _ _ _ _
  case and => exact execAnd_kept _ _ _ _ _ _
  case or => exact execOr_kept _ _ _ _ _ _
  case xor => exact execXor_kept _ _ _ _ _ _
  case andn => exact execAndn_kept _ _ _ _ _ _
  case shl => exact execShl_kept _ _ _ _ _ _
  case shr => exact execShr_kept _ _ _ _ _ _
  case sar => exact execSar_kept _ _ _ _ _ _
  case rol => exact execRol_kept _ _ _ _ _ _
  case min => exact execMin_kept _ _ _ _ _ _
  case max => exact execMax_kept _ _ _ _ _ _
  case minu => exact execMinu_kept _ _ _ _ _ _
  case maxu => exact execMaxu_kept _ _ _ _ _ _
  case mul => exact execMul_kept _ _ _ _ _ _
  case mulh => exact execMulh_kept _ _ _ _ _ _
  case mulhu => exact execMulhu_kept _ _ _ _ _ _
  case mad => exact execMad_kept _ _ _ _ _ _
  case adds => exact execAdds_kept _ _ _ _ _ _
  case subs => exact execSubs_kept _ _ _ _ _ _
  case absd => exact execAbsd_kept _ _ _ _ _ _
  case add64 => exact execAdd64_kept _ _ _ _ _ _
  case sub64 => exact execSub64_kept _ _ _ _ _ _
  case shl64 => exact execShl64_kept _ _ _ _ _ _
  case shr64 => exact execShr64_kept _ _ _ _ _ _
  case sar64 => exact execSar64_kept _ _ _ _ _ _
  case mul64 => exact execMul64_kept _ _ _ _ _ _
  case mulu64 => exact execMulu64_kept _ _ _ _ _ _
  case mad64 => exact execMad64_kept _ _ _ _ _ _
  case lea64 => exact execLea64_kept _ _ _ _ _ _
  case mov => exact execMov_kept _ _ _ _
  case not => exact execNot_kept _ _ _ _
  case neg => exact execNeg_kept _ _ _ _
  case abs => exact execAbs_kept _ _ _ _
  case clz => exact execClz_kept _ _ _ _
  case ctz => exact execCtz_kept _ _ _ _
  case popc => exact execPopc_kept _ _ _ _
  case brev => exact execBrev_kept _ _ _ _
  case sext8 => exact execSext8_kept _ _ _ _
  case sext16 => exact execSext16_kept _ _ _ _
  case zext8 => exact execZext8_kept _ _ _ _
  case zext16 => exact execZext16_kept _ _ _ _
  case mov64 => exact execMov64_kept _ _ _ _
  case bfxu => exact execBfxu_kept _ _ _ _ _ _
  case bfxs => exact execBfxs_kept _ _ _ _ _ _
  case bfi => exact execBfi_kept _ _ _ _ _ _
  case addi => exact execAddi_kept _ _ _ _ _
  case andi => exact execAndi_kept _ _ _ _ _
  case ori => exact execOri_kept _ _ _ _ _
  case xori => exact execXori_kept _ _ _ _ _
  case shli => exact execShli_kept _ _ _ _ _
  case shri => exact execShri_kept _ _ _ _ _
  case sari => exact execSari_kept _ _ _ _ _
  case roli => exact execRoli_kept _ _ _ _ _
  case movi => exact execMovi_kept _ _ _
  case lui => exact execLui_kept _ _ _
  case cmp => exact execCmp_kept _ _ _ _ _ _ _
  case cmpi => exact execCmpi_kept _ _ _ _ _ _
  case pand => exact execPand_kept _ _ _ _
  case por => exact execPor_kept _ _ _ _
  case pxor => exact execPxor_kept _ _ _ _
  case pnot => exact execPnot_kept _ _ _
  case ptor => exact execPtor_kept _ _
  case sel => exact execSel_kept _ _ _ _ _ _ _
  case br => exact execBr_kept _ _
  case brp => exact execBrp_kept _ _ _
  case brn => exact execBrn_kept _ _ _
  case bz => exact execBz_kept _ _ _ _
  case bnz => exact execBnz_kept _ _ _ _
  case call => exact execCall_kept _ _
  case callp => exact execCallp_kept _ _ _
  case jr => exact execJr_kept _ _ _
  case jrl => exact execJrl_kept _ _ _
  case ret => exact execRet_kept _
  case yield => exact execYield_kept _
  case exit => exact execExit_kept _
  case trap => exact execTrap_kept _ _
  case brk => exact execBrk_kept _ _
  case xconv => exact execXconv_kept _
  case xset => exact execXset_kept _ _ _ _ _ _
  case rdx => exact execRdx_kept _ _ _ _ _
  case wrx => exact execWrx_kept _ _ _ _ _ _
  case srd => exact execSrd_kept _ _ _
  case rep => exact execRep_kept _ _ _ _
  case ld => exact execLd_kept _ _ _ _ _ _
  case st => exact execSt_kept _ _ _ _ _ _
  case lds => exact execLds_kept _ _ _ _ _ _
  case sts => exact execSts_kept _ _ _ _ _ _
  case ldq => exact execLdq_kept _ _ _ _ _ _
  case stq => exact execStq_kept _ _ _ _ _ _
  case ldf => exact execLdf_kept _ _ _ _ _ _
  case ldacc => exact execLdacc_kept _ _ _ _ _ _
  case atom32 => exact execAtom32_kept _ _ _ _ _ _ _ _
  case atom64 => exact execAtom64_kept _ _ _ _ _ _ _ _
  case atoms => exact execAtoms_kept _ _ _ _ _ _ _
  case fence => exact execFence_kept _ _
  case bara => exact execBara_kept _ _ _
  case barw => exact execBarw_kept _ _ _
  case barab => exact execBarab_kept _ _ _ _ _
  case bari => exact execBari_kept _ _ _ _
  case bars => exact execBars_kept _ _ _ _ _
  case xperm => exact execXperm_kept _ _ _ _ _ _
  case xup => exact execXup_kept _ _ _ _ _ _
  case xdown => exact execXdown_kept _ _ _ _ _ _
  case xxor => exact execXxor_kept _ _ _ _ _ _
  case xredadd => exact execXredadd_kept _ _ _ _
  case xredmax => exact execXredmax_kept _ _ _ _
  case xredmin => exact execXredmin_kept _ _ _ _
  case xredand => exact execXredand_kept _ _ _ _
  case xredor => exact execXredor_kept _ _ _ _
  case xredfadd => exact execXredfadd_kept _ _ _ _
  case xredfmax => exact execXredfmax_kept _ _ _ _
  case xscanadd => exact execXscanadd_kept _ _ _ _
  case xbal => exact execXbal_kept _ _ _
  case xany => exact execXany_kept _ _ _
  case xall => exact execXall_kept _ _ _
  case xstep => exact execXstep_kept _ _ _ _
  case send => exact execSend_kept _ _ _ _ _ _
  case qget => exact execQget_kept _ _
  case fadd => exact execFadd_kept _ _ _ _ _ _ _
  case fsub => exact execFsub_kept _ _ _ _ _ _ _
  case fmul => exact execFmul_kept _ _ _ _ _ _ _
  case ffma => exact execFfma_kept _ _ _ _ _ _ _
  case fmin => exact execFmin_kept _ _ _ _ _ _
  case fmax => exact execFmax_kept _ _ _ _ _ _
  case fabs => exact execFabs_kept _ _ _ _
  case fneg => exact execFneg_kept _ _ _ _
  case fcvtif => exact execFcvtif_kept _ _ _ _ _
  case fcvtuf => exact execFcvtuf_kept _ _ _ _ _
  case fcvtfi => exact execFcvtfi_kept _ _ _ _ _
  case fcvtfu => exact execFcvtfu_kept _ _ _ _ _
  case fcvtbf => exact execFcvtbf_kept _ _ _ _ _
  case fcvtfb => exact execFcvtfb_kept _ _ _ _
  case fcvte4 => exact execFcvte4_kept _ _ _ _ _
  case fcvte5 => exact execFcvte5_kept _ _ _ _ _
  case fcvtf4 => exact execFcvtf4_kept _ _ _ _
  case fcvtf5 => exact execFcvtf5_kept _ _ _ _
  case fcvtsmE4 => exact execFcvtsmE4_kept _ _ _ _ _ _ _
  case fcvtsmE5 => exact execFcvtsmE5_kept _ _ _ _ _ _ _
  case frcp => exact execFrcp_kept _ _ _ _ _
  case frsq => exact execFrsq_kept _ _ _ _ _
  case fsqrt => exact execFsqrt_kept _ _ _ _ _
  case fexp2 => exact execFexp2_kept _ _ _ _ _
  case flog2 => exact execFlog2_kept _ _ _ _ _
  case ftab => exact execFtab_kept _ _ _ _ _ _
  case fdiv => exact execFdiv_kept _ _ _ _ _ _ _
  case hadd2 => exact execHadd2_kept _ _ _ _ _ _ _
  case hsub2 => exact execHsub2_kept _ _ _ _ _ _ _
  case hmul2 => exact execHmul2_kept _ _ _ _ _ _ _
  case hfma2 => exact execHfma2_kept _ _ _ _ _ _ _
  case hmax2 => exact execHmax2_kept _ _ _ _ _ _
  case hmin2 => exact execHmin2_kept _ _ _ _ _ _
  case fcmp => exact execFcmp_kept _ _ _ _ _ _ _
  case saadd => exact execSaadd_kept _ _ _ _ _
  case saaddh => exact execSaaddh_kept _ _ _ _ _
  case sard => exact execSard_kept _ _ _ _
  case sardh => exact execSardh_kept _ _ _ _
  case sardq => exact execSardq_kept _ _ _ _
  case sawait => exact execSawait_kept _ _ _
  case sacnt => exact execSacnt_kept _ _ _ _
  case ladd => exact execLadd_kept _ _ _ _
  case lsub => exact execLsub_kept _ _ _ _
  case land => exact execLand_kept _ _ _ _
  case lor => exact execLor_kept _ _ _ _
  case lxor => exact execLxor_kept _ _ _ _
  case landn => exact execLandn_kept _ _ _ _
  case lshl => exact execLshl_kept _ _ _ _
  case lshr => exact execLshr_kept _ _ _ _
  case lsar => exact execLsar_kept _ _ _ _
  case lmin => exact execLmin_kept _ _ _ _
  case lmax => exact execLmax_kept _ _ _ _
  case lminu => exact execLminu_kept _ _ _ _
  case lmaxu => exact execLmaxu_kept _ _ _ _
  case lmul => exact execLmul_kept _ _ _ _
  case lmulh => exact execLmulh_kept _ _ _ _
  case lmulhu => exact execLmulhu_kept _ _ _ _
  case lmov => exact execLmov_kept _ _ _
  case lnot => exact execLnot_kept _ _ _
  case lneg => exact execLneg_kept _ _ _
  case lclz => exact execLclz_kept _ _ _
  case lpopc => exact execLpopc_kept _ _ _
  case lcmp => exact execLcmp_kept _ _ _ _ _
  case lsel => exact execLsel_kept _ _ _ _ _
  case lpand => exact execLpand_kept _ _ _ _
  case lpor => exact execLpor_kept _ _ _ _
  case lpxor => exact execLpxor_kept _ _ _ _
  case lpnot => exact execLpnot_kept _ _ _
  case lsrd => exact execLsrd_kept _ _ _ _
  case lbara => exact execLbara_kept _ _
  case lbarw => exact execLbarw_kept _ _
  case lmovi => exact execLmovi_kept _ _ _
  case laddi => exact execLaddi_kept _ _ _ _
  case landi => exact execLandi_kept _ _ _ _
  case lori => exact execLori_kept _ _ _ _
  case lshli => exact execLshli_kept _ _ _ _
  case lshri => exact execLshri_kept _ _ _ _
  case lsari => exact execLsari_kept _ _ _ _
  case lshin => exact execLshin_kept _ _ _
  case lbr => exact execLbr_kept _ _
  case lbrp => exact execLbrp_kept _ _ _
  case lbrn => exact execLbrn_kept _ _ _
  case lend => exact execLend_kept _
  case lld => exact execLld_kept _ _ _ _ _
  case lst => exact execLst_kept _ _ _ _ _
  case mcfg => exact execMcfg_kept _ _
  case mldw => exact execMldw_kept _ _ _
  case mswap => exact execMswap_kept _
  case mstrm => exact execMstrm_kept _ _ _ _
  case mzero => exact execMzero_kept _ _ _
  case mwait => exact execMwait_kept _
  case cpyin => exact execCpyin_kept _ _ _ _ _ _ _
  case cpyout => exact execCpyout_kept _ _ _ _ _ _ _
  case cpyg => exact execCpyg_kept _ _ _ _ _ _
  case gath => exact execGath_kept _ _ _ _ _ _
  case publ => exact execPubl_kept _ _
  case cpwait => exact execCpwait_kept _
  case saalloc => exact execSaalloc_kept _ _ _
  case saopen => exact execSaopen_kept _ _ _
  case saclr => exact execSaclr_kept _ _
  case safree => exact execSafree_kept _ _
  case saevict => exact execSaevict_kept _ _ _
  case saload => exact execSaload_kept _ _ _
  case samerge => exact execSamerge_kept _ _ _
  case spawn => exact Bool.noConfusion (h : true = false)
  case spawnW => exact Bool.noConfusion (h : true = false)
  case join => exact execJoin_kept _ _ _
  case tstat => exact execTstat_kept _ _ _
  case alwadd => exact execAlwadd_kept _ _ _ _
  case unwind => exact execUnwind_kept _ _
  case alwrd => exact execAlwrd_kept _ _ _
  case qsend => exact execQsend_kept _ _
  case tload => exact execTload_kept _ _
  case tswap => exact execTswap_kept _
  case csrr => exact execCsrr_kept _ _ _ _
  case csrw => exact execCsrw_kept _ _ _ _
  case rft => exact execRft_kept _
  case tlbi => exact execTlbi_kept _ _ _
  case halt => exact execHalt_kept _
  case sleep => exact execSleep_kept _ _ _
  case clauseHeaderIssue => exact execClauseHeaderIssue_kept _
  case longLatencyResult => exact execLongLatencyResult_kept _ _ _ _
  case teamRetirement => exact execTeamRetirement_kept _ _
  case leadStop => exact execLeadStop_kept _ _
  case taskCompletion => exact Bool.noConfusion (h : true = false)
  case queueEntryFill => exact execQueueEntryFill_kept _ _
  case qsendAppend => exact execQsendAppend_kept _ _
  case widePhaseArrival => exact execWidePhaseArrival_kept _ _ _
  case barrierWaitRelease => exact execBarrierWaitRelease_kept _ _ _
  case sendAcceptance => exact execSendAcceptance_kept _ _
  case nextDelivery => exact execNextDelivery_kept _ _
  case copyDelivery => exact execCopyDelivery_kept _ _ _ _
  case copyUnitBegin => exact execCopyUnitBegin_kept _ _ _
  case copyLateDiscard => exact execCopyLateDiscard_kept _ _ _ _
  case cpwaitRelease => exact execCpwaitRelease_kept _ _
  case publSelectorFlip => exact execPublSelectorFlip_kept _ _
  case matArrayAcquire => exact execMatArrayAcquire_kept _ _
  case mldwArrayLoad => exact execMldwArrayLoad_kept _ _
  case mstrmArrayPass => exact execMstrmArrayPass_kept _ _
  case mwaitRelease => exact execMwaitRelease_kept _ _
  case tableLoad => exact execTableLoad_kept _ _
  case saAddApply => exact execSaAddApply_kept _ _ _
  case saReadRequest => exact execSaReadRequest_kept _ _ _
  case saReadAnswer => exact execSaReadAnswer_kept _ _ _ _
  case saCommandPerform => exact execSaCommandPerform_kept _ _ _
  case homePacketArrival => exact execHomePacketArrival_kept _ _ _ _
  case homeApply => exact Bool.noConfusion (h : true = false)
  case homeReadAnswer => exact execHomeReadAnswer_kept _ _ _
  case readResponseArrival => exact execReadResponseArrival_kept _ _ _ _
  case tokenVisit => exact execTokenVisit_kept _ _ _
  case beatArrival => exact execBeatArrival_kept _ _ _
  case linkRetransmission => exact execLinkRetransmission_kept _ _ _ _
  case tokenTimeout => exact execTokenTimeout_kept _ _
  case resyncStart => exact execResyncStart_kept _ _
  case resyncDrainEnd => exact execResyncDrainEnd_kept _
  case goldenPass => exact execGoldenPass_kept _ _
  case meshDeliveryTimeout => exact execMeshDeliveryTimeout_kept _ _
  case ferrClear => exact execFerrClear_kept _ _ _
  case leaseRequest => exact execLeaseRequest_kept _ _ _
  case failingRequest => exact execFailingRequest_kept _ _ _
  case starvationTimeout => exact execStarvationTimeout_kept _ _
  case homeUnitAnswer => exact execHomeUnitAnswer_kept _ _
  case unwindAccept => exact execUnwindAccept_kept _ _
  case unwindEnd => exact Bool.noConfusion (h : true = false)
  case spawnWAdmission => exact Bool.noConfusion (h : true = false)
  case spawnWTimeout => exact execSpawnWTimeout_kept _ _
  case slotConsume => exact Bool.noConfusion (h : true = false)
  case consumerPeriodicCheck => exact execConsumerPeriodicCheck_kept _ _
  case teamPlacement => exact Bool.noConfusion (h : true = false)
  case clauseArbitration => exact execClauseArbitration_kept _ _
  case swapOut => exact execSwapOut_kept _ _ _
  case contextImageWrite => exact execContextImageWrite_kept _ _
  case teamReentry => exact Bool.noConfusion (h : true = false)
  case sleepExpiry => exact execSleepExpiry_kept _ _
  case doorbell => exact execDoorbell_kept _ _ _
  case preemptRequest => exact Bool.noConfusion (h : true = false)
  case resetRequest => exact Bool.noConfusion (h : true = false)
  case preemptT1Expiry => exact Bool.noConfusion (h : true = false)
  case preemptT2Expiry => exact Bool.noConfusion (h : true = false)
  case preemptDone => exact Bool.noConfusion (h : true = false)
  case registerWrite => exact Bool.noConfusion (h : true = false)
  case hostWrite => exact Bool.noConfusion (h : true = false)
  case hostRead => exact execHostRead_kept _ _ _ _
  case mapq => exact execMapq_kept _ _ _ _ _ _ _
  case revoke => exact execRevoke_kept _ _
  case enableq => exact Bool.noConfusion (h : true = false)
  case loadobj => exact Bool.noConfusion (h : true = false)
  case policy => exact execPolicy_kept _ _
  case report => exact execReport_kept _ _
  case inval => exact execInval_kept _ _ _ _
  case invalComplete => exact execInvalComplete_kept _ _
  case faultdone => exact execFaultdone_kept _ _ _ _
  case remap => exact execRemap_kept _ _ _
  case debug => exact execDebug_kept _ _
  case podbar => exact (show exec .podbar s = execPodbar s from rfl) ▸ execPodbar_kept s
  case power => exact execPower_kept _ _
  case bringUp => exact execBringUp_kept _ _
  case recoveryImage => exact execRecoveryImage_kept _ _
  case meterMirror => exact execMeterMirror_kept _
  case orderlyPowerDown => exact Bool.noConfusion (h : true = false)
  case channelRetrain => exact execChannelRetrain_kept _ _
  case thermalStop => exact execThermalStop_kept _
  case thermalResume => exact execThermalResume_kept _
  case fibreTraining => exact execFibreTraining_kept _ _ _ _
  case fibreFlitRetry => exact execFibreFlitRetry_kept _ _ _
  case fibrePark => exact execFibrePark_kept _ _
  case fibreWake => exact execFibreWake_kept _ _
  case powerLoss => exact Bool.noConfusion (h : true = false)
  case fibreFlitReceive => exact Bool.noConfusion (h : true = false)
  case hostLinkCompletion => exact execHostLinkCompletion_kept _ _ _

end Sys2Proof.Machine
end

