-- ==== Sys2Proof/Laws/Queue.lean ====
section
/-!
SUPPORT. What the access queues hold back (R253, R254, R281): the three degrees of waiting, and that a read with nothing to go past leaves no note.
-/
namespace Sys2Proof.Machine

/-- A party that awaits nothing may read a local memory. -/
theorem quietRead_of_quiet {s : State} {q : Nat} (h : quiet s q = true) : quietRead s q = true := by
  simp only [quiet, quietRead, List.all_eq_true, Bool.and_eq_true, Bool.or_eq_true] at *
  exact fun o ho => ⟨(h o ho).1, .inl (h o ho).2⟩

/-- What may go past a thing that the thread awaits has been let past it. -/
theorem MemOp.lets_of_passed {o : MemOp} (h : o.passed = true) : o.lets = true := by
  unfold MemOp.passed at h
  unfold MemOp.lets
  split at h <;> simp_all

/-- A party that may read a local memory may write. -/
theorem quietOn_of_quietRead {s : State} {q : Nat} (h : quietRead s q = true) : quietOn s q = true := by
  simp only [quietRead, quietOn, List.all_eq_true, Bool.and_eq_true, Bool.or_eq_true] at *
  exact fun o ho => ⟨(h o ho).1, (h o ho).2.imp id MemOp.lets_of_passed⟩

/-- A party that awaits nothing may write. -/
theorem quietOn_of_quiet {s : State} {q : Nat} (h : quiet s q = true) : quietOn s q = true := quietOn_of_quietRead (quietRead_of_quiet h)

/-- A set whose threads await nothing is not held at a read. -/
theorem holdRead_of_quiet {s : State} {c : GCtx} (h : ∀ l ∈ c.path.lanes, quiet s (s.thread c.gk l).ops = true) : holdRead s c = false := by
  simp only [holdRead, Bool.not_eq_false', List.all_eq_true]
  exact fun l hl => quietRead_of_quiet (h l hl)

/-- A set whose threads await nothing is not held at a write. -/
theorem holdWrite_of_quiet {s : State} {c : GCtx} (h : ∀ l ∈ c.path.lanes, quiet s (s.thread c.gk l).ops = true) : holdWrite s c = false := by
  simp only [holdWrite, Bool.not_eq_false', List.all_eq_true]
  exact fun l hl => quietOn_of_quiet (h l hl)

/-- A queue in which nothing has been gone past takes no note of a read. -/
theorem see_of_not_passed {s : State} {q : Nat} (h : ∀ o ∈ opsOf s q, o.passed = false) (x : Sight) : s.see q x = s := by
  unfold State.see
  rw [if_neg]
  simpa using h

/-- A party that awaits nothing has gone past nothing. -/
theorem not_passed_of_quiet {s : State} {q : Nat} (h : quiet s q = true) : ∀ o ∈ opsOf s q, o.passed = false := by
  intro o ho
  simp only [quiet, List.all_eq_true, Bool.and_eq_true] at h
  have := (h o ho).2
  unfold OpKind.isLoad at this
  unfold MemOp.passed
  split at this <;> simp_all

/-- What nothing has gone past may come. -/
theorem edgeMay_of_not_passed {s : State} {q : Nat} (hit : MemOp → Bool) (h : ∀ o ∈ opsOf s q, o.passed = false) : edgeMay s q hit = true := by
  unfold edgeMay
  cases hf : (opsOf s q).find? hit with
  | none => rfl
  | some o =>
    have hp := h o (List.mem_of_find?_eq_some hf)
    unfold MemOp.passed at hp
    simp only [Option.all_some, MemOp.mayCome]
    split at hp <;> simp_all

/-- Where what is done lane by lane changes nothing, nothing changes. -/
theorem eachLane_id (f : Nat → State → State) (ls : List Nat) (s : State) (h : ∀ l ∈ sortLanes ls, f l s = s) : eachLane f ls s = s := by
  unfold eachLane
  generalize sortLanes ls = ks at h
  induction ks with
  | nil => rfl
  | cons k ks ih => rw [List.foldl_cons, h k (by simp), ih (fun l hl => h l (by simp [hl]))]

end Sys2Proof.Machine
end

