-- ==== Sys2Proof/Laws/Wrote.lean ====
section
/-!
SUPPORT. The operations that write physical memory keep the canonical form of every memory, and touch neither the time
counter nor the schedule (`wroteK`, between the parts `State.kept` of two states).
-/
set_option linter.unusedTactic false
set_option linter.unreachableTactic false
namespace Sys2Proof.Machine

/-- The kept part of a state. -/
abbrev Kept := Memory × Memory × Memory × BitVec 48 × List Turn
/-- The memories of a kept part are in canonical form. -/
def Kept.wf (k : Kept) : Prop := k.1.wf = true ∧ k.2.1.wf = true ∧ k.2.2.1.wf = true
/-- The canonical form is kept, and the time counter and the schedule are the same. -/
def wroteK (a b : Kept) : Prop := (Kept.wf a → Kept.wf b) ∧ b.2.2.2 = a.2.2.2
theorem wroteK_refl (a : Kept) : wroteK a a := ⟨id, rfl⟩
theorem wroteK_trans {a b c : Kept} (h : wroteK a b) (g : wroteK b c) : wroteK a c := ⟨fun x => g.1 (h.1 x), g.2.trans h.2⟩
theorem wroteK_foldl {α : Type} (g : State → α → State) (h : ∀ s x, wroteK s.kept (g s x).kept) (l : List α) (s : State) :
    wroteK s.kept (l.foldl g s).kept := by
  induction l generalizing s with
  | nil => exact wroteK_refl _
  | cons x l ih => exact wroteK_trans (h s x) (ih _)
/-- The same of an outcome. -/
def wroteOut (o : Out) (s : State) : Prop := ∀ t, o = .next t → wroteK s.kept t.kept
theorem wroteOut_next {t s : State} (h : wroteK s.kept t.kept) : wroteOut (.next t) s := by intro u hu; injection hu with hu; subst hu; exact h
theorem wroteOut_refused (r : Refusal) (s : State) : wroteOut (.refused r) s := by intro u hu; cases hu
theorem wroteOut_fault (r : Fault) (s : State) : wroteOut (.fault r) s := by intro u hu; cases hu
theorem wroteOut_kept {o : Out} {s : State} (h : keptOut o s) : wroteOut o s := by intro t ht; rw [h t ht]; exact wroteK_refl _
/-- The same of an answer. -/
def wroteOpt (o : Option State) (s : State) : Prop := ∀ t, o = some t → wroteK s.kept t.kept
theorem wroteOpt_some {t s : State} (h : wroteK s.kept t.kept) : wroteOpt (some t) s := by intro u hu; injection hu with hu; subst hu; exact h
theorem wroteOpt_none (s : State) : wroteOpt none s := by intro u hu; cases hu
/-- The same of an answer with a state. -/
def wroteOpt2 {β : Type} (o : Option (State × β)) (s : State) : Prop := ∀ t, o = some t → wroteK s.kept t.1.kept
theorem wroteOpt2_some {β : Type} {t : State × β} {s : State} (h : wroteK s.kept t.1.kept) : wroteOpt2 (some t) s := by intro u hu; injection hu with hu; subst hu; exact h
theorem wroteOpt2_none {β : Type} (s : State) : wroteOpt2 (none : Option (State × β)) s := by intro u hu; cases hu
theorem writePa_wrote (s : State) (kind pa : Nat) (bs : List Byte) : wroteK s.kept (s.writePa kind pa bs).kept := by
  unfold State.writePa
  split
  · exact ⟨fun h => ⟨Memory.wf_setBytes _ _ h.1, h.2.1, h.2.2⟩, rfl⟩
  · split
    · exact ⟨fun h => ⟨h.1, Memory.wf_setBytes _ _ h.2.1, h.2.2⟩, rfl⟩
    · exact ⟨fun h => ⟨h.1, h.2.1, Memory.wf_setBytes _ _ h.2.2⟩, rfl⟩
theorem ling_wrote {code : Nat} {ok : Bool} {f : State → State} {payload : List Byte} {s : State} (hf : wroteK s.kept (f s).kept) :
    wroteOut (ling code ok f payload s) s := by
  unfold ling
  repeat' (first | exact wroteOut_refused _ _ | (refine wroteOut_next ?_) | split)
  · simpa using hf
  · simpa using wroteK_refl _
theorem leadOp_wrote {i : Instr} {chk : State → LCtx → LVerdict} {cost : State → LCtx → Nat × Nat} {fin : LCtx → State → State}
    (hf : ∀ c s, wroteK s.kept (fin c s).kept) {s : State} : wroteOut (leadOp i chk cost fin s) s := by
  unfold leadOp
  repeat' (first | exact wroteOut_refused _ _ | (refine wroteOut_next ?_) | (simp [wroteK_refl]; done) | split | (dsimp only))
  · refine wroteK_trans ?_ (hf _ _); simp [wroteK_refl]

theorem writeLoc_wrote (s : State) (l : Loc) (bs : List Byte) : wroteK s.kept (State.writeLoc s l bs).kept := by
  unfold State.writeLoc; repeat' (first | (with_reducible refine wroteK_trans ?_ (writePa_wrote _ _ _ _ )) | split | (simp [wroteK_refl]; done) | dsimp only)

theorem applyWrite_wrote (s : State) (l : Loc) (bs : List Byte) : wroteK s.kept (applyWrite s l bs).kept := by
  unfold applyWrite; repeat' (first | (with_reducible refine wroteK_trans ?_ (writeLoc_wrote _ _ _ )) | split | (simp [wroteK_refl]; done))

theorem applyBody_wrote (s : State) (k : Nat) (p : Packet) : wroteOpt (applyBody s k p) s := by
  unfold applyBody; repeat' (first | with_reducible exact wroteOpt_none _ | with_reducible refine wroteOpt_some ?_ | (with_reducible refine wroteK_trans ?_ (applyWrite_wrote _ _ _ )) | split | simp | (simp [wroteK_refl]; done) | dsimp only)

theorem execHomeApply_wrote (node idx : Nat) (s : State) : wroteOut (execHomeApply node idx s) s := by
  unfold execHomeApply; repeat' (first | with_reducible exact wroteOut_refused _ _ | with_reducible refine wroteOut_next ?_ | (have hk := applyBody_wrote _ _ _ _ (by assumption); refine wroteK_trans ?_ hk; clear hk) | split | (simp [wroteK_refl]; done) | dsimp only)

theorem ringWrite_wrote (s : State) (p : Place) (off : Nat) (bs : List Byte) : wroteK s.kept (ringWrite s p off bs).kept := by
  unfold ringWrite; repeat' (first | (with_reducible refine wroteK_trans ?_ (applyWrite_wrote _ _ _ )) | split | (simp [wroteK_refl]; done) | dsimp only)

theorem setQueue_wrote (s : State) (q : Nat) (f : Queue → Queue) : wroteK s.kept (State.setQueue s q f).kept := by
  unfold State.setQueue; repeat' (first | (with_reducible refine wroteK_trans ?_ (ringWrite_wrote _ _ _ _ )) | split | (simp [wroteK_refl]; done) | dsimp only)

theorem statusEntry_wrote (s : State) (q : Nat) (handle : BitVec 32) (status : DWord) (remainder : Nat) : wroteK s.kept (statusEntry s q handle status remainder).kept := by
  unfold statusEntry; repeat' (first | (with_reducible refine wroteK_trans ?_ (ringWrite_wrote _ _ _ _ )) | split | simp | (simp [wroteK_refl]; done) | dsimp only)

theorem finishTask_wrote (s : State) (k : Nat) (st : TaskState) : wroteK s.kept (finishTask s k st).kept := by
  unfold finishTask; repeat' (first | (with_reducible refine wroteK_trans ?_ (statusEntry_wrote _ _ _ _ _ )) | split | simp | (simp [wroteK_refl]; done) | dsimp only)

theorem admit_wrote (s : State) (parent die : Nat) (desc : List Byte) (place : DWord) : wroteOpt2 (enqueue s parent die desc place) s := by
  unfold enqueue
  split
  · exact wroteOpt2_none _
  · dsimp only
    split
    · split
      · refine wroteOpt2_some ?_
        simp only [modTask_kept, putTask_kept, modQueue_kept]
        exact wroteK_trans (wroteK_trans (ringWrite_wrote _ _ _ _) (ringWrite_wrote _ _ _ _)) (ringWrite_wrote _ _ _ _)
      · exact wroteOpt2_none _
    · exact wroteOpt2_none _

theorem spawnEffect_wrote (i : Instr) (wait : Bool) (d a b : BitVec 6) (c : LCtx) (s : State) : wroteK s.kept (spawnEffect i wait d a b c s).kept := by
  unfold spawnEffect
  dsimp only
  split
  · split
    · rename_i t h heq
      have hk := admit_wrote _ _ _ _ _ _ heq
      simp only [leadOn_kept, modLead_kept]
      simpa using hk
    · split <;> simp [wroteK_refl]
  · simp [wroteK_refl]

theorem execSpawn_wrote (d a b : BitVec 6) (s : State) : wroteOut (execSpawn d a b s) s := by
  unfold execSpawn; repeat' (first | (with_reducible refine wroteK_trans ?_ (spawnEffect_wrote _ _ _ _ _ _ _ )) | refine leadOp_wrote (fun c s => ?_) | split | (simp [wroteK_refl]; done) | dsimp only)

theorem execSpawnW_wrote (d a b : BitVec 6) (s : State) : wroteOut (execSpawnW d a b s) s := by
  unfold execSpawnW; repeat' (first | (with_reducible refine wroteK_trans ?_ (spawnEffect_wrote _ _ _ _ _ _ _ )) | refine leadOp_wrote (fun c s => ?_) | split | (simp [wroteK_refl]; done) | dsimp only)

theorem admitWaiting_wrote (s : State) (tk : Nat) (t : Team) : wroteOpt (admitWaiting s tk t) s := by
  unfold admitWaiting; repeat' (first | with_reducible exact wroteOpt_none _ | with_reducible refine wroteOpt_some ?_ | (have hk := admit_wrote _ _ _ _ _ _ (by assumption); refine wroteK_trans ?_ hk; clear hk) | split | (simp [wroteK_refl]; done) | dsimp only)

theorem execSpawnWAdmission_wrote (team : Nat) (s : State) : wroteOut (execSpawnWAdmission team s) s := by
  unfold execSpawnWAdmission; repeat' (first | with_reducible exact wroteOut_refused _ _ | with_reducible refine wroteOut_next ?_ | (have hk := admitWaiting_wrote _ _ _ _ (by assumption); refine wroteK_trans ?_ hk; clear hk) | split | (simp [wroteK_refl]; done) | dsimp only)

theorem execTaskCompletion_wrote (task : Nat) (s : State) : wroteOut (execTaskCompletion task s) s := by
  unfold execTaskCompletion; repeat' (first | with_reducible exact wroteOut_refused _ _ | with_reducible refine wroteOut_next ?_ | (with_reducible refine wroteK_trans ?_ (finishTask_wrote _ _ _ )) | split | (simp [wroteK_refl]; done) | dsimp only)

theorem execUnwindEnd_wrote (task : Nat) (s : State) : wroteOut (execUnwindEnd task s) s := by
  unfold execUnwindEnd; repeat' (first | with_reducible exact wroteOut_refused _ _ | with_reducible refine wroteOut_next ?_ | (with_reducible refine wroteK_trans ?_ (finishTask_wrote _ _ _ )) | split | (simp [wroteK_refl]; done) | dsimp only)

theorem consumed_wrote (s : State) (b : Place) : wroteK s.kept (consumed s b).kept := by
  unfold consumed; repeat' (first | (with_reducible refine wroteK_trans ?_ (ringWrite_wrote _ _ _ _ )) | split | (simp [wroteK_refl]; done) | dsimp only)

theorem takeChild_wrote (s : State) (q : Nat) (b : Place) : wroteK s.kept (takeChild s q b).kept := by
  unfold takeChild; repeat' (first | (with_reducible refine wroteK_trans ?_ (consumed_wrote _ _ )) | split | (simp [wroteK_refl]; done) | dsimp only)

theorem refuseSlot_wrote (s : State) (q : Nat) (b : Place) (code : Nat) : wroteK s.kept (refuseSlot s q b code).kept := by
  unfold refuseSlot; repeat' (first | (with_reducible refine wroteK_trans ?_ (statusEntry_wrote _ _ _ _ _ )) | (with_reducible refine wroteK_trans ?_ (consumed_wrote _ _ )) | split | (simp [wroteK_refl]; done) | dsimp only)

theorem takeRequest_wrote (s : State) (q : Nat) (b : Place) : wroteOpt (takeRequest s q b) s := by
  unfold takeRequest
  extract_lets x slot desc place pasid
  split
  · exact wroteOpt_some (refuseSlot_wrote _ _ _ _)
  · split
    · exact wroteOpt_some (refuseSlot_wrote _ _ _ _)
    · split
      · exact wroteOpt_none _
      · refine wroteOpt_some (wroteK_trans ?_ (consumed_wrote _ _))
        rw [makeReady_kept, putTask_kept]
        exact wroteK_refl _

theorem execSlotConsume_wrote (queue : Nat) (s : State) : wroteOut (execSlotConsume queue s) s := by
  unfold execSlotConsume; repeat' (first | with_reducible exact wroteOut_refused _ _ | with_reducible refine wroteOut_next ?_ | (with_reducible refine wroteK_trans ?_ (takeChild_wrote _ _ _ )) | (have hk := takeRequest_wrote _ _ _ _ (by assumption); refine wroteK_trans ?_ hk; clear hk) | split | (simp [wroteK_refl]; done) | dsimp only)

theorem firstPlacement_wrote (s : State) (k core : Nat) (t : Task) : wroteK s.kept (firstPlacement s k core t).kept := by
  unfold firstPlacement
  extract_lets late s'
  have h : s'.kept = s.kept := modTask_kept _ _ _
  split
  · rw [← h]; exact statusEntry_wrote _ _ _ _ _
  · rw [h]; exact wroteK_refl _

theorem placeTeam_wrote (s : State) (k : Nat) (t : Task) (core ctx : Nat) (places : List Nat) : wroteK s.kept (placeTeam s k t core ctx places).kept := by
  unfold placeTeam; repeat' (first | (with_reducible refine wroteK_trans ?_ (firstPlacement_wrote _ _ _ _ )) | split | simp | (simp [wroteK_refl]; done) | dsimp only)

theorem execTeamPlacement_wrote (task core : Nat) (places : List Nat) (s : State) : wroteOut (execTeamPlacement task core places s) s := by
  unfold execTeamPlacement; repeat' (first | with_reducible exact wroteOut_refused _ _ | with_reducible refine wroteOut_next ?_ | (with_reducible refine wroteK_trans ?_ (placeTeam_wrote _ _ _ _ _ _ )) | split | (simp [wroteK_refl]; done) | dsimp only)

theorem admitFirst_wrote (s : State) (i : Saved) (tk : Nat) : wroteOpt (admitFirst s i tk) s := by
  unfold admitFirst; repeat' (first | with_reducible exact wroteOpt_none _ | with_reducible refine wroteOpt_some ?_ | with_reducible exact admitWaiting_wrote _ _ _ | split | (simp [wroteK_refl]; done) | dsimp only)

theorem execTeamReentry_wrote (image core : Nat) (places : List Nat) (s : State) : wroteOut (execTeamReentry image core places s) s := by
  unfold execTeamReentry; repeat' (first | with_reducible exact wroteOut_refused _ _ | with_reducible refine wroteOut_next ?_ | (have hk := admitFirst_wrote _ _ _ _ (by assumption); refine wroteK_trans ?_ hk; clear hk) | split | rw [failTask_kept] | (simp [wroteK_refl]; done) | dsimp only)

theorem resetQueue_eq (s : State) (q : Nat) : resetQueue s q =
    State.modQueue (failConcerned (s.setQueue q (fun x => { x with rung := 3, resetting := true })) q) q
      (fun x => { x with cut := cutNow (failConcerned (s.setQueue q (fun x => { x with rung := 3, resetting := true })) q) }) := by
  with_unfolding_all unfold resetQueue; rfl

theorem failConcerned_modQueue_kept (s : State) (q : Nat) (f : Queue → Queue) :
    (State.modQueue (failConcerned s q) q f).kept = s.kept := by
  rw [modQueue_kept, failConcerned_kept]

theorem setQueue_reset_wrote (s : State) (q : Nat) :
    wroteK s.kept (s.setQueue q (fun x => { x with rung := 3, resetting := true })).kept := setQueue_wrote _ _ _

theorem resetQueue_wrote (s : State) (q : Nat) : wroteK s.kept (resetQueue s q).kept := by
  rw [resetQueue_eq, failConcerned_modQueue_kept]; exact setQueue_reset_wrote s q

theorem execPreemptRequest_wrote (queue : Nat) (s : State) : wroteOut (execPreemptRequest queue s) s := by
  unfold execPreemptRequest; repeat' (first | with_reducible exact wroteOut_refused _ _ | with_reducible refine wroteOut_next ?_ | (with_reducible refine wroteK_trans ?_ (setQueue_wrote _ _ _ )) | split | (simp [wroteK_refl]; done) | dsimp only)

theorem reset_setQueue_wrote (s : State) (q : Nat) (f : Queue → Queue) : wroteK s.kept (resetQueue (s.setQueue q f) q).kept :=
  wroteK_trans (setQueue_wrote s q f) (resetQueue_wrote _ _)

theorem execResetRequest_wrote (queue : Nat) (s : State) : wroteOut (execResetRequest queue s) s := by
  have h1 := fun f => wroteOut_next (reset_setQueue_wrote s queue f)
  have h2 := fun f => wroteOut_next (setQueue_wrote s queue f)
  unfold execResetRequest
  cases (s.queue queue).block with
  | none => exact wroteOut_refused _ _
  | some b =>
    simp only
    cases (s.queue queue).pre with
    | false => exact h1 _
    | true =>
      cases (s.queue queue).resetting with
      | true => exact h2 _
      | false => exact h1 _

theorem execPreemptT1Expiry_wrote (queue : Nat) (s : State) : wroteOut (execPreemptT1Expiry queue s) s := by
  unfold execPreemptT1Expiry; repeat' (first | with_reducible exact wroteOut_refused _ _ | with_reducible refine wroteOut_next ?_ | (with_reducible refine wroteK_trans ?_ (setQueue_wrote _ _ _ )) | split | (with_reducible refine wroteK_trans ?_ (wroteK_foldl _ (fun s x => ?_) _ _)) | (simp [wroteK_refl]; done) | dsimp only)

theorem execPreemptT2Expiry_wrote (queue : Nat) (s : State) : wroteOut (execPreemptT2Expiry queue s) s := by
  unfold execPreemptT2Expiry; repeat' (first | with_reducible exact wroteOut_refused _ _ | with_reducible refine wroteOut_next ?_ | (with_reducible refine wroteK_trans ?_ (resetQueue_wrote _ _ )) | split | (simp [wroteK_refl]; done) | dsimp only)

theorem execPreemptDone_wrote (queue : Nat) (s : State) : wroteOut (execPreemptDone queue s) s := by
  unfold execPreemptDone; repeat' (first | with_reducible exact wroteOut_refused _ _ | with_reducible refine wroteOut_next ?_ | (with_reducible refine wroteK_trans ?_ (setQueue_wrote _ _ _ )) | split | (simp [wroteK_refl]; done) | dsimp only)

theorem execRegisterWrite_wrote (aqi offset : Nat) (value : DWord) (s : State) : wroteOut (execRegisterWrite aqi offset value s) s := by
  unfold execRegisterWrite; repeat' (first | with_reducible exact wroteOut_refused _ _ | with_reducible refine wroteOut_next ?_ | with_reducible exact wroteOut_kept (execDoorbell_kept _ _ _ ) | with_reducible exact execPreemptRequest_wrote _ _ | with_reducible exact execResetRequest_wrote _ _ | split | (simp [wroteK_refl]; done))

theorem execEnableq_wrote (queue : Nat) (s : State) : wroteOut (execEnableq queue s) s := by
  unfold execEnableq; repeat' (first | with_reducible exact wroteOut_refused _ _ | (with_reducible refine wroteK_trans ?_ (setQueue_wrote _ _ _ )) | refine ling_wrote ?_ | split | (simp [wroteK_refl]; done) | dsimp only)

theorem execHostWrite_wrote (space addr : Nat) (bytes : List Byte) (s : State) : wroteOut (execHostWrite space addr bytes s) s := by
  unfold execHostWrite; repeat' (first | with_reducible exact wroteOut_refused _ _ | with_reducible exact wroteOut_fault _ _ | with_reducible refine wroteOut_next ?_ | with_reducible exact execRegisterWrite_wrote _ _ _ _ | (with_reducible refine wroteK_trans ?_ (writePa_wrote _ _ _ _ )) | split | (simp [wroteK_refl]; done))

theorem setLadder_wrote (queue t1 t2 : Nat) (s : State) : wroteK s.kept (setLadder queue t1 t2 s).kept := by
  unfold setLadder; repeat' (first | (with_reducible refine wroteK_trans ?_ (setQueue_wrote _ _ _ )) | split | (simp [wroteK_refl]; done) | dsimp only)

theorem execFibreFlitReceive_wrote (flit : FibreFlit) (s : State) : wroteOut (execFibreFlitReceive flit s) s := by
  unfold execFibreFlitReceive; repeat' (first | with_reducible exact wroteOut_refused _ _ | with_reducible exact wroteOut_fault _ _ | with_reducible refine wroteOut_next ?_ | (with_reducible refine wroteK_trans ?_ (writePa_wrote _ _ _ _ )) | split | (simp [wroteK_refl]; done))

theorem loadCode_wrote (s : State) (page : Nat) (ls : List Leaf) (bs : List Byte) : wroteK s.kept (loadCode s page ls bs).kept := by
  induction ls generalizing s page bs with
  | nil => exact wroteK_refl _
  | cons l ls ih => exact wroteK_trans (writePa_wrote _ _ _ _) (ih _ _ _)

theorem sealObject_wrote (asid base pages c : Nat) (ls : List Leaf) (header code : List Byte) (s : State) :
    wroteK s.kept (sealObject asid base pages c ls header code s).kept := by
  unfold sealObject; simpa using loadCode_wrote s base ls code

theorem execLoadobj_wrote (asid base pages : Nat) (object : List Byte) (s : State) : wroteOut (execLoadobj asid base pages object s) s := by
  unfold execLoadobj
  repeat' (first | exact wroteOut_refused _ _ | exact wroteOut_kept (ling_kept rfl) | exact ling_wrote (sealObject_wrote _ _ _ _ _ _ _ _) | split)

/-- Whatever an instruction or step does, short of a loss of power, it keeps the canonical form of the memories. -/
theorem exec_wrote (i : Instr) (s : State) (h1 : i ≠ .orderlyPowerDown) (h2 : i ≠ .powerLoss) : wroteOut (exec i s) s := by
  by_cases hw : Instr.writesPhysical i = false
  · exact wroteOut_kept (exec_kept i s hw)
  · cases i
    case spawn => exact execSpawn_wrote _ _ _ _
    case spawnW => exact execSpawnW_wrote _ _ _ _
    case taskCompletion => exact execTaskCompletion_wrote _ _
    case homeApply => exact execHomeApply_wrote _ _ _
    case unwindEnd => exact execUnwindEnd_wrote _ _
    case spawnWAdmission => exact execSpawnWAdmission_wrote _ _
    case slotConsume => exact execSlotConsume_wrote _ _
    case teamPlacement => exact execTeamPlacement_wrote _ _ _ _
    case teamReentry => exact execTeamReentry_wrote _ _ _ _
    case preemptRequest => exact execPreemptRequest_wrote _ _
    case resetRequest => exact execResetRequest_wrote _ _
    case preemptT1Expiry => exact execPreemptT1Expiry_wrote _ _
    case preemptT2Expiry => exact execPreemptT2Expiry_wrote _ _
    case preemptDone => exact execPreemptDone_wrote _ _
    case registerWrite => exact execRegisterWrite_wrote _ _ _ _
    case hostWrite => exact execHostWrite_wrote _ _ _ _
    case enableq => exact execEnableq_wrote _ _
    case orderlyPowerDown => exact absurd rfl h1
    case powerLoss => exact absurd rfl h2
    case fibreFlitReceive => exact execFibreFlitReceive_wrote _ _
    case loadobj => exact execLoadobj_wrote _ _ _ _ _
    all_goals exact absurd rfl hw

/-- The state that an issue comes to. -/
def Issue.state : Issue → State
  | .run _ t => t
  | .done t => t

/-- The turn of a group slot before the instruction keeps the memories, the time counter and the schedule. -/
theorem groupTurn_kept (core : Nat) (s : State) :
    (groupTurn core s).state.kept = s.kept := by
  unfold groupTurn
  repeat' (first | (simp [Issue.state]; done) | split | dsimp only)

/-- The turn of a lead slot before the instruction keeps them too. -/
theorem leadTurn_kept (core : Nat) (s : State) :
    (leadTurn core s).state.kept = s.kept := by
  unfold leadTurn
  repeat' (first | (simp [Issue.state]; done) | split | dsimp only)

end Sys2Proof.Machine
end

