-- ==== Sys2Proof/Tests/Slice0.lean ====
section
/-!
SUPPORT. Tests: words, ill-formed terms, one step of some instructions, and a witness for the hypotheses of each
statement.  Expected values come from spec/, whose rule each test names.
-/
namespace Sys2Proof.Tests
open Sys2Proof Sys2Proof.Machine

/-! ## Words

The fields of each word are laid out, most significant first, as the tables of R52 to R73 give them, and stand beside the
instruction that the word is. -/

/-- Words with the instructions that they are. -/
def decodesTo (l : List (Word × Instr)) : Prop := l.map (fun p => decode p.1) = l.map (fun p => .ok p.2)

/-- R52 to R73, opcodes 0x00, 0x01. -/
theorem test_words_of_integer : decodesTo [
    (0x0#6 ++ 0x0#26, .nop),
    (0x1#6 ++ 0x14#6 ++ 0x24#6 ++ 0x28#6 ++ 0x1#1 ++ 0x0#1 ++ 0x0#6, .add 20#6 36#6 40#6 true false),
    (0x1#6 ++ 0x14#6 ++ 0x24#6 ++ 0x28#6 ++ 0x1#1 ++ 0x0#1 ++ 0x1#6, .sub 20#6 36#6 40#6 true false),
    (0x1#6 ++ 0x14#6 ++ 0x24#6 ++ 0x28#6 ++ 0x1#1 ++ 0x0#1 ++ 0x2#6, .and 20#6 36#6 40#6 true false),
    (0x1#6 ++ 0x14#6 ++ 0x24#6 ++ 0x28#6 ++ 0x1#1 ++ 0x0#1 ++ 0x3#6, .or 20#6 36#6 40#6 true false),
    (0x1#6 ++ 0x14#6 ++ 0x24#6 ++ 0x28#6 ++ 0x1#1 ++ 0x0#1 ++ 0x4#6, .xor 20#6 36#6 40#6 true false),
    (0x1#6 ++ 0x14#6 ++ 0x24#6 ++ 0x28#6 ++ 0x1#1 ++ 0x0#1 ++ 0x5#6, .andn 20#6 36#6 40#6 true false),
    (0x1#6 ++ 0x14#6 ++ 0x24#6 ++ 0x28#6 ++ 0x1#1 ++ 0x0#1 ++ 0x6#6, .shl 20#6 36#6 40#6 true false),
    (0x1#6 ++ 0x14#6 ++ 0x24#6 ++ 0x28#6 ++ 0x1#1 ++ 0x0#1 ++ 0x7#6, .shr 20#6 36#6 40#6 true false),
    (0x1#6 ++ 0x14#6 ++ 0x24#6 ++ 0x28#6 ++ 0x1#1 ++ 0x0#1 ++ 0x8#6, .sar 20#6 36#6 40#6 true false),
    (0x1#6 ++ 0x14#6 ++ 0x24#6 ++ 0x28#6 ++ 0x1#1 ++ 0x0#1 ++ 0x9#6, .rol 20#6 36#6 40#6 true false),
    (0x1#6 ++ 0x14#6 ++ 0x24#6 ++ 0x28#6 ++ 0x1#1 ++ 0x0#1 ++ 0xA#6, .min 20#6 36#6 40#6 true false),
    (0x1#6 ++ 0x14#6 ++ 0x24#6 ++ 0x28#6 ++ 0x1#1 ++ 0x0#1 ++ 0xB#6, .max 20#6 36#6 40#6 true false),
    (0x1#6 ++ 0x14#6 ++ 0x24#6 ++ 0x28#6 ++ 0x1#1 ++ 0x0#1 ++ 0xC#6, .minu 20#6 36#6 40#6 true false),
    (0x1#6 ++ 0x14#6 ++ 0x24#6 ++ 0x28#6 ++ 0x1#1 ++ 0x0#1 ++ 0xD#6, .maxu 20#6 36#6 40#6 true false),
    (0x1#6 ++ 0x14#6 ++ 0x24#6 ++ 0x28#6 ++ 0x1#1 ++ 0x0#1 ++ 0xE#6, .mul 20#6 36#6 40#6 true false),
    (0x1#6 ++ 0x14#6 ++ 0x24#6 ++ 0x28#6 ++ 0x1#1 ++ 0x0#1 ++ 0xF#6, .mulh 20#6 36#6 40#6 true false),
    (0x1#6 ++ 0x14#6 ++ 0x24#6 ++ 0x28#6 ++ 0x1#1 ++ 0x0#1 ++ 0x10#6, .mulhu 20#6 36#6 40#6 true false),
    (0x1#6 ++ 0x14#6 ++ 0x24#6 ++ 0x28#6 ++ 0x1#1 ++ 0x0#1 ++ 0x11#6, .mad 20#6 36#6 40#6 true false),
    (0x1#6 ++ 0x14#6 ++ 0x24#6 ++ 0x28#6 ++ 0x1#1 ++ 0x0#1 ++ 0x12#6, .adds 20#6 36#6 40#6 true false),
    (0x1#6 ++ 0x14#6 ++ 0x24#6 ++ 0x28#6 ++ 0x1#1 ++ 0x0#1 ++ 0x13#6, .subs 20#6 36#6 40#6 true false),
    (0x1#6 ++ 0x14#6 ++ 0x24#6 ++ 0x28#6 ++ 0x1#1 ++ 0x0#1 ++ 0x14#6, .absd 20#6 36#6 40#6 true false)] := by rfl

/-- R52 to R73, opcodes 0x02, 0x04. -/
theorem test_words_of_wide_integer : decodesTo [
    (0x2#6 ++ 0x14#6 ++ 0x24#6 ++ 0x28#6 ++ 0x1#1 ++ 0x0#1 ++ 0x0#6, .add64 20#6 36#6 40#6 true false),
    (0x2#6 ++ 0x14#6 ++ 0x24#6 ++ 0x28#6 ++ 0x1#1 ++ 0x0#1 ++ 0x1#6, .sub64 20#6 36#6 40#6 true false),
    (0x2#6 ++ 0x14#6 ++ 0x24#6 ++ 0x28#6 ++ 0x1#1 ++ 0x0#1 ++ 0x2#6, .shl64 20#6 36#6 40#6 true false),
    (0x2#6 ++ 0x14#6 ++ 0x24#6 ++ 0x28#6 ++ 0x1#1 ++ 0x0#1 ++ 0x3#6, .shr64 20#6 36#6 40#6 true false),
    (0x2#6 ++ 0x14#6 ++ 0x24#6 ++ 0x28#6 ++ 0x1#1 ++ 0x0#1 ++ 0x4#6, .sar64 20#6 36#6 40#6 true false),
    (0x2#6 ++ 0x14#6 ++ 0x24#6 ++ 0x28#6 ++ 0x1#1 ++ 0x0#1 ++ 0x5#6, .mul64 20#6 36#6 40#6 true false),
    (0x2#6 ++ 0x14#6 ++ 0x24#6 ++ 0x28#6 ++ 0x1#1 ++ 0x0#1 ++ 0x6#6, .mulu64 20#6 36#6 40#6 true false),
    (0x2#6 ++ 0x14#6 ++ 0x24#6 ++ 0x28#6 ++ 0x1#1 ++ 0x0#1 ++ 0x7#6, .mad64 20#6 36#6 40#6 true false),
    (0x2#6 ++ 0x14#6 ++ 0x24#6 ++ 0x28#6 ++ 0x1#1 ++ 0x0#1 ++ 0x8#6, .lea64 20#6 36#6 40#6 true false),
    (0x4#6 ++ 0x14#6 ++ 0x24#6 ++ 0x0#6 ++ 0x0#1 ++ 0x0#7, .mov 20#6 36#6 false),
    (0x4#6 ++ 0x14#6 ++ 0x24#6 ++ 0x0#6 ++ 0x0#1 ++ 0x1#7, .not 20#6 36#6 false),
    (0x4#6 ++ 0x14#6 ++ 0x24#6 ++ 0x0#6 ++ 0x0#1 ++ 0x2#7, .neg 20#6 36#6 false),
    (0x4#6 ++ 0x14#6 ++ 0x24#6 ++ 0x0#6 ++ 0x0#1 ++ 0x3#7, .abs 20#6 36#6 false),
    (0x4#6 ++ 0x14#6 ++ 0x24#6 ++ 0x0#6 ++ 0x0#1 ++ 0x4#7, .clz 20#6 36#6 false),
    (0x4#6 ++ 0x14#6 ++ 0x24#6 ++ 0x0#6 ++ 0x0#1 ++ 0x5#7, .ctz 20#6 36#6 false),
    (0x4#6 ++ 0x14#6 ++ 0x24#6 ++ 0x0#6 ++ 0x0#1 ++ 0x6#7, .popc 20#6 36#6 false),
    (0x4#6 ++ 0x14#6 ++ 0x24#6 ++ 0x0#6 ++ 0x0#1 ++ 0x7#7, .brev 20#6 36#6 false),
    (0x4#6 ++ 0x14#6 ++ 0x24#6 ++ 0x0#6 ++ 0x0#1 ++ 0x8#7, .sext8 20#6 36#6 false),
    (0x4#6 ++ 0x14#6 ++ 0x24#6 ++ 0x0#6 ++ 0x0#1 ++ 0x9#7, .sext16 20#6 36#6 false),
    (0x4#6 ++ 0x14#6 ++ 0x24#6 ++ 0x0#6 ++ 0x0#1 ++ 0xA#7, .zext8 20#6 36#6 false),
    (0x4#6 ++ 0x14#6 ++ 0x24#6 ++ 0x0#6 ++ 0x0#1 ++ 0xB#7, .zext16 20#6 36#6 false),
    (0x4#6 ++ 0x14#6 ++ 0x24#6 ++ 0x0#6 ++ 0x0#1 ++ 0xC#7, .mov64 20#6 36#6 false)] := by rfl

/-- R52 to R73, opcodes 0x05, 0x08, 0x09, 0x0A, 0x0B, 0x0C, 0x0D, 0x0E. -/
theorem test_words_of_bits_and_immediates : decodesTo [
    (0x5#6 ++ 0x14#6 ++ 0x24#6 ++ 0x0#1 ++ 0x9#5 ++ 0x12#5 ++ 0x0#3, .bfxu 20#6 36#6 false 9#5 18#5),
    (0x5#6 ++ 0x14#6 ++ 0x24#6 ++ 0x0#1 ++ 0x9#5 ++ 0x12#5 ++ 0x1#3, .bfxs 20#6 36#6 false 9#5 18#5),
    (0x5#6 ++ 0x14#6 ++ 0x24#6 ++ 0x0#1 ++ 0x9#5 ++ 0x12#5 ++ 0x2#3, .bfi 20#6 36#6 false 9#5 18#5),
    (0x8#6 ++ 0x14#6 ++ 0x24#6 ++ 0x0#1 ++ 0x1A05#13, .addi 20#6 36#6 false 0x1A05#13),
    (0x9#6 ++ 0x14#6 ++ 0x24#6 ++ 0x0#1 ++ 0x1A05#13, .andi 20#6 36#6 false 0x1A05#13),
    (0xA#6 ++ 0x14#6 ++ 0x24#6 ++ 0x0#1 ++ 0x1A05#13, .ori 20#6 36#6 false 0x1A05#13),
    (0xB#6 ++ 0x14#6 ++ 0x24#6 ++ 0x0#1 ++ 0x1A05#13, .xori 20#6 36#6 false 0x1A05#13),
    (0xC#6 ++ 0x14#6 ++ 0x24#6 ++ 0x0#1 ++ 0x0#8 ++ 0x15#5, .shli 20#6 36#6 false 0x15#5),
    (0xC#6 ++ 0x14#6 ++ 0x24#6 ++ 0x0#1 ++ 0x40#8 ++ 0x15#5, .shri 20#6 36#6 false 0x15#5),
    (0xC#6 ++ 0x14#6 ++ 0x24#6 ++ 0x0#1 ++ 0x80#8 ++ 0x15#5, .sari 20#6 36#6 false 0x15#5),
    (0xC#6 ++ 0x14#6 ++ 0x24#6 ++ 0x0#1 ++ 0xC0#8 ++ 0x15#5, .roli 20#6 36#6 false 0x15#5),
    (0xD#6 ++ 0x14#6 ++ 0xA5A5C#20, .movi 20#6 0xA5A5C#20),
    (0xE#6 ++ 0x14#6 ++ 0xA5A5C#20, .lui 20#6 0xA5A5C#20)] := by rfl

/-- R52 to R73, opcodes 0x06, 0x07, 0x0F. -/
theorem test_words_of_comparisons_and_predicates : decodesTo [
    (0x6#6 ++ 0x0#3 ++ 0x5#3 ++ 0x24#6 ++ 0x28#6 ++ 0x1#1 ++ 0x0#1 ++ 0x6#6, .cmp 0x5#3 36#6 40#6 true false .gt),
    (0x7#6 ++ 0x0#3 ++ 0x5#3 ++ 0x0#3 ++ 0x3#3 ++ 0x0#3 ++ 0x6#3 ++ 0x0#8, .pand 0x5#3 0x3#3 0x6#3),
    (0x7#6 ++ 0x0#3 ++ 0x5#3 ++ 0x0#3 ++ 0x3#3 ++ 0x0#3 ++ 0x6#3 ++ 0x1#8, .por 0x5#3 0x3#3 0x6#3),
    (0x7#6 ++ 0x0#3 ++ 0x5#3 ++ 0x0#3 ++ 0x3#3 ++ 0x0#3 ++ 0x6#3 ++ 0x2#8, .pxor 0x5#3 0x3#3 0x6#3),
    (0x7#6 ++ 0x0#3 ++ 0x5#3 ++ 0x0#3 ++ 0x3#3 ++ 0x3#14, .pnot 0x5#3 0x3#3),
    (0x7#6 ++ 0x14#6 ++ 0x4#20, .ptor 20#6),
    (0x7#6 ++ 0x14#6 ++ 0x24#6 ++ 0x28#6 ++ 0x1#1 ++ 0x0#1 ++ 0x1#3 ++ 0x6#3, .sel 20#6 36#6 40#6 true false 0x6#3),
    (0xF#6 ++ 0x6#3 ++ 0x3#3 ++ 0x28#6 ++ 0x1#1 ++ 0x1A05#13, .cmpi .ltu 0x3#3 40#6 true 0x1A05#13)] := by rfl

/-- R52 to R73, opcodes 0x10, 0x11, 0x12, 0x13, 0x14, 0x15, 0x16, 0x17, 0x37, 0x38, 0x39. -/
theorem test_words_of_control : decodesTo [
    (0x10#6 ++ 0x0#7 ++ 0x5A5A5#19, .br 0x5A5A5#19),
    (0x11#6 ++ 0x0#3 ++ 0x5#3 ++ 0x0#1 ++ 0x5A5A5#19, .brp 0x5#3 0x5A5A5#19),
    (0x12#6 ++ 0x0#3 ++ 0x5#3 ++ 0x0#1 ++ 0x5A5A5#19, .brn 0x5#3 0x5A5A5#19),
    (0x13#6 ++ 0x14#6 ++ 0x1#1 ++ 0x5A5A5#19, .bz 20#6 true 0x5A5A5#19),
    (0x14#6 ++ 0x14#6 ++ 0x1#1 ++ 0x5A5A5#19, .bnz 20#6 true 0x5A5A5#19),
    (0x15#6 ++ 0x0#7 ++ 0x5A5A5#19, .call 0x5A5A5#19),
    (0x16#6 ++ 0x0#3 ++ 0x5#3 ++ 0x0#1 ++ 0x5A5A5#19, .callp 0x5#3 0x5A5A5#19),
    (0x17#6 ++ 0x0#6 ++ 0x14#6 ++ 0x0#6 ++ 0x1#1 ++ 0x0#7, .jr 20#6 true),
    (0x17#6 ++ 0x0#6 ++ 0x14#6 ++ 0x0#6 ++ 0x1#1 ++ 0x1#7, .jrl 20#6 true),
    (0x17#6 ++ 0x2#26, .ret),
    (0x17#6 ++ 0x3#26, .yield),
    (0x17#6 ++ 0x4#26, .exit),
    (0x17#6 ++ 0x0#12 ++ 0x14#6 ++ 0x5#8, .trap 20#6),
    (0x17#6 ++ 0x0#12 ++ 0x14#6 ++ 0x6#8, .brk 20#6),
    (0x17#6 ++ 0x7#26, .xconv),
    (0x37#6 ++ 0x14#6 ++ 0x0#12 ++ 0x12#8, .srd 20#6 0x12#8),
    (0x38#6 ++ 0x14#6 ++ 0x3#3 ++ 0x6#3 ++ 0x0#14, .rep 20#6 0x3#3 0x6#3),
    (0x39#6 ++ 0x0#4 ++ 0x2#2 ++ 0x24#6 ++ 0x28#6 ++ 0x1#1 ++ 0x0#1 ++ 0x0#6, .xset 0x2#2 36#6 40#6 true false),
    (0x39#6 ++ 0x14#6 ++ 0x0#4 ++ 0x2#2 ++ 0x28#6 ++ 0x0#1 ++ 0x1#1 ++ 0x1#6, .rdx 20#6 0x2#2 40#6 true),
    (0x39#6 ++ 0x0#4 ++ 0x2#2 ++ 0x24#6 ++ 0x28#6 ++ 0x1#1 ++ 0x0#1 ++ 0x2#6, .wrx 0x2#2 36#6 40#6 true false)] := by rfl

/-- R52 to R73, opcodes 0x18, 0x19, 0x1A, 0x1B, 0x1C, 0x1D, 0x1E, 0x1F, 0x20, 0x21, 0x22. -/
theorem test_words_of_memory : decodesTo [
    (0x18#6 ++ 0x14#6 ++ 0x24#6 ++ 0x0#1 ++ 0x6#3 ++ 0x2C3#10, .ld 20#6 36#6 false .sh 0x2C3#10),
    (0x19#6 ++ 0x14#6 ++ 0x24#6 ++ 0x0#1 ++ 0x1#3 ++ 0x2C3#10, .st 20#6 36#6 false .h 0x2C3#10),
    (0x1A#6 ++ 0x14#6 ++ 0x24#6 ++ 0x0#1 ++ 0x5#3 ++ 0x2C3#10, .lds 20#6 36#6 false .sb 0x2C3#10),
    (0x1B#6 ++ 0x14#6 ++ 0x24#6 ++ 0x0#1 ++ 0x3#3 ++ 0x2C3#10, .sts 20#6 36#6 false .d 0x2C3#10),
    (0x1C#6 ++ 0x14#6 ++ 0x24#6 ++ 0x0#1 ++ 0x4#3 ++ 0x2C3#10, .ldq 20#6 36#6 false .q 0x2C3#10),
    (0x1D#6 ++ 0x14#6 ++ 0x24#6 ++ 0x0#1 ++ 0x2#3 ++ 0x2C3#10, .stq 20#6 36#6 false .w 0x2C3#10),
    (0x1E#6 ++ 0x14#6 ++ 0x24#6 ++ 0x0#1 ++ 0x3#3 ++ 0x2C3#10, .ldf 20#6 36#6 false .d 0x2C3#10),
    (0x1F#6 ++ 0x14#6 ++ 0x24#6 ++ 0x0#1 ++ 0x5#3 ++ 0x2C3#10, .ldacc 20#6 36#6 false 0x5#3 0x2C3#10),
    (0x20#6 ++ 0x14#6 ++ 0x24#6 ++ 0x28#6 ++ 0x1#1 ++ 0x0#1 ++ 0x5#3 ++ 0x2#3, .atom32 20#6 36#6 40#6 true false .xor .die),
    (0x21#6 ++ 0x14#6 ++ 0x24#6 ++ 0x28#6 ++ 0x1#1 ++ 0x0#1 ++ 0x6#3 ++ 0x3#3, .atom64 20#6 36#6 40#6 true false .xch .pkg),
    (0x22#6 ++ 0x14#6 ++ 0x24#6 ++ 0x28#6 ++ 0x1#1 ++ 0x0#1 ++ 0x2#3 ++ 0x0#3, .atoms 20#6 36#6 40#6 true false .max)] := by rfl

/-- R52 to R73, opcodes 0x23, 0x25, 0x36. -/
theorem test_words_of_synchronisation : decodesTo [
    (0x23#6 ++ 0x0#3 ++ 0x4#3 ++ 0x0#20, .fence .pod),
    (0x23#6 ++ 0x0#2 ++ 0xB#4 ++ 0x0#3 ++ 0x2#3 ++ 0x1#14, .bara 0xB#4 .die),
    (0x23#6 ++ 0x0#2 ++ 0xB#4 ++ 0x0#3 ++ 0x2#3 ++ 0x2#14, .barw 0xB#4 .die),
    (0x23#6 ++ 0x0#2 ++ 0xB#4 ++ 0x0#3 ++ 0x2#3 ++ 0x28#6 ++ 0x0#1 ++ 0x1#1 ++ 0x3#6, .barab 0xB#4 .die 40#6 true),
    (0x23#6 ++ 0x0#2 ++ 0xB#4 ++ 0x0#3 ++ 0x2#3 ++ 0x0#3 ++ 0x6#3 ++ 0x4#8, .bari 0xB#4 .die 0x6#3),
    (0x23#6 ++ 0x0#2 ++ 0xB#4 ++ 0x0#3 ++ 0x2#3 ++ 0x28#6 ++ 0x0#1 ++ 0x1#1 ++ 0x5#6, .bars 0xB#4 .die 40#6 true),
    (0x25#6 ++ 0x0#6 ++ 0x14#6 ++ 0x24#6 ++ 0x0#1 ++ 0x1#1 ++ 0x0#1 ++ 0x15#5, .send 20#6 36#6 false true 0x15#5),
    (0x25#6 ++ 0x14#6 ++ 0x20#20, .qget 20#6),
    (0x36#6 ++ 0x14#6 ++ 0x0#6 ++ 0x15#6 ++ 0x0#8, .csrr 20#6 0#6 0x15#6),
    (0x36#6 ++ 0x14#6 ++ 0x0#6 ++ 0x15#6 ++ 0x1#8, .csrw 20#6 0#6 0x15#6),
    (0x36#6 ++ 0x2#26, .rft),
    (0x36#6 ++ 0x0#6 ++ 0x14#6 ++ 0x0#6 ++ 0x1#1 ++ 0x3#7, .tlbi 20#6 true),
    (0x36#6 ++ 0x4#26, .halt),
    (0x36#6 ++ 0x0#6 ++ 0x14#6 ++ 0x0#6 ++ 0x1#1 ++ 0x5#7, .sleep 20#6 true)] := by rfl

/-- R52 to R73, opcodes 0x24. -/
theorem test_words_of_cross_lane : decodesTo [
    (0x24#6 ++ 0x14#6 ++ 0x24#6 ++ 0x28#6 ++ 0x1#1 ++ 0x0#1 ++ 0x0#6, .xperm 20#6 36#6 40#6 true false),
    (0x24#6 ++ 0x14#6 ++ 0x24#6 ++ 0x28#6 ++ 0x1#1 ++ 0x0#1 ++ 0x1#6, .xup 20#6 36#6 40#6 true false),
    (0x24#6 ++ 0x14#6 ++ 0x24#6 ++ 0x28#6 ++ 0x1#1 ++ 0x0#1 ++ 0x2#6, .xdown 20#6 36#6 40#6 true false),
    (0x24#6 ++ 0x14#6 ++ 0x24#6 ++ 0x28#6 ++ 0x1#1 ++ 0x0#1 ++ 0x3#6, .xxor 20#6 36#6 40#6 true false),
    (0x24#6 ++ 0x14#6 ++ 0x24#6 ++ 0x0#6 ++ 0x0#1 ++ 0x4#7, .xredadd 20#6 36#6 false),
    (0x24#6 ++ 0x14#6 ++ 0x24#6 ++ 0x0#6 ++ 0x0#1 ++ 0x5#7, .xredmax 20#6 36#6 false),
    (0x24#6 ++ 0x14#6 ++ 0x24#6 ++ 0x0#6 ++ 0x0#1 ++ 0x6#7, .xredmin 20#6 36#6 false),
    (0x24#6 ++ 0x14#6 ++ 0x24#6 ++ 0x0#6 ++ 0x0#1 ++ 0x7#7, .xredand 20#6 36#6 false),
    (0x24#6 ++ 0x14#6 ++ 0x24#6 ++ 0x0#6 ++ 0x0#1 ++ 0x8#7, .xredor 20#6 36#6 false),
    (0x24#6 ++ 0x14#6 ++ 0x24#6 ++ 0x0#6 ++ 0x0#1 ++ 0x9#7, .xredfadd 20#6 36#6 false),
    (0x24#6 ++ 0x14#6 ++ 0x24#6 ++ 0x0#6 ++ 0x0#1 ++ 0xA#7, .xredfmax 20#6 36#6 false),
    (0x24#6 ++ 0x14#6 ++ 0x24#6 ++ 0x0#6 ++ 0x0#1 ++ 0xB#7, .xscanadd 20#6 36#6 false),
    (0x24#6 ++ 0x14#6 ++ 0x0#3 ++ 0x3#3 ++ 0xC#14, .xbal 20#6 0x3#3),
    (0x24#6 ++ 0x0#3 ++ 0x5#3 ++ 0x0#3 ++ 0x3#3 ++ 0xD#14, .xany 0x5#3 0x3#3),
    (0x24#6 ++ 0x0#3 ++ 0x5#3 ++ 0x0#3 ++ 0x3#3 ++ 0xE#14, .xall 0x5#3 0x3#3),
    (0x24#6 ++ 0x14#6 ++ 0x24#6 ++ 0x0#6 ++ 0x0#1 ++ 0xF#7, .xstep 20#6 36#6 false)] := by rfl

/-- R52 to R73, opcodes 0x26, 0x28. -/
theorem test_words_of_float : decodesTo [
    (0x26#6 ++ 0x14#6 ++ 0x24#6 ++ 0x28#6 ++ 0x1#1 ++ 0x0#1 ++ 0x3#2 ++ 0x0#4, .fadd 20#6 36#6 40#6 true false .ru),
    (0x26#6 ++ 0x14#6 ++ 0x24#6 ++ 0x28#6 ++ 0x1#1 ++ 0x0#1 ++ 0x3#2 ++ 0x1#4, .fsub 20#6 36#6 40#6 true false .ru),
    (0x26#6 ++ 0x14#6 ++ 0x24#6 ++ 0x28#6 ++ 0x1#1 ++ 0x0#1 ++ 0x3#2 ++ 0x2#4, .fmul 20#6 36#6 40#6 true false .ru),
    (0x26#6 ++ 0x14#6 ++ 0x24#6 ++ 0x28#6 ++ 0x1#1 ++ 0x0#1 ++ 0x3#2 ++ 0x3#4, .ffma 20#6 36#6 40#6 true false .ru),
    (0x26#6 ++ 0x14#6 ++ 0x24#6 ++ 0x28#6 ++ 0x1#1 ++ 0x0#1 ++ 0x4#6, .fmin 20#6 36#6 40#6 true false),
    (0x26#6 ++ 0x14#6 ++ 0x24#6 ++ 0x28#6 ++ 0x1#1 ++ 0x0#1 ++ 0x5#6, .fmax 20#6 36#6 40#6 true false),
    (0x26#6 ++ 0x14#6 ++ 0x24#6 ++ 0x0#6 ++ 0x0#1 ++ 0x6#7, .fabs 20#6 36#6 false),
    (0x26#6 ++ 0x14#6 ++ 0x24#6 ++ 0x0#6 ++ 0x0#1 ++ 0x7#7, .fneg 20#6 36#6 false),
    (0x28#6 ++ 0x14#6 ++ 0x24#6 ++ 0x0#6 ++ 0x0#1 ++ 0x0#1 ++ 0x1#2 ++ 0x0#4, .frcp 20#6 36#6 false .rz),
    (0x28#6 ++ 0x14#6 ++ 0x24#6 ++ 0x0#6 ++ 0x0#1 ++ 0x0#1 ++ 0x1#2 ++ 0x1#4, .frsq 20#6 36#6 false .rz),
    (0x28#6 ++ 0x14#6 ++ 0x24#6 ++ 0x0#6 ++ 0x0#1 ++ 0x0#1 ++ 0x1#2 ++ 0x2#4, .fsqrt 20#6 36#6 false .rz),
    (0x28#6 ++ 0x14#6 ++ 0x24#6 ++ 0x0#6 ++ 0x0#1 ++ 0x0#1 ++ 0x1#2 ++ 0x3#4, .fexp2 20#6 36#6 false .rz),
    (0x28#6 ++ 0x14#6 ++ 0x24#6 ++ 0x0#6 ++ 0x0#1 ++ 0x0#1 ++ 0x1#2 ++ 0x4#4, .flog2 20#6 36#6 false .rz),
    (0x28#6 ++ 0x14#6 ++ 0x24#6 ++ 0x28#6 ++ 0x1#1 ++ 0x0#1 ++ 0x5#6, .ftab 20#6 36#6 40#6 true false),
    (0x28#6 ++ 0x14#6 ++ 0x24#6 ++ 0x28#6 ++ 0x1#1 ++ 0x0#1 ++ 0x3#2 ++ 0x6#4, .fdiv 20#6 36#6 40#6 true false .ru)] := by rfl

/-- R52 to R73, opcodes 0x27. -/
theorem test_words_of_conversions : decodesTo [
    (0x27#6 ++ 0x14#6 ++ 0x24#6 ++ 0x0#6 ++ 0x0#1 ++ 0x0#1 ++ 0x1#2 ++ 0x0#4, .fcvtif 20#6 36#6 false .rz),
    (0x27#6 ++ 0x14#6 ++ 0x24#6 ++ 0x0#6 ++ 0x0#1 ++ 0x0#1 ++ 0x1#2 ++ 0x1#4, .fcvtuf 20#6 36#6 false .rz),
    (0x27#6 ++ 0x14#6 ++ 0x24#6 ++ 0x0#6 ++ 0x0#1 ++ 0x0#1 ++ 0x1#2 ++ 0x2#4, .fcvtfi 20#6 36#6 false .rz),
    (0x27#6 ++ 0x14#6 ++ 0x24#6 ++ 0x0#6 ++ 0x0#1 ++ 0x0#1 ++ 0x1#2 ++ 0x3#4, .fcvtfu 20#6 36#6 false .rz),
    (0x27#6 ++ 0x14#6 ++ 0x24#6 ++ 0x0#6 ++ 0x0#1 ++ 0x0#1 ++ 0x1#2 ++ 0x4#4, .fcvtbf 20#6 36#6 false .rz),
    (0x27#6 ++ 0x14#6 ++ 0x24#6 ++ 0x0#6 ++ 0x0#1 ++ 0x5#7, .fcvtfb 20#6 36#6 false),
    (0x27#6 ++ 0x14#6 ++ 0x24#6 ++ 0x0#6 ++ 0x0#1 ++ 0x0#1 ++ 0x1#2 ++ 0x6#4, .fcvte4 20#6 36#6 false .rz),
    (0x27#6 ++ 0x14#6 ++ 0x24#6 ++ 0x0#6 ++ 0x0#1 ++ 0x0#1 ++ 0x1#2 ++ 0x7#4, .fcvte5 20#6 36#6 false .rz),
    (0x27#6 ++ 0x14#6 ++ 0x24#6 ++ 0x0#6 ++ 0x0#1 ++ 0x8#7, .fcvtf4 20#6 36#6 false),
    (0x27#6 ++ 0x14#6 ++ 0x24#6 ++ 0x0#6 ++ 0x0#1 ++ 0x9#7, .fcvtf5 20#6 36#6 false),
    (0x27#6 ++ 0x14#6 ++ 0x24#6 ++ 0x28#6 ++ 0x1#1 ++ 0x0#1 ++ 0x3#2 ++ 0xA#4, .fcvtsmE4 20#6 36#6 40#6 true false .ru),
    (0x27#6 ++ 0x14#6 ++ 0x24#6 ++ 0x28#6 ++ 0x1#1 ++ 0x0#1 ++ 0x3#2 ++ 0xB#4, .fcvtsmE5 20#6 36#6 40#6 true false .ru)] := by rfl

/-- R52 to R73, opcodes 0x29, 0x2A, 0x2B. -/
theorem test_words_of_half_floats_and_streams : decodesTo [
    (0x29#6 ++ 0x14#6 ++ 0x24#6 ++ 0x28#6 ++ 0x1#1 ++ 0x0#1 ++ 0x3#2 ++ 0x0#4, .hadd2 20#6 36#6 40#6 true false .ru),
    (0x29#6 ++ 0x14#6 ++ 0x24#6 ++ 0x28#6 ++ 0x1#1 ++ 0x0#1 ++ 0x3#2 ++ 0x1#4, .hsub2 20#6 36#6 40#6 true false .ru),
    (0x29#6 ++ 0x14#6 ++ 0x24#6 ++ 0x28#6 ++ 0x1#1 ++ 0x0#1 ++ 0x3#2 ++ 0x2#4, .hmul2 20#6 36#6 40#6 true false .ru),
    (0x29#6 ++ 0x14#6 ++ 0x24#6 ++ 0x28#6 ++ 0x1#1 ++ 0x0#1 ++ 0x3#2 ++ 0x3#4, .hfma2 20#6 36#6 40#6 true false .ru),
    (0x29#6 ++ 0x14#6 ++ 0x24#6 ++ 0x28#6 ++ 0x1#1 ++ 0x0#1 ++ 0x4#6, .hmax2 20#6 36#6 40#6 true false),
    (0x29#6 ++ 0x14#6 ++ 0x24#6 ++ 0x28#6 ++ 0x1#1 ++ 0x0#1 ++ 0x5#6, .hmin2 20#6 36#6 40#6 true false),
    (0x2A#6 ++ 0x0#3 ++ 0x5#3 ++ 0x24#6 ++ 0x28#6 ++ 0x1#1 ++ 0x0#1 ++ 0x0#3 ++ 0x5#3, .fcmp 0x5#3 36#6 40#6 true false .ge),
    (0x2B#6 ++ 0x0#6 ++ 0x14#6 ++ 0x24#6 ++ 0x0#1 ++ 0x1#1 ++ 0x0#6, .saadd 20#6 36#6 false true),
    (0x2B#6 ++ 0x0#6 ++ 0x14#6 ++ 0x24#6 ++ 0x0#1 ++ 0x1#1 ++ 0x1#6, .saaddh 20#6 36#6 false true),
    (0x2B#6 ++ 0x14#6 ++ 0x24#6 ++ 0x0#6 ++ 0x0#1 ++ 0x2#7, .sard 20#6 36#6 false),
    (0x2B#6 ++ 0x14#6 ++ 0x24#6 ++ 0x0#6 ++ 0x0#1 ++ 0x3#7, .sardh 20#6 36#6 false),
    (0x2B#6 ++ 0x14#6 ++ 0x24#6 ++ 0x0#6 ++ 0x0#1 ++ 0x4#7, .sardq 20#6 36#6 false),
    (0x2B#6 ++ 0x0#6 ++ 0x14#6 ++ 0x0#6 ++ 0x1#1 ++ 0x5#7, .sawait 20#6 true),
    (0x2B#6 ++ 0x14#6 ++ 0x24#6 ++ 0x0#6 ++ 0x0#1 ++ 0x6#7, .sacnt 20#6 36#6 false)] := by rfl

/-- R52 to R73, opcodes 0x2C. -/
theorem test_words_of_lead_scalars : decodesTo [
    (0x2C#6 ++ 0x14#6 ++ 0x24#6 ++ 0x28#6 ++ 0x0#8, .ladd 20#6 36#6 40#6),
    (0x2C#6 ++ 0x14#6 ++ 0x24#6 ++ 0x28#6 ++ 0x1#8, .lsub 20#6 36#6 40#6),
    (0x2C#6 ++ 0x14#6 ++ 0x24#6 ++ 0x28#6 ++ 0x2#8, .land 20#6 36#6 40#6),
    (0x2C#6 ++ 0x14#6 ++ 0x24#6 ++ 0x28#6 ++ 0x3#8, .lor 20#6 36#6 40#6),
    (0x2C#6 ++ 0x14#6 ++ 0x24#6 ++ 0x28#6 ++ 0x4#8, .lxor 20#6 36#6 40#6),
    (0x2C#6 ++ 0x14#6 ++ 0x24#6 ++ 0x28#6 ++ 0x5#8, .landn 20#6 36#6 40#6),
    (0x2C#6 ++ 0x14#6 ++ 0x24#6 ++ 0x28#6 ++ 0x6#8, .lshl 20#6 36#6 40#6),
    (0x2C#6 ++ 0x14#6 ++ 0x24#6 ++ 0x28#6 ++ 0x7#8, .lshr 20#6 36#6 40#6),
    (0x2C#6 ++ 0x14#6 ++ 0x24#6 ++ 0x28#6 ++ 0x8#8, .lsar 20#6 36#6 40#6),
    (0x2C#6 ++ 0x14#6 ++ 0x24#6 ++ 0x28#6 ++ 0x9#8, .lmin 20#6 36#6 40#6),
    (0x2C#6 ++ 0x14#6 ++ 0x24#6 ++ 0x28#6 ++ 0xA#8, .lmax 20#6 36#6 40#6),
    (0x2C#6 ++ 0x14#6 ++ 0x24#6 ++ 0x28#6 ++ 0xB#8, .lminu 20#6 36#6 40#6),
    (0x2C#6 ++ 0x14#6 ++ 0x24#6 ++ 0x28#6 ++ 0xC#8, .lmaxu 20#6 36#6 40#6),
    (0x2C#6 ++ 0x14#6 ++ 0x24#6 ++ 0x28#6 ++ 0xD#8, .lmul 20#6 36#6 40#6),
    (0x2C#6 ++ 0x14#6 ++ 0x24#6 ++ 0x28#6 ++ 0xE#8, .lmulh 20#6 36#6 40#6),
    (0x2C#6 ++ 0x14#6 ++ 0x24#6 ++ 0x28#6 ++ 0xF#8, .lmulhu 20#6 36#6 40#6),
    (0x2C#6 ++ 0x14#6 ++ 0x24#6 ++ 0x10#14, .lmov 20#6 36#6),
    (0x2C#6 ++ 0x14#6 ++ 0x24#6 ++ 0x11#14, .lnot 20#6 36#6),
    (0x2C#6 ++ 0x14#6 ++ 0x24#6 ++ 0x12#14, .lneg 20#6 36#6),
    (0x2C#6 ++ 0x14#6 ++ 0x24#6 ++ 0x13#14, .lclz 20#6 36#6),
    (0x2C#6 ++ 0x14#6 ++ 0x24#6 ++ 0x14#14, .lpopc 20#6 36#6),
    (0x2C#6 ++ 0x0#3 ++ 0x5#3 ++ 0x24#6 ++ 0x28#6 ++ 0x2#4 ++ 0x6#4, .lcmp 0x5#3 36#6 40#6 .gt),
    (0x2C#6 ++ 0x14#6 ++ 0x24#6 ++ 0x28#6 ++ 0x6#5 ++ 0x5#3, .lsel 20#6 36#6 40#6 0x5#3),
    (0x2C#6 ++ 0x0#3 ++ 0x5#3 ++ 0x0#3 ++ 0x3#3 ++ 0x0#3 ++ 0x6#3 ++ 0x38#8, .lpand 0x5#3 0x3#3 0x6#3),
    (0x2C#6 ++ 0x0#3 ++ 0x5#3 ++ 0x0#3 ++ 0x3#3 ++ 0x0#3 ++ 0x6#3 ++ 0x39#8, .lpor 0x5#3 0x3#3 0x6#3),
    (0x2C#6 ++ 0x0#3 ++ 0x5#3 ++ 0x0#3 ++ 0x3#3 ++ 0x0#3 ++ 0x6#3 ++ 0x3A#8, .lpxor 0x5#3 0x3#3 0x6#3),
    (0x2C#6 ++ 0x0#3 ++ 0x5#3 ++ 0x0#3 ++ 0x3#3 ++ 0x3B#14, .lpnot 0x5#3 0x3#3),
    (0x2C#6 ++ 0x14#6 ++ 0x0#6 ++ 0x13#6 ++ 0x40#8, .lsrd 20#6 0#6 0x13#6),
    (0x2C#6 ++ 0x0#8 ++ 0xB#4 ++ 0x41#14, .lbara 0xB#4),
    (0x2C#6 ++ 0x0#8 ++ 0xB#4 ++ 0x42#14, .lbarw 0xB#4)] := by rfl

/-- R52 to R73, opcodes 0x2D, 0x2E, 0x2F, 0x34. -/
theorem test_words_of_lead_control_and_memory : decodesTo [
    (0x2D#6 ++ 0x14#6 ++ 0x0#9 ++ 0x401#11, .lmovi 20#6 0x401#11),
    (0x2D#6 ++ 0x14#6 ++ 0x24#6 ++ 0x1#3 ++ 0x401#11, .laddi 20#6 36#6 0x401#11),
    (0x2D#6 ++ 0x14#6 ++ 0x24#6 ++ 0x2#3 ++ 0x401#11, .landi 20#6 36#6 0x401#11),
    (0x2D#6 ++ 0x14#6 ++ 0x24#6 ++ 0x3#3 ++ 0x401#11, .lori 20#6 36#6 0x401#11),
    (0x2D#6 ++ 0x14#6 ++ 0x24#6 ++ 0x80#8 ++ 0x28#6, .lshli 20#6 36#6 40#6),
    (0x2D#6 ++ 0x14#6 ++ 0x24#6 ++ 0xA0#8 ++ 0x28#6, .lshri 20#6 36#6 40#6),
    (0x2D#6 ++ 0x14#6 ++ 0x24#6 ++ 0xC0#8 ++ 0x28#6, .lsari 20#6 36#6 40#6),
    (0x2D#6 ++ 0x14#6 ++ 0x7#9 ++ 0x401#11, .lshin 20#6 0x401#11),
    (0x2E#6 ++ 0x0#7 ++ 0x5A5A5#19, .lbr 0x5A5A5#19),
    (0x2E#6 ++ 0x1#3 ++ 0x5#3 ++ 0x0#1 ++ 0x5A5A5#19, .lbrp 0x5#3 0x5A5A5#19),
    (0x2E#6 ++ 0x2#3 ++ 0x5#3 ++ 0x0#1 ++ 0x5A5A5#19, .lbrn 0x5#3 0x5A5A5#19),
    (0x2E#6 ++ 0x1800000#26, .lend),
    (0x2F#6 ++ 0x14#6 ++ 0x24#6 ++ 0x0#1 ++ 0x7#3 ++ 0x2C3#10, .lld 20#6 36#6 .sw 0x2C3#10),
    (0x2F#6 ++ 0x14#6 ++ 0x24#6 ++ 0x1#1 ++ 0x3#3 ++ 0x2C3#10, .lst 20#6 36#6 .d 0x2C3#10),
    (0x34#6 ++ 0x0#6 ++ 0x14#6 ++ 0x0#14, .qsend 20#6)] := by rfl

/-- R52 to R73, opcodes 0x30, 0x31, 0x35. -/
theorem test_words_of_lead_engines : decodesTo [
    (0x30#6 ++ 0x0#6 ++ 0x14#6 ++ 0x0#14, .mcfg 20#6),
    (0x30#6 ++ 0x0#6 ++ 0x14#6 ++ 0x24#6 ++ 0x1#8, .mldw 20#6 36#6),
    (0x30#6 ++ 0x2#26, .mswap),
    (0x30#6 ++ 0x14#6 ++ 0x24#6 ++ 0x28#6 ++ 0x3#8, .mstrm 20#6 36#6 40#6),
    (0x30#6 ++ 0x14#6 ++ 0x0#6 ++ 0x24#6 ++ 0x4#8, .mzero 20#6 36#6),
    (0x30#6 ++ 0x5#26, .mwait),
    (0x31#6 ++ 0x14#6 ++ 0x24#6 ++ 0x28#6 ++ 0x0#3 ++ 0x1#1 ++ 0x0#1 ++ 0x6#3, .cpyin 20#6 36#6 40#6 true false 0x6#3),
    (0x31#6 ++ 0x14#6 ++ 0x24#6 ++ 0x28#6 ++ 0x1#3 ++ 0x1#1 ++ 0x0#1 ++ 0x6#3, .cpyout 20#6 36#6 40#6 true false 0x6#3),
    (0x31#6 ++ 0x14#6 ++ 0x24#6 ++ 0x28#6 ++ 0x2#3 ++ 0x1#1 ++ 0x0#1 ++ 0x3#3, .cpyg 20#6 36#6 40#6 true 0x3#3),
    (0x31#6 ++ 0x14#6 ++ 0x24#6 ++ 0x28#6 ++ 0x3#3 ++ 0x1#1 ++ 0x0#1 ++ 0x3#3, .gath 20#6 36#6 40#6 true 0x3#3),
    (0x31#6 ++ 0x0#6 ++ 0x14#6 ++ 0x80#14, .publ 20#6),
    (0x31#6 ++ 0xA0#26, .cpwait),
    (0x35#6 ++ 0x0#6 ++ 0x14#6 ++ 0x0#14, .tload 20#6),
    (0x35#6 ++ 0x1#26, .tswap)] := by rfl

/-- R52 to R73, opcodes 0x32, 0x33. -/
theorem test_words_of_lead_streams_and_tasks : decodesTo [
    (0x32#6 ++ 0x14#6 ++ 0x24#6 ++ 0x0#14, .saalloc 20#6 36#6),
    (0x32#6 ++ 0x0#6 ++ 0x14#6 ++ 0x24#6 ++ 0x1#8, .saopen 20#6 36#6),
    (0x32#6 ++ 0x0#6 ++ 0x14#6 ++ 0x2#14, .saclr 20#6),
    (0x32#6 ++ 0x0#6 ++ 0x14#6 ++ 0x3#14, .safree 20#6),
    (0x32#6 ++ 0x14#6 ++ 0x24#6 ++ 0x4#14, .saevict 20#6 36#6),
    (0x32#6 ++ 0x14#6 ++ 0x24#6 ++ 0x5#14, .saload 20#6 36#6),
    (0x32#6 ++ 0x14#6 ++ 0x24#6 ++ 0x6#14, .samerge 20#6 36#6),
    (0x33#6 ++ 0x14#6 ++ 0x24#6 ++ 0x28#6 ++ 0x0#8, .spawn 20#6 36#6 40#6),
    (0x33#6 ++ 0x14#6 ++ 0x24#6 ++ 0x28#6 ++ 0x1#8, .spawnW 20#6 36#6 40#6),
    (0x33#6 ++ 0x14#6 ++ 0x24#6 ++ 0x2#14, .join 20#6 36#6),
    (0x33#6 ++ 0x14#6 ++ 0x24#6 ++ 0x3#14, .tstat 20#6 36#6),
    (0x33#6 ++ 0x14#6 ++ 0x24#6 ++ 0x28#6 ++ 0x4#8, .alwadd 20#6 36#6 40#6),
    (0x33#6 ++ 0x0#6 ++ 0x14#6 ++ 0x5#14, .unwind 20#6),
    (0x33#6 ++ 0x14#6 ++ 0x24#6 ++ 0x6#14, .alwrd 20#6 36#6)] := by rfl

/-- The spec's own worked words: the merge, projection, residual and causal-ring programs, and the tables of R117, R202, R236 and R264. -/
theorem test_worked_words : decodesTo [
    (0x3857FFFF#32, .lui 5#6 0x7FFFF#20), (0x28514FFF#32, .ori 5#6 5#6 false 0x0FFF#13), (0x09A09C08#32, .lea64 26#6 2#6 28#6 false false),
    (0x3D128004#32, .cmpi .lt 1#3 10#6 false 4#13), (0x6925880F#32, .lds 18#6 22#6 false .w 15#10), (0x1CE60E0B#32, .sel 14#6 24#6 14#6 false false 3#3),
    (0x4007FFED#32, .br 0x7FFED#19), (0x54000011#32, .call 17#19), (0x9420_0020#32, .qget 2#6), (0x8041883A#32, .atom32 4#6 6#6 8#6 false false .cas .die),
    (0x8540983B#32, .atom64 20#6 2#6 24#6 false false .cas .pkg), (0x98708313#32, .ffma 7#6 2#6 3#6 false false .rz), (0x9D240A0A#32, .fcvtsmE4 18#6 16#6 10#6 false false .rn),
    (0x7D438400#32, .ldacc 20#6 14#6 false 1#3 0#10), (0xAC030085#32, .sawait 12#6 true), (0x94020406#32, .send 8#6 4#6 false false 6#5),
    (0xB0004041#32, .lbara 1#4), (0xB0801540#32, .lsrd 8#6 0#6 0x15#6), (0xB063_4632#32, .lsel 6#6 13#6 6#6 2#3), (0xBCC28BFF#32, .lld 12#6 10#6 .w 0x3FF#10),
    (0xC5740119#32, .cpyin 23#6 16#6 1#6 true true 1#3), (0xC40000A0#32, .cpwait), (0xC0610703#32, .mstrm 6#6 4#6 7#6), (0xC8A2C006#32, .samerge 10#6 11#6),
    (0xCC628304#32, .alwadd 6#6 10#6 3#6), (0xE07C0000#32, .rep 7#6 6#3 0#3), (0x8C000000#32, .fence .core), (0x8C200000#32, .fence .die), (0x8C400000#32, .fence .pod)] := by rfl

/-- R46, R53, R58, R60, R98, R108, R117, R264: words that are no instruction, one for each reason. -/
theorem test_words_refused :
    [0x00000001#32, 0x0C000000#32, 0xFCC40200#32, 0x8C500000#32, 0x8C304000#32, 0xB0004141#32, 0x04000015#32, 0x14001088#32, 0x14000003#32, 0x94000000#32,
      0xDC00000C#32, 0x18800000#32].map decode
    = [.error .nonZeroField, .error .reservedOpcode, .error .reservedOpcode, .error .reservedFunction, .error .nonZeroField, .error .nonZeroField,
      .error .reservedFunction, .error .badRegister, .error .reservedFunction, .error .badRegister, .error .badRegister, .error .nonZeroField] := by rfl

/-! ## Ill-formed terms -/

/-- R53, R55, R59: pairs, quads and groups of registers that a word must not name. -/
theorem test_ill_formed_registers : ∀ i ∈ [Instr.add64 1#6 2#6 4#6 false false, .sub64 2#6 3#6 4#6 false false, .add64 2#6 4#6 5#6 false false, .shl64 3#6 2#6 1#6 false false,
      .lea64 2#6 3#6 1#6 false false, .mul64 1#6 2#6 3#6 false false, .mov64 2#6 5#6 false, .jr 7#6 false, .jrl 9#6 false, .ld 5#6 2#6 false .d 0#10, .ld 6#6 2#6 false .q 0#10,
      .ld 4#6 3#6 false .w 0#10, .st 2#6 4#6 false .q 0#10, .lds 3#6 0#6 false .d 0#10, .stq 6#6 0#6 false .q 0#10, .ldf 1#6 2#6 false .d 0#10, .ldacc 60#6 0#6 false 7#3 0#10,
      .atom32 4#6 6#6 9#6 false false .cas .die, .atom64 5#6 6#6 8#6 false false .add .die, .atom64 4#6 6#6 10#6 false false .cas .die, .qget 3#6, .tlbi 3#6 false,
      .join 13#6 1#6, .tstat 1#6 2#6, .cpyin 1#6 2#6 3#6 false false 0#3, .cpyg 1#6 2#6 5#6 false 0#3, .gath 1#6 2#6 7#6 true 0#3],
    i.wf = false ∧ decode (wordOf i) = .error .badRegister := by decide

/-- R55, R62, R64, R65, R98, R100, R111, R143, R346: sizes, scopes, conditions and numbers that a word must not name. -/
theorem test_ill_formed_codes : ∀ i ∈ [Instr.bfxu 1#6 2#6 false 16#5 16#5, .ld 1#6 2#6 false .sw 0#10, .st 1#6 2#6 false .sb 0#10, .sts 1#6 2#6 false .sh 0#10, .ldf 1#6 2#6 false .b 0#10,
      .atom32 1#6 2#6 3#6 false false .add .pod, .srd 1#6 0x0C#8, .lsrd 1#6 0#6 0#6, .lld 1#6 2#6 .q 0#10, .lst 1#6 2#6 .q 0#10, .lst 1#6 2#6 .sb 0#10, .csrr 1#6 0#6 4#6,
      .csrw 1#6 1#6 0#6, .send 1#6 2#6 false false 0#5],
    i.wf = false ∧ ∃ e, decode (wordOf i) = .error e := by
  intro i hi
  fin_cases hi <;> exact ⟨by decide, _, rfl⟩

/-- R53: a pair at v62, a quad at v60 and a group that ends at v63 are well formed. -/
theorem test_well_formed_edges : [Instr.add64 62#6 62#6 62#6 true true, .ld 60#6 62#6 false .q 0#10, .ldacc 56#6 0#6 false 7#3 0#10, .bfxu 1#6 2#6 false 0#5 31#5].all (fun i => i.wf) = true := by decide

/-! ## States for the witnesses -/

/-- The place of an instruction's execution: its word is the next one of a running path with the lanes 0 and 63, or of a lead. -/
def on (i : Instr) : State :=
  let s := placeWord State.reset (wordOf i)
  { s with
    cur := if i.cls = .lead then .lead 0 else .group 0,
    threads := [(0, probeThread 2), (63, probeThread 4)],
    groups := s.groups.mod 0 (fun g => { g with running := g.running.map (fun p => { p with lanes := [0, 63] }) }) }
/-- The value of a register in a lane. -/
def reg (l n : Nat) (w : Word) (s : State) : State := s.modThread l (fun th => { th with v := th.v.put n w })
/-- The value of a lead's register. -/
def sreg (n : Nat) (w : DWord) (s : State) : State := s.modLead 0 (fun l => { l with s := l.s.put n w })
/-- The place of the running path changed. -/
def atPos (f : Pos → Pos) (s : State) : State :=
  s.modGroup 0 (fun g => { g with running := g.running.map (fun p => { p with pos := f p.pos }) })
/-- The first GiB under a leaf with this word 0 (R351). -/
def page (w0 : Nat) (s : State) : State := { s with far := Memory.setNat s.far 0x4000 8 w0 }
/-- A word in memory. -/
def word (a : Nat) (w : Word) (s : State) : State := { s with far := Memory.setBytes s.far a (bytesOfWord w) }
/-- A handler at 0x20000 for the task (R295). -/
def handled (s : State) : State :=
  s.modTask 0 (fun k => { k with desc := bytesOfNat 64 (natOfBytes k.desc + 2 ^ 9 + 0x20000 * 2 ^ 320) })
/-- Both threads in trap mode. -/
def trapped (s : State) : State := (s.modThread 0 (fun th => { th with trapMode := true })).modThread 63 (fun th => { th with trapMode := true })
/-- A clause header of class INT with one word (R41). -/
def header : Word := 0xFC400000#32

/-- Whether a path is ready for an instruction, and what holds of it and of the charged state. -/
def readyB (i : Instr) (s : State) (P : GCtx → State → Bool) : Bool :=
  match gctx s with
  | none => false
  | some c =>
    c.path.lanes != [] && i.classOk c.path.pos.cls && c.path.lanes.all (fun l => operandTrap i (s.thread c.gk l) == none && !operandWait i (s.thread c.gk l))
    && (match charge s c.core c.team.task c.payer (c.path.lanes.length * i.cost) (c.path.lanes.length * i.byteCost) with
      | (true, s') => P c s'
      | (false, _) => false)
theorem ready (i : Instr) (s : State) (P : GCtx → State → Prop) [∀ c t, Decidable (P c t)]
    (h : readyB i s (fun c t => decide (P c t)) = true) : ∃ c s', PathReady i s c s' ∧ P c s' := by
  unfold readyB at h
  split at h
  · cases h
  · rename_i c hc
    simp only [Bool.and_eq_true, bne_iff_ne, ne_eq, List.all_eq_true, beq_iff_eq, Bool.not_eq_true'] at h
    obtain ⟨⟨⟨h1, h2⟩, h3⟩, h4⟩ := h
    split at h4
    · rename_i s' hs
      exact ⟨c, s', ⟨hc, h1, h2, fun l hl => (h3 l hl).1, fun l hl => (h3 l hl).2, hs⟩, of_decide_eq_true h4⟩
    · cases h4
theorem readyAll (l : List Instr) (h : l.all (fun i => readyB i (on i) (fun _ _ => true)) = true) :
    ∀ i ∈ l, ∃ c s', PathReady i (on i) c s' := by
  intro i hi
  obtain ⟨c, s', h1, _⟩ := ready i (on i) (fun _ _ => True) (by simpa using List.all_eq_true.mp h i hi)
  exact ⟨c, s', h1⟩
/-- Whether a lead is ready for an instruction, and what holds of it and of the charged state. -/
def leadB (i : Instr) (cost bytes : Nat) (s : State) (P : LCtx → State → Bool) : Bool :=
  match lctx s with
  | none => false
  | some c =>
    c.team.lead.free && i.lsrcs.all (fun r => c.team.lead.full r) && i.ldsts.all (fun r => c.team.lead.full r)
    && (match charge s c.core c.team.task c.payer cost bytes with
      | (true, s') => P c s'
      | (false, _) => false)
theorem leadReady (i : Instr) (cost bytes : Nat) (s : State) (P : LCtx → State → Prop) [∀ c t, Decidable (P c t)]
    (h : leadB i cost bytes s (fun c t => decide (P c t)) = true) : ∃ c s', LeadReady i cost bytes s c s' ∧ P c s' := by
  unfold leadB at h
  split at h
  · cases h
  · rename_i c hc
    simp only [Bool.and_eq_true, List.all_eq_true] at h
    obtain ⟨⟨⟨h1, h2⟩, h3⟩, h4⟩ := h
    split at h4
    · rename_i s' hs
      exact ⟨c, s', ⟨hc, h1, h2, h3, hs⟩, of_decide_eq_true h4⟩
    · cases h4
theorem leadReadyAll (l : List Instr) (h : l.all (fun i => leadB i 1 0 (on i) (fun _ _ => true)) = true) :
    ∀ i ∈ l, ∃ c s', LeadReady i 1 0 (on i) c s' := by
  intro i hi
  obtain ⟨c, s', h1, _⟩ := leadReady i 1 0 (on i) (fun _ _ => True) (by simpa using List.all_eq_true.mp h i hi)
  exact ⟨c, s', h1⟩
/-- The running path, and what holds of it. -/
def pathB (s : State) (P : GCtx → Bool) : Bool :=
  match gctx s with
  | none => false
  | some c => P c
theorem aPath (s : State) (P : GCtx → Prop) [∀ c, Decidable (P c)] (h : pathB s (fun c => decide (P c)) = true) :
    ∃ c, gctx s = some c ∧ P c := by
  unfold pathB at h
  split at h
  · cases h
  · rename_i c hc
    exact ⟨c, hc, of_decide_eq_true h⟩

/-- A path that has passed the checks before an instruction's own (R46), with a handler for its traps, and what holds of it. -/
theorem checked (i : Instr) (s : State) (P : GCtx → Prop) [∀ c, Decidable (P c)]
    (h : pathB s (fun c => decide (c.path.lanes ≠ [] ∧ i.classOk c.path.pos.cls = true ∧ (∀ l ∈ c.path.lanes, operandTrap i (s.thread c.gk l) = none)
      ∧ (∀ l ∈ c.path.lanes, operandWait i (s.thread c.gk l) = false) ∧ (c.path.pos.remain ≠ 0 ∧ c.path.pos.remain < 16)
      ∧ (descHv c.task.desc = true ∧ ∀ l ∈ c.path.lanes, (s.thread c.gk l).trapMode = false) ∧ P c)) = true) : ∃ c, Rules.Checked i s c ∧ P c := by
  obtain ⟨c, h1, h2, h3, h4, h5, h6, h7, h8⟩ := aPath s _ h
  exact ⟨c, ⟨h1, h2, h3, h4, h5, h6, h7⟩, h8⟩
/-! ## Witnesses: the integer and floating-point instructions -/

/-- IntegerResults: every instruction of the tables of R95 to R99, and NOP, can meet its hypotheses. -/
theorem test_integer_instructions_are_ready : ∀ i ∈ [Instr.add 3#6 1#6 2#6 false false, .sub 0#6 1#6 63#6 true false, .and 3#6 3#6 3#6 false true, .or 3#6 1#6 2#6 false false,
      .xor 3#6 1#6 2#6 false false, .andn 3#6 1#6 2#6 false false, .shl 3#6 1#6 2#6 false false, .shr 3#6 1#6 2#6 false false, .sar 3#6 1#6 2#6 false false, .rol 3#6 1#6 2#6 false false,
      .min 3#6 1#6 2#6 false false, .max 3#6 1#6 2#6 false false, .minu 3#6 1#6 2#6 false false, .maxu 3#6 1#6 2#6 false false, .mul 3#6 1#6 2#6 false false, .mulh 3#6 1#6 2#6 false false,
      .mulhu 3#6 1#6 2#6 false false, .mad 3#6 1#6 2#6 false false, .adds 3#6 1#6 2#6 false false, .subs 3#6 1#6 2#6 false false, .absd 3#6 1#6 2#6 false false,
      .add64 4#6 2#6 62#6 false false, .sub64 4#6 2#6 6#6 false false, .shl64 4#6 2#6 6#6 false false, .shr64 4#6 2#6 6#6 false false, .sar64 4#6 2#6 6#6 false false,
      .mul64 4#6 2#6 6#6 false false, .mulu64 4#6 2#6 6#6 false false, .mad64 4#6 2#6 6#6 false false, .lea64 4#6 2#6 6#6 false false,
      .mov 4#6 2#6 false, .not 4#6 2#6 false, .neg 4#6 2#6 false, .abs 4#6 2#6 false, .clz 4#6 2#6 false, .ctz 4#6 2#6 false, .popc 4#6 2#6 false, .brev 4#6 2#6 false,
      .sext8 4#6 2#6 false, .sext16 4#6 2#6 false, .zext8 4#6 2#6 false, .zext16 4#6 2#6 false, .mov64 4#6 2#6 false, .bfxu 4#6 2#6 false 0#5 31#5, .bfxs 4#6 2#6 false 31#5 0#5,
      .bfi 4#6 2#6 false 8#5 3#5, .addi 4#6 2#6 false 0x1FFF#13, .andi 4#6 2#6 false 1#13, .ori 4#6 2#6 false 1#13, .xori 4#6 2#6 false 1#13, .shli 4#6 2#6 false 31#5,
      .shri 4#6 2#6 false 31#5, .sari 4#6 2#6 false 31#5, .roli 4#6 2#6 false 31#5, .movi 4#6 1#20, .lui 4#6 1#20, .nop],
    ∃ c s', PathReady i (on i) c s' := readyAll _ (by decide)
/-- IntegerResults: NOP of a lead. -/
theorem test_nop_of_a_lead_is_ready : ∃ c s', LeadReady .nop 1 0 (on .lend) c s' ∧ True := leadReady _ _ _ _ (fun _ _ => True) (by decide)
/-- ComparisonResults. -/
theorem test_comparisons_are_ready : ∀ i ∈ [Instr.cmp 7#3 1#6 2#6 false false .tst, .cmp 0#3 1#6 2#6 false false .eq, .cmpi .geu 7#3 63#6 false 0x1000#13, .cmpi .eq 0#3 1#6 false 0#13,
      .pand 0#3 1#3 7#3, .por 0#3 1#3 7#3, .pxor 0#3 1#3 7#3, .pnot 0#3 7#3, .ptor 5#6, .sel 5#6 1#6 2#6 false false 7#3],
    ∃ c s', PathReady i (on i) c s' := readyAll _ (by decide)
/-- FloatArithmetic, FloatConversions and SpecialFunctions. -/
theorem test_float_instructions_are_ready : ∀ i ∈ [Instr.fadd 3#6 1#6 2#6 false false .rn, .fsub 3#6 1#6 2#6 false false .rz, .fmul 3#6 1#6 2#6 false false .rd, .ffma 3#6 1#6 2#6 false false .ru,
      .fmin 3#6 1#6 2#6 false false, .fmax 3#6 1#6 2#6 false false, .fabs 3#6 1#6 false, .fneg 3#6 1#6 false, .hadd2 3#6 1#6 2#6 false false .rn, .hsub2 3#6 1#6 2#6 false false .rz,
      .hmul2 3#6 1#6 2#6 false false .rd, .hfma2 3#6 1#6 2#6 false false .ru, .hmax2 3#6 1#6 2#6 false false, .hmin2 3#6 1#6 2#6 false false,
      .fcvtif 3#6 1#6 false .rn, .fcvtuf 3#6 1#6 false .rz, .fcvtfi 3#6 1#6 false .rd, .fcvtfu 3#6 1#6 false .ru, .fcvtbf 3#6 1#6 false .rn, .fcvte4 3#6 1#6 false .rz, .fcvte5 3#6 1#6 false .rd,
      .fcvtfb 3#6 1#6 false, .fcvtf4 3#6 1#6 false, .fcvtf5 3#6 1#6 false, .frcp 3#6 1#6 false .rn, .frsq 3#6 1#6 false .rz, .fsqrt 3#6 1#6 false .rd, .fdiv 3#6 1#6 2#6 false false .ru,
      .fexp2 3#6 1#6 false .rn, .flog2 3#6 1#6 false .rz, .fcmp 7#3 1#6 2#6 false false .ord],
    ∃ c s', PathReady i (on i) c s' := readyAll _ (by decide)
/-- FloatConversions: the factor's byte at the first and at the last address of the scratchpad. -/
theorem test_smoothed_conversion_is_ready : ∀ i ∈ [Instr.fcvtsmE4 3#6 1#6 2#6 false false .rn, .fcvtsmE5 3#6 1#6 2#6 false false .ru],
    let s := reg 63 2 16383#32 (on i)
    ∃ c s', PathReady i s c s' ∧ Rules.mayTouchSpad s c
      ∧ ∀ l ∈ c.path.lanes, ((s.thread c.gk l).rd 2#6).toNat < c.team.spadLimit ∧ c.team.lineAbsent ((s.thread c.gk l).rd 2#6).toNat = false := by
  unfold Rules.mayTouchSpad
  intro i hi
  fin_cases hi <;> exact ready _ _ _ (by decide)
/-- FloatConversions: the factor's byte in an absent line, and just beyond the scratchpad. -/
theorem test_smoothed_conversion_waits_or_traps :
    let i := Instr.fcvtsmE4 3#6 1#6 2#6 false false .rn
    (let s := (reg 63 2 63#32 (handled (on i))).modTeam 0 (fun t => { t with absent := [(0, 1)] })
     ∃ c, Rules.Checked i s c ∧ ∀ l ∈ c.path.lanes, ((s.thread c.gk l).rd 2#6).toNat < c.team.spadLimit ∧ c.team.lineAbsent ((s.thread c.gk l).rd 2#6).toNat = true)
    ∧ let s := reg 0 2 16384#32 (reg 63 2 0xFFFFFFFF#32 (handled (on i)))
      ∃ c, Rules.Checked i s c ∧ ∀ l ∈ c.path.lanes, c.team.spadLimit ≤ ((s.thread c.gk l).rd 2#6).toNat :=
  ⟨checked _ _ _ (by decide +kernel), checked _ _ _ (by decide +kernel)⟩
/-- TableEvaluation: function 0 in one lane and function 3 in the other, both valid in the clause's generation. -/
theorem test_table_evaluation_is_ready :
    let i := Instr.ftab 3#6 1#6 2#6 false false
    let s := (reg 63 2 7#32 (on i)).modTeam 0 (fun t => { t with tab0 := [(5, 1#8), (53, 1#8)] })
    ∃ c s', PathReady i s c s' ∧ ∀ l ∈ c.path.lanes,
      let tab := if (s.thread c.gk l).gen then c.team.tab1 else c.team.tab0
      let f := ((s.thread c.gk l).rd 2#6).toNat % 4
      (tab.get (16 * f + 5) 0#8).getLsbD 0 = true ∧ (Rules.fp (Rules.tableWord tab (16 * f))).finite = true
        ∧ ∀ j < 64, ∀ k < 3, (Rules.fp (Rules.tableWord tab (64 + 1024 * f + 16 * j + 4 * k))).finite = true := by
  exact ready _ _ (fun c _ => ∀ l ∈ c.path.lanes, _ ∧ _ ∧ ∀ j < 64, ∀ k < 3, _) (by decide)
/-- R170, R172: the hypotheses of CodesDecode and RoundingIsExact. -/
theorem test_formats_and_numbers : e4m3 ∈ [fp32, bf16, e4m3, e5m2] ∧ 0xFF < 2 ^ (1 + e4m3.e + e4m3.m) ∧ (1 : Nat) ≠ 0 := by decide

/-! ## Witnesses: control -/

/-- PathsRunAndRepeat: after a plain instruction, under REP before its last execution, and at the end of a clause with Y set. -/
theorem test_plain_instruction_at_its_places : ∀ s ∈ [on (.add 3#6 1#6 2#6 false false),
      atPos (fun p => { p with rep := some { j := 0, count := 2, step := 1#3, stride := 0#3 } }) (on (.add 3#6 1#6 2#6 false false)),
      atPos (fun p => { p with rep := some { j := 1, count := 2, step := 1#3, stride := 0#3 } }) (on (.add 3#6 1#6 2#6 false false)),
      atPos (fun p => { p with remain := 1, y := true }) (on (.add 3#6 1#6 2#6 false false))],
    Rules.plain (.add 3#6 1#6 2#6 false false) = true ∧ ∃ c s', PathReady (.add 3#6 1#6 2#6 false false) s c s' := by
  intro s hs
  refine ⟨rfl, ?_⟩
  obtain ⟨c, s', h, _⟩ : ∃ c s', PathReady (.add 3#6 1#6 2#6 false false) s c s' ∧ True := by
    fin_cases hs <;> exact ready _ _ (fun _ _ => True) (by decide)
  exact ⟨c, s', h⟩
/-- PathsRunAndRepeat: a REP of two executions with the destination stepped, in the last two words of a clause. -/
theorem test_rep_is_ready :
    let s := word 0x10004 (wordOf (.add 3#6 1#6 2#6 false false)) (atPos (fun p => { p with remain := 2 }) (on (.rep 1#6 4#3 0#3)))
    ∃ c s', PathReady (.rep 1#6 4#3 0#3) s c s' ∧ c.path.pos.repFrom = none ∧ 2 ≤ c.path.pos.remain
      ∧ fetch s c.core c.task.space c.task.priv (c.path.pos.pc + 4#64) = .word (wordOf (.add 3#6 1#6 2#6 false false))
      ∧ repOk (wordOf (.add 3#6 1#6 2#6 false false)) 2 4#3 0#3 = true :=
  ready _ _ (fun c _ => c.path.pos.repFrom = none ∧ 2 ≤ c.path.pos.remain ∧ fetch _ c.core c.task.space c.task.priv (c.path.pos.pc + 4#64) = .word _ ∧ repOk _ 2 4#3 0#3 = true) (by decide)
/-- PathsRunAndRepeat: a field stepped down to 0, by -8. -/
theorem test_a_word_is_formed : formWord (wordOf (.add 8#6 1#6 2#6 false false)) 4#3 7#3 1 = some (wordOf (.add 0#6 1#6 2#6 false false)) := by decide
/-- The hypotheses of TransfersMove for the transfers of R102 of a place that the check takes. -/
def transferReady (i : Instr) (disp : BitVec 19) (test : Thread → Bool) (s : State) (c : GCtx) : Prop :=
  c.path.pos.rep = none
  ∧ (c.path.lanes.filter (fun l => test (s.thread c.gk l)) ≠ [] →
      checkTarget s c.core c.task.space c.task.priv (BitVec.ofInt 64 (c.path.pos.pc.toNat + 4 * disp.toInt)) = .ok)
  ∧ Rules.r102 i ≠ none
/-- TransfersMove: taken by all forwards and backwards, by one lane of two forwards and backwards, and by none. -/
theorem test_transfers_are_ready :
    (∃ c s', PathReady (.br 16#19) (word 0x10040 header (on (.br 16#19))) c s' ∧ transferReady (.br 16#19) 16#19 (fun _ => true) (word 0x10040 header (on (.br 16#19))) c)
    ∧ (∃ c s', PathReady (.call 0x7FFF0#19) (word 0xFFC0 header (on (.call 0x7FFF0#19))) c s'
        ∧ transferReady (.call 0x7FFF0#19) 0x7FFF0#19 (fun _ => true) (word 0xFFC0 header (on (.call 0x7FFF0#19))) c)
    ∧ (∃ c s', PathReady (.bnz 1#6 false 16#19) (reg 63 1 5#32 (word 0x10040 header (on (.bnz 1#6 false 16#19)))) c s'
        ∧ transferReady (.bnz 1#6 false 16#19) 16#19 (fun th => decide (th.rd 1#6 ≠ 0#32)) (reg 63 1 5#32 (word 0x10040 header (on (.bnz 1#6 false 16#19)))) c)
    ∧ (∃ c s', PathReady (.bz 1#6 false 0#19) (reg 63 1 5#32 (on (.bz 1#6 false 0#19))) c s' ∧ c.path.pos.rep = none)
    ∧ (∃ c s', PathReady (.brp 0#3 16#19) (on (.brp 0#3 16#19)) c s' ∧ transferReady (.brp 0#3 16#19) 16#19 (fun th => th.pred 0#3) (on (.brp 0#3 16#19)) c)
    ∧ (∃ c s', PathReady (.brn 7#3 16#19) (word 0x10040 header (on (.brn 7#3 16#19))) c s'
        ∧ transferReady (.brn 7#3 16#19) 16#19 (fun th => !th.pred 7#3) (word 0x10040 header (on (.brn 7#3 16#19))) c)
    ∧ (∃ c s', PathReady (.callp 0#3 16#19) (on (.callp 0#3 16#19)) c s' ∧ transferReady (.callp 0#3 16#19) 16#19 (fun th => th.pred 0#3) (on (.callp 0#3 16#19)) c) := by
  unfold transferReady
  refine ⟨ready _ _ (fun c _ => c.path.pos.rep = none ∧ (_ → _) ∧ _) (by decide), ready _ _ (fun c _ => c.path.pos.rep = none ∧ (_ → _) ∧ _) (by decide),
    ready _ _ (fun c _ => c.path.pos.rep = none ∧ (_ → _) ∧ _) (by decide), ready _ _ (fun c _ => c.path.pos.rep = none) (by decide),
    ready _ _ (fun c _ => c.path.pos.rep = none ∧ (_ → _) ∧ _) (by decide), ready _ _ (fun c _ => c.path.pos.rep = none ∧ (_ → _) ∧ _) (by decide),
    ready _ _ (fun c _ => c.path.pos.rep = none ∧ (_ → _) ∧ _) (by decide)⟩
/-- TransfersMove: JR, JRL and RET of two lanes with different targets, one of them backward. -/
theorem test_register_transfers_are_ready : ∀ p ∈ [(Instr.jr 2#6 false, 2#6), (.jrl 62#6 false, 62#6), (.ret, 62#6)],
    let s := word 0xFFC0 header (word 0x10040 header (reg 0 2 0x10040#32 (reg 63 2 0xFFC0#32 (reg 0 62 0x10040#32 (reg 63 62 0xFFC0#32 (on p.1))))))
    ∃ c s', PathReady p.1 s c s' ∧ ∀ l ∈ c.path.lanes, checkTarget s c.core c.task.space c.task.priv ((s.thread c.gk l).rd2 p.2) = .ok := by
  intro p hp
  fin_cases hp <;> exact ready _ _ (fun c _ => ∀ l ∈ c.path.lanes, _ = _) (by decide)
/-- The hypotheses that a trap's statements share, at the last word that a clause of fifteen can have. -/
def canTrap (s : State) (c : GCtx) : Prop := c.path.lanes ≠ [] ∧ c.path.pos.remain ≠ 0 ∧ c.path.pos.remain < 16 ∧ Rules.AllHandled s c
theorem canTrap_of (s : State) (h : pathB s (fun c => decide (c.path.lanes ≠ [] ∧ c.path.pos.remain ≠ 0 ∧ c.path.pos.remain < 16 ∧ descHv c.task.desc = true
    ∧ ∀ l ∈ c.path.lanes, (s.thread c.gk l).trapMode = false)) = true) : ∃ c, gctx s = some c ∧ canTrap s c := by
  obtain ⟨c, h1, h2⟩ := aPath s _ h
  exact ⟨c, h1, h2.1, h2.2.1, h2.2.2.1, h2.2.2.2.1, h2.2.2.2.2⟩
/-- TransfersMove: a target that is no header for both lanes of BR and for one of BNZ, and register targets that are no word addresses or not canonical. -/
theorem test_targets_can_fail :
    (∃ c, Rules.Checked (.br 16#19) (handled (on (.br 16#19))) c ∧ c.path.pos.rep = none
        ∧ Rules.targetFails (handled (on (.br 16#19))) c.core c.task (BitVec.ofInt 64 (c.path.pos.pc.toNat + 4 * (16#19).toInt)) = some (.branchTarget, 0#64)
        ∧ (charge (handled (on (.br 16#19))) c.core c.team.task (c.keep []).payer 0 0).1 = true)
    ∧ (let s := reg 63 1 5#32 (handled (on (.bnz 1#6 false 16#19)))
       ∃ c, Rules.Checked (.bnz 1#6 false 16#19) s c ∧ c.path.pos.rep = none ∧ c.path.lanes.filter (fun l => decide ((s.thread c.gk l).rd 1#6 ≠ 0#32)) = [63]
        ∧ Rules.targetFails s c.core c.task (BitVec.ofInt 64 (c.path.pos.pc.toNat + 4 * (16#19).toInt)) = some (.branchTarget, 0#64)
        ∧ (charge s c.core c.team.task (c.keep [0]).payer 1 0).1 = true)
    ∧ let s := reg 0 2 0x10042#32 (reg 63 3 0x8000#32 (handled (on (.jr 2#6 false))))
      ∃ c, Rules.Checked (.jr 2#6 false) s c ∧ ∀ l ∈ c.path.lanes, Rules.targetFails s c.core c.task ((s.thread c.gk l).rd2 2#6) = some (.branchTarget, 0#64) :=
  ⟨checked _ _ _ (by decide +kernel), checked _ _ _ (by decide +kernel), checked _ _ _ (by decide +kernel)⟩
/-- TrapsAreTaken: no handler, a word of another class; and in trap mode an operand that is closed. -/
theorem test_traps_without_handler :
    (let i := Instr.fadd 3#6 1#6 2#6 false false .rn
     let s := atPos (fun p => { p with cls := .int }) (on i)
     ∃ c, gctx s = some c ∧ c.path.lanes ≠ [] ∧ c.path.pos.remain ≠ 0 ∧ c.path.pos.remain < 16
      ∧ (∀ l ∈ c.path.lanes, descHv c.task.desc = false ∨ (s.thread c.gk l).trapMode = true) ∧ i.classOk c.path.pos.cls = false)
    ∧ let i := Instr.add 3#6 1#6 2#6 false false
      let s := (trapped (handled (on i))).modThread 0 (fun th => { th with empty := [(1, .closed .qClosed 0#32)] })
        |>.modThread 63 (fun th => { th with empty := [(1, .closed .qClosed 0#32)] })
      ∃ c, gctx s = some c ∧ c.path.lanes ≠ [] ∧ c.path.pos.remain ≠ 0 ∧ c.path.pos.remain < 16
        ∧ (∀ l ∈ c.path.lanes, descHv c.task.desc = false ∨ (s.thread c.gk l).trapMode = true) ∧ c.path.pos.cls ≠ .lead ∧ i.classOk c.path.pos.cls = true
        ∧ ∀ l ∈ c.path.lanes, operandTrap i (s.thread c.gk l) = some { cause := .qClosed, code := 1, addr := 0#64 } :=
  ⟨aPath _ _ (by decide +kernel), aPath _ _ (by decide +kernel)⟩
/-- TrapsAreTaken: a lead at a word that is no header, and at the header of a clause of another class. -/
theorem test_traps_of_a_lead :
    (encode (.add 3#6 1#6 2#6 false false)).isSome = true ∧ (Instr.add 3#6 1#6 2#6 false false).classOk .lead = false
    ∧ ∀ w ∈ [0x00000000#32, header],
      let s := word 0x10000 w ((on .lend).modLead 0 (fun l => { l with remain := 0 }))
      ∃ c, lctx s = some c ∧ c.team.lead.free = true ∧ c.team.lead.remain = 0 ∧ fetch s c.core c.task.space c.task.priv c.team.lead.pc = .word w
        ∧ if w = 0#32 then ¬Rules.serves w else Rules.serves w ∧ ¬Rules.classAt w .lead := by
  refine ⟨rfl, rfl, ?_⟩
  intro w hw
  unfold Rules.serves Rules.classAt
  fin_cases hw <;> exact ⟨_, rfl, by decide +kernel⟩
/-- TrapsAreTaken: a word of class FLT in a clause of class INT. -/
theorem test_a_class_trap_is_possible :
    let i := Instr.fadd 3#6 1#6 2#6 false false .rn
    let s := atPos (fun p => { p with cls := .int }) (handled (on i))
    (encode i).isSome = true ∧ ∃ c, gctx s = some c ∧ c.path.lanes ≠ [] ∧ c.path.pos.remain ≠ 0 ∧ c.path.pos.remain < 16
      ∧ (descHv c.task.desc = true ∧ ∀ l ∈ c.path.lanes, (s.thread c.gk l).trapMode = false) ∧ i.classOk c.path.pos.cls = false :=
  ⟨rfl, aPath _ (fun c => c.path.lanes ≠ [] ∧ c.path.pos.remain ≠ 0 ∧ c.path.pos.remain < 16 ∧ (_ ∧ ∀ l ∈ c.path.lanes, _ = false) ∧ _) (by decide +kernel)⟩
/-- TrapsAreTaken: an operand that is closed in one lane and empty in the other, read under the trap policy. -/
theorem test_an_operand_trap_is_possible :
    let i := Instr.add 3#6 1#6 2#6 true false
    let s := ((handled (on i)).modThread 0 (fun th => { th with empty := [(1, .closed .qClosed 0#32)] })).modThread 63 (fun th => { th with empty := [(1, .pending)] })
    ∃ c, gctx s = some c ∧ c.path.lanes ≠ [] ∧ c.path.pos.remain ≠ 0 ∧ c.path.pos.remain < 16
      ∧ (descHv c.task.desc = true ∧ ∀ l ∈ c.path.lanes, (s.thread c.gk l).trapMode = false)
      ∧ c.path.pos.cls ≠ .lead ∧ i.classOk c.path.pos.cls = true
      ∧ ∀ l ∈ c.path.lanes, operandTrap i (s.thread c.gk l) = some { cause := if l = 0 then .qClosed else .emptyRead, code := 1, addr := 0#64 } :=
  aPath _ (fun c => c.path.lanes ≠ [] ∧ c.path.pos.remain ≠ 0 ∧ c.path.pos.remain < 16 ∧ (_ ∧ ∀ l ∈ c.path.lanes, _ = false) ∧ c.path.pos.cls ≠ .lead ∧ _ ∧ ∀ l ∈ c.path.lanes, _ = some _) (by decide +kernel)
/-- TrapsAreTaken, SwitchPointsAndJoins, ControlAndTranslations: the instructions that trap on purpose or without trap mode, with a handler, ready. -/
theorem test_trapping_instructions_are_ready : ∀ i ∈ [Instr.trap 0#6, .trap 63#6, .brk 0#6, .brk 63#6, .csrw 5#6 0#6 1#6, .csrr 5#6 0#6 0x38#6, .csrr 5#6 0#6 0x3F#6, .tlbi 2#6 false, .halt],
    ∃ c s', PathReady i (handled (on i)) c s' ∧ c.path.pos.rep = none ∧ c.path.pos.remain ≠ 0 ∧ c.path.pos.remain < 16
      ∧ (descHv c.task.desc = true ∧ ∀ l ∈ c.path.lanes, ((handled (on i)).thread c.gk l).trapMode = false) := by
  intro i hi
  fin_cases hi <;> exact ready _ _ (fun c _ => c.path.pos.rep = none ∧ c.path.pos.remain ≠ 0 ∧ c.path.pos.remain < 16 ∧ _ ∧ ∀ l ∈ c.path.lanes, _ = false) (by decide +kernel)
/-- SwitchPointsAndJoins: YIELD, XCONV and SLEEP, the longest time that of one lane. -/
theorem test_switch_points_are_ready :
    (∀ i ∈ [Instr.yield, .xconv], ∃ c s', PathReady i (on i) c s' ∧ c.path.pos.rep = none)
    ∧ ∃ c s', PathReady (.sleep 1#6 false) (reg 63 1 0xFFFFFFFF#32 (on (.sleep 1#6 false))) c s' ∧ c.path.pos.rep = none
      ∧ (∃ l ∈ c.path.lanes, (((reg 63 1 0xFFFFFFFF#32 (on (.sleep 1#6 false))).thread c.gk l).rd 1#6).toNat = 2 ^ 32 - 1)
      ∧ ∀ l ∈ c.path.lanes, (((reg 63 1 0xFFFFFFFF#32 (on (.sleep 1#6 false))).thread c.gk l).rd 1#6).toNat ≤ 2 ^ 32 - 1 := by
  constructor
  · intro i hi
    fin_cases hi <;> exact ready _ _ (fun c _ => c.path.pos.rep = none) (by decide)
  · exact ready _ _ (fun c _ => c.path.pos.rep = none ∧ (∃ l ∈ c.path.lanes, _ = 2 ^ 32 - 1) ∧ ∀ l ∈ c.path.lanes, _ ≤ 2 ^ 32 - 1) (by decide)
/-- SwitchPointsAndJoins: EXIT of all live threads of a group, and EXIT of one of two. -/
theorem test_exit_is_ready :
    (∃ c s', PathReady .exit (on .exit) c s' ∧ ∀ l < 64, ((on .exit).thread c.gk l).live = true → l ∈ c.path.lanes)
    ∧ ∃ c s', PathReady .exit ((on .exit).modGroup 0 (fun g => { g with running := g.running.map (fun p => { p with lanes := [63] }) })) c s'
      ∧ ∃ l < 64, (((on .exit).modGroup 0 (fun g => { g with running := g.running.map (fun p => { p with lanes := [63] }) })).thread c.gk l).live = true ∧ l ∉ c.path.lanes :=
  ⟨ready _ _ (fun c _ => ∀ l < 64, _ → l ∈ c.path.lanes) (by decide), ready _ _ (fun c _ => ∃ l < 64, _ ∧ l ∉ c.path.lanes) (by decide)⟩
/-- IndexAndSpecialRegisters: base and length that end at the last register of the e space; an index below the length. -/
theorem test_index_registers_in_range :
    (∃ c s', PathReady (.xset 3#2 1#6 2#6 false false) (reg 63 1 15#32 (reg 63 2 1#32 (on (.xset 3#2 1#6 2#6 false false)))) c s' ∧ 64 ≤ c.team.regs
      ∧ ∀ l ∈ c.path.lanes, (((reg 63 1 15#32 (reg 63 2 1#32 (on (.xset 3#2 1#6 2#6 false false)))).thread c.gk l).rd 1#6).toNat
          + (((reg 63 1 15#32 (reg 63 2 1#32 (on (.xset 3#2 1#6 2#6 false false)))).thread c.gk l).rd 2#6).toNat + 64 ≤ c.team.regs)
    ∧ ∀ i ∈ [Instr.rdx 4#6 1#2 2#6 false, .wrx 1#2 4#6 2#6 false false],
      let s := ((reg 63 2 6#32 (on i)).modThread 63 (fun th => { th with xl := [(1, 7#32)] })).modThread 0 (fun th => { th with xl := [(1, 1#32)] })
      ∃ c s', PathReady i s c s' ∧ 64 ≤ c.team.regs ∧ ∀ l ∈ c.path.lanes, ((s.thread c.gk l).rd 2#6).toNat < ((s.thread c.gk l).xl.get 1 0#32).toNat := by
  constructor
  · exact ready _ _ (fun c _ => 64 ≤ c.team.regs ∧ ∀ l ∈ c.path.lanes, _ ≤ _) (by decide)
  · intro i hi
    fin_cases hi <;> exact ready _ _ (fun c _ => 64 ≤ c.team.regs ∧ ∀ l ∈ c.path.lanes, _ < _) (by decide)
/-- IndexAndSpecialRegisters: lane 0 in range and lane 63 just beyond. -/
theorem test_index_registers_out_of_range :
    let i := Instr.xset 0#2 1#6 2#6 false false
    let s := reg 63 1 16#32 (reg 63 2 1#32 (handled (on i)))
    ∃ c, gctx s = some c ∧ 64 ≤ c.team.regs ∧ c.path.lanes ≠ [] ∧ c.path.lanes.Nodup ∧ i.classOk c.path.pos.cls = true ∧ c.path.pos.rep = none
      ∧ c.path.pos.remain ≠ 0 ∧ c.path.pos.remain < 16 ∧ (descHv c.task.desc = true ∧ ∀ l ∈ c.path.lanes, (s.thread c.gk l).trapMode = false)
      ∧ (∀ l ∈ c.path.lanes, operandTrap i (s.thread c.gk l) = none) ∧ (∀ l ∈ c.path.lanes, operandWait i (s.thread c.gk l) = false)
      ∧ c.path.lanes.filter (fun l => [0].contains l) = [0] ∧ c.path.lanes.filter (fun l => [63].contains l) = [63]
      ∧ (∀ l ∈ [0], ((s.thread c.gk l).rd 1#6).toNat + ((s.thread c.gk l).rd 2#6).toNat + 64 ≤ c.team.regs)
      ∧ (∀ l ∈ [63], ¬((s.thread c.gk l).rd 1#6).toNat + ((s.thread c.gk l).rd 2#6).toNat + 64 ≤ c.team.regs)
      ∧ (charge s c.core c.team.task (c.keep [0]).payer 1 0).1 = true :=
  aPath _ (fun c => 64 ≤ c.team.regs ∧ c.path.lanes ≠ [] ∧ c.path.lanes.Nodup ∧ _ ∧ c.path.pos.rep = none ∧ c.path.pos.remain ≠ 0 ∧ c.path.pos.remain < 16
    ∧ (_ ∧ ∀ l ∈ c.path.lanes, _ = false) ∧ (∀ l ∈ c.path.lanes, _ = none) ∧ (∀ l ∈ c.path.lanes, _ = false) ∧ c.path.lanes.filter _ = [0] ∧ c.path.lanes.filter _ = [63]
    ∧ (∀ l ∈ [0], _ ≤ c.team.regs) ∧ (∀ l ∈ [63], ¬_ ≤ c.team.regs) ∧ _ = true) (by decide +kernel)
/-- IndexAndSpecialRegisters: every special of R111 that a group reads has a value. -/
theorem test_special_registers_are_ready : ∀ n ∈ [0x00#8, 0x01#8, 0x02#8, 0x03#8, 0x04#8, 0x05#8, 0x06#8, 0x07#8, 0x08#8, 0x09#8, 0x0A#8, 0x0B#8, 0x10#8, 0x11#8, 0x12#8, 0x13#8, 0x14#8,
      0x15#8, 0x16#8, 0x17#8],
    ∃ c s', PathReady (.srd 5#6 n) (on (.srd 5#6 n)) c s' ∧ ∀ l ∈ c.path.lanes, (Rules.r111 s' c l ((on (.srd 5#6 n)).thread c.gk l) n.toNat).isSome = true := by
  intro n hn
  fin_cases hn <;> exact ready _ _ (fun c s' => ∀ l ∈ c.path.lanes, (Rules.r111 s' c l _ _).isSome = true) (by decide)
/-- QueueGet, and ReturnFromTrap's and ControlAndTranslations' other hypotheses: in trap mode. -/
theorem test_queue_and_trap_mode_instructions_are_ready :
    (∃ c s', PathReady (.qget 62#6) (on (.qget 62#6)) c s' ∧ True)
    ∧ (∀ i ∈ [Instr.csrr 5#6 0#6 0#6, .csrr 5#6 0#6 1#6, .csrr 5#6 0#6 2#6, .csrr 5#6 0#6 3#6, .csrr 5#6 0#6 0x10#6, .csrr 5#6 0#6 0x17#6, .csrr 5#6 0#6 0x38#6, .csrr 5#6 0#6 0x3F#6,
          .csrw 5#6 0#6 0#6, .csrw 5#6 0#6 1#6, .csrw 5#6 0#6 0x10#6, .csrw 5#6 0#6 0x17#6, .csrw 5#6 0#6 0x38#6, .csrw 5#6 0#6 0x3F#6, .tlbi 2#6 false, .halt],
        ∃ c s', PathReady i (trapped (on i)) c s' ∧ ∀ l ∈ c.path.lanes, ((trapped (on i)).thread c.gk l).trapMode = true)
    ∧ ∃ c s', PathReady (.csrw 5#6 0#6 0x11#6) (reg 63 5 16#32 (reg 0 5 16#32 (trapped (on (.csrw 5#6 0#6 0x11#6))))) c s'
      ∧ ∀ k ∈ c.path.lanes, ∀ x < 4, num12 0#6 0x11#6 / 2 = 8 + x →
        ((Rules.r346 (num12 0#6 0x11#6) (((reg 63 5 16#32 (reg 0 5 16#32 (trapped (on (.csrw 5#6 0#6 0x11#6))))).thread c.gk k).rd 5#6)
            ((reg 63 5 16#32 (reg 0 5 16#32 (trapped (on (.csrw 5#6 0#6 0x11#6))))).thread c.gk k)).xb.get x 0#32).toNat
          + ((Rules.r346 (num12 0#6 0x11#6) (((reg 63 5 16#32 (reg 0 5 16#32 (trapped (on (.csrw 5#6 0#6 0x11#6))))).thread c.gk k).rd 5#6)
            ((reg 63 5 16#32 (reg 0 5 16#32 (trapped (on (.csrw 5#6 0#6 0x11#6))))).thread c.gk k)).xl.get x 0#32).toNat + 64 ≤ c.team.regs := by
  refine ⟨ready _ _ (fun _ _ => True) (by decide), ?_, ready _ _ (fun c _ => ∀ k ∈ c.path.lanes, ∀ x < 4, _ → _ ≤ c.team.regs) (by decide)⟩
  intro i hi
  fin_cases hi <;> exact ready _ _ (fun c _ => ∀ l ∈ c.path.lanes, _ = true) (by decide)
/-- The threads' trap registers name a place (R347). -/
def returning (t0 : Word) (pc : Word) (s : State) : State :=
  (s.modThread 0 (fun th => { th with t := [(0, t0), (2, pc)] })).modThread 63 (fun th => { th with t := [(0, t0), (2, pc)] })
/-- ReturnFromTrap: to a header, and to the last execution of a REP in a clause of class SYS with fifteen words left. -/
theorem test_returns_are_ready :
    (let s := word 0x10040 header (returning 0#32 0x10040#32 (trapped (on .rft)))
     ∃ c s', PathReady .rft s c s' ∧ (∀ l ∈ c.path.lanes, (s.thread c.gk l).trapMode = true ∧ (s.thread c.gk l).t.get 0 0#32 = 0#32
        ∧ (s.thread c.gk l).t.get 3 0#32 ++ (s.thread c.gk l).t.get 2 0#32 = 0x10040#64)
      ∧ checkTarget s c.core c.task.space c.task.priv 0x10040#64 = .ok)
    ∧ (let t0 : Word := 0x20000000#32 + 0x10000000#32 + 0x0A000000#32 + 0x01E00000#32 + 0x00100000#32 + 0x000FC000#32
       let s := returning t0 0x10040#32 (trapped (on .rft))
       ∃ c s', PathReady .rft s c s' ∧ (∀ l ∈ c.path.lanes, (s.thread c.gk l).trapMode = true ∧ (s.thread c.gk l).t.get 0 0#32 = t0
          ∧ (s.thread c.gk l).t.get 3 0#32 ++ (s.thread c.gk l).t.get 2 0#32 = 0x10040#64)
        ∧ t0.toNat / 2 ^ 30 = 0 ∧ Cls.sys.code.toNat = t0.toNat / 2 ^ 25 % 8 ∧ t0.toNat / 2 ^ 21 % 16 = 15) := by
  refine ⟨ready _ _ (fun c _ => (∀ l ∈ c.path.lanes, _ ∧ _ ∧ _) ∧ _) (by decide), ready _ _ (fun c _ => (∀ l ∈ c.path.lanes, _ ∧ _ ∧ _) ∧ _ ∧ _ ∧ _) (by decide)⟩
/-- ReturnFromTrap: places that are no word address, and no header. -/
theorem test_returns_can_fail : ∀ p ∈ [(0x00200000#32, 0x10042#32), (0#32, 0x10040#32)],
    let s := returning p.1 p.2 (trapped (on .rft))
    ∃ c, gctx s = some c ∧ c.path.lanes ≠ [] ∧ Instr.rft.classOk c.path.pos.cls = true ∧ c.path.pos.remain ≠ 0 ∧ c.path.pos.remain < 16
      ∧ (∀ l ∈ c.path.lanes, (s.thread c.gk l).trapMode = true ∧ (s.thread c.gk l).t.get 0 0#32 = p.1
          ∧ (s.thread c.gk l).t.get 3 0#32 ++ (s.thread c.gk l).t.get 2 0#32 = 0#32 ++ p.2)
      ∧ p.1.toNat / 2 ^ 30 = 0 ∧ Cls.int.code.toNat = p.1.toNat / 2 ^ 25 % 8
      ∧ (p.2.toNat % 4 ≠ 0 ∨ p.1.toNat / 2 ^ 21 % 16 = 0 ∧ Rules.targetFails s c.core c.task (0#32 ++ p.2) = some (.branchTarget, 0#64)) := by
  intro p hp
  fin_cases hp <;> exact aPath _ _ (by decide +kernel)
/-! ## Witnesses: memory, barriers, cross-lane operations, SEND and streams -/

/-- LocalLoads, LocalStoresAndAtomics: one lane at the first and one at the last place of the scratchpad. -/
theorem test_scratchpad_accesses_are_ready :
    ∀ p ∈ [(Instr.lds 8#6 4#6 false .q 0#10, Size.q, 16368#32), (.lds 8#6 4#6 false .sb 0#10, .sb, 16383#32), (.sts 8#6 4#6 false .d 0#10, .d, 16376#32), (.sts 8#6 4#6 false .b 0#10, .b, 16383#32),
        (.atoms 8#6 4#6 6#6 false false .add, .w, 16380#32), (.atoms 8#6 4#6 6#6 false false .cas, .w, 16380#32)],
      let s := reg 63 4 p.2.2 (on p.1)
      ∃ c s', PathReady p.1 s c s' ∧ (∀ l ∈ c.path.lanes, l < 64) ∧ Rules.mayTouchSpad s c
        ∧ ∀ l ∈ c.path.lanes, Rules.inSpad c.team (Rules.localAt p.2.1 4#6 0#10 (s.thread c.gk l)) (Rules.width p.2.1) := by
  unfold Rules.mayTouchSpad Rules.inSpad
  intro p hp
  fin_cases hp <;> exact ready _ _ _ (by decide)
/-- LocalLoads, LocalStoresAndAtomics: one lane at the first and one at the last place of the quad pool, or of the accumulators. -/
theorem test_local_accesses_are_ready :
    (∀ p ∈ [(Instr.ldq 8#6 4#6 false .h 0x3FF#10, Size.h, 2#32), (.stq 8#6 4#6 false .w 0x3FF#10, .w, 4#32)],
      let s := reg 0 4 p.2.2 (reg 63 4 16384#32 (on p.1))
      ∃ c s', PathReady p.1 s c s' ∧ (∀ l ∈ c.path.lanes, l < 64 ∧ quiet s (s.thread c.gk l).ops = true)
        ∧ ∀ l ∈ c.path.lanes, Rules.localAt p.2.1 4#6 0x3FF#10 (s.thread c.gk l) + Rules.width p.2.1 ≤ 16384 * c.team.quadg
          ∧ Rules.localAt p.2.1 4#6 0x3FF#10 (s.thread c.gk l) % Rules.width p.2.1 = 0)
    ∧ let i := Instr.ldacc 8#6 4#6 false 7#3 0#10
      let s := reg 63 4 4088#32 (on i)
      ∃ c s', PathReady i s c s' ∧ (∀ l ∈ c.path.lanes, quiet s (s.thread c.gk l).ops = true)
        ∧ ∀ l ∈ c.path.lanes, 0 ≤ (((s.thread c.gk l).rd 4#6).toNat : Int) + (0#10).toInt
          ∧ (((s.thread c.gk l).rd 4#6).toNat : Int) + (0#10).toInt + ((7#3).toNat : Int) < 4096 * c.team.accg := by
  refine ⟨?_, ready _ _ _ (by decide)⟩
  intro p hp
  fin_cases hp <;> exact ready _ _ _ (by decide)
/-- LocalLoads: the line of lane 63's word, the second of the scratchpad, is absent, that of lane 0's is not. -/
theorem test_a_load_of_which_a_line_is_absent :
    let i := Instr.lds 8#6 4#6 false .w 0#10
    let s := (reg 63 4 64#32 (handled (on i))).modTeam 0 (fun t => { t with absent := [(1, 1)] })
    ∃ c, Rules.Checked i s c ∧ Rules.mayTouchSpad s c ∧ c.path.lanes.filter (fun l => [0].contains l) = [0] ∧ c.path.lanes.filter (fun l => [63].contains l) = [63]
      ∧ (∀ l ∈ c.path.lanes, ¬(l ∈ [0] ∧ l ∈ [63])) ∧ (∀ l ∈ c.path.lanes, l ∈ [0] ∨ l ∈ [63])
      ∧ (∀ l ∈ [0], Rules.inSpad c.team (Rules.localAt .w 4#6 0#10 (s.thread c.gk l)) (Rules.width .w))
      ∧ (∀ l ∈ [63], Rules.lineGone c.team (Rules.localAt .w 4#6 0#10 (s.thread c.gk l)) (Rules.width .w))
      ∧ (charge s c.core c.team.task (c.keep [0]).payer (1 * i.cost) (1 * i.byteCost)).1 = true := by
  unfold Rules.mayTouchSpad Rules.inSpad Rules.lineGone
  exact checked _ _ _ (by decide +kernel)
/-- AccessChecks: every lane's line is absent, of each access to the scratchpad. -/
theorem test_accesses_of_which_every_line_is_absent :
    ∀ p ∈ [(Instr.lds 8#6 4#6 false .q 0#10, 16), (.sts 8#6 4#6 false .b 0#10, 1), (.atoms 8#6 4#6 6#6 false false .add, 4), (.send 8#6 4#6 false false 4#5, 4)],
      let s := (reg 63 4 48#32 (handled (on p.1))).modTeam 0 (fun t => { t with absent := [(0, 1)] })
      (Rules.spadReach p.1).isSome = true
      ∧ ∃ c, Rules.Checked p.1 s c ∧ ∀ l ∈ c.path.lanes, Rules.lineGone c.team ((s.thread c.gk l).rd 4#6).toNat p.2 := by
  unfold Rules.lineGone
  intro p hp
  fin_cases hp <;> exact ⟨rfl, checked _ _ _ (by decide +kernel)⟩
/-- The leaf of a page that may be read, written and executed by a task (R351), with PUB clear. -/
def openLeaf : Leaf := leafOf 0x1F 0 (2 ^ 30)
/-- GlobalAccesses: loads, stores and atomics at the first and at the last place of a page. -/
theorem test_global_accesses_are_ready : ∀ p ∈ [(Instr.ld 8#6 4#6 false .d 0#10, Acc.read, 8, 0x3FFFFFF8#32), (.ld 8#6 4#6 false .sh 0#10, .read, 2, 0x3FFFFFFE#32), (.st 8#6 4#6 false .q 0#10, .write, 16, 0x3FFFFFF0#32),
      (.st 8#6 4#6 false .b 0#10, .write, 1, 0x3FFFFFFF#32), (.atom32 8#6 4#6 6#6 false false .cas .core, .atomic, 4, 0x3FFFFFFC#32), (.atom64 8#6 4#6 12#6 false false .add .pkg, .atomic, 8, 0x3FFFFFF8#32)],
    let s := reg 63 4 p.2.2.2 (page 0x1F (on p.1))
    (Rules.global p.1).isSome = true ∧ ∃ c s', PathReady p.1 s c s'
      ∧ (roomFor s (c.core / 96) c.path.lanes.length = true ∧ (p.2.1 ≠ .read → ∀ l ∈ c.path.lanes, quiet s (s.thread c.gk l).ops = true))
      ∧ ∀ l ∈ c.path.lanes, l < 64 ∧ Rules.accessFails s c ((s.thread c.gk l).rd2 4#6) p.2.2.1 p.2.1 = none
        ∧ lookup s c.core c.task.space (((s.thread c.gk l).rd2 4#6).toNat % 2 ^ 48) = .ok openLeaf
        ∧ homeOf { kind := openLeaf.kind, pa := openLeaf.pa + ((s.thread c.gk l).rd2 4#6).toNat % 2 ^ 48 % openLeaf.size, pub := 0 } ∉ s.removed := by
  intro p hp
  fin_cases hp <;> exact ⟨rfl, ready _ _ (fun c _ => (_ ∧ (_ → ∀ l ∈ c.path.lanes, _ = true)) ∧ ∀ l ∈ c.path.lanes, _ ∧ _ = none ∧ _ = Except.ok openLeaf ∧ _ ∉ _) (by decide)⟩
/-- DecodingLoad: elements of BF16 (FMT 2) and of FP32 (FMT 1) in a page without a region, the last with the scales of GEO 2. -/
theorem test_decoding_loads_are_ready : ∀ p ∈ [(Instr.ldf 8#6 4#6 false .q 1#10, Size.q, 1#10, 0x21F, 8), (.ldf 8#6 4#6 false .w 0x3FF#10, .w, 0x3FF#10, 0x11F, 4), (.ldf 8#6 4#6 false .q 1#10, .q, 1#10, 0x221F, 8)],
    let s := reg 63 4 0x1000#32 (reg 0 4 0x8000#32 (page p.2.2.2.1 (on p.1)))
    let f := leafOf p.2.2.2.1 0 (2 ^ 30)
    ∃ c s', PathReady p.1 s c s' ∧ Rules.mayIssue s c .read
      ∧ (ldfScales 4#6 p.2.1 p.2.2.1 s c = [] ∨ ((∀ l ∈ c.path.lanes, quiet s (s.thread c.gk l).ops = true) ∧ readable s (c.core / 96) (ldfScales 4#6 p.2.1 p.2.2.1 s c) = true))
      ∧ ∀ l ∈ c.path.lanes, l < 64 ∧ canonical ((s.thread c.gk l).rd2 4#6) = true ∧ lookup s c.core c.task.space (((s.thread c.gk l).rd2 4#6).toNat % 2 ^ 48) = .ok f
        ∧ f.kind ≠ 3 ∧ 1 ≤ f.fmt ∧ f.fmt < 8 ∧ f.r = true ∧ f.u = true ∧ f.sab = false ∧ f.geo < 3 ∧ f.region = 0
        ∧ (((s.thread c.gk l).rd2 4#6).toNat + p.2.2.2.2) % p.2.2.2.2 = 0 ∧ scaleAt s f (((s.thread c.gk l).rd2 4#6).toNat % 2 ^ 48) ≠ 255 := by
  unfold Rules.mayIssue
  intro p hp
  fin_cases hp <;> exact ready _ _ _ (by decide)
/-- AccessChecks: an address that is not canonical and a misaligned one, a page that may not be read, one without a translation, and a place beyond the scratchpad. -/
theorem test_access_checks_can_fail :
    let i := Instr.ld 8#6 4#6 false .w 0#10
    (let s := handled (reg 0 5 0x8000#32 (reg 63 4 2#32 (page 0x1F (on i))))
     ∃ c, Rules.Checked i s c ∧ ∀ l ∈ c.path.lanes, Rules.accessFails s c ((s.thread c.gk l).rd2 4#6) 4 .read = some (if l = 0 then .permission else .align))
    ∧ (let s := handled (on i)
       ∃ c, Rules.Checked i s c ∧ ∀ l ∈ c.path.lanes, Rules.accessFails s c ((s.thread c.gk l).rd2 4#6) 4 .read = some .permission)
    ∧ (let s := handled (reg 63 4 0x40000000#32 (page 0x1F (on i)))
       ∃ c, Rules.Checked i s c ∧ ∃ l ∈ c.path.lanes, Rules.accessFails s c ((s.thread c.gk l).rd2 4#6) 4 .read = none
        ∧ lookup s c.core c.task.space (((s.thread c.gk l).rd2 4#6).toNat % 2 ^ 48) = .error { malf := false, level := 1, stage := 0, va := 0x40000000#64 })
    ∧ (let s := reg 0 4 16384#32 (reg 63 4 1#32 (handled (on (.lds 8#6 4#6 false .w 0#10))))
       ∃ c, Rules.Checked (.lds 8#6 4#6 false .w 0#10) s c ∧ ∀ l ∈ c.path.lanes, 16384 * c.team.spadg < Rules.localAt .w 4#6 0#10 (s.thread c.gk l) + Rules.width .w
        ∨ Rules.localAt .w 4#6 0#10 (s.thread c.gk l) % Rules.width .w ≠ 0) :=
  ⟨checked _ _ _ (by decide +kernel), checked _ _ _ (by decide +kernel), checked _ _ _ (by decide +kernel), checked _ _ _ (by decide +kernel)⟩
/-- FencesAndWaits, BarriersArriveAndBind: b0 and b15, at CORE; FENCE of each scope. -/
theorem test_barrier_instructions_are_ready : ∀ p ∈ [(Instr.barw 0#4 .core, 0), (.barw 15#4 .core, 15), (.bari 15#4 .core 7#3, 15), (.bara 0#4 .core, 0), (.barab 15#4 .core 5#6 false, 15)],
    ∃ c s', PathReady p.1 (on p.1) c s' ∧ (c.team.bars.get p.2 Barrier.initial).net = .core ∧ (c.team.bars.get p.2 Barrier.initial).here.getLsbD c.group.gid = false
      ∧ (∀ l ∈ c.path.lanes, ((on p.1).thread c.gk l).arr.find p.2 = none) ∧ c.group.team = c.tk ∧ c.group.gid < 16
      ∧ (on p.1).sends = [] ∧ ∀ l < 64, ((on p.1).thread c.gk l).live = true → l ∈ c.path.lanes ∧ quiet (on p.1) ((on p.1).thread c.gk l).ops = true := by
  intro p hp
  fin_cases hp <;> exact ready _ _ _ (by decide)
theorem test_fences_are_ready : ∀ i ∈ [Instr.fence .core, .fence .quad, .fence .die, .fence .pkg, .fence .pod], ∃ c s', PathReady i (on i) c s' := readyAll _ (by decide)
/-- FencesAndWaits: a barrier bound to another network. -/
theorem test_a_barrier_of_another_network :
    let s := (handled (on (.barw 3#4 .die))).modTeam 0 (fun t => { t with bars := [(3, { Barrier.initial with n := 2 })] })
    ∃ c, Rules.Checked (.barw 3#4 .die) s c ∧ (c.team.bars.get 3 Barrier.initial).net ≠ .die :=
  checked _ _ _ (by decide +kernel)
/-- BarriersArriveAndBind: BARS to CORE with the largest N, and to POD. -/
theorem test_barrier_binding_is_ready : ∀ p ∈ [(Instr.bars 0#4 .core 5#6 false, Net.core, 0xFFFF#32, 0), (.bars 15#4 .pod 5#6 false, .pod, 0xFFFF0001#32, 15)],
    let s := reg 0 5 p.2.2.1 (on p.1)
    ∃ c s', PathReady p.1 s c s' ∧ 0 ∈ c.path.lanes ∧ (∀ l ∈ c.path.lanes, 0 ≤ l) ∧ (p.2.1 ≠ .pod → ((s.thread c.gk 0).rd 5#6).toNat < 2 ^ 16)
      ∧ ((c.team.bars.get p.2.2.2 Barrier.initial).net ≠ p.2.1 → barArr s c.team p.2.2.2 = 0 ∧ (c.team.bars.get p.2.2.2 Barrier.initial).pend = 0#48) := by
  intro p hp
  fin_cases hp <;> exact ready _ _ (fun c _ => 0 ∈ c.path.lanes ∧ (∀ l ∈ c.path.lanes, 0 ≤ l) ∧ (_ → _) ∧ (_ → _ ∧ _)) (by decide)
/-- CrossLane. -/
theorem test_cross_lane_operations_are_ready : ∀ i ∈ [Instr.xperm 3#6 1#6 2#6 false false, .xup 3#6 1#6 2#6 false false, .xdown 3#6 1#6 2#6 false false, .xxor 3#6 1#6 2#6 false false, .xstep 3#6 1#6 false,
      .xredadd 3#6 1#6 false, .xredmax 3#6 1#6 false, .xredmin 3#6 1#6 false, .xredand 3#6 1#6 false, .xredor 3#6 1#6 false, .xredfadd 3#6 1#6 false, .xredfmax 3#6 1#6 false,
      .xscanadd 3#6 1#6 false, .xbal 3#6 7#3, .xany 0#3 7#3, .xall 0#3 7#3],
    ∃ c s', PathReady i (on i) c s' := readyAll _ (by decide)
/-- SendToConsumers: every consumer without SA, the last scratchpad word with a barrier of b7, and SA alone. -/
theorem test_sends_are_ready :
    (let i := Instr.send 8#6 4#6 false false 29#5
     let s := reg 63 4 0x80003FFC#32 (on i)
     ∃ c s', PathReady i s c s' ∧ (∀ l ∈ c.path.lanes, l < 64 ∧ quiet s (s.thread c.gk l).ops = true) ∧ roomFor s (c.core / 96) c.path.lanes.length = true
      ∧ ∀ l ∈ c.path.lanes, ((s.thread c.gk l).rd 4#6).toNat / 2 ^ 28 ≤ 8 ∧ ((s.thread c.gk l).rd 4#6).toNat % 2 ^ 21 + 4 ≤ 16384 * c.team.spadg
        ∧ ((s.thread c.gk l).rd 4#6).toNat % 4 = 0 ∧ c.team.absent.find (((s.thread c.gk l).rd 4#6).toNat % 2 ^ 21 / 64) = none)
    ∧ (let i := Instr.send 8#6 4#6 false false 2#5
       ∃ c s', PathReady i (on i) c s' ∧ roomFor (on i) (c.core / 96) c.path.lanes.length = true
        ∧ ∀ l ∈ c.path.lanes, Rules.saLocal c.core (((on i).thread c.gk l).rd 4#6).toNat 1 [((on i).thread c.gk l).rd 8#6] = none
          ∧ (((on i).thread c.gk l).rd 4#6).toNat / 2 ^ 29 ∉ (on i).removed) :=
  ⟨ready _ _ (fun c _ => (∀ l ∈ c.path.lanes, _ ∧ _) ∧ _ ∧ ∀ l ∈ c.path.lanes, _ ∧ _ ∧ _ ∧ _ = none) (by decide),
    ready _ _ (fun c _ => _ ∧ ∀ l ∈ c.path.lanes, _ = none ∧ _ ∉ _) (by decide)⟩
/-- StreamRequests: the local checks pass, in a row of the core's quad and in one of the package. -/
theorem test_stream_requests_are_ready : ∀ i ∈ [Instr.saadd 4#6 8#6 false false, .saaddh 4#6 8#6 false false, .sard 9#6 4#6 true, .sardh 9#6 4#6 false, .sardq 9#6 4#6 false, .sawait 4#6 false, .sacnt 9#6 4#6 false],
    let s := reg 63 4 0xF0000000#32 (on i)
    ∃ c s', PathReady i s c s' ∧ (roomFor s (c.core / 96) c.path.lanes.length = true ∧ (Acc.write ≠ .read → ∀ l ∈ c.path.lanes, quiet s (s.thread c.gk l).ops = true))
      ∧ ∀ l ∈ c.path.lanes, l < 64 ∧ ((s.thread c.gk l).rd 4#6).toNat / 2 ^ 29 ∉ s.removed
        ∧ Rules.saLocal c.core ((s.thread c.gk l).rd 4#6).toNat 4 [(s.thread c.gk l).rd 8#6] = none := by
  intro i hi
  fin_cases hi <;> exact ready _ _ (fun c _ => (_ ∧ (_ → ∀ l ∈ c.path.lanes, _ = true)) ∧ ∀ l ∈ c.path.lanes, _ ∧ _ ∧ _ = none) (by decide)
/-- StreamRequests: SCOPE 3, another quad's row, a misaligned element and an infinite value. -/
theorem test_stream_checks_can_fail :
    Rules.saLocal 0 0x18000000 1 [] = some .saScope ∧ Rules.saLocal 4 0 1 [] = some .saScope ∧ Rules.saLocal 96 0x08000000 1 [] = some .saScope ∧ Rules.saLocal 0 1 2 [] = some .align
    ∧ Rules.saLocal 0 0 1 [0x7F800000#32] = some .saInvalid
    ∧ let s := handled (reg 0 4 3#32 (reg 63 4 1#32 (on (.sardh 9#6 4#6 false))))
      ∃ c, Rules.Checked (.sardh 9#6 4#6 false) s c ∧ ∀ l ∈ c.path.lanes, Rules.saLocal c.core ((s.thread c.gk l).rd 4#6).toNat 2 [] = some .align :=
  ⟨by decide, by decide, by decide, by decide, by decide, checked _ _ _ (by decide +kernel)⟩

/-! ## Witnesses: the lead -/

/-- LeadScalarsAndTransfers: every scalar row, and LEND. -/
theorem test_lead_scalars_are_ready : ∀ i ∈ [Instr.ladd 1#6 2#6 3#6, .lsub 1#6 2#6 3#6, .land 1#6 2#6 3#6, .lor 1#6 2#6 3#6, .lxor 1#6 2#6 3#6, .landn 1#6 2#6 3#6, .lshl 1#6 2#6 3#6, .lshr 1#6 2#6 3#6,
      .lsar 1#6 2#6 3#6, .lmin 1#6 2#6 3#6, .lmax 1#6 2#6 3#6, .lminu 1#6 2#6 3#6, .lmaxu 1#6 2#6 3#6, .lmul 1#6 2#6 3#6, .lmulh 1#6 2#6 3#6, .lmulhu 1#6 2#6 3#6, .lmov 1#6 2#6, .lnot 1#6 2#6,
      .lneg 1#6 2#6, .lclz 1#6 2#6, .lpopc 1#6 2#6, .lcmp 7#3 2#6 3#6 .tst, .lsel 1#6 2#6 3#6 0#3, .lpand 0#3 1#3 7#3, .lpor 0#3 1#3 7#3, .lpxor 0#3 1#3 7#3, .lpnot 0#3 7#3, .lmovi 1#6 0x400#11,
      .laddi 1#6 2#6 0x7FF#11, .landi 1#6 2#6 1#11, .lori 1#6 2#6 1#11, .lshli 1#6 2#6 63#6, .lshri 1#6 2#6 63#6, .lsari 1#6 2#6 63#6, .lshin 1#6 0x7FF#11, .lend],
    ∃ c s', LeadReady i 1 0 (on i) c s' := leadReadyAll _ (by decide)
/-- LeadScalarsAndTransfers: taken to a header, and not taken. -/
theorem test_lead_transfers_are_ready :
    (∀ p ∈ [(Instr.lbr 16#19, 16#19), (.lbr 0x7FFF0#19, 0x7FFF0#19), (.lbrn 7#3 16#19, 16#19)],
      let s := word 0xFFC0 header (word 0x10040 header (on p.1))
      ∃ c s', LeadReady p.1 1 0 s c s' ∧ checkTarget s c.core c.task.space c.task.priv (BitVec.ofInt 64 (c.team.lead.pc.toNat + 4 * p.2.toInt)) = .ok)
    ∧ ∃ c s', LeadReady (.lbrp 0#3 16#19) 1 0 (on (.lbrp 0#3 16#19)) c s' ∧ c.team.lead.pred 0#3 = false := by
  refine ⟨?_, leadReady _ _ _ _ (fun c _ => c.team.lead.pred 0#3 = false) (by decide)⟩
  intro p hp
  fin_cases hp <;> exact leadReady _ _ _ _ (fun c _ => _ = Target.ok) (by decide)
/-- LeadScalarsAndTransfers: a target that is no header. -/
theorem test_a_lead_target_can_fail :
    let s := on (.lbr 16#19)
    ∃ c, lctx s = some c ∧ c.team.lead.free = true
      ∧ Rules.targetFails s c.core c.task (BitVec.ofInt 64 (c.team.lead.pc.toNat + 4 * (16#19).toInt)) = some (.branchTarget, 0#64) :=
  ⟨_, rfl, by decide +kernel⟩
/-- LeadScalarsAndTransfers: LEND while lane 63 awaits entry 0, which is never made. -/
theorem test_lend_is_ready :
    let s := (on .lend).modThread 63 (fun th => { th with qpend := [(5, 0#16)] })
    ∃ c s', LeadReady .lend 1 0 s c s' ∧ Rules.noAtomic s c.tk c.team := by
  obtain ⟨c, s', h, _⟩ := leadReady .lend 1 0 ((on .lend).modThread 63 (fun th => { th with qpend := [(5, 0#16)] })) (fun _ _ => True) (by decide)
  exact ⟨c, s', h, fun _ th _ _ _ ho => nomatch (show (none : Option OpQ) = some _ from ho)⟩
/-- LeadReadsAndQueues: every special that a lead reads has a value. -/
theorem test_lead_specials_are_ready : ∀ n ∈ [0x02, 0x05, 0x06, 0x07, 0x08, 0x09, 0x0A, 0x0B, 0x10, 0x11, 0x12, 0x13, 0x14, 0x15],
    ∃ c s', LeadReady (.lsrd 1#6 0#6 (BitVec.ofNat 6 n)) 1 0 (on (.lsrd 1#6 0#6 (BitVec.ofNat 6 n))) c s' ∧ (Rules.r111lead s' c n).isSome = true := by
  intro n hn
  fin_cases hn <;> exact leadReady _ _ _ _ (fun c s' => (Rules.r111lead s' c _).isSome = true) (by decide)
/-- The two lanes' threads have read all, or all but the last, of the entries that the lead's queue holds. -/
def queueOf (n read : Nat) (s : State) : State :=
  ((s.modTeam 0 (fun t => { t with dq := (List.range n).map (fun k => BitVec.ofNat 64 k) })).modThread 0 (fun th => { th with qrd := BitVec.ofNat 16 read })).modThread 63
    (fun th => { th with qrd := BitVec.ofNat 16 read })
/-- LeadReadsAndQueues: QFREE and QSEND with 64 entries of which none is released, and QSEND with one released. -/
theorem test_lead_queue_is_ready :
    (∀ p ∈ [(Instr.lsrd 1#6 0#6 0x20#6, 1, 64, 0), (.qsend 2#6, 0, 64, 0), (.qsend 2#6, 1, 64, 1), (.qsend 2#6, 1, 0, 0)],
      let s := queueOf p.2.2.1 p.2.2.2 (on p.1)
      ∃ c s', LeadReady p.1 p.2.1 0 s c s' ∧ quiet s c.team.lead.ops = true ∧ c.team.dq.length = p.2.2.1 ∧ c.team.dq.length ≤ 64 ∧ p.2.2.2 ≤ c.team.dq.length)
    ∧ (let s := queueOf 64 1 (on (.qsend 2#6))
       ∀ e ∈ s.groups, e.2.team = 0 → (∀ l < 64, (s.thread e.1 l).live = true → 0 < ((s.thread e.1 l).qrd - 0#16).toNat ∧ ∀ q ∈ (s.thread e.1 l).qpend, q.2 ≠ 0#16 + BitVec.ofNat 16 0)
        ∧ ¬∀ l < 64, (s.thread e.1 l).live = true → 1 < ((s.thread e.1 l).qrd - 0#16).toNat) := by
  constructor
  · intro p hp
    fin_cases hp <;> exact leadReady _ _ _ _ (fun c _ => _ ∧ c.team.dq.length = _ ∧ c.team.dq.length ≤ 64 ∧ _ ≤ c.team.dq.length) (by decide)
  · decide
/-- LeadReadsAndQueues, CopyAndPublish, TaskCommands and the rest whose one hypothesis is a ready lead, at its first or last operand. -/
theorem test_lead_waits_are_ready : ∀ i ∈ [Instr.lbarw 0#4, .lbarw 15#4, .cpwait, .lbara 0#4, .lbara 15#4],
    ∃ c s', LeadReady i 1 0 (on i) c s' ∧ quiet (on i) c.team.lead.ops = true ∧ (c.team.bars.get 0 Barrier.initial).net = .core
      ∧ (c.team.bars.get 15 Barrier.initial).here.getLsbD 8 = false := by
  intro i hi
  fin_cases hi <;> exact leadReady _ _ _ _ (fun c _ => _ ∧ _ ∧ _) (by decide)
/-- LeadLoadsAndStores: at both ends of a page. -/
theorem test_lead_accesses_are_ready : ∀ p ∈ [(Instr.lld 5#6 4#6 .d 0#10, Acc.read, 8, 0x3FFFFFF8#64), (.lld 5#6 4#6 .sb 0#10, .read, 1, 0#64), (.lst 5#6 4#6 .h 0#10, .write, 2, 0x3FFFFFFE#64)],
    let s := sreg 4 p.2.2.2 (page 0x1F (on p.1))
    ∃ c s', LeadReady p.1 3 1 s c s' ∧ roomFor s (c.core / 96) 1 = true ∧ quiet s c.team.lead.ops = true ∧ (c.team.lead.reg 4#6).toNat % p.2.2.1 = 0
      ∧ lookup s c.core c.task.space ((c.team.lead.reg 4#6).toNat % 2 ^ 48) = .ok openLeaf ∧ Rules.refusedBy s c.task openLeaf p.2.1 p.2.2.1 = none
      ∧ homeOf { kind := openLeaf.kind, pa := openLeaf.pa + (c.team.lead.reg 4#6).toNat % 2 ^ 48 % openLeaf.size, pub := 0 } ∉ s.removed := by
  intro p hp
  fin_cases hp <;> exact leadReady _ _ _ _ (fun c _ => _ ∧ _ ∧ _ ∧ _ = Except.ok openLeaf ∧ _ = none ∧ _ ∉ _) (by decide)
/-- ArrayAndTableCommands: MCFG at both ends of AFMT, MSWAP, MWAIT, and MZERO of the last accumulator row. -/
theorem test_array_commands_are_ready :
    (∀ p ∈ [(Instr.mcfg 1#6, 2#64), (.mcfg 1#6, 4#64), (.mswap, 0#64), (.mwait, 0#64)],
      ∃ c s', LeadReady p.1 1 0 (sreg 1 p.2 (on p.1)) c s' ∧ c.team.accg ≠ 0 ∧ arrayHolder (sreg 1 p.2 (on p.1)) c.core = none ∧ (c.team.lead.reg 1#6) = p.2)
    ∧ (let s := sreg 2 1#64 (sreg 1 3968#64 (on (.mzero 1#6 2#6)))
       ∃ c s', LeadReady (.mzero 1#6 2#6) 1 0 s c s' ∧ c.team.accg ≠ 0 ∧ arrayHolder s c.core = none ∧ quiet s c.team.lead.ops = true ∧ 1 ≤ (c.team.lead.reg 2#6).toNat ∧ (c.team.lead.reg 2#6).toNat ≤ 4096
        ∧ (c.team.lead.reg 1#6).toNat % 128 = 0 ∧ (c.team.lead.reg 1#6).toNat + 128 * (c.team.lead.reg 2#6).toNat ≤ 4096 * c.team.accg) := by
  constructor
  · intro p hp
    fin_cases hp <;> exact leadReady _ _ _ _ (fun c _ => c.team.accg ≠ 0 ∧ _ = none ∧ _ = _) (by decide)
  · exact leadReady _ _ _ _ _ (by decide)
/-- ArrayAndTableCommands: MSTRM of one row of INT8 by the active set of two planes, with the largest addresses. -/
theorem test_mstrm_is_ready :
    let i := Instr.mstrm 1#6 2#6 3#6
    let a : ArraySt := { ArraySt.initial with holder := some 1, active := { p := 2, region := 5, terms := [] } }
    let s := (sreg 3 1#64 (sreg 2 16256#64 (sreg 1 3968#64 (on i)))).modCore 0 (fun k => { k with array := a })
    ∃ c s', LeadReady i 128 0 s c s' ∧ 64 * (c.team.lead.reg 3#6).toNat * (Rules.arrayAhead s c).active.p = 128 ∧ arrayHolder s c.core = some c.team.uid ∧ quiet s c.team.lead.ops = true
      ∧ (Rules.arrayAhead s c).active.p ≠ 0 ∧ (Rules.arrayAhead s c).afmt ≠ 2 ∧ (c.team.lead.reg 1#6).toNat % 128 = 0
      ∧ (c.team.lead.reg 1#6).toNat + 128 * (c.team.lead.reg 3#6).toNat ≤ 4096 * c.team.accg
      ∧ (c.team.lead.reg 2#6).toNat + 128 * (c.team.lead.reg 3#6).toNat ≤ 16384 * c.team.spadg :=
  leadReady _ _ _ _ _ (by decide)
/-- ArrayAndTableCommands: MLDW of an INT8 tile (FMT 5), with a smoothing vector at the end of the scratchpad; TLOAD and TSWAP. -/
theorem test_loads_of_the_engines_are_ready :
    (let i := Instr.mldw 1#6 2#6
     let s := sreg 2 16256#64 (sreg 1 0x4000#64 (page 0x51F (on i)))
     let f := leafOf 0x51F 0 (2 ^ 30)
     ∃ c s', LeadReady i 256 256 s c s' ∧ c.team.accg ≠ 0 ∧ arrayHolder s c.core = none ∧ quiet s c.team.lead.ops = true
      ∧ lookup s c.core c.task.space ((c.team.lead.reg 1#6).toNat % 2 ^ 48) = .ok f ∧ f.r = true ∧ f.u = true ∧ f.kind ≠ 3 ∧ f.sab = false ∧ f.region = 0
      ∧ homeOf (f.loc ((c.team.lead.reg 1#6).toNat % 2 ^ 48)) ∉ s.removed ∧ 2 ≤ f.fmt ∧ f.fmt ≤ 7 ∧ f.geo < 3 ∧ (c.team.lead.reg 1#6).toNat % 16384 = 0
      ∧ (c.team.lead.reg 2#6).toNat + 128 ≤ 16384 * c.team.spadg)
    ∧ (let i := Instr.tload 1#6
       let s := sreg 1 0x3FFFEFC0#64 (page 0x1F (on i))
       ∃ c s', LeadReady i 64 0 s c s' ∧ (c.team.lead.reg 1#6).toNat % 64 = 0 ∧ quiet s c.team.lead.ops = true
        ∧ spanAccess s c.core c.task (c.team.lead.reg 1#6) 4160 (fun l => Rules.refusedBy s c.task l .read 4160)
          = .ok [(Seg.mk 0x3FFFEFC0 4160 (Loc.mk 0 0x3FFFEFC0 0), openLeaf)])
    ∧ ∃ c s', LeadReady .tswap 1 0 (on .tswap) c s' ∧ c.team.tloads = [] ∧ c.team.uid ∉ (on .tswap).fresh.swaps := by
  exact ⟨leadReady _ _ _ _ (fun c _ => c.team.accg ≠ 0 ∧ _ = none ∧ _ ∧ _ = Except.ok _ ∧ _ ∧ _ ∧ _ ∧ _ ∧ _ ∧ _ ∧ _ ∧ _ ∧ _ ∧ _ ∧ _) (by decide),
    leadReady _ _ _ _ (fun c _ => _ ∧ _ ∧ _ = Except.ok _) (by decide),
    leadReady _ _ _ _ _ (by decide)⟩

/-- CopyAndPublish: the copies whose plan the checks give: CPYIN by register and by immediate, multicast to the last core of the quad, and of no bytes; CPYOUT at the end of the scratchpad. -/
theorem test_copies_are_ready :
    (∀ p ∈ [(Instr.cpyin 1#6 2#6 4#6 false false 0#3, 16, 0#64, 5), (.cpyin 1#6 2#6 0#6 true true 7#3, 16, 0#64, 5), (.cpyin 1#6 2#6 4#6 false false 0#3, 16, 8#64, 5), (.cpyin 1#6 2#6 4#6 false false 0#3, 0, 0#64, 4)],
      let s := sreg 5 p.2.2.1 (sreg 4 (BitVec.ofNat 64 p.2.1) (sreg 2 0x3FFFFFF0#64 (sreg 1 16368#64 (page 0x1F (on p.1)))))
      ∃ c s', LeadReady p.1 p.2.2.2 (p.2.2.2 - 4) s c s' ∧ quiet s c.team.lead.ops = true ∧ (c.team.bars.get 0 Barrier.initial).net = .core ∧ (c.team.bars.get 7 Barrier.initial).net = .core
        ∧ (c.team.lead.reg 1#6).toNat + p.2.1 ≤ 16384 * c.team.spadg ∧ (c.team.lead.reg 5#6).toNat < 16
        ∧ copyRange s c .read (c.team.lead.reg 2#6) p.2.1 = .ok (if p.2.1 = 0 then [] else [(Seg.mk 0x3FFFFFF0 16 (Loc.mk 0 0x3FFFFFF0 0), openLeaf)]))
    ∧ (let s := sreg 4 16#64 (sreg 1 0x3FFFFFF0#64 (sreg 2 16368#64 (page 0x1F (on (.cpyout 1#6 2#6 4#6 false false 1#3)))))
       ∃ c s', LeadReady (.cpyout 1#6 2#6 4#6 false false 1#3) 5 1 s c s' ∧ quiet s c.team.lead.ops = true ∧ (c.team.lead.reg 2#6).toNat + 16 ≤ 16384 * c.team.spadg
        ∧ copyRange s c .write (c.team.lead.reg 1#6) 16 = .ok [(Seg.mk 0x3FFFFFF0 16 (Loc.mk 0 0x3FFFFFF0 0), openLeaf)]) := by
  constructor
  · intro p hp
    fin_cases hp <;> exact leadReady _ _ _ _ (fun c _ => _ ∧ _ ∧ _ ∧ _ ∧ _ ∧ _ = Except.ok _) (by decide)
  · exact leadReady _ _ _ _ (fun c _ => _ ∧ _ ∧ _ = Except.ok _) (by decide)
/-- CopyAndPublish: CPYG and GATH of two rows of 4 bytes, GATH to the scratchpad and, with bit 63, to global memory, the last with ARV at a barrier where the lead has arrived. -/
theorem test_copies_of_rows_are_ready : ∀ p ∈ [(Instr.cpyg 1#6 2#6 4#6 false 0#3, 0x0001000008000010#64, 0x200#64), (.gath 1#6 2#6 4#6 false 0#3, 0x0008000000000010#64, 16376#64),
      (.gath 1#6 2#6 4#6 true 7#3, 0x8008000000000010#64, 0x200#64)],
    let s := (sreg 5 p.2.1 (sreg 4 4#64 (sreg 2 0x100#64 (sreg 1 p.2.2 (page 0x1F (on p.1)))))).modTeam 0 (fun t => { t with bars := [(7, { Barrier.initial with here := 0x100#16 })], spad := [(4, 1#8)] })
    ∃ c s', LeadReady p.1 5 1 s c s' ∧ quiet s c.team.lead.ops = true ∧ (c.team.bars.get 0 Barrier.initial).net = .core ∧ (c.team.bars.get 7 Barrier.initial).here.getLsbD 8 = true
      ∧ copyRows s c .read 4 [0x100#64, 0x110#64] = .ok [(Seg.mk 0x100 4 (Loc.mk 0 0x100 0), openLeaf), (Seg.mk 0x110 4 (Loc.mk 0 0x110 0), openLeaf)]
      ∧ (c.team.lead.reg 5#6).toNat / 2 ^ 48 % 8 ≤ 1 ∧ (∀ e ∈ c.team.absent, False) := by
  intro p hp
  fin_cases hp <;> exact leadReady _ _ _ _ (fun c _ => _ ∧ _ ∧ _ ∧ _ = Except.ok _ ∧ _ ∧ ∀ e ∈ c.team.absent, False) (by decide)
/-- CopyAndPublish: PUBL of a buffer with PUB set. -/
theorem test_publ_is_ready :
    let i := Instr.publ 1#6
    let s := sreg 1 0x3FFFFFFF#64 (page 0x3F (on i))
    let f := leafOf 0x3F 0 (2 ^ 30)
    ∃ c s', LeadReady i 16 0 s c s' ∧ quiet s c.team.lead.ops = true ∧ lookup s c.core c.task.space ((c.team.lead.reg 1#6).toNat % 2 ^ 48) = .ok f ∧ f.w = true ∧ f.u = true ∧ f.kind ≠ 3
      ∧ f.pub = true ∧ homeOf (f.loc ((c.team.lead.reg 1#6).toNat % 2 ^ 48)) ∉ s.removed :=
  leadReady _ _ _ _ (fun c _ => _ ∧ _ = Except.ok _ ∧ _ ∧ _ ∧ _ ∧ _ ∧ _ ∉ _) (by decide)
/-- A row of two elements at CORE-quad scope. -/
def aRow : Row := Row.mk 2 0 0 1 0#32 [] 4 0 0#128 0 [(0, 5#64)] none false
/-- StreamCommandsAndRows: the commands on rows, of the first row of core 0's quad and of another, and an image in a page with SAB set. -/
theorem test_stream_commands_are_ready :
    (∀ p ∈ [(Instr.saopen 1#6 2#6, 1#64), (.saopen 1#6 2#6, 0xFFFFFFFF#64), (.saclr 1#6, 0#64), (.safree 1#6, 0#64)],
      ∃ c s', LeadReady p.1 4 0 (sreg 2 p.2 (sreg 1 0xF0000000#64 (on p.1))) c s' ∧ (roomFor (sreg 2 p.2 (sreg 1 0xF0000000#64 (on p.1))) (c.core / 96) 1 = true ∧ quiet (sreg 2 p.2 (sreg 1 0xF0000000#64 (on p.1))) c.team.lead.ops = true)
        ∧ Rules.rowOf (c.team.lead.reg 1#6) 122880 7 ∧ 7 ∉ (sreg 2 p.2 (sreg 1 0xF0000000#64 (on p.1))).removed)
    ∧ (let i := Instr.samerge 1#6 2#6
       let s : State := { sreg 2 0x8000#64 (on i) with rows := [(0, aRow), (1, aRow)] }
       ∃ c s', LeadReady i 8 8 s c s' ∧ (roomFor s (c.core / 96) 1 = true ∧ quiet s c.team.lead.ops = true) ∧ Rules.rowOf (c.team.lead.reg 2#6) 1 0 ∧ Rules.rowOf (c.team.lead.reg 1#6) 0 0
        ∧ s.rows.find 1 = some aRow ∧ s.rows.find 0 = some aRow)
    ∧ (let i := Instr.saevict 1#6 2#6
       let s : State := { sreg 1 0x1000#64 (page 0x5F (on i)) with rows := [(0, aRow)] }
       ∃ c s', LeadReady i 5 5 s c s' ∧ (roomFor s (c.core / 96) 1 = true ∧ quiet s c.team.lead.ops = true) ∧ Rules.rowOf (c.team.lead.reg 2#6) 0 0 ∧ s.rows.find 0 = some aRow
        ∧ (∀ e ∈ aRow.q, -(2 ^ 31) < e.2.toInt ∧ e.2.toInt < 2 ^ 31) ∧ (c.team.lead.reg 1#6).toNat % 64 = 0
        ∧ spanAccess s c.core c.task (c.team.lead.reg 1#6) 72 (sabTrap s c.task true) = .ok [(Seg.mk 0x1000 72 (Loc.mk 0 0x1000 0), leafOf 0x5F 0 (2 ^ 30))]) := by
  refine ⟨?_, leadReady _ _ _ _ (fun c _ => (_ ∧ _) ∧ (_ ∧ _ ∧ _ ∧ _ ∧ _) ∧ (_ ∧ _ ∧ _ ∧ _ ∧ _) ∧ _ = some _ ∧ _ = some _) (by decide),
    leadReady _ _ _ _ (fun c _ => (_ ∧ _) ∧ (_ ∧ _ ∧ _ ∧ _ ∧ _) ∧ _ = some _ ∧ (∀ e ∈ aRow.q, _ ∧ _) ∧ _ ∧ _ = Except.ok _) (by decide)⟩
  intro p hp
  fin_cases hp <;> exact leadReady _ _ _ _ (fun c _ => (_ ∧ _) ∧ (_ ∧ _ ∧ _ ∧ _ ∧ _) ∧ _ ∉ _) (by decide)

theorem found {α : Type} (o : Option α) (P : α → Prop) [DecidablePred P] (h : (match o with | some x => decide (P x) | none => false) = true) : ∃ x, o = some x ∧ P x := by
  cases o with
  | none => cases h
  | some x => exact ⟨x, rfl, of_decide_eq_true h⟩
/-- Bytes that hold a number, in memory. -/
def stored (a n v : Nat) (s : State) : State := { s with far := Memory.setNat s.far a n v }
/-- StreamCommandsAndRows: the smallest and the largest specification that SAALLOC takes. -/
theorem test_saalloc_is_ready : ∀ spec ∈ [1 + 2 ^ 32 + 2 ^ 96, 32768 + 0x80 * 2 ^ 16 + 2 * 2 ^ 24 + 3 * 2 ^ 32 + 0x80000000 * 2 ^ 64 + (2 ^ 32 - 1) * 2 ^ 96],
    let i := Instr.saalloc 1#6 2#6
    let s := stored 0x1008 32 spec (sreg 2 0x1008#64 (page 0x1F (on i)))
    let ps := [(Seg.mk 0x1008 32 (Loc.mk 0 0x1008 0), openLeaf)]
    (spec / 2 ^ 40 % 2 ^ 24 = 0 ∧ spec / 2 ^ 192 % 2 ^ 64 = 0 ∧ 1 ≤ spec % 2 ^ 16 ∧ spec % 2 ^ 16 ≤ 32768 ∧ spec / 2 ^ 24 % 2 ^ 8 ≤ 2 ∧ spec / 2 ^ 96 % 2 ^ 32 ≠ 0
      ∧ 1 ≤ spec / 2 ^ 32 % 2 ^ 8 ∧ spec / 2 ^ 32 % 2 ^ 8 ≤ 3 ∧ (spec / 2 ^ 64 % 2 ^ 32 < 0x7F800000 ∨ spec / 2 ^ 64 % 2 ^ 32 = 0x80000000))
    ∧ ∃ c s', LeadReady i 16 0 s c s' ∧ (c.team.lead.reg 2#6).toNat % 8 = 0
      ∧ spanAccess s c.core c.task (c.team.lead.reg 2#6) 32 (fun l => Rules.refusedBy s c.task l .read 32) = .ok ps
      ∧ readable s (c.core / 96) (segLocs (ps.map Prod.fst)) = true ∧ quiet s c.team.lead.ops = true ∧ Rules.leNat (readSegs s (ps.map Prod.fst)) = spec
      ∧ gainPlan s c (BitVec.ofNat 64 (spec / 2 ^ 128)) (spec % 2 ^ 16) = .ok [] := by
  intro spec hs
  fin_cases hs <;> exact ⟨by decide, leadReady _ _ _ _ (fun c _ => _ ∧ _ = Except.ok [(_, openLeaf)] ∧ _ ∧ _ ∧ _ ∧ gainPlan _ c _ _ = .ok []) (by decide +kernel)⟩
/-- StreamCommandsAndRows: SALOAD of an image of one element. -/
theorem test_saload_is_ready :
    let i := Instr.saload 1#6 2#6
    let s := stored 0x1000 64 (1 + 1 * 2 ^ 16 + 1 * 2 ^ 48 + 1 * 2 ^ 96) (sreg 2 0x1000#64 (page 0x5F (on i)))
    ∃ c s', LeadReady i 5 5 s c s' ∧ ∃ h, loadPlan s c 2#6 = .ok ([Seg.mk 0x1000 72 (Loc.mk 0 0x1000 0)], h) ∧ (headerBytes (natOfBytes h) + 15) / 16 = 5 := by
  intro i s
  obtain ⟨c, s', h, h'⟩ := leadReady i 5 5 s (fun c _ => loadPlan s c 2#6 = .ok ([Seg.mk 0x1000 72 (Loc.mk 0 0x1000 0)], bytesOfNat 64 (1 + 1 * 2 ^ 16 + 1 * 2 ^ 48 + 1 * 2 ^ 96))) (by decide +kernel)
  exact ⟨c, s', h, _, h', by decide⟩
/-- A child of the task, with a handle in s2 and a number in s3. -/
def withChild (st : TaskState) (n : DWord) (s : State) : State :=
  sreg 3 n (sreg 2 0x10005#64 { s with tasks := s.tasks.put 5 { probeTask with state := st, parent := some 0, pool := 7 } })
/-- TaskCommands: a child's handle; amounts that the child can take and cannot. -/
theorem test_task_commands_are_ready :
    (∀ i ∈ [Instr.join 4#6 2#6, .tstat 62#6 2#6, .alwrd 63#6 2#6, .unwind 2#6],
      let s := withChild .completed 0#64 (on i)
      (Rules.r308 i).isSome = true ∧ ∃ c s', LeadReady i 4 0 s c s' ∧ (c.team.lead.reg 2#6).toNat = (0x10005#32).toNat ∧ 5 = (0x10005#32).toNat % 2 ^ 16
        ∧ (∃ x, s.tasks.find 5 = some x ∧ x.parent = some c.team.task ∧ x.gen.toNat = (0x10005#32).toNat / 2 ^ 16))
    ∧ ∀ p ∈ [(TaskState.starved, 4092#64), (.running, 0#64), (.unwinding, 1#64), (.failed, 1#64)],
      let s := withChild p.1 p.2 (on (.alwadd 1#6 2#6 3#6))
      ∃ c s', LeadReady (.alwadd 1#6 2#6 3#6) (4 + p.2.toNat) 0 s c s' ∧ c.team.lead.reg 3#6 = p.2 ∧ s.tasks.find 5 = some { probeTask with state := p.1, parent := some 0, pool := 7 }
        ∧ SMap.get s.fresh.units 5 0 ≤ 1 := by
  constructor
  · intro i hi
    have key : ∀ i ∈ [Instr.join 4#6 2#6, .tstat 62#6 2#6, .alwrd 63#6 2#6, .unwind 2#6], (Rules.r308 i).isSome = true ∧
        ∃ c s', LeadReady i 4 0 (withChild .completed 0#64 (on i)) c s' ∧ c.team.lead.reg 2#6 = 0x10005#64 ∧ c.team.task = 0
          ∧ (withChild .completed 0#64 (on i)).tasks.find 5 = some { probeTask with state := .completed, parent := some 0, pool := 7 } := by
      intro i hi
      fin_cases hi <;> exact ⟨rfl, leadReady _ _ _ _ (fun c _ => c.team.lead.reg 2#6 = _ ∧ c.team.task = 0 ∧ _ = some _) (by decide)⟩
    obtain ⟨h0, c, s', h1, h2, h3, h4⟩ := key i hi
    exact ⟨h0, c, s', h1, by rw [h2]; rfl, rfl, _, h4, by rw [h3], rfl⟩
  · intro p hp
    fin_cases hp <;> exact leadReady _ _ _ _ _ (by decide)
/-- TaskCommands: a register that names a task that is no child, and one that holds more than a handle. -/
theorem test_no_child_is_named : ∀ v ∈ [0x10000#64, 0x100010005#64],
    let s := sreg 2 v (withChild .running 0#64 (on (.tstat 62#6 2#6)))
    ∃ c, lctx s = some c ∧ c.team.lead.free = true ∧ (∀ r ∈ (Instr.tstat 62#6 2#6).lsrcs, c.team.lead.full r = true)
      ∧ (∀ r ∈ (Instr.tstat 62#6 2#6).ldsts, c.team.lead.full r = true) ∧ ∀ h k x, ¬Rules.namesChild s c 2#6 h k x := by
  intro v hv
  unfold Rules.namesChild
  fin_cases hv
  · refine ⟨_, rfl, rfl, by decide, by decide, ?_⟩
    rintro h k x ⟨h1, h2, h3, h4, -⟩
    obtain rfl : k = 0 := by rw [h2, ← h1]; decide
    obtain rfl := Option.some.inj (show some probeTask = some x from h3)
    exact nomatch (show (none : Option Nat) = some _ from h4)
  · refine ⟨_, rfl, rfl, by decide, by decide, ?_⟩
    rintro h k x ⟨h1, -⟩
    have h1 : 0x100010005 = h.toNat := h1
    have := h.isLt
    omega
/-- A queue 0 whose control block stands at 0x100000, with four slots, a code object of the pages 1 and 2, and the descriptor of `probeTask` at 0x3000. -/
def withQueue (wr head : Nat) (s : State) : State :=
  let s : State := { s with queues := [(0, { Queue.initial with block := some (Place.mk 0 0x100000), opened := true, enabled := true })],
                            plat := { s.plat with codeObjs := [(0, CodeObj.mk 0#512 0 1 2)] }, leases := [(0, { bal := 4160, req := none, paid := [] })] }
  stored 0x3000 64 (natOfBytes probeDesc) (stored 0x100028 1 2 (stored 0x100020 8 0x120000 (stored 0x100018 1 2 (stored 0x100010 8 0x110000 (stored 0x100008 8 head (stored 0x100000 8 wr s))))))
/-- SpawnsAreAdmitted: a queue with room and a full one, and a placement out of range. -/
theorem test_spawns_are_ready :
    (∀ i ∈ [Instr.spawn 1#6 2#6 3#6, .spawnW 1#6 2#6 3#6], ∀ p ∈ [(3, 0, 0#64), (4, 0, 0#64)],
      let s := sreg 3 p.2.2 (sreg 2 0x3000#64 (withQueue p.1 p.2.1 (page 0x1F (on i))))
      let ps := [(Seg.mk 0x3000 64 (Loc.mk 0 0x3000 0), openLeaf)]
      ∃ c s', LeadReady i 4160 0 s c s' ∧ c.core < 768 ∧ (c.team.lead.reg 2#6).toNat % 64 = 0
        ∧ spanAccess s c.core c.task (c.team.lead.reg 2#6) 64 (fun l => Rules.refusedBy s c.task l .read 64) = .ok ps
        ∧ readable s (c.core / 96) (segLocs (ps.map Prod.fst)) = true ∧ quiet s c.team.lead.ops = true
        ∧ 64 + natOfBytes (readSegs s (ps.map Prod.fst)) / 2 ^ 64 % 2 ^ 64 = 4160)
    ∧ (let s := withQueue 3 0 (page 0x1F (on (.spawn 1#6 2#6 3#6)))
       descOk s 0 probeDesc 0#64 = true ∧ (openRing s 0).isSome = true ∧ (openRing State.reset 0).isSome = false) := by
  constructor
  · intro i hi p hp
    fin_cases hi <;> fin_cases hp <;> exact leadReady _ _ _ _ (fun c _ => _ ∧ _ ∧ _ = Except.ok _ ∧ _ ∧ _ ∧ _) (by decide +kernel)
  · decide +kernel

/-! ## Witnesses: the steps without an encoding

`base` is the state of `on` with a lead and a group of two lanes; each witness changes what its clause speaks of. -/

def base : State := { on .nop with cur := .none }
def team (f : Team → Team) : State := base.modTeam 0 f
def leadWaits (w : LWait) : State := base.modLead 0 (fun l => { l with wait := w })
/-- WaitsEnd: MWAIT and CPWAIT, with a command that was issued afterwards still there. -/
theorem test_engine_waits_end :
    (∃ tm, ((leadWaits (.mwait 5)).modTeam 0 (fun t => { t with mats := [MatCmd.mk 5 .mswap 0 (CmdAt.mk 0#64 0#32 1)] })).teams.find 0 = some tm ∧ tm.lead.wait = .mwait 5 ∧ ∀ m ∈ tm.mats, 5 ≤ m.id)
    ∧ ∃ tm, (leadWaits (.cpwait 5)).teams.find 0 = some tm ∧ tm.lead.wait = .cpwait 5 ∧ ∀ e ∈ (leadWaits (.cpwait 5)).copies, e.2.uid = tm.uid → 5 ≤ e.1 :=
  ⟨found _ (fun (tm : Team) => tm.lead.wait = _ ∧ ∀ m ∈ tm.mats, 5 ≤ m.id) (by decide), found _ (fun (tm : Team) => tm.lead.wait = _ ∧ ∀ e ∈ (leadWaits (.cpwait 5)).copies, e.2.uid = tm.uid → 5 ≤ e.1) (by decide)⟩
/-- A barrier b15 in phase 1 (R133). -/
def phase1 (t : Team) : Team := { t with bars := [(15, { Barrier.initial with phase := true })] }
/-- A path of lane 63 parked beside the running path, with a wait. -/
def parkedPath (w : PWait) : Machine.Path := Machine.Path.mk 0 [63] { pc := 0x10040#64, remain := 3, cls := .int, y := false, rep := none, repFrom := none } w
def withParked (w : PWait) (s : State) : State := s.modGroup 0 (fun g => { g with parked := [parkedPath w] })
/-- WaitsEnd: a lead and a path wait at b15, whose phase has moved on; SLEEP until now. -/
theorem test_barrier_and_sleep_waits_end :
    (∃ tm, ((leadWaits (.barw 15)).modTeam 0 phase1).teams.find 0 = some tm ∧ tm.lead.wait = .barw 15 ∧ Rules.seenPhase base tm 15 ≠ tm.lead.waitb.getLsbD 15)
    ∧ (∃ g, (withParked (.barw 15 [63]) (team phase1)).groups.find 0 = some g ∧ g.team = 0 ∧ ∃ p ∈ g.parked, (Rules.waitsAt p).isSome = true)
    ∧ ∃ g, (withParked (.sleep 0) base).groups.find 0 = some g ∧ ∃ p ∈ g.parked, p.wait = .sleep 0 ∧ (base.time - BitVec.ofNat 48 0).toNat < 2 ^ 47 :=
  ⟨found _ (fun (tm : Team) => tm.lead.wait = _ ∧ _ ≠ _) (by decide), found _ (fun (g : Machine.Group) => g.team = 0 ∧ ∃ p ∈ g.parked, _ = true) (by decide), found _ (fun (g : Machine.Group) => ∃ p ∈ g.parked, p.wait = _ ∧ _) (by decide)⟩
/-- WaitsEnd: QSEND waits, one of 64 entries having been read by every lane. -/
theorem test_qsend_wait_ends :
    let s := queueOf 64 1 (leadWaits (.qsend 7))
    ∃ c, lctxOf s 0 = some c ∧ c.team.lead.wait = .qsend 7 ∧ c.team.dq.length - 1 < 64 ∧ c.team.lead.halted = false ∧ c.team.dq.length ≤ 64
      ∧ (charge (Rules.holds s c 1 (c.team.dq.drop 1) c.team.qsent) c.core c.team.task c.payer 1 0).1 = true :=
  found _ (fun (c : LCtx) => c.team.lead.wait = _ ∧ c.team.dq.length - 1 < 64 ∧ c.team.lead.halted = false ∧ c.team.dq.length ≤ 64 ∧ _ = true) (by decide)
/-- WaitsEnd: a pair that awaits the second of two entries; results on their way, two of them to different registers. -/
def awaiting (s : State) : State :=
  ((queueOf 2 2 s).modThread 63 (fun th => { th with qpend := [(62, 1#16)], pend := [{ id := 1, dst := [4], val := none }, { id := 2, dst := [6, 7], val := some [1#32, 2#32] }] })).modLead 0
    (fun l => { l with pend := [(1, 4, none), (2, 5, some 9#64)] })
theorem test_results_arrive :
    (∃ th, (awaiting base).threads.find 63 = some th ∧ th.qpend = [(62, 1#16)] ∧ th.pend = [{ id := 1, dst := [4], val := none }] ++ { id := 2, dst := [6, 7], val := some [1#32, 2#32] } :: []
        ∧ ∀ e ∈ [Pend.mk 1 [4] none], ∀ n ∈ e.dst, n ∉ [6, 7])
    ∧ ∃ tm, (awaiting base).teams.find 0 = some tm ∧ tm.dq[((1#16 : BitVec 16) - tm.dqFirst).toNat]? = some 1#64 ∧ (tm.uid, 1#16) ∉ (awaiting base).fresh.entries
        ∧ (awaiting base).opqs = [] ∧ tm.lead.pend = [(1, 4, none)] ++ (2, 5, some 9#64) :: [] :=
  ⟨found _ (fun (th : Thread) => th.qpend = _ ∧ th.pend = _ ∧ ∀ e ∈ [Pend.mk 1 [4] none], ∀ n ∈ e.dst, n ∉ [6, 7]) (by decide), found _ (fun (tm : Team) => _ = some _ ∧ _ ∉ _ ∧ _ = _ ∧ tm.lead.pend = _) (by decide)⟩
/-- WaitsEnd: a lead whose team has no group left, in a SPAWN.W. -/
theorem test_lead_stop :
    let s : State := { leadWaits (.spawnW [] 0#64 3 100 0) with groups := [], threads := [] }
    ∃ tm, s.teams.find 0 = some tm ∧ (∀ e ∈ s.groups, e.2.team ≠ 0) ∧ tm.lead.ended = false ∧ tm.lead.stopped = false ∧ tm.uid ∉ s.fresh.retired :=
  found _ (fun (tm : Team) => (∀ e ∈ _, _ ≠ 0) ∧ tm.lead.ended = false ∧ tm.lead.stopped = false ∧ tm.uid ∉ base.fresh.retired) (by decide)

/-- The running path, or the lead, at a header. -/
def atWord (w : Word) (s : State) : State := word 0x10000 w (atPos (fun p => { p with remain := 0 }) (s.modLead 0 (fun l => { l with remain := 0 })))
/-- HeadersIssue: a word with N = 0, a header of class LEAD for a path, one whose WAIT names b7 in phase 0, one that every lane meets, and the last of a STARVED task. -/
theorem test_headers_of_paths :
    (let s := atWord 0xFC000000#32 (handled { base with cur := .group 0 })
     ¬Rules.serves 0xFC000000#32 ∧ ∃ c, gctx s = some c ∧ c.path.pos.remain = 0 ∧ c.path.lanes ≠ [] ∧ fetch s c.core c.task.space c.task.priv c.path.pos.pc = .word 0xFC000000#32
      ∧ descHv c.task.desc = true ∧ ∀ l ∈ c.path.lanes, (s.thread c.gk l).trapMode = false)
    ∧ (Rules.serves 0xFC620000#32 ∧ Rules.classAt 0xFC620000#32 .lead)
    ∧ (let s := atWord 0xFC420000#32 { base with cur := .group 0 }
       Rules.serves 0xFC420000#32 ∧ ¬Rules.classAt 0xFC420000#32 .lead ∧ ∃ c, gctx s = some c ∧ c.path.pos.remain = 0
        ∧ fetch s c.core c.task.space c.task.priv c.path.pos.pc = .word 0xFC420000#32 ∧ ∀ l ∈ c.path.lanes, ¬Rules.awaitedMet s 0xFC420000#32 c.team (s.thread c.gk l).waitb)
    ∧ (let s := withParked .none (atWord 0xFC500200#32 { (base.modThread 63 (fun th => { th with live := true })) with cur := .group 0 })
       let s := s.modGroup 0 (fun g => { g with running := g.running.map (fun p => { p with lanes := [0] }) })
       Rules.serves 0xFC500200#32 ∧ Rules.classAt 0xFC500200#32 .mem ∧ ∃ c, gctx s = some c ∧ c.path.pos.remain = 0 ∧ c.path.lanes ≠ [] ∧ c.team.swap = none ∧ c.task.state ≠ .starved
        ∧ fetch s c.core c.task.space c.task.priv c.path.pos.pc = .word 0xFC500200#32 ∧ (∀ q ∈ c.group.parked, ∀ l ∈ q.lanes, l ∉ c.path.lanes)
        ∧ ∀ l ∈ c.path.lanes, Rules.awaitedMet s 0xFC500200#32 c.team (s.thread c.gk l).waitb ∧ opsOf s (s.thread c.gk l).ops = [] ∧ (s.thread c.gk l).ops ∉ s.fresh.stores
          ∧ s.sends = [] ∧ s.fresh.sends = [])
    ∧ let s := (atWord 0xFC500200#32 { base with cur := .group 0 }).modTask 0 (fun k => { k with state := .starved })
      ∃ c, gctx s = some c ∧ c.path.pos.remain = 0 ∧ c.path.lanes ≠ [] ∧ fetch s c.core c.task.space c.task.priv c.path.pos.pc = .word 0xFC500200#32 ∧ c.task.state = .starved := by
  unfold Rules.serves Rules.classAt Rules.awaitedMet
  exact ⟨⟨by decide, aPath _ _ (by decide +kernel)⟩, by decide, ⟨by decide, by decide, aPath _ _ (by decide +kernel)⟩, ⟨by decide, by decide, aPath _ _ (by decide +kernel)⟩,
    aPath _ _ (by decide +kernel)⟩
/-- HeadersIssue: a header of the lead that issues, and one whose WAIT it does not meet. -/
theorem test_headers_of_leads : ∀ w ∈ [0xFFE00200#32, 0xFFE00400#32],
    let s : State := atWord w { base with cur := .lead 0 }
    gctx s = none ∧ Rules.serves w ∧ Rules.classAt w .lead ∧ ∃ c, lctx s = some c ∧ c.team.lead.remain = 0 ∧ c.team.lead.free = true
      ∧ fetch s c.core c.task.space c.task.priv c.team.lead.pc = .word w ∧ c.team.swap = none ∧ c.task.state ≠ .starved
      ∧ if w = 0xFFE00200#32 then Rules.awaitedMet s w c.team c.team.lead.waitb ∧ opsOf s c.team.lead.ops = [] ∧ c.team.lead.ops ∉ s.fresh.stores
        else ¬Rules.awaitedMet s w c.team c.team.lead.waitb := by
  unfold Rules.serves Rules.classAt Rules.awaitedMet
  intro w hw
  fin_cases hw <;> exact ⟨by decide, by decide, by decide, _, rfl, by decide +kernel⟩

/-- A SEND of lane 63 to a consumer, its destination word `dest`, behind one of lane 0. -/
def sending (d : Consumer) (dest : Word) (s : State) : State :=
  { s with sends := [SendItem.mk 9 1 0 0 0 0 d 1#32 0#32] ++ SendItem.mk 10 1 0 0 0 63 d 0xAABBCCDD#32 dest :: [] }
/-- SendsArrive: to an ended lead and to a full register, once the lead has issued, to the last word of the scratchpad by SPAD and STAGE, and to a neighbour without a team. -/
theorem test_sends_arrive :
    let quietLead := base.modCore 0 (fun k => { k with lIssued := true })
    Rules.mayAccept [SendItem.mk 9 1 0 0 0 0 .lead 1#32 0#32] (SendItem.mk 10 1 0 0 0 63 .lead 2#32 63#32)
    ∧ (let s := sending .lead 63#32 (quietLead.modLead 0 (fun l => { l with ended := true }))
       leadMayIssue s 0 = false ∧ ∃ tm, teamByUid s 1 = some (0, tm) ∧ s.teams.find 0 = some tm ∧ tm.lead.ended = true)
    ∧ (let s := sending .lead 63#32 quietLead
       leadMayIssue s 0 = false ∧ ∃ tm, s.teams.find 0 = some tm ∧ teamByUid s 1 = some (0, tm) ∧ tm.lead.ended = false ∧ tm.lead.stopped = false ∧ tm.lead.empty.find 63 = none)
    ∧ (∃ tm, (sending .stage 0x80003FFC#32 base).teams.find 0 = some tm ∧ teamByUid (sending .stage 0x80003FFC#32 base) 1 = some (0, tm))
    ∧ ((∀ e ∈ base.teams, ¬(e.2.task = 0 ∧ e.2.core = 1)) ∧ ∀ e ∈ base.images, ¬(e.2.team.task = 0 ∧ e.2.team.core = 1)) := by
  unfold Rules.mayAccept Rules.writesSpad
  exact ⟨by decide, ⟨by decide +kernel, _, rfl, by decide⟩, ⟨by decide +kernel, _, rfl, by decide⟩, ⟨_, rfl, by decide⟩, by decide⟩
/-- SendsArrive: to a team on the right neighbour, resident or saved, with room at the word or without. -/
def neighbour (s : State) : State := { s with teams := s.teams.put 8 { probeTeam 30 31 with core := 1 } }
def savedNeighbour (s : State) : State :=
  { s with images := [(30, { team := { probeTeam 30 31 with core := 1 }, groups := [], threads := [], reason := 1#4, ready := true, savetime := 0, k := [], epoch := 0#8, held := [], cmd := none })] }
theorem test_sends_to_a_neighbour :
    (∃ tm, (neighbour base).teams.find 8 = some tm ∧ teamByUid (neighbour base) 30 = some (8, tm) ∧ tm.uid = 30 ∧ tm.task = 0 ∧ tm.core = 1
      ∧ (∀ e ∈ (neighbour base).teams, e.2.task = 0 → e.2.core = 1 → e.2.uid ≠ 30 → tm.index < e.2.index) ∧ 16380 + 4 ≤ 16384 * tm.spadg ∧ 16384 * tm.spadg < 16384 + 4)
    ∧ ∃ x, (savedNeighbour base).images.find 30 = some x ∧ (30, x) ∈ (savedNeighbour base).images ∧ (∀ e ∈ (savedNeighbour base).teams, e.2.uid ≠ 30)
      ∧ x.team.uid = 30 ∧ x.team.task = 0 ∧ x.team.core = 1 ∧ 16380 + 4 ≤ 16384 * x.team.spadg :=
  ⟨found _ (fun (tm : Team) => _ = some _ ∧ tm.uid = 30 ∧ tm.task = 0 ∧ tm.core = 1 ∧ (∀ e ∈ (neighbour base).teams, e.2.task = 0 → e.2.core = 1 → e.2.uid ≠ 30 → tm.index < e.2.index) ∧ _ ∧ _) (by decide),
    found _ (fun (x : Saved) => (30, x) ∈ _ ∧ (∀ e ∈ _, _ ≠ 30) ∧ x.team.uid = 30 ∧ x.team.task = 0 ∧ x.team.core = 1 ∧ _) (by decide)⟩
/-- SendsArrive: a phase of b3 at DIE that the core has not seen. -/
theorem test_a_wide_phase_arrives :
    let s := team (fun t => { t with bars := [(3, { Barrier.initial with net := .die })] })
    let u : State := { s with wides := [(wideKey (probeTeam 1 3) .die 0#16 3, WideBar.mk 0 .die 1 [1] 0 true true [] [1])] }
    ∃ tm, u.teams.find 0 = some tm ∧ (tm.bars.get 3 Barrier.initial).net ≠ .core ∧ (∃ w, u.wides.find (wideKey tm (tm.bars.get 3 Barrier.initial).net (tm.bars.get 3 Barrier.initial).pod 3) = some w
      ∧ tm.uid ∈ w.unseen) ∧ (tm.uid, 3) ∉ u.fresh.phases := by
  exact ⟨_, rfl, by decide, ⟨_, rfl, by decide⟩, by decide⟩
/-- BarriersArriveAndBind: at the end of a clk b0 of CORE is complete, for N = 0 on bytes alone, b1 holds the lead's second arrival, b2 lacks bytes, and b3 of DIE is complete. -/
theorem test_phases_complete :
    let b : Barrier := { Barrier.initial with n := 0, touched := true }
    let s := base.modTeam 0 (fun t => { t with
      bars := [(0, b), (1, { b with n := 1, arr := 1, here := 0x100#16, members := 0x100#16 }), (2, { b with pend := 4#48 }), (3, { Barrier.initial with net := .die })],
      lead := { t.lead with wait := .arv 1 } })
    let s : State := { s with wides := [(wideKey (probeTeam 1 3) .die 0#16 3, WideBar.mk 0 .die 1 [1] 1 true true [] [])] }
    s.teams.foldl (fun s e => countArrivals s e.1) s = s ∧ (s.teams.map Prod.fst).Nodup ∧ (s.wides.map Prod.fst).Nodup
    ∧ ∃ tm, s.teams.find 0 = some tm ∧ tm.lead.wait = .arv 1 ∧ ∀ k < 3, (tm.bars.get k Barrier.initial).net = .core
      ∧ ((tm.bars.get k Barrier.initial).n ≤ (tm.bars.get k Barrier.initial).arr ∧ (tm.bars.get k Barrier.initial).pend = 0#48 ∧ (tm.bars.get k Barrier.initial).touched = true ↔ k ≠ 2) :=
  ⟨by decide +kernel, by decide, by decide, _, rfl, by decide⟩
/-- BarriersArriveAndBind: a clk that may end. -/
theorem test_a_clk_may_end : nextDue { State.reset with turns := [.clk] } = none := by decide
/-- A copy of 16 bytes of the team, at the end of its scratchpad; its words have arrived, or not. -/
def aCopy (op : CopyOp) (v : Option Word) : Copy :=
  Copy.mk 9 1 0 0 op 16368 0 [0] [] [Seg.mk 0x1000 16 (Loc.mk 0 0x1000 0)] [Seg.mk 0x2000 16 (Loc.mk 0 0x2000 0)]
    [(0, CpWord.mk v [] false), (1, CpWord.mk v [] false), (2, CpWord.mk v [] false), (3, CpWord.mk v [] false)] [] 4 [] false
def withCopy (c : Copy) (s : State) : State := { s with copies := [(9, c)] }
/-- CopiesMove: a unit begins, of a read and of CPYOUT. -/
theorem test_copy_units_begin :
    (∃ c, (withCopy (aCopy .cpyin none) base).copies.find 9 = some c ∧ c.id = 9 ∧ 0 ∉ c.begun ∧ 4 * 0 < c.nwords ∧ c.op ≠ .publ ∧ c.op ≠ .cpyout
        ∧ roomFor (withCopy (aCopy .cpyin none) base) (c.core / 96) (c.words.filter (fun w => w.1 / 4 == 0)).length = true)
    ∧ ∃ tm, anyTeam (withCopy (aCopy .cpyout none) base) 1 = some tm ∧ ∀ w ∈ (aCopy .cpyout none).words, w.1 / 4 = 0 → tm.absent.find ((16368 + 4 * w.1) / 64) = none :=
  ⟨found _ (fun (c : Copy) => c.id = 9 ∧ 0 ∉ c.begun ∧ 4 * 0 < c.nwords ∧ c.op ≠ .publ ∧ c.op ≠ .cpyout ∧ _ = true) (by decide),
    found _ (fun (tm : Team) => ∀ w ∈ (aCopy .cpyout none).words, w.1 / 4 = 0 → tm.absent.find ((16368 + 4 * w.1) / 64) = none) (by decide)⟩
/-- CopiesMove: the first word reaches core 0's team, whose range it fills to the end, or core 1, where the task has no team or one that is too small; a word arrives. -/
theorem test_copy_words_arrive :
    (let c := aCopy .cpyin (some 7#32)
     ∃ tm, teamByUid (withCopy c base) 1 = some (0, tm) ∧ (withCopy c base).copies.find 9 = some c ∧ c.id = 9 ∧ c.freed = false ∧ 0 ∈ c.cores ∧ c.recv.find 0 = none
      ∧ tm.core = 0 ∧ c.addr + 4 * c.words.length ≤ 16384 * tm.spadg ∧ ∀ e ∈ (withCopy c base).teams, e.2.uid = 1)
    ∧ ((∀ e ∈ base.teams, ¬(e.2.task = 0 ∧ e.2.core = 1)) ∧ ∀ e ∈ base.images, ¬(e.2.team.task = 0 ∧ e.2.team.core = 1))
    ∧ (∃ tm, teamByUid (neighbour base) 30 = some (8, tm) ∧ 16384 * tm.spadg < { aCopy .cpyin none with addr := 16372 }.addr + 4 * (aCopy .cpyin none).words.length)
    ∧ (let c : Copy := { aCopy .gath (some 7#32) with recv := [(0, 1)] }
       ∃ tm, teamByUid (withCopy c base) 1 = some (0, tm) ∧ c.recv.find 0 = some 1 ∧ c.words.sorted = true ∧ c.words.find 3 = some (CpWord.mk (some 7#32) [] false)
        ∧ owedEarlier (withCopy c base) c 0 1 (c.addr + 4 * 3) = false) := by
  exact ⟨⟨_, rfl, by decide⟩, by decide, ⟨_, rfl, by decide⟩, ⟨_, rfl, by decide⟩⟩
/-- CopiesMove: a word leaves for its home; the words of a freed copy are discarded; PUBL leaves, and arrives. -/
theorem test_copies_leave :
    (let c := aCopy .cpyg (some 7#32)
     c.id = 9 ∧ c.words.find 3 = some (CpWord.mk (some 7#32) [] false) ∧ segLoc c.dsts (4 * 3) = some (Loc.mk 0 0x200C 0) ∧ roomFor (withCopy c base) (c.core / 96) 1 = true
      ∧ (∀ e ∈ c.words, e.2.val ≠ none)
      ∧ ∀ e ∈ (9, c) :: [(8, { aCopy .publ none with dsts := [Seg.mk 0 0x20000 (Loc.mk 0 0 0x10000)] })], e.1 < 9 → e.2.uid = c.uid → e.2.op = .publ →
          ∀ b ∈ e.2.dsts, ∀ g ∈ c.dsts, g.loc.pub ≠ 0 → selKey g.loc ≠ selKey b.loc)
    ∧ (let c : Copy := { aCopy .cpyin (some 7#32) with freed := true }
       c.freed = true ∧ 0 ∈ c.cores ∧ c.words.sorted = true ∧ c.words.find 0 = some (CpWord.mk (some 7#32) [] false) ∧ 0 ∉ (CpWord.mk (some 7#32) [] false).sent)
    ∧ (let c : Copy := { aCopy .publ none with words := [], nwords := 0 }
       c.begun = [] ∧ c.dsts = Seg.mk 0x2000 16 (Loc.mk 0 0x2000 0) :: [] ∧ (∀ w ∈ c.waits, (withCopy c base).copies.find w = none)
        ∧ (∀ k < 10, ∀ p ∈ ((withCopy c base).node k).early, False) ∧ roomFor (withCopy c base) (c.core / 96) 1 = true)
    ∧ (let p : Packet := { src := 0, dst := 3, seq := 1#16, stamp := [(0, 1#16)], epoch := 0#8, body := .publ 9 (Loc.mk 0 0x2000 0x10000) }
       let s : State := { base with nodes := [(3, { Node.initial with rcv := [(0, 1#16)], early := [p] })] }
       (s.node 3).early = [] ++ p :: [] ∧ applicable s 3 p = true ∧ (∀ j < 3, ∀ q ∈ (s.node j).early, False) ∧ s.linkReads = []) := by
  refine ⟨by decide, by decide, by decide, rfl, by decide, by decide⟩


/-! ## Witnesses: engines and homes -/

/-- The team of core 0 holds its array, with these commands. -/
def arrayAt (ops : List MatOp) (s : State) : State :=
  ((s.modCore 0 (fun c => { c with array := { c.array with holder := some 1 } })).modTeam 0 (fun t =>
    { t with mats := ops.map (fun o => MatCmd.mk 9 o 64 (CmdAt.mk 0#64 0#32 1)) }))
/-- ArrayWorks: a lead at MSWAP while nobody holds the array. -/
theorem test_array_is_free :
    ∃ c, lctxOf (on .mswap) 0 = some c ∧ c.team.lead.free = true ∧ c.team.accg ≠ 0 ∧ arrayHolder (on .mswap) c.core = none ∧ c.team.lead.remain ≠ 0
      ∧ nextInstr (on .mswap) c.core c.task.space c.task.priv (Pos.mk c.team.lead.pc c.team.lead.remain .lead false none none) = .run .mswap ∧ isMat .mswap = true :=
  found _ (fun (c : LCtx) => c.team.lead.free = true ∧ c.team.accg ≠ 0 ∧ _ = none ∧ c.team.lead.remain ≠ 0 ∧ _ = NextInstr.run _ ∧ _ = true) (by decide)
/-- ArrayWorks: MLDW of an INT8 tile with a smoothing vector at the end of the scratchpad, and of an LPW16 tile with a scale vector, with MSWAP behind. -/
theorem test_mldw_is_ready : ∀ p ∈ [(5, 0, some 16256), (7, 2, none)],
    let tile : Loc := Loc.mk 0 0x8000 0
    let s := arrayAt [.mldw tile p.1 p.2.1 0 (Loc.mk 0 0x7000 0) 3 p.2.2, .mswap] base
    ∃ tm m ms, Rules.AtHead s 0 0 tm m ms ∧ m.op = .mldw tile p.1 p.2.1 0 (Loc.mk 0 0x7000 0) 3 p.2.2
      ∧ (∀ a, p.2.2 = some a → ∀ x, a ≤ x → x < a + 128 → tm.absent.find (x / 64) = none)
      ∧ readable s 0 (tileLocs tile (Loc.mk 0 0x7000 0) p.1 p.2.1) = true
      ∧ (∀ i < 16384, (if p.2.1 = 0 then 127 else if p.2.1 = 1 then 0 else ((s.readLoc (Loc.mk 0 0x7000 0) 512).getD (i / 32) 0#8).toNat) ≠ 255)
      ∧ ∀ a, p.2.2 = some a → ∀ b < 4, ∀ i < 32, ∀ j < 32, (Rules.spadByte tm (a + (32 * b + i))).toInt - (Rules.spadByte tm (a + (32 * b + j))).toInt ≤ 16 := by
  intro p hp
  fin_cases hp
  · refine ⟨_, _, _, ⟨rfl, ⟨rfl, rfl⟩, rfl, rfl⟩, rfl, fun _ _ _ _ _ => rfl, by decide +kernel, ?_, ?_⟩
    · intro i _
      rw [if_pos rfl]
      decide
    · rintro a ⟨⟩ b _ i _ j _
      show (0#8).toInt - (0#8).toInt ≤ 16
      decide
  · refine ⟨_, _, _, ⟨rfl, ⟨rfl, rfl⟩, rfl, rfl⟩, rfl, fun _ _ _ _ _ => rfl, by decide +kernel, ?_, fun a h => by cases h⟩
    intro i _
    have key : ∀ l : List Byte, (l.all (fun b => b.toNat != 255)) = true → (l.getD (i / 32) 0#8).toNat ≠ 255 := by
      intro l hl
      rw [List.getD_eq_getElem?_getD]
      cases h : l[i / 32]? with
      | none => decide
      | some b => simpa using List.all_eq_true.mp hl b (List.mem_of_getElem? h)
    exact key _ (by decide +kernel)
/-- ArrayWorks: MSTRM at its first block, at the last of a row, and at its last; MZERO of two rows and of one. -/
theorem test_array_passes_are_ready : ∀ op ∈ [MatOp.mstrm 0 0 2 3 2 0 0 [], .mstrm 0 0 2 3 2 0 3 (List.replicate 128 0x38#8), .mstrm 3968 16256 1 3 2 0 3 (List.replicate 128 0#8), .mzero 0 2, .mzero 3968 1],
    ∃ tm m, Rules.AtHead (arrayAt [op, .mswap] base) 0 0 tm m [MatCmd.mk 9 .mswap 64 (CmdAt.mk 0#64 0#32 1)] ∧ m.op = op ∧ ∀ x, tm.absent.find (x / 64) = none := by
  intro op hop
  exact ⟨_, _, ⟨rfl, ⟨rfl, rfl⟩, rfl, rfl⟩, rfl, fun _ => rfl⟩
/-- ArrayWorks: a table image of zeros, at the second of two places. -/
theorem test_table_load_is_ready :
    let x := TLoad.mk 9 [Seg.mk 0x10000 64 (Loc.mk 0 0x5000 0), Seg.mk 0x10040 4096 (Loc.mk 1 0x8000 0)] (CmdAt.mk 0#64 0#32 1)
    let s := team (fun t => { t with tloads := [x] })
    ∃ tm, s.teams.find 0 = some tm ∧ tm.tloads = [x] ∧ genBusy s 0 (!tm.gen) = false ∧ readable s (tm.core / 96) (segLocs x.image) = true
      ∧ ∀ tab, (∀ b, SMap.get tab b 0#8 = (x.image.flatMap (fun g => s.readLoc g.loc g.size)).getD b 0#8) → Rules.imageInOrder tab := by
  refine ⟨_, rfl, rfl, by decide, by decide +kernel, ?_⟩
  intro tab h
  have zero : ∀ b, SMap.get tab b 0#8 = 0#8 := by
    intro b
    rw [h b]
    have key : ∀ l : List Byte, (l.all (fun y => y == 0#8)) = true → l.getD b 0#8 = 0#8 := by
      intro l hl
      rw [List.getD_eq_getElem?_getD]
      cases hb : l[b]? with
      | none => rfl
      | some y => simpa using List.all_eq_true.mp hl y (List.mem_of_getElem? hb)
    exact key _ (by decide +kernel)
  have word : ∀ b, Rules.tableWord tab b = 0#32 := by
    intro b
    simp [Rules.tableWord, zero]
  intro f _
  simp [word]

/-- A row of 8 elements at exponent 0, and a request of lane 63 to an element of it. -/
def rowOf (t count : Nat) (q : SMap (BitVec 64)) : Row := Row.mk 8 0 0 2 0#32 [] t count 0#128 0 q none false
def aReq (op : SaOp) (addr : Word) (trap : Bool) : SaReq := SaReq.mk 5 1 0 63 0 0 0 op addr trap 4 [] 0#32 0#32
/-- A packet from node 1 that waits at node 0, and a row there. -/
def aPacket (b : Body) : Packet := Packet.mk 1 0 1#16 [(1, 1#16)] 0#8 b
def atHome (b : Body) (row : Row) : State :=
  { base with nodes := [(0, { Node.initial with rcv := [(1, 1#16)], a := if b.waits then [] else [(1, 1#16)], early := [aPacket b] })], rows := [(0, row)] }
theorem inTurn_of (s : State) (row rank : Nat) (h : (decide (SMap.get s.fresh.rows row 0 ≤ rank) && match s.rows.find row with | some r => !r.bad | none => true) = true) :
    Rules.inTurn s row rank := by
  rw [Bool.and_eq_true] at h
  refine ⟨of_decide_eq_true h.1, fun r hr => ?_⟩
  have h2 := h.2
  rw [hr] at h2
  simpa using h2
/-- StreamsAnswer: adds to the last elements of a row with 2^62 and with 2^63, to a row whose target is met and to one that they complete. -/
theorem test_adds_are_ready : ∀ p ∈ [(SaOp.add 0x4A800000#32, [0x4A800000#32], [(2 : ℤ) ^ 62], rowOf 1 0 []), (.add 0xCB000000#32, [0xCB000000#32], [-(2 : ℤ) ^ 63], rowOf 1 0 []),
      (.addh 0x3F80BF80#32, [0xBF800000#32, 0x3F800000#32], [-(2 : ℤ) ^ 40, 2 ^ 40], rowOf 2 1 []), (.addh 0x3F80BF80#32, [0xBF800000#32, 0x3F800000#32], [-(2 : ℤ) ^ 40, 2 ^ 40], rowOf 2 0 [])],
    let r := aReq p.1 (BitVec.ofNat 32 (8 - p.2.1.length)) false
    let s := atHome (.saReq r) p.2.2.2
    (s.node 0).early = [] ++ aPacket (.saReq r) :: [] ∧ ((∃ x, r.op = .add x ∧ p.2.1 = [x]) ∨ ∃ x : Word, r.op = .addh x ∧ p.2.1 = [x <<< 16, x &&& 0xFFFF0000#32])
      ∧ Rules.canApply s 0 (aPacket (.saReq r)) ∧ saFirst s 0 (.saReq r) = true ∧ Rules.inTurn s (r.addr.toNat / 2 ^ 15) 1 ∧ Rules.rowFor s r p.2.1.length 0 p.2.2.2 ∧ p.2.2.1.length = p.2.1.length
      ∧ ∀ j < p.2.1.length, (Rules.fp (p.2.1.getD j 0#32)).finite = true
        ∧ Rules.IsInteger .rn ((Rules.fp (p.2.1.getD j 0#32)).x * (2 : ℚ) ^ (40 - p.2.2.2.e)) (p.2.2.1.getD j 0) := by
  have exact : ∀ (x : ℚ) (n : ℤ), x = n → Rules.IsInteger .rn x n := by
    rintro x n rfl
    simp [Rules.IsInteger]
  intro p hp
  fin_cases hp
  · refine ⟨rfl, .inl ⟨_, rfl, rfl⟩, by unfold Rules.canApply; decide, by decide, inTurn_of _ _ _ (by decide), by unfold Rules.rowFor; decide, rfl, ?_⟩
    intro j hj
    have hj : j = 0 := Nat.lt_one_iff.mp hj
    subst hj
    exact ⟨by decide +kernel, exact _ _ (by decide +kernel)⟩
  · refine ⟨rfl, .inl ⟨_, rfl, rfl⟩, by unfold Rules.canApply; decide, by decide, inTurn_of _ _ _ (by decide), by unfold Rules.rowFor; decide, rfl, ?_⟩
    intro j hj
    have hj : j = 0 := Nat.lt_one_iff.mp hj
    subst hj
    exact ⟨by decide +kernel, exact _ _ (by decide +kernel)⟩
  · refine ⟨rfl, .inr ⟨_, rfl, rfl⟩, by unfold Rules.canApply; decide, by decide, inTurn_of _ _ _ (by decide), by unfold Rules.rowFor; decide, rfl, ?_⟩
    intro j hj
    obtain rfl | rfl : j = 0 ∨ j = 1 := by have hj : j < 2 := hj; omega
    all_goals exact ⟨by decide +kernel, exact _ _ (by decide +kernel)⟩
  · refine ⟨rfl, .inr ⟨_, rfl, rfl⟩, by unfold Rules.canApply; decide, by decide, inTurn_of _ _ _ (by decide), by unfold Rules.rowFor; decide, rfl, ?_⟩
    intro j hj
    obtain rfl | rfl : j = 0 ∨ j = 1 := by have hj : j < 2 := hj; omega
    all_goals exact ⟨by decide +kernel, exact _ _ (by decide +kernel)⟩
/-- StreamsAnswer: an add that names no row; one to an element beyond the row. -/
theorem test_an_add_out_of_scope : ∀ a ∈ [0x18000000#32, 0x06000000#32, 0x8000#32, 8#32],
    let r := aReq (.add 0#32) a false
    Rules.canApply (atHome (.saReq r) (rowOf 1 0 [])) 0 (aPacket (.saReq r)) ∧ ∀ id row, ¬Rules.rowFor (atHome (.saReq r) (rowOf 1 0 [])) r 1 id row := by
  intro a ha
  fin_cases ha
  · exact ⟨by unfold Rules.canApply; decide, fun id row h => h.1 (by decide)⟩
  · exact ⟨by unfold Rules.canApply; decide, fun id row h => absurd (h.2.1 (by decide)) (by decide)⟩
  · refine ⟨by unfold Rules.canApply; decide, fun id row h => ?_⟩
    have h3 : id = 1 := h.2.2.1
    subst h3
    exact absurd h.2.2.2.1 (by simp [atHome, SMap.find])
  · refine ⟨by unfold Rules.canApply; decide, fun id row h => ?_⟩
    have h3 : id = 0 := h.2.2.1
    subst h3
    have h4 : some (rowOf 1 0 []) = some row := h.2.2.2.1
    obtain rfl := Option.some.inj h4
    exact absurd (h.2.2.2.2.2 (by decide)) (by decide)
/-- StreamsAnswer: CNT, SARDQ and SARDH of other formats, reads of a sealed row at its end, one with an element of 2^56, a wait, and reads of a row that is not sealed. -/
theorem test_reads_are_ready : ∀ p ∈ [(SaOp.cnt, 0, 0#32, false, rowOf 2 1 []), (.rdq, 4, 4#32, false, rowOf 2 2 []), (.rdh, 2, 6#32, false, { rowOf 2 2 [] with ofmt := 3 }),
      (.rd, 1, 7#32, false, rowOf 2 2 [(0, BitVec.ofInt 64 (-(2 ^ 56)))]), (.wait, 0, 0x7FFF#32, false, rowOf 2 2 [(7, 1#64)]), (.rdh, 2, 6#32, false, { rowOf 2 2 [] with factor := some 0x7F800000#32 }),
      (.rd, 1, 7#32, true, rowOf 2 1 []), (.rd, 1, 7#32, false, rowOf 2 1 []), (.wait, 0, 0#32, false, rowOf 2 1 [])],
    let r := aReq p.1 p.2.2.1 p.2.2.2.1
    let s := atHome (.saReq r) p.2.2.2.2
    (s.node 0).early = [] ++ aPacket (.saReq r) :: [] ∧ ((r.op = .rd ∧ p.2.1 = 1) ∨ (r.op = .rdh ∧ p.2.1 = 2) ∨ (r.op = .rdq ∧ p.2.1 = 4) ∨ ((r.op = .wait ∨ r.op = .cnt) ∧ p.2.1 = 0))
      ∧ Rules.canAnswer s 0 (aPacket (.saReq r)) ∧ (∀ w ∈ (s.node 0).early, w.body.writes = true → ¬Rules.canApply s 0 w) ∧ saFirst s 0 (.saReq r) = true ∧ Rules.inTurn s 0 2 ∧ Rules.rowFor s r p.2.1 0 p.2.2.2.2
      ∧ heldAt s 0 < 16384 ∧ gainReady (takeEarly s 0 0) p.2.2.2.2 r [(1, 1#16)] = true
      ∧ (∀ j < p.2.1, segLoc p.2.2.2.2.gain (2 * (r.addr.toNat % 2 ^ 15 + j)) = none)
      ∧ (Rules.fp p.2.2.2.2.eps).finite = true ∧ 0 ≤ (Rules.fp p.2.2.2.2.eps).x ∧ ∀ f, p.2.2.2.2.factor = some f → Rules.IsFactor p.2.2.2.2 f := by
  have none' : ∀ (row : Row) f, row.factor = none → row.factor = some f → Rules.IsFactor row f := fun _ _ h h' => by rw [h] at h'; cases h'
  have zero : (Rules.fp 0#32).x = 0 := by decide +kernel
  intro p hp
  fin_cases hp
  iterate 5 exact ⟨rfl, by decide, by unfold Rules.canAnswer; decide, by unfold Rules.canApply; decide, by decide, inTurn_of _ _ _ (by decide), by unfold Rules.rowFor; decide, by decide, by decide +kernel, by decide, by decide +kernel, by decide +kernel, fun f => none' _ f rfl⟩
  · refine ⟨rfl, by decide, by unfold Rules.canAnswer; decide, by unfold Rules.canApply; decide, by decide, inTurn_of _ _ _ (by decide), by unfold Rules.rowFor; decide, by decide, by decide +kernel, by decide, by decide +kernel, by decide +kernel, fun f h => ?_⟩
    obtain rfl := Option.some.inj h
    show Rules.IsFactor { rowOf 2 2 [] with factor := some 0x7F800000#32 } 0x7F800000#32
    unfold Rules.IsFactor
    simp [rowOf, zero]
  all_goals exact ⟨rfl, by decide, by unfold Rules.canAnswer; decide, by unfold Rules.canApply; decide, by decide, inTurn_of _ _ _ (by decide), by unfold Rules.rowFor; decide, by decide, by decide +kernel, by decide, by decide +kernel, by decide +kernel, fun f => none' _ f rfl⟩
/-- StreamsAnswer: the commands of a lead at their row's home, on a row of the task and, but for the merged values, on one of another task; a SAMERGE to a row at another home, and the values that reach it. -/
theorem test_commands_are_performed : ∀ cmd ∈ [SaCmd.open_ 0 (2 ^ 32 - 1), .clear 0, .free 0, .evict 0 [Seg.mk 0x1000 96 (Loc.mk 0 0x1000 0)] 0x1000, .evict 0 [Seg.mk 0x1000 95 (Loc.mk 0 0x1000 0)] 0x1000, .merge 0 0x4000, .mergeIn 0 (List.replicate 8 (BitVec.ofInt 64 (-1)))],
    let s := { atHome (.saCmd 7 1 0 0 cmd) (rowOf 8 0 []) with rows := [(0, rowOf 8 (if cmd = .merge 0 0x4000 then 8 else 0) []), (0x4000, rowOf 8 0 [])] }
    (s.node 0).early = [] ++ aPacket (.saCmd 7 1 0 0 cmd) :: [] ∧ Rules.canApply s 0 (aPacket (.saCmd 7 1 0 0 cmd)) ∧ (rowOf 8 0 []).owner = 0 ∧ Rules.inTurn s 0 0 ∧ (rowOf 8 0 []).count + 8 ≤ (rowOf 8 0 []).t ∧ (rowOf 8 0 []).imageBytes = 96
      ∧ s.resync = none ∧ ((s.node 0).c - (s.node 0).f).toNat < 16384 ∧ heldAt s 0 < 16384 ∧ SMap.get s.fresh.rows 0x4000 0 ≤ 1
      ∧ ∀ h ∈ s.heldReqs, h.atRow 0 = false := by
  intro cmd hc
  fin_cases hc <;> exact ⟨rfl, by unfold Rules.canApply; decide, rfl, inTurn_of _ _ _ (by decide), by decide, by decide, rfl, by decide, by decide, by decide, by decide⟩
/-- An answer on the mesh of node 0. -/
def answered (b : RBody) (s : State) : State := { s with nodes := [(0, { Node.initial with mesh := [MeshItem.mk 0 0 (.resp (Resp.mk 0 0 [] 0#8 b))] })] }
theorem noLoads (s : State) (th : Thread) (h : s.opqs = []) : Rules.loadsBehind s th := by
  intro oq ho
  rw [h] at ho
  cases ho
/-- StreamsAnswer: a held read is answered to lane 63; an add is accepted, the other member's being; a lead's command is performed. -/
theorem test_stream_answers_arrive :
    (let q := aReq .rdq 4#32 false
     let s := answered (.sa q .done [7#32] true) (base.modThread 63 (fun th => { th with pend := [Pend.mk 5 [4] none] }))
     ∃ u r th, arrival s 0 0 0 = .item u (.resp r) ∧ r.body = .sa q .done [7#32] true ∧ groupByUid u q.uid q.gid = some (0, 0) ∧ q.lane < 64 ∧ u.threads.find (64 * 0 + q.lane) = some th
        ∧ Rules.loadsBehind u th)
    ∧ (let q := aReq .cnt 0#32 false
       let pos : Pos := { pc := 0x10040#64, remain := 3, cls := .sa, y := false, rep := none, repFrom := none }
       let p := parkedPath (.answers [(0, 4, .done), (63, 5, .waiting)] pos 0#32 8)
       let s := answered (.sa q .done [2#32] false) (base.modGroup 0 (fun g => { g with parked := [p] }))
       ∃ u r g th, arrival s 0 0 0 = .item u (.resp r) ∧ r.body = .sa q .done [2#32] false ∧ q.rest = [] ∧ groupByUid u q.uid q.gid = some (0, 0) ∧ u.groups.find 0 = some g
        ∧ u.threads.find (64 * 0 + q.lane) = some th ∧ Rules.loadsBehind u th ∧ (∃ tm k, u.teams.find 0 = some tm ∧ u.tasks.find tm.task = some k)
        ∧ g.parked = [] ++ p :: [] ∧ p.lanes ≠ [] ∧ ∀ e ∈ [(0, 4, Answer.done), (63, 5, .waiting)], e.2.1 ≠ q.id → e.2.2 = .done)
    ∧ (let s := answered (.saDone 1 9 .done) (leadWaits (.saCmd 9 0#32 4 0))
       ∃ u r tm, arrival s 0 0 0 = .item u (.resp r) ∧ r.body = .saDone 1 9 .done ∧ Rules.Resident u 1 0 tm ∧ tm.lead.wait = .saCmd 9 0#32 4 0) :=
  ⟨⟨_, _, _, rfl, rfl, rfl, by decide, rfl, noLoads _ _ rfl⟩,
    ⟨_, _, _, _, rfl, rfl, rfl, rfl, rfl, rfl, noLoads _ _ rfl, ⟨_, _, rfl, rfl⟩, rfl, by decide, by decide⟩, ⟨_, _, _, rfl, rfl, ⟨rfl, rfl⟩, rfl⟩⟩
/-- StreamCommandsAndRows: units of a SALOAD: one of several, the last of a good image, and the last of one whose Q is wrong. -/
theorem test_saload_units_are_ready : ∀ p ∈ [(1, 0, true), (3, 0, true), (1, 5, false)],
    let h := 1 + 1 * 2 ^ 16 + 1 * 2 ^ 48 + 1 * 2 ^ 96 + p.2.1 * 2 ^ 256
    let l : ImageLoad := ImageLoad.mk 9 1 0x1000#64 [Seg.mk 0x1000 72 (Loc.mk 0 0x1000 0)] (bytesOfNat 64 h) p.1 0#32 5
    let s := leadWaits (.saload l)
    let gs := segsTake 16 (segsFrom l.segs l.bytes.length)
    let r := imageRow s.gainTab (natOfBytes ((l.bytes ++ readSegs s gs).take 64)) (l.bytes ++ readSegs s gs) 0
    ∃ tm, s.teams.find 0 = some tm ∧ tm.lead.wait = .saload l ∧ l.left = (p.1 - 1) + 1 ∧ readable s (tm.core / 96) (segLocs gs) = true
      ∧ (tm.uid, l.sd) ∉ s.fresh.inbox ∧ (decide (r.q2 = BitVec.ofInt 128 r.squares) = p.2.2) := by
  intro p hp
  fin_cases hp <;> exact ⟨_, rfl, rfl, by decide +kernel⟩

/-! ## Witnesses: the fabric -/

/-- FabricMoves: a stamp whose every entry differs from the saved one, of the same epoch and of another. -/
theorem test_stamps_have_places : ∀ saved ∈ [none, some (BitVec.ofNat 192 (255 * 2 ^ 184 + 9 * 2 ^ 180)), some (BitVec.ofNat 192 (9 * 2 ^ 180))],
    let new : BitVec 192 := BitVec.ofNat 192 (255 * 2 ^ 184 + 9 * 2 ^ 180 + 2 ^ 160 - 1)
    new.extractLsb' 160 20 = 0#20 ∧ (new.extractLsb' 180 4).toNat < 10
      ∧ ∀ old, saved = some old → old.extractLsb' 160 20 = 0#20 ∧ old.extractLsb' 180 4 = new.extractLsb' 180 4 := by
  intro saved hs
  fin_cases hs
  · exact ⟨by decide, by decide, fun _ h => by cases h⟩
  · refine ⟨by decide, by decide, ?_⟩
    rintro _ ⟨⟩
    decide
  · refine ⟨by decide, by decide, ?_⟩
    rintro _ ⟨⟩
    decide
/-- A full stamp of node 1 in epoch 0. -/
def aStamp (c : Nat) : BitVec 192 := BitVec.ofNat 192 (1 * 2 ^ 180 + c * 2 ^ 16)
/-- A packet and a beat of node 1 under way to node 9, which has room; node 1 has issued two packets. -/
def underway (fs : List Flight) (s : State) : State :=
  { s with nodes := [(1, { Node.initial with c := 2#16 })], chans := [(9, { Chan.initial 9 with pos := 1, flights := Flight.beat 2 0#16 0#16 :: fs })] }
/-- FabricMoves: a packet arrives from another node, and one from the node itself. -/
theorem test_packets_arrive :
    (let enc := Enc.full (aStamp 2)
     let i := Item.pkt (Packet.mk 1 9 2#16 [(1, 2#16)] 0#8 (.read 1 2 (Loc.mk 0 0 0) 8))
     let s := underway [.item 1 enc i, .beat 1 2#16 0#16] base
     (s.chan 9).flights = [Flight.beat 2 0#16 0#16] ++ .item 1 enc i :: [.beat 1 2#16 0#16] ∧ (∀ f ∈ [Flight.beat 2 0#16 0#16], f.src ≠ 1)
      ∧ decodeStamp ((s.node 9).saveIn.find 1) (s.node 9).epoch enc = .ok (aStamp 2) ∧ (∀ k < 10, ((s.node k).c - (aStamp 2).extractLsb' (16 * k) 16).toNat < 2 ^ 15)
      ∧ ∃ u p, arrival s 1 9 0 = .item u (.pkt p) ∧ (s.node 9).early.length < 2039)
    ∧ (let i := Item.pkt (Packet.mk 0 0 1#16 [(0, 1#16)] 0#8 (.read 1 2 (Loc.mk 0 0 0) 8))
       let s : State := { base with nodes := [(0, { Node.initial with c := 1#16, k := [(0, 1#16)], mesh := [MeshItem.mk 0 5 i] })], golden := [(0, 5)] }
       (s.node 0).mesh = [] ++ MeshItem.mk 0 5 i :: [] ∧ SMap.get s.fresh.mesh 0 0 ≤ 0 ∧ s.golden.get 0 0 = 5 ∧ ∃ u p, arrival s 0 0 0 = .item u (.pkt p) ∧ (s.node 0).early.length < 2039) :=
  ⟨⟨rfl, by decide, by decide, by decide, _, _, rfl, by decide⟩, rfl, by decide, by decide, _, _, rfl, by decide⟩
/-- FabricMoves: writes of every kind, atomics of both widths, a word of a copy, and an arrival at a barrier may be applied. -/
theorem test_packets_may_be_applied : ∀ b ∈ [Body.write 1 2 (Loc.mk 0 0x1000 0) [1#8], .write 1 2 (Loc.mk 1 0x1000 0x100) [1#8, 2#8], .write 1 2 (Loc.mk 2 0x1000 0) [1#8], .write 1 2 (Loc.mk 3 0x1000 0) [1#8],
      .atom 1 2 (Loc.mk 0 0x1000 0) 4 .add (2 ^ 32 - 1) 0, .atom 1 2 (Loc.mk 0 0x1000 0) 8 .cas (2 ^ 64 - 1) (2 ^ 64 - 1), .copyWrite 9 3 (Loc.mk 0 0x200C 0) [1#8, 2#8, 3#8, 4#8], .arrive 1 2],
    let s := { atHome b (rowOf 1 0 []) with copies := [(9, aCopy .cpyg (some 7#32))] }
    Rules.Waiting s 0 [] (aPacket b) [] ∧ s.copies.find 9 = some (aCopy .cpyg (some 7#32)) ∧ (aCopy .cpyg (some 7#32)).op ≠ .publ ∧ (aCopy .cpyg (some 7#32)).words.sorted = true := by
  intro b hb
  fin_cases hb <;> exact ⟨⟨rfl, by unfold Rules.canApply; decide⟩, rfl, by decide, by decide⟩
/-- FabricMoves: reads of memory and of the host, and of a copy, while no write that waits may be applied. -/
theorem test_reads_may_be_answered : ∀ b ∈ [Body.read 1 2 (Loc.mk 0 0x1000 0) 16, .read 1 2 (Loc.mk 2 0x1000 0) 8, .copyRead 9 3 (Loc.mk 1 0x1000 0x100), .copyRead 9 3 (Loc.mk 3 0x1000 0)],
    let w : Packet := Packet.mk 2 0 2#16 [(2, 2#16)] 0#8 (.write 1 2 (Loc.mk 0 0x1000 0) [1#8])
    let s := (atHome b (rowOf 1 0 [])).modNode 0 (fun n => { n with early := n.early ++ [w, { w with seq := 1#16, stamp := [(2, 1#16), (3, 1#16)] }] })
    (s.node 0).early = [] ++ aPacket b :: [w, { w with seq := 1#16, stamp := [(2, 1#16), (3, 1#16)] }] ∧ Rules.canAnswer s 0 (aPacket b)
      ∧ ∀ q ∈ (s.node 0).early, q.body.writes = true → ¬Rules.canApply s 0 q := by
  intro b hb
  fin_cases hb <;> exact ⟨rfl, by unfold Rules.canAnswer; decide, by unfold Rules.canApply; decide⟩
/-- The load of lane 63 in queue 3, behind a store. -/
def aLoad : MemOp := MemOp.mk 7 (Loc.mk 0 0x1000 0) 8 (.load (.size .d) [4, 5]) true none
def loading (m : Stamp) (s : State) : State :=
  { s with opqs := [(3, OpQ.mk (.thread 1 0 63) 0 0 m [MemOp.mk 6 (Loc.mk 0 0x2000 0) 1 (.store [1#8]) true none, aLoad])] }
/-- FabricMoves: an answer that is late enough reaches a load, one that is not is asked for again, and a copy's word arrives. -/
theorem test_answers_arrive :
    (∀ m ∈ [[], [(0, 1#16)]],
      let s := answered (.mem 3 7 (List.replicate 8 0xFF#8)) (loading m base)
      ∃ u r oq, arrival s 0 0 0 = .item u (.resp r) ∧ r.body = .mem 3 7 (List.replicate 8 0xFF#8) ∧ u.opqs.find 3 = some oq
        ∧ oq.ops = [MemOp.mk 6 (Loc.mk 0 0x2000 0) 1 (.store [1#8]) true none] ++ aLoad :: [] ∧ (∀ x ∈ [MemOp.mk 6 (Loc.mk 0 0x2000 0) 1 (.store [1#8]) true none], x.id ≠ 7 ∧ ∃ b, x.kind = .store b)
        ∧ groupByUid u 1 0 = some (0, 0) ∧ (u.threads.find (64 * 0 + 63)).isSome = true
        ∧ ((∀ j < 10, (Stamp.at r.stamp j - Stamp.at oq.m j).toNat < 2 ^ 15) ↔ m = []))
    ∧ ∃ u r, arrival (answered (.copy 9 3 [1#8, 2#8, 3#8, 4#8]) base) 0 0 0 = .item u (.resp r) ∧ r.body = .copy 9 3 [1#8, 2#8, 3#8, 4#8] := by
  refine ⟨?_, _, _, rfl, rfl⟩
  intro m hm
  fin_cases hm <;> exact ⟨_, _, _, rfl, rfl, rfl, rfl, fun x hx => by obtain rfl := List.mem_singleton.mp hx; exact ⟨by decide, _, rfl⟩, rfl, by decide, by decide⟩
/-- FabricMoves: the token of channel 9 visits node 1; a beat arrives there. -/
theorem test_tokens_and_beats :
    (let s := underway [] { base with plat := { base.plat with bringUp := 4 } }
     4 ≤ s.plat.bringUp ∧ 9 ∉ s.removed ∧ 1 ∉ s.removed ∧ (s.chan 9).pos = 1 ∧ (s.chan 9).frozen = false)
    ∧ (underway [.beat 1 2#16 0#16] base).chan 9 = { Chan.initial 9 with pos := 1, flights := [Flight.beat 2 0#16 0#16] ++ .beat 1 2#16 0#16 :: [] } :=
  ⟨by decide, rfl⟩
/-- FabricErrors: a packet whose stamp has a reserved bit, or the reserved form, and an answer of another epoch. -/
theorem test_arrivals_in_error :
    (let s := underway [.item 1 (.full (aStamp 2 ||| 1#192 <<< 160)) (.pkt (Packet.mk 1 9 2#16 [(1, 2#16)] 0#8 (.read 1 2 (Loc.mk 0 0 0) 8)))] base
     ∃ u i, arrival s 1 9 0 = .fault u 4 i)
    ∧ (let s := underway [.item 1 .reserved (.pkt (Packet.mk 1 9 2#16 [(1, 2#16)] 0#8 (.read 1 2 (Loc.mk 0 0 0) 8)))] base
       ∃ u i, arrival s 1 9 0 = .fault u 4 i)
    ∧ (let s := underway [.item 1 (.full (aStamp 2 ||| 1#192 <<< 184)) (.resp (Resp.mk 1 9 [(1, 2#16)] 1#8 (.mem 3 7 [])))] base
       ∃ u i, arrival s 1 9 0 = .fault u 6 i) :=
  ⟨⟨_, _, rfl⟩, ⟨_, _, rfl⟩, _, _, rfl⟩
/-- FabricErrors: a link to repeat, a token that is lost, a mesh that does not deliver, and golden status in clk 512. -/
theorem test_fabric_errors_occur :
    (∃ f ∈ ((underway [] base).chan 9).flights, f.src = 2)
    ∧ (let s : State := { base with time := 256#48, plat := { base.plat with bringUp := 4 } }
       4 ≤ s.plat.bringUp ∧ 9 ∉ s.removed ∧ 256 ≤ (s.time - BitVec.ofNat 48 (s.chan 9).lastPass).toNat)
    ∧ (let s : State := { answered (.mem 3 7 []) base with time := 65536#48 }
       (∃ e ∈ (s.node 0).mesh, 65536 ≤ (s.time - BitVec.ofNat 48 e.at_).toNat) ∧ (s.chan 0).frozen = false)
    ∧ ({ base with time := 512#48 } : State).golden.get 7 0 ≠ ({ base with time := 512#48 } : State).time.toNat / 512 % 128 ∧ (1#64 <<< 63 : DWord).getLsbD 63 = true := by
  decide
/-- FabricErrors: a resynchronisation that nothing holds up. -/
theorem test_resynchronisation_ends :
    let r : Resync := Resync.mk 2 none 0
    let s : State := { base with resync := some r, time := 256#48 }
    s.resync = some r ∧ r.removed = none ∧ drained287 s r = true ∧ ∀ k < 10, discards s r k = [] := by
  exact ⟨rfl, rfl, by decide, by decide⟩

/-! ## Witnesses: tasks, allowance, queues, the distributor, pre-emption -/

/-- The lease of the task on core 0, and its record. -/
def leased (bal : Nat) (req : Option LeaseReq) (s : State) : State := { s with leases := [(0, Lease.mk bal req [])] }
def asTask (f : Task → Task) (s : State) : State := s.modTask 0 f
/-- A charge of the group's path. -/
def payer : Payer := { who := .group 0, lanes := [0, 63], pc := 0x10000#64 }
/-- LeasesAndStarvation: a lease of nothing and a refill; charges that fail for a task that has just enough, and one AU too little; STVCYC over. -/
theorem test_leases_are_asked :
    (∀ p ∈ [(0, LeaseReq.lease), (63, .refill)], ∃ x, (leased p.1 (some p.2) base).tasks.find 0 = some x ∧ x.state = .running
        ∧ (leased p.1 (some p.2) base).leases.find (65536 * 0 + 0) = some (Lease.mk p.1 (some p.2) []) ∧ (p.2 = .lease ∨ p.2 = .refill)
        ∧ Rules.requestTurn (leased p.1 (some p.2) base) 0 0)
    ∧ (∀ amount ∈ [4159, 4160], let s := leased 63 (some (.failing payer amount)) base
      ∃ x, s.tasks.find 0 = some x ∧ x.state = .running ∧ s.leases.find (65536 * 0 + 0) = some (Lease.mk 63 (some (.failing payer amount)) []) ∧ 4159 = x.pool + Rules.balances s 0
        ∧ Rules.requestTurn s 0 0)
    ∧ (let s := asTask (fun t => { t with state := .starved, starvedAt := some 0, desc := bytesOfNat 64 (natOfBytes t.desc + 2 ^ 28 + 100 * 2 ^ 448) }) { base with time := 100#48 }
       ∃ x, s.tasks.find 0 = some x ∧ x.starvedAt = some 0 ∧ x.state = .starved ∧ natBits (natOfBytes x.desc) 28 28 = 1
        ∧ natBits (natOfBytes x.desc) 479 448 ≤ (s.time - BitVec.ofNat 48 0).toNat ∧ SMap.get s.fresh.units 0 0 < 3003) := by
  unfold Rules.requestTurn
  refine ⟨?_, ?_, found _ (fun (x : Task) => x.starvedAt = some 0 ∧ x.state = .starved ∧ _ = 1 ∧ _ ≤ _ ∧ _ < _) (by decide +kernel)⟩
  · intro p hp
    fin_cases hp <;> exact found _ (fun (x : Task) => x.state = .running ∧ _ = some _ ∧ (_ ∨ _) ∧ _ < _ ∧ ∀ e ∈ (_ : List (Nat × Lease)), _ → _ → (_ ∨ _)) (by decide)
  · intro a ha
    fin_cases ha <;> exact found _ (fun (x : Task) => x.state = .running ∧ _ = some _ ∧ _ = x.pool + _ ∧ _ < _ ∧ ∀ e ∈ (_ : List (Nat × Lease)), _ → _ → (_ ∨ _)) (by decide)
/-- LeasesAndStarvation: after the request of core 0, that of core 1 in the same clk. -/
theorem test_requests_have_an_order :
    let s : State := { Rules.unitAt (leased 63 none base) 0 1000 with leases := [(0, Lease.mk 63 none []), (65536, Lease.mk 0 (some .lease) [])] }
    Rules.requestTurn s 1 0 ∧ ¬Rules.requestTurn s 0 0 := by
  unfold Rules.requestTurn
  decide
/-- A lead that waits at the home unit of task 5. -/
def asking (st : TaskState) (w : LWait) : State := withChild st 0#64 (leadWaits w)
/-- HomeUnitAnswers: the answers of each command, and UNWIND of a child that runs and of one that is final. -/
theorem test_home_units_answer :
    (∀ p ∈ [(3, TaskState.queued), (6, .completed), (2, .starved), (2, .failed)],
      let s := asking p.2 (.unit p.1 63 0x10005#32)
      ∃ c, lctxOf s 0 = some c ∧ c.team.lead.wait = .unit p.1 63 0x10005#32 ∧ (5 = (0x10005#32).toNat % 2 ^ 16 ∧ s.tasks.find 5 = some { probeTask with state := p.2, parent := some 0, pool := 7 }
        ∧ some 0 = some c.team.task ∧ (probeTask.gen).toNat = (0x10005#32).toNat / 2 ^ 16) ∧ s.teams.sorted = true
        ∧ (∀ e ∈ s.teams, e.1 ≠ 0 → e.2.task = c.team.task → False)
        ∧ SMap.get s.fresh.units 5 0 ≤ 4000 ∧ (c.team.uid, 63) ∉ s.fresh.inbox ∧ (c.team.uid, 64) ∉ s.fresh.inbox ∧ SMap.get s.fresh.units c.team.task 0 ≤ 1)
    ∧ ∀ st ∈ [TaskState.running, .unwound, .unwinding], let s := asking st (.unwind 0x10005#32)
      ∃ c, lctxOf s 0 = some c ∧ c.team.lead.wait = .unwind 0x10005#32 ∧ s.tasks.find 5 = some { probeTask with state := st, parent := some 0, pool := 7 }
        ∧ SMap.get s.fresh.units 5 0 < 3002 ∧ completes s 5 { probeTask with state := st, parent := some 0, pool := 7 } = false ∧ ∀ e ∈ s.leases, e.1 % 65536 = 5 → e.2.req = none ∧ e.2.paid = [] := by
  constructor
  · intro p hp
    fin_cases hp <;> exact found _ (fun (c : LCtx) => c.team.lead.wait = _ ∧ (_ ∧ _ = some _ ∧ some 0 = some c.team.task ∧ _ = _) ∧ _ = true ∧ (∀ e ∈ (_ : List (Nat × Team)), e.1 ≠ 0 → e.2.task = c.team.task → False)
      ∧ _ ≤ _ ∧ (c.team.uid, _) ∉ _ ∧ (c.team.uid, _) ∉ _ ∧ _ ≤ 1) (by decide)
  · intro st hs
    fin_cases hs <;> exact found _ (fun (c : LCtx) => c.team.lead.wait = _ ∧ _ = some _ ∧ _ < _ ∧ _ = false ∧ ∀ e ∈ (_ : List (Nat × Lease)), _ → _) (by decide)
/-- HomeUnitAnswers: an UNWIND of a child that runs, with the request of a core before it. -/
theorem test_unwind_comes_after_requests :
    let s : State := { asking .running (.unwind 0x10005#32) with leases := [(65536 * 767 + 5, Lease.mk 63 (some .refill) [])] }
    ∃ c, lctxOf s 0 = some c ∧ c.team.lead.wait = .unwind 0x10005#32 ∧ Rules.AsksChild s c 0x10005#32 5 { probeTask with state := .running, parent := some 0, pool := 7 }
      ∧ ∃ e ∈ s.leases, e.1 % 65536 = 5 ∧ e.2.req ≠ none := by
  unfold Rules.AsksChild
  exact found _ (fun (c : LCtx) => c.team.lead.wait = _ ∧ (_ ∧ _ = some _ ∧ some 0 = some c.team.task ∧ _ = _) ∧ ∃ e ∈ (_ : List (Nat × Lease)), _ = _ ∧ e.2.req ≠ none) (by decide)
/-- TeamsAndTasksEnd: the last team of a task, and one of two. -/
theorem test_team_is_over : ∀ n ∈ [1, 2],
    let s : State := { asTask (fun t => { t with teams := n }) (base.modLead 0 (fun l => { l with ended := true })) with groups := [], threads := [] }
    ∃ tm x, s.teams.find 0 = some tm ∧ s.tasks.find tm.task = some x ∧ (∀ e ∈ s.groups, e.2.team ≠ 0) ∧ tm.lead.ended = true ∧ enginesDone s tm = true ∧ x.children = [] := by
  intro n hn
  fin_cases hn <;> exact ⟨_, _, rfl, rfl, by decide, rfl, by decide, rfl⟩
/-- Tasks: 0 in a state, and its child 5 in another. -/
def family (a b : TaskState) (children : List Nat) : State :=
  { asTask (fun t => { t with state := a, children := children }) base with tasks := (asTask (fun t => { t with state := a, children := children }) base).tasks.put 5 { probeTask with state := b, parent := some 0, remainder := 9 } }
theorem turnOf (s : State) (task : Nat) (x : Task)
    (h : SMap.get s.fresh.units task 0 < 3001 ∧ ∀ p y, x.parent = some p → s.tasks.find p = some y → SMap.get s.fresh.units p 0 ≤ 1) : Rules.finishTurn s task x :=
  ⟨h.1, fun p y hp hy _ => h.2 p y hp hy⟩
/-- TeamsAndTasksEnd: nothing is due before it (R307). -/
theorem test_tasks_have_their_turn : ∀ p ∈ [(TaskState.running, TaskState.draining, 5), (.draining, .draining, 5), (.draining, .completed, 0), (.unwinding, .failed, 0)],
    ∃ x, (family p.1 p.2.1 [5]).tasks.find p.2.2 = some x ∧ Rules.finishTurn (family p.1 p.2.1 [5]) p.2.2 x := by
  intro p hp
  fin_cases hp <;> exact ⟨_, rfl, turnOf _ _ _ ⟨by decide, fun p y hp _ => by cases hp <;> decide⟩⟩
/-- TeamsAndTasksEnd: a child that completes under a parent that runs, and under one that is DRAINING; a root that completes; an unwind that ends. -/
theorem test_tasks_end :
    (∀ a ∈ [TaskState.running, .draining], ∃ x, (family a .draining [5]).tasks.find 5 = some x ∧ x.state = .draining ∧ x.children = [] ∧ taskQuiet (family a .draining [5]) 5 = true ∧ x.parent = some 0)
    ∧ (∃ x, (family .draining .completed []).tasks.find 0 = some x ∧ x.state = .draining ∧ x.children = [] ∧ taskQuiet (family .draining .completed []) 0 = true ∧ x.parent = none)
    ∧ (∃ x, (family .unwinding .failed [5]).tasks.find 0 = some x ∧ x.state = .unwinding ∧ x.children.Nodup ∧ 0 ∉ x.children ∧ taskQuiet (family .unwinding .failed [5]) 0 = true
        ∧ ∀ k ∈ x.children, ((family .unwinding .failed [5]).tasks.find k).map (fun y => (y.state.final, y.parent)) = some (true, some 0)) := by
  refine ⟨?_, found _ (fun (x : Task) => x.state = _ ∧ x.children = [] ∧ _ = true ∧ x.parent = none) (by decide),
    found _ (fun (x : Task) => x.state = _ ∧ x.children.Nodup ∧ 0 ∉ x.children ∧ _ = true ∧ ∀ k ∈ x.children, _ = some (true, some 0)) (by decide)⟩
  intro a ha
  fin_cases ha <;> exact found _ (fun (x : Task) => x.state = _ ∧ x.children = [] ∧ _ = true ∧ x.parent = some 0) (by decide)
/-- QueueSlots: a SPAWN.W for which there is room, 4,096 clk after its issue. -/
theorem test_spawn_w_waits_for_room :
    let s := withQueue 3 0 { leadWaits (.spawnW probeDesc 0#64 3 4096 0) with time := 4096#48 }
    ∃ tm, s.teams.find 0 = some tm ∧ tm.lead.wait = .spawnW probeDesc 0#64 3 4096 0 ∧ tm.swap = none ∧ (tm.uid, 3) ∉ s.fresh.inbox ∧ 4096 ≤ (s.time - BitVec.ofNat 48 0).toNat ∧ (openRing s 0).isSome = true
      ∧ ringWr s (Place.mk 0 0x100000) < ringHead s (Place.mk 0 0x100000) + ringCap s (Place.mk 0 0x100000) :=
  found _ (fun (tm : Team) => tm.lead.wait = _ ∧ tm.swap = none ∧ (tm.uid, _) ∉ _ ∧ _ ≤ _ ∧ _ = true ∧ _ < _) (by decide +kernel)
/-- A queue, device or interface, with a slot at HEAD that holds `ticket` and a request of a descriptor under a PASID. -/
def slotAt (q ticket : Nat) (desc : List Byte) (pasid : Nat) : State :=
  let s := withQueue 1 0 base
  let s : State := { s with queues := [(q, { s.queue 0 with bell := 1#64, due := true })] }
  stored 0x110078 8 ticket (stored 0x11004C 4 pasid (stored 0x110000 64 (natOfBytes desc) s))
/-- QueueSlots: slots whose TICKET is not HEAD, of a device queue with its child and without, and of an interface: good, foreign, and with a bad descriptor. -/
theorem test_slots_are_due :
    (∀ p ∈ [(0, 1, probeDesc, 0), (0, 0, probeDesc, 0), (16, 0, probeDesc, 0), (79, 0, probeDesc, 7), (16, 0, [], 0)], let s := slotAt p.1 p.2.1 p.2.2.1 p.2.2.2
      Rules.Consuming s p.1 (Place.mk 0 0x100000) ∧ (s.queue p.1).due = true ∧ ringNat s (ringSlot s (Place.mk 0 0x100000) 0) 120 8 = p.2.1 ∧ ringHead s (Place.mk 0 0x100000) = 0
        ∧ (descOk s 0 (s.readLoc (Loc.mk 0 0x110000 0) 64) (BitVec.ofNat 64 (ringNat s (ringSlot s (Place.mk 0 0x100000) 0) 64 8)) = true ↔ p.2.2.1 ≠ [])
        ∧ ringNat s (ringSlot s (Place.mk 0 0x100000) 0) 76 4 = p.2.2.2 ∧ s.tasks.find 8191 = none)
    ∧ ∀ e ∈ (slotAt 0 0 probeDesc 0).tasks, ¬(e.2.queue = 0 ∧ e.2.ticket = 0 ∧ e.2.state = .queued ∧ e.2.ready = false) := by
  constructor
  · intro p hp
    fin_cases hp <;> exact ⟨by unfold Rules.Consuming; decide +kernel, by decide +kernel, by decide +kernel, by decide +kernel, by decide +kernel, by decide +kernel, by decide⟩
  · decide +kernel
/-- QueueSlots: the slot of a device queue's child, and an interface whose die has no free entry. -/
theorem test_slots_with_tasks :
    (let x : Task := { probeTask with queue := 0, ticket := 0, state := .queued, parent := some 0 }
     let s := slotAt 0 0 probeDesc 0
     let s : State := { s with tasks := s.tasks.put 5 x }
     (5, x) ∈ s.tasks ∧ s.tasks.find 5 = some x ∧ x.ready = false ∧ ∀ e ∈ s.tasks, e.2.queue = 0 → e.2.ticket = 0 → e.2.state = .queued → e.2.ready = false → e.1 = 5)
    ∧ ∀ e < 8192, ({ slotAt 16 0 probeDesc 0 with tasks := (List.range 8192).map (fun e => (e, probeTask)) } : State).tasks.find (8192 * ((16 - 16) % 8) + e) ≠ none := by
  refine ⟨by decide +kernel, ?_⟩
  have key : ∀ (l : List Nat) (k : Nat), k ∈ l → SMap.find (l.map (fun e => (e, probeTask))) k ≠ none := by
    intro l k hk
    induction l with
    | nil => cases hk
    | cons a l ih =>
      simp only [List.map_cons, SMap.find]
      split
      · exact fun h => by cases h
      · rename_i hne
        rcases List.mem_cons.mp hk with rfl | h
        · exact absurd rfl hne
        · exact ih h
  intro e he
  have h := key (List.range 8192) e (List.mem_range.mpr he)
  simpa using h
/-- TeamsArePlaced: candidates that each step of the order decides. -/
theorem test_candidates_differ :
    let a := Cand.mk 1 none false 5 16 0 0
    (∀ x y : BitVec 48, x = 0xFFFFFFFFFFFF#48 → y = 0#48 → x ≠ y ∧ (y - x).toNat ≠ 2 ^ 47)
    ∧ ({ a with deadline := some 0#48 } : Cand).deadline ≠ none ∧ a.deadline = ({ a with again := true } : Cand).deadline ∧ a.again ≠ ({ a with again := true } : Cand).again
    ∧ a.admitted < ({ a with admitted := 6 } : Cand).admitted ∧ ({ a with admitted := 6 } : Cand).admitted < a.admitted + 2 ^ 47 ∧ a.admitted < 2 ^ 48 := by
  refine ⟨?_, by decide⟩
  rintro x y rfl rfl
  decide
/-- A root in the ready set, from queue 16, that has placed `placed` of two teams. -/
def unplaced (placed : Nat) (s : State) : State :=
  { asTask (fun t => { t with state := if placed = 0 then .queued else .running, ready := true, placed := placed, teams := 2 }) s with
    queues := [(16, { Queue.initial with block := some (Place.mk 0 0x100000), opened := true, enabled := true })] }
/-- TeamsArePlaced: the first team of a task on an empty package, and its second one on the first core without a group. -/
theorem test_placements_are_chosen : ∀ p ∈ [(0, 0, [0]), (1, 1, [7])],
    let s := if p.1 = 0 then { unplaced 0 base with teams := [], groups := [], threads := [], quadAlloc := [] } else unplaced 1 base
    ∃ x, s.tasks.find 0 = some x ∧ Rules.FreeContext s p.2.1 0 ∧ x.ready = true ∧ x.placed < x.teams ∧ (x.state = .queued ∨ x.state = .running ∨ x.state = .starved)
      ∧ mayPlace s 0 = true ∧ mayTake s (x.cand false x.placed) p.2.1 = true ∧ chosenCore s x (taskNeed 0 x.desc) p.2.1 = true
      ∧ p.2.2.length = natBits (natOfBytes x.desc) 18 16 + 1 ∧ p.2.2.Nodup ∧ ∀ k ∈ p.2.2, k < 8 ∧ s.groups.find (8 * p.2.1 + k) = none := by
  intro p hp
  fin_cases hp
  all_goals refine ⟨_, rfl, ⟨by decide, by decide, by decide⟩, ?_⟩
  all_goals decide +kernel

/-! ## Witnesses: arbitration, swaps and pre-emption -/

/-- The issue slots of core 0 and its group's paths: a running path, or one that waits, and one parked. -/
def slots (g l : Option Nat) (s : State) : State := s.modCore 0 (fun c => { c with gHold := g, lHold := l })
def stalled (s : State) : State :=
  s.modGroup 0 (fun g => { g with running := g.running.map (fun p => { p with wait := .xconv 0#64 }), parked := [parkedPath .none], parkCtr := 1 })
/-- ArbitrationAndSwaps: a group wins with its running path, and another with its parked one; and nobody contends. -/
theorem test_groups_contend :
    (∀ s ∈ [slots none (some 0) base, slots none (some 0) (stalled base)], s.plat.thermal = false ∧ (s.core 0).gHold = none ∧ (s.core 0).gIssued = false ∧ s.groups.sorted = true
      ∧ Rules.Wins (Rules.GroupContends s 0) (Contender.mk 0 0 0 0) ∧ (s.groups.find 0).isSome = true)
    ∧ (∀ p, (((stalled base).groups.find 0).bind (fun g => g.running)) = some p → p.lanes ≠ [] ∧ canIssue (slots none (some 0) (stalled base)) 0 (((stalled base).groups.find 0).getD (probeGroup .int)) p = false)
    ∧ ∀ w, ¬Rules.GroupContends { slots none (some 0) base with groups := [] } 0 w := by
  have only : ∀ s : State, (∃ g, s.groups = [(0, g)] ∧ Rules.GroupContends s 0 (Contender.mk 0 0 0 0)) → Rules.Wins (Rules.GroupContends s 0) (Contender.mk 0 0 0 0) := by
    rintro s ⟨g0, hs, hw⟩
    refine ⟨hw, ?_⟩
    rintro ⟨key, prio, age, tie⟩ ⟨h1, h2, h3, g, tm, x, h4, h5, h6, h7, _⟩
    obtain ⟨_, _, k3, g', tm', x', k4, k5, k6, k7, _⟩ := hw
    have hk : key = 0 := by
      by_contra hne
      rw [hs] at h4
      simp [SMap.find] at h4
      exact hne h4.1
    subst hk
    left
    simp only at h2 h3 h4 k3 k4 h7 k7
    rw [k4] at h4
    obtain rfl := Option.some.inj h4
    rw [k5] at h5
    obtain rfl := Option.some.inj h5
    rw [k6] at h6
    obtain rfl := Option.some.inj h6
    simp only [Contender.mk.injEq]
    exact ⟨trivial, by rw [h7, ← k7], by rw [h3, ← k3], h2⟩
  refine ⟨?_, ?_, ?_⟩
  · intro s hs
    fin_cases hs
    · exact ⟨rfl, rfl, rfl, rfl, only _ ⟨_, rfl, rfl, rfl, by decide, _, _, _, rfl, rfl, rfl, by decide, _, .inl rfl, by decide⟩, rfl⟩
    · exact ⟨rfl, rfl, rfl, rfl, only _ ⟨_, rfl, rfl, rfl, by decide, _, _, _, rfl, rfl, rfl, by decide, _, .inr (List.mem_singleton.mpr rfl), by decide⟩, rfl⟩
  · intro p hp
    have h : p = Machine.Path.mk 0 [0, 63] { pc := 0x10000#64, remain := 15, cls := .int, y := false, rep := none, repFrom := none } (.xconv 0#64) := (Option.some.inj hp).symm
    subst h
    decide
  · rintro w ⟨_, _, _, g, tm, x, h, _⟩
    cases h
/-- ArbitrationAndSwaps: a lead wins, and no lead contends. -/
theorem test_leads_contend :
    (let s := slots (some 0) none base
     s.plat.thermal = false ∧ ((s.core 0).gHold ≠ none ∨ (s.core 0).gIssued = true) ∧ (s.core 0).lHold = none ∧ (s.core 0).lIssued = false ∧ s.teams.sorted = true ∧ Rules.Wins (Rules.LeadContends s 0) (Contender.mk 0 0 0 1))
    ∧ ∀ w, ¬Rules.LeadContends { slots (some 0) none base with teams := [] } 0 w := by
  refine ⟨⟨rfl, by decide, rfl, rfl, by decide, ⟨by decide, _, rfl, by decide, by decide +kernel, rfl, by decide⟩, ?_⟩, ?_⟩
  · rintro ⟨key, prio, age, tie⟩ ⟨h1, c, h2, h3, h4, h5, h6⟩
    by_cases hk : key = 0
    · subst hk
      left
      have hc : c = (lctxOf (slots (some 0) none base) 0).get (by decide) := by
        simp only at h2
        simp [h2]
      subst hc
      simp only [Contender.mk.injEq]
      exact ⟨trivial, h6.trans (by decide), (show age = winAge ((slots (some 0) none base).core 0).lWins 0 from h1).trans (by decide), h5⟩
    · exfalso
      have : lctxOf (slots (some 0) none base) key = none := by
        have h : (slots (some 0) none base).teams.find key = none := by
          show SMap.find [(0, _)] key = none
          simp [SMap.find, hk]
        simp [lctxOf, h]
      simp only at h2
      rw [this] at h2
      cases h2
  · rintro w ⟨_, c, h, _⟩
    simp [lctxOf, SMap.find] at h
/-- The queue of the task, with a pre-emption in progress or not. -/
def queue16 (f : Queue → Queue) (s : State) : State :=
  { s with queues := [(16, f { Queue.initial with block := some (Place.mk 0 0x100000), opened := true, enabled := true })] }
/-- ArbitrationAndSwaps: the three reasons. -/
theorem test_swaps_have_reasons :
    (∀ stage ∈ [0, 1], let r := FaultRec.mk 0 0 1 0#32 false 0 0 stage 0#20 0#64 1
      let s := team (fun t => { t with faults := [r, { r with va := 0x2000#64 }] })
      ∃ tm x, s.teams.find 0 = some tm ∧ s.tasks.find tm.task = some x ∧ tm.swap = none ∧ tm.faults ≠ [] ∧ (s.spaces.find x.space).isSome = true)
    ∧ (let s := { leadWaits (.spawnW probeDesc 0#64 3 4096 1) with time := 4097#48 }
       ∃ tm x, s.teams.find 0 = some tm ∧ s.tasks.find tm.task = some x ∧ tm.swap = none ∧ tm.lead.wait = .spawnW probeDesc 0#64 3 4096 1 ∧ 4096 ≤ (s.time - BitVec.ofNat 48 1).toNat)
    ∧ (let s := queue16 (fun q => { q with pre := true, rung := 2 }) base
       ∃ tm, s.teams.find 0 = some tm ∧ tm.swap = none ∧ concerned s 16 tm.task = true ∧ (s.queue 16).pre = true ∧ 2 ≤ (s.queue 16).rung) := by
  refine ⟨?_, ⟨_, _, rfl, rfl, rfl, rfl, by decide⟩, _, rfl, rfl, by decide, rfl, by decide⟩
  intro stage hs
  exact ⟨_, _, rfl, rfl, rfl, by simp, rfl⟩
/-- ArbitrationAndSwaps: a team that is stopped, the holder of its core's array among its like. -/
theorem test_saves_are_ready : ∀ holder ∈ [none, some 1],
    let s := (slots none none (team (fun t => { t with swap := some 3#4 }))).modCore 0 (fun c => { c with array := { c.array with holder := holder } })
    ∃ tm, s.teams.find 0 = some tm ∧ tm.swap = some 3#4 ∧ saveReady s 0 tm = true ∧ tm.uid ∉ s.fresh.saves ∧ s.heldReqs = [] ∧ tm.task < 65536 ∧ s.groups.sorted = true ∧ s.threads.sorted = true
      ∧ (∀ e ∈ s.groups, ∀ f ∈ s.groups, e.2.team = 0 → f.2.team = 0 → e.2.gid = f.2.gid → e = f) ∧ ((s.core tm.core).array.holder = some tm.uid ↔ holder = some 1) := by
  intro holder hh
  fin_cases hh <;> exact found _ (fun (tm : Team) => tm.swap = _ ∧ _ = true ∧ tm.uid ∉ _ ∧ _ = [] ∧ tm.task < 65536 ∧ _ = true ∧ _ = true ∧ _ ∧ (_ ↔ _)) (by decide)
/-- A saved team, with a delivery held for it, on a package without teams. -/
def anImage (reason : BitVec 4) : Saved :=
  { team := probeTeam 1 3, groups := [(0, probeGroup .int)], threads := [(0, probeThread 2), (63, probeThread 4)], reason := reason, ready := true, savetime := 0,
    k := [(1, 5#16)], epoch := 0#8, held := [Delivery.mk 16380 [1#8, 2#8, 3#8, 4#8] (some 3) [(2, 9#16)]], cmd := none }
def savedState (reason : BitVec 4) : State := queue16 id { base with teams := [], groups := [], threads := [], quadAlloc := [], images := [(1, anImage reason)] }
/-- ArbitrationAndSwaps: a saved team may enter. -/
theorem test_reentries_are_chosen : ∀ reason ∈ [1#4, 2#4, 3#4],
    ∃ x, (savedState reason).images.find 1 = some (anImage reason) ∧ (anImage reason).team.uid = 1 ∧ (savedState reason).tasks.find (anImage reason).team.task = some x
      ∧ Rules.FreeContext (savedState reason) 0 0 ∧ (anImage reason).mayEnter (savedState reason) = true ∧ mayTake (savedState reason) (x.cand true (anImage reason).team.index) 0 = true
      ∧ chosenCore (savedState reason) x (anImage reason).need 0 = true ∧ Rules.FreePlaces (savedState reason) 0 (anImage reason).groups.length [7]
      ∧ (anImage reason).team.heldSa = [] ∧ (anImage reason).homes = [] ∧ (anImage reason).ready = true ∧ (anImage reason).threads.sorted = true ∧ ∀ e ∈ (savedState reason).teams, e.2.uid ≠ 1 := by
  intro reason hr
  fin_cases hr <;> exact ⟨_, rfl, rfl, rfl, ⟨by decide, by decide, by decide⟩, by decide, by decide +kernel, by decide +kernel, ⟨by decide, by decide, by decide⟩, rfl, by decide, rfl, by decide, by decide⟩
/-- Preemption: writes of the notify pages of interface 63; requests with none in progress, one, and a reset. -/
theorem test_requests_are_made :
    (let s : State := { base with plat := { base.plat with linkUp := true } }
     s.plat.linkUp = true ∧ storesDone s 0 = true ∧ (2#64 : DWord).getLsbD 1 = true ∧ (1#64 : DWord).getLsbD 1 = false ∧ (1#64 : DWord).getLsbD 0 = true ∧ (0#64 : DWord).getLsbD 0 = false)
    ∧ ∀ p ∈ [(false, false), (true, false), (true, true)], let s := queue16 (fun q => { q with pre := p.1, resetting := p.2 }) base
      (s.queue 16).block = some (Place.mk 0 0x100000) ∧ (s.queue 16).pre = p.1 ∧ (s.queue 16).resetting = p.2 := by
  decide
/-- Preemption: T1 and T2 over while the task of the queue is not final. -/
theorem test_ladders_expire :
    (let s := queue16 (fun q => { q with pre := true, rung := 1 }) { base with time := 40000#48 }
     (s.queue 16).pre = true ∧ (s.queue 16).rung = 1 ∧ (s.queue 16).t1 ≤ (s.time - BitVec.ofNat 48 (s.queue 16).reqAt).toNat ∧ ¬Rules.NoneConcerned s 16 ∧ s.teams.sorted = true)
    ∧ let s := queue16 (fun q => { q with pre := true, rung := 2 }) { base with time := 160000#48 }
      (s.queue 16).pre = true ∧ (s.queue 16).rung = 2 ∧ (s.queue 16).t2 ≤ (s.time - BitVec.ofNat 48 (s.queue 16).rung2At).toNat ∧ ∃ e ∈ s.teams, concerned s 16 e.2.task = true := by
  unfold Rules.NoneConcerned
  decide
/-- Preemption: a request is done at rung 1, at rung 2 with the team saved, and as a reset. -/
theorem test_requests_are_done :
    (let s := queue16 (fun q => { q with pre := true, rung := 1 }) (asTask (fun t => { t with state := .completed }) base)
     (s.queue 16).resetting = false ∧ (s.queue 16).rung = 1 ∧ Rules.NoneConcerned s 16)
    ∧ (let s := queue16 (fun q => { q with pre := true, rung := 2 }) (savedState 3#4)
       (s.queue 16).resetting = false ∧ (s.queue 16).rung = 2 ∧ ∀ e ∈ s.teams, concerned s 16 e.2.task = false)
    ∧ let s := queue16 (fun q => { q with pre := true, rung := 3, resetting := true, cut := [(1, 1#16)] }) { base with tasks := [], nodes := (List.range 10).map (fun k => (k, { Node.initial with a := [(1, 1#16)] })) }
      (s.queue 16).resetting = true ∧ Rules.NoneConcerned s 16 ∧ fibresDone s = true
        ∧ ∀ k < 10, k ∉ s.removed → ∀ i < 10, i ∉ s.removed → (Stamp.at (s.node k).a i - (s.queue 16).cut.get i 0#16).toNat < 2 ^ 15 := by
  unfold Rules.NoneConcerned
  refine ⟨by decide, by decide, by decide +kernel⟩
/-- ArbitrationAndSwaps: a saved team with a read of its thread that is to be sent again. -/
theorem test_reentry_sends_again :
    let i := { anImage 1#4 with team := { probeTeam 1 3 with heldSa := [HeldSa.mk 9 0 63 0 0#32 3 true] } }
    i.homes ≠ [] ∧ roomFor (savedState 1#4) (0 / 96) i.homes.length = true ∧ ∀ h ∈ i.homes, h ∉ (savedState 1#4).removed := by
  decide +kernel

/-! ## Witnesses: the host, Ling and the platform

A clause that asks for a signature to hold cannot be shown to be met: whether one holds is a value that the spec leaves open (assumption 12).  For those two the witness says that nothing else is asked. -/

/-- The platform changed. -/
def plat (f : Platform → Platform) (s : State) : State := { s with plat := f s.plat }
def linked : State := plat (fun p => { p with linkUp := true, bringUp := 6 }) base
/-- HostAccesses: the last bytes of each memory of the device, within a line; completions of reads of the host's memory and of its BAR. -/
theorem test_host_accesses :
    linked.plat.linkUp = true ∧ (∀ p ∈ [(0, 384 * 2 ^ 30 - 64, 64), (1, 16 * 2 ^ 30 - 1, 1)], p.2.1 + p.2.2 ≤ (if p.1 = 0 then 384 * 2 ^ 30 else 16 * 2 ^ 30) ∧ p.2.2 ≠ 0 ∧ p.2.1 % 64 + p.2.2 ≤ 64 ∧ homeOf (Loc.mk p.1 p.2.1 0) ∉ linked.removed)
    ∧ (∀ place ∈ [Place.mk 2 (2 ^ 48 - 4), Place.mk 3 0], let s : State := { linked with linkReads := [.interrupt 0#64 0#32, .read 9 place 4 true 9 3 1] }
      s.linkReads = [.interrupt 0#64 0#32] ++ .read 9 place 4 true 9 3 1 :: [] ∧ s.resync = none ∧ (place.kind ≠ 2 → [1#8, 2#8, 3#8, 4#8].length = 4))
    ∧ ∀ upto ∈ [0, 1], let s := plat (fun p => { p with invals := [Inval.mk 1 0 false 0 [], Inval.mk 0 1 true upto [7]] }) base
      s.plat.invals = [Inval.mk 1 0 false 0 []] ++ Inval.mk 0 1 true upto [7] :: [] ∧ (upto = 0 ∨ invalDone s (Inval.mk 0 1 true upto [7]) = true) := by
  refine ⟨rfl, by decide, ?_, by decide⟩
  intro place hp
  exact ⟨rfl, rfl, fun _ => rfl⟩
/-- FunctionReads: a page's first and last registers; an error and a fault that are the last of their slots; and a home that is removed. -/
theorem test_function_reads :
    (linked.plat.linkUp = true ∧ 4088 < 4096 ∧ 4088 % 8 = 0 ∧ 2 ^ 24 - 4 + [1#8, 2#8, 3#8, 4#8].length ≤ 2 ^ 24)
    ∧ (let e := ErrEntry.mk 32768 9 true 0x20 0xFFFF 5#96
       let s := plat (fun p => { p with errLog := [ErrEntry.mk 0 0 false 0x42 0 0#96, e] }) linked
       s.plat.linkUp = true ∧ s.plat.errLog = [ErrEntry.mk 0 0 false 0x42 0 0#96] ++ e :: [] ∧ e.src < 2 ^ 16 ∧ e.code < 2 ^ 8 ∧ e.time < 2 ^ 48 ∧ e.seq < 2 ^ 64)
    ∧ (∀ ring ∈ [0, 1], let r := FaultRec.mk 1024 0 1 0#32 false 3 2 (ring % 2) 0#20 0#64 1
      let s := { linked with spaces := [(0, Space.mk 0x2000 none 0#20 [r] [r])] }
      s.plat.linkUp = true ∧ s.spaces.find (ring / 2) = some (Space.mk 0x2000 none 0#20 [r] [r]) ∧ r.stage < 2 ∧ r.acc < 4 ∧ r.level < 4 ∧ r.team < 2 ^ 16 ∧ r.time < 2 ^ 48 ∧ r.seq < 2 ^ 64)
    ∧ linked.qsag < 2 ^ 64 ∧ linked.ssar < 2 ^ 64
    ∧ let s := { linked with removed := [0] }
      s.plat.linkUp = true ∧ homeOf (Loc.mk 0 0 0) ∈ s.removed ∧ 0 % 64 + [1#8].length ≤ 64 := by
  decide
/-- LingCommands: the limits of MAPQ, a queue to enable and two that cannot be, pages for a code object and none, and the words of the other commands. -/
theorem test_ling_serves :
    Rules.Serves linked ∧ Rules.mayMap linked 79 (Place.mk 2 (2 ^ 48 - 64)) 1#20 (384 * 2 ^ 30 - 8192) (some 0) ∧ Rules.mayMap linked 15 (Place.mk 0 0) 0#20 0 none
    ∧ ¬Rules.mayMap linked 16 (Place.mk 0 0) 0#20 0 none ∧ ¬Rules.mayMap linked 0 (Place.mk 1 (16 * 2 ^ 30)) 0#20 0 none
    ∧ (let s := withQueue 0 0 linked
       Rules.Serves s ∧ (s.queue 0).pre = false ∧ (s.queue 0).block = some (Place.mk 0 0x100000) ∧ ringOk s (Place.mk 0 0x100000) = true
        ∧ (s.queue 1).block = none ∧ ringOk base (Place.mk 0 0x100000) = false)
    ∧ (∃ c : BitVec 16, c ∉ linked.plat.podIds) ∧ linked.plat.codeObjs.find 65535 = none ∧ linked.spaces.find 0 ≠ none ∧ storesDone linked 0 = true ∧ linked.fresh.roots = [] := by
  refine ⟨⟨rfl, rfl, rfl⟩, ⟨by decide, by decide, by decide, by decide, by decide, by decide, by decide, ⟨by decide, by decide⟩, ?_⟩, ⟨by decide, by decide, by decide, by decide, by decide, by decide, by decide, ⟨by decide, by decide⟩, ?_⟩,
    fun h => absurd h.2.2.2.2.2.2.1 (by decide), fun h => absurd h.2.2.2.2.2.1 (by decide), ⟨⟨rfl, rfl, rfl⟩, rfl, rfl, by decide +kernel, rfl, by decide +kernel⟩, ⟨0#16, by decide⟩, by decide, by decide, by decide, rfl⟩
  · rintro r ⟨⟩
    exact ⟨by decide, by decide⟩
  · intro r h
    cases h
/-- LingCommands: a page that is sealed, in a leaf for execution alone, and one that can be written. -/
theorem test_pages_are_sealed :
    (∃ l, translate (page 0x19 linked) 0 (1 * 2 ^ 16) = .ok l ∧ l.x = true ∧ l.w = false ∧ l.kind ≠ 3)
    ∧ ∀ l, translate (page 0x1F linked) 0 (1 * 2 ^ 16) = .ok l → ¬(l.x = true ∧ l.w = false ∧ l.kind ≠ 3) := by
  refine ⟨⟨leafOf 0x19 0 (2 ^ 30), by decide, by decide, by decide, by decide⟩, ?_⟩
  intro l h
  have : l = openLeaf := by
    have h2 : translate (page 0x1F linked) 0 (1 * 2 ^ 16) = .ok openLeaf := by decide
    rw [h2] at h
    exact (Except.ok.inj h).symm
  subst this
  decide
/-- LingCommands: a root of a queue of PASID 7 that has been admitted in this clk. -/
theorem test_a_root_of_this_clk :
    let s : State := { queue16 (fun q => { q with pasid := 7#20 }) linked with fresh := { linked.fresh with roots := [0] } }
    Rules.Serves s ∧ ∃ k ∈ s.fresh.roots, ∃ x, s.tasks.find k = some x ∧ (s.queue x.queue).pasid = 7#20 :=
  ⟨⟨rfl, rfl, rfl⟩, 0, by decide, _, rfl, by decide⟩
/-- LingCommands: a code object of one sealed page, with its bytes and without; and two pages that stand apart. -/
theorem test_objects_are_loaded :
    let s := page 0x19 linked
    Rules.Serves s ∧ storesDone s 0 = true ∧ (∀ j < 1, Rules.SealedPage s 0 (1 + j)) ∧ (List.replicate 65536 0#8 : List Byte).length = 65536 * 1 ∧ ([] : List Byte).length ≠ 65536 * 1
      ∧ Rules.Apart s (Loc.mk 0 0x10000 0) (Loc.mk 0 0x20000 0) := by
  refine ⟨⟨rfl, rfl, rfl⟩, by decide, ?_, List.length_replicate, by decide, .inr (.inl (by decide))⟩
  intro j hj
  obtain rfl : j = 0 := by omega
  exact ⟨leafOf 0x19 0 (2 ^ 30), by decide, by decide, by decide, by decide⟩
/-- LingCommands: a policy of region 4095 without measurements, of which only the signature is asked. -/
theorem test_policies_are_asked_for_their_signature :
    let bs : List Byte := Rules.numBytes 128 (1 + 2 ^ 8 + 4095 * 2 ^ 16)
    Rules.GoodPolicy linked bs ↔ Config.ed25519Ok (BitVec.ofNat 256 (Rules.numAt bs 8 32)) (bs.take 64) (BitVec.ofNat 512 (Rules.numAt bs 64 64)) = true := by
  intro bs
  have h : Rules.numAt bs 40 2 = 0 := by decide +kernel
  have ho : (linked.plat.owners.find (Rules.numAt bs 2 2)).getD (BitVec.ofNat 256 (Rules.numAt bs 8 32)) = BitVec.ofNat 256 (Rules.numAt bs 8 32) := rfl
  unfold Rules.GoodPolicy
  simp only [ho, h, Nat.mul_zero, Nat.add_zero]
  exact ⟨fun g => g.2.2.2.2.2.2.2.2, fun g => ⟨by decide +kernel, by decide +kernel, by decide +kernel, by decide +kernel, by decide, by decide +kernel, by decide +kernel, (fun p hp => by cases hp), g⟩⟩
/-- LingCommands: an image of 64 bytes, of which only the signature is asked, and one that is too short. -/
theorem test_images_are_asked_for_their_signature :
    (Rules.SignedImage (List.replicate 64 0#8) ↔ Config.ed25519Ok Config.romKey [] (BitVec.ofNat 512 (Rules.leNat (List.replicate 64 0#8))) = true) ∧ ¬Rules.SignedImage [] :=
  ⟨⟨fun h => h.2, fun h => ⟨by decide, h⟩⟩, fun h => absurd h.1 (by decide)⟩
/-- A record of each ring of address space 0 that a team waits for. -/
def faulted (stage : Nat) (s : State) : State :=
  let r := FaultRec.mk 0 0 1 0#32 false 0 0 stage 0#20 0#64 1
  { s with spaces := [(0, Space.mk 0x2000 none 0#20 (if stage = 0 then [r] else []) (if stage = 0 then [] else [r]))] }
/-- LingCommands: FAULTDONE for a resident team and a saved one, and for a record that nobody waits for. -/
theorem test_faults_are_serviced :
    (∀ stage ∈ [0, 1], let s := faulted stage (linked.modTeam 0 (fun t => { t with faultSeqs := [(stage, 0)] }))
      Rules.Serves s ∧ (∃ tm, Rules.Awaits s stage 0 tm ∧ Rules.Resident s tm.uid 0 tm ∧ s.images.find tm.uid = none
        ∧ ∃ x, s.tasks.find tm.task = some x ∧ x.state.final = false ∧ x.state ≠ .unwinding))
    ∧ (let i := { anImage 1#4 with team := { probeTeam 1 3 with faultSeqs := [(0, 0)] } }
       let s : State := { faulted 0 (plat (fun _ => linked.plat) (savedState 1#4)) with images := [(1, i)] }
       Rules.Serves s ∧ Rules.Awaits s 0 0 i.team ∧ teamByUid s i.team.uid = none ∧ s.images.find i.team.uid = some i)
    ∧ (∀ tm, ¬Rules.Awaits linked 0 0 tm) ∧ ∀ sp r tm, linked.spaces.find (0 / 2) = some sp → (r ∈ sp.ring ∨ r ∈ sp.ring2) → anyTeam linked r.uid = some tm → tm.uid = r.uid := by
  refine ⟨?_, ⟨⟨rfl, rfl, rfl⟩, ⟨_, _, rfl, rfl, rfl, rfl, by decide⟩, rfl, rfl⟩, ?_, ?_⟩
  · intro stage hs
    fin_cases hs <;> exact ⟨⟨rfl, rfl, rfl⟩, _, ⟨_, _, rfl, rfl, rfl, rfl, by decide⟩, ⟨rfl, rfl⟩, rfl, _, rfl, rfl, by decide⟩
  · rintro tm ⟨sp, r, h1, h2, _⟩
    obtain rfl := Option.some.inj h1
    cases h2
  · intro sp r tm h1 h2
    obtain rfl := Option.some.inj h1
    rcases h2 with h2 | h2 <;> cases h2
/-- LingCommands: no identifier of a pod barrier is left. -/
theorem test_every_pod_identifier_is_used : ∀ c : BitVec 16, c ∈ (plat (fun p => { p with podIds := (List.range 65536).map (BitVec.ofNat 16) }) linked).plat.podIds := by
  have key : ∀ n, ∀ c : BitVec 16, c.toNat < n → c ∈ (List.range n).map (BitVec.ofNat 16) := by
    intro n c h
    exact List.mem_map.mpr ⟨c.toNat, List.mem_range.mpr h, by simp⟩
  intro c
  have h := key 65536 c c.isLt
  simpa only [plat] using h
/-- LingCommands: a group and a lead that the debugger has halted, and records for them. -/
theorem test_halted_parties :
    let s := (slots none none linked).modTeam 0 (fun t => { t with thalt := true })
    Rules.Serves s ∧ (∃ g tm, s.groups.find (63 / 64) = some g ∧ s.teams.find g.team = some tm ∧ Rules.Resident s 1 0 tm ∧ (s.threads.find 63).isSome = true ∧ groupStopped s (63 / 64) = true
      ∧ leadStopped s 0 tm = true ∧ (List.replicate 448 0#8).length = 128 + 4 * tm.regs ∧ recordIndexOk (List.replicate 448 0#8) tm.espace = true) := by
  exact ⟨⟨rfl, rfl, rfl⟩, _, _, rfl, rfl, ⟨rfl, rfl⟩, rfl, by decide +kernel, by decide +kernel, by decide +kernel, by decide +kernel⟩
/-- HaltedState: a group that BRK has stopped at its handler, in the middle of a clause and at a header. -/
def atHandler : Machine.Path := Machine.Path.mk 0 [0, 63] { pc := 0x20000#64, remain := 0, cls := .int, y := false, rep := none, repFrom := none } .none
def brkAt (t0 : Word) (pc : Word) : State :=
  let s := (handled (atWord header linked)).modGroup 0 (fun g => { g with running := none, halted := true, parkCtr := 1, parked := [atHandler] })
  let tr : Thread → Thread := fun th => { th with trapMode := true, t := (th.t.put 0 t0).put 2 pc }
  (s.modThread 0 tr).modThread 63 tr
theorem test_brk_goes_on : ∀ p ∈ [(0x01C00101#32, 0x10004#32), (0x00000101#32, 0x10000#32)], let s := brkAt p.1 p.2
    Rules.Serves s ∧ ∃ g tm x q, s.groups.find 0 = some g ∧ s.teams.find g.team = some tm ∧ s.tasks.find tm.task = some x ∧ g.parked = [q] ∧ q.lanes = [0, 63] ∧ q.pos.remain = 0
      ∧ q.pos.pc = (BitVec.ofNat 48 (natBits (natOfBytes x.desc) 367 320)).signExtend 64
      ∧ (∀ l ∈ q.lanes, (s.thread 0 l).trapMode = true ∧ (s.thread 0 l).t.get 0 0#32 = p.1 ∧ (s.thread 0 l).t.get 3 0#32 ++ (s.thread 0 l).t.get 2 0#32 = 0#32 ++ p.2)
      ∧ p.1.toNat / 2 ^ 30 = 0 ∧ Cls.int.code.toNat = p.1.toNat / 2 ^ 25 % 8 ∧ (0#32 ++ p.2 : DWord).toNat % 4 = 0 ∧ canonical (0#32 ++ p.2) = true
      ∧ (p.1.toNat / 2 ^ 21 % 16 = 0 → checkTarget s 0 x.space x.priv (0#32 ++ p.2) = .ok) := by
  intro p hp
  fin_cases hp <;> exact ⟨⟨rfl, rfl, rfl⟩, ((brkAt 0#32 0#32).groups.find 0).get rfl, ((brkAt 0#32 0#32).teams.find 0).get rfl, ((brkAt 0#32 0#32).tasks.find 0).get rfl, atHandler, rfl, rfl, rfl, rfl, by decide +kernel⟩
/-- An image without threads names no register that a team has not. -/
theorem indexOk_of_none (t : Team) (bs : List Byte) (h : t.ngroups = 0) : imageIndexOk t bs = true := by simp [imageIndexOk, h]
/-- HaltedState: an image of a halted team, and one of a team that is not. -/
theorem test_images_are_written : ∀ b : Bool,
    let i := { anImage 1#4 with team := { probeTeam 1 3 with thalt := b } }
    let s : State := { plat (fun _ => linked.plat) (savedState 1#4) with images := [(1, i)] }
    Rules.Serves s ∧ teamByUid s 1 = none ∧ s.images.find 1 = some i ∧ i.team.lead.halted = false ∧ (∀ e ∈ i.groups, e.2.halted = false)
      ∧ 64 ≤ i.team.regs ∧ 0 < i.team.ngroups ∧ i.threads.find 63 = some (probeThread 4) := by
  intro b
  cases b <;> exact ⟨⟨rfl, rfl, rfl⟩, rfl, rfl, rfl, by decide, by decide, by decide, rfl⟩
/-- HaltedState: what is written into an image of a team without groups. -/
theorem test_image_bytes : 
    let i := { anImage 1#4 with team := { probeTeam 1 3 with thalt := true, ngroups := 0 }, groups := [] }
    i.team.thalt = true ∧ 64 ≤ i.team.regs ∧ (∀ s bs, 0 + ([] : List Byte).length ≤ (imageBytes s i (teamHandle s i.team)).length ∧ imageIndexOk i.team bs = true) :=
  ⟨rfl, by decide, fun _ _ => ⟨Nat.zero_le _, indexOk_of_none _ _ rfl⟩⟩
/-- PlatformSteps: each step of bring-up, recovery, a mirror that is due. -/
theorem test_bring_up_steps :
    (∀ n < 7, let s := plat (fun p => { p with bringUp := n }) State.reset
      s.plat.linkUp = false ∧ s.plat.linkDown = false ∧ s.plat.recovery = false ∧ s.plat.bringUp = n)
    ∧ ¬Rules.SignedImage State.reset.plat.image
    ∧ (let s := plat (fun p => { p with recovery := true, linkUp := true }) State.reset
       s.plat.recovery = true ∧ s.plat.linkUp = true)
    ∧ (let s := plat (fun p => { p with bringUp := 5, lastMirror := 1 }) { State.reset with time := 800000001#48 }
       5 ≤ s.plat.bringUp ∧ 800000000 ≤ (s.time - BitVec.ofNat 48 s.plat.lastMirror).toNat) :=
  ⟨by decide +kernel, fun h => absurd h.1 (by decide), by decide, by decide +kernel⟩
/-- PlatformSteps: a fibre that is down, and ones that are up with nothing and with flits to send. -/
theorem test_fibres :
    ((linked.fibres.get 63 Fibre.initial).up = false ∧ 6 ≤ linked.plat.bringUp ∧ linked.plat.thermal = false)
    ∧ (∀ p ∈ [(2, []), (1, [(5, Flit.podArrival 7#16)])], let s : State := { linked with fibres := [(63, Fibre.mk true p.1 0 p.2 [])], time := 8000#48, wides := [(2 ^ 60 + 7, WideBar.mk 0 .pod 1 [1] 0 true true [] [])] }
      (s.fibres.get 63 Fibre.initial).up = true ∧ (s.fibres.get 63 Fibre.initial).lit = p.1 ∧ (s.fibres.get 63 Fibre.initial).waiting = p.2
        ∧ 8000 ≤ (s.time - BitVec.ofNat 48 (s.fibres.get 63 Fibre.initial).idleFrom).toNat ∧ (∃ e ∈ s.fibres, e.2.up = true) ∧ (s.wides.find (2 ^ 60 + (7#16).toNat)).isSome = true)
    ∧ (plat (fun p => { p with thermal := true }) linked).plat.thermal = true := by
  refine ⟨by decide +kernel, by decide +kernel, rfl⟩

/-! ## Witnesses: the machine as a whole -/

/-- The state in which the turn of the state's group, or lead, runs. -/
def turned (who : Party) (s : State) : State := Rules.turnOf 0 who { s with turns := [], freeCtr := s.freeCtr + 1 }
/-- StepRunsTheInstruction: a word of a path, one formed under REP, a word that is no instruction for a task with a handler, and a header. -/
theorem test_group_turns :
    (∀ s ∈ [on (.add 1#6 2#6 3#6 false false), handled (word 0x10000 1#32 base), atWord header base], s.turns = [.issueGroup 0] ∧ (s.core 0).gHold = some 0 ∧ (s.core 0).gIssued = false ∧ s.plat.thermal = false)
    ∧ (∃ c, gctx (turned (.group 0) (on (.add 1#6 2#6 3#6 false false))) = some c ∧ c.path.wait = .none ∧ c.path.pos.remain ≠ 0 ∧ c.path.pos.rep = none
        ∧ fetch (turned (.group 0) (on (.add 1#6 2#6 3#6 false false))) c.core c.task.space c.task.priv c.path.pos.pc = .word (wordOf (.add 1#6 2#6 3#6 false false)))
    ∧ (let s := atPos (fun p => { p with rep := some (Rep.mk 3 8 7#3 2#3) }) (word 0x10004 (wordOf (.add 1#6 2#6 3#6 false false)) (on .nop))
       ∃ c, gctx (turned (.group 0) s) = some c ∧ c.path.wait = .none ∧ c.path.pos.remain ≠ 0 ∧ c.path.pos.rep = some (Rep.mk 3 8 7#3 2#3)
        ∧ fetch (turned (.group 0) s) c.core c.task.space c.task.priv (c.path.pos.pc + 4#64) = .word (wordOf (.add 1#6 2#6 3#6 false false))
        ∧ (formWord (wordOf (.add 1#6 2#6 3#6 false false)) 7#3 2#3 3).isSome = true)
    ∧ (∃ c, gctx (turned (.group 0) (handled (word 0x10000 1#32 base))) = some c ∧ c.path.wait = .none ∧ c.path.pos.remain ≠ 0 ∧ c.path.pos.remain < 16 ∧ c.path.pos.rep = none ∧ c.path.lanes ≠ []
        ∧ fetch (turned (.group 0) (handled (word 0x10000 1#32 base))) c.core c.task.space c.task.priv c.path.pos.pc = .word 1#32
        ∧ descHv c.task.desc = true ∧ ∀ l ∈ c.path.lanes, ((turned (.group 0) (handled (word 0x10000 1#32 base))).thread c.gk l).trapMode = false)
    ∧ (∃ c, gctx (turned (.group 0) (atWord header base)) = some c ∧ c.path.wait = .none ∧ c.path.pos.remain = 0) :=
  ⟨by decide, aPath _ (fun c => c.path.wait = _ ∧ c.path.pos.remain ≠ 0 ∧ c.path.pos.rep = none ∧ _ = Fetched.word _) (by decide),
    aPath _ (fun c => c.path.wait = _ ∧ c.path.pos.remain ≠ 0 ∧ c.path.pos.rep = some _ ∧ _ = Fetched.word _ ∧ _ = true) (by decide),
    aPath _ (fun c => c.path.wait = _ ∧ c.path.pos.remain ≠ 0 ∧ c.path.pos.remain < 16 ∧ c.path.pos.rep = none ∧ c.path.lanes ≠ [] ∧ _ = Fetched.word _ ∧ _ = true ∧ ∀ l ∈ c.path.lanes, _ = false) (by decide +kernel),
    aPath _ (fun c => c.path.wait = _ ∧ c.path.pos.remain = 0) (by decide)⟩
/-- StepRunsTheInstruction: a word of a lead, and its header; a step without an encoding. -/
theorem test_lead_turns :
    (∃ c, lctx (turned (.lead 0) (on .mswap)) = some c ∧ c.team.lead.free = true ∧ leadBarred (turned (.lead 0) (on .mswap)) 0 = false ∧ c.team.lead.remain ≠ 0
        ∧ fetch (turned (.lead 0) (on .mswap)) c.core c.task.space c.task.priv c.team.lead.pc = .word (wordOf .mswap))
    ∧ (∃ c, lctx (turned (.lead 0) (atWord 0xFFE00200#32 base)) = some c ∧ c.team.lead.free = true ∧ leadBarred (turned (.lead 0) (atWord 0xFFE00200#32 base)) 0 = false ∧ c.team.lead.remain = 0)
    ∧ ((on .mswap).turns = [.issueLead 0] ∧ ((on .mswap).core 0).lHold = some 0 ∧ ((on .mswap).core 0).lIssued = false ∧ (on .mswap).plat.thermal = false)
    ∧ ∃ t, exec (.resyncStart none) { base with cur := .none, turns := [], freeCtr := 1 } = .next t :=
  ⟨found _ (fun (c : LCtx) => c.team.lead.free = true ∧ _ = false ∧ c.team.lead.remain ≠ 0 ∧ _ = Fetched.word _) (by decide), found _ (fun (c : LCtx) => c.team.lead.free = true ∧ _ = false ∧ c.team.lead.remain = 0) (by decide), by decide, _, rfl⟩
/-- DecodingRoundTrips: an instruction at the last value of each of its operands. -/
theorem test_a_word_there_and_back :
    (Instr.lds 62#6 63#6 true .d 0x3FF#10).wf = true ∧ ∃ w, encode (.lds 62#6 63#6 true .d 0x3FF#10) = some w ∧ decode w = .ok (.lds 62#6 63#6 true .d 0x3FF#10) :=
  ⟨by decide, _, rfl, rfl⟩
/-- MemoriesStayCanonical, TimeAndMemoryStand: a canonical memory, and steps: the end of a clk, an instruction, an instruction as a step, and a step that is none of a program. -/
theorem test_steps_of_each_kind :
    base.memWf ∧ (∃ t, step base = .next t) ∧ (∃ t, step { base with turns := [.clk] } = .next t) ∧ (∃ t, exec .nop (on .nop) = .next t) ∧ encode .nop = some 0#32
      ∧ Rules.losesPower .nop = false
    ∧ nextDue State.reset = none ∧ nextDue base ≠ none := by
  refine ⟨by unfold State.memWf; decide, ⟨_, rfl⟩, ⟨_, rfl⟩, ⟨_, rfl⟩, rfl, rfl, by decide +kernel, by decide +kernel⟩
/-- ChargesAreTaken: no lease, one that pays, ones that do not, one with an answer outstanding, and one that a failing request has paid for. -/
theorem test_charges_are_asked : ∀ l ∈ [none, some (Lease.mk 1027 none []), some (Lease.mk 3 none []), some (Lease.mk 3 (some .refill) []), some (Lease.mk 3 (some .lease) []), some (Lease.mk 3 (some (.failing { payer with who := .lead 0 } 9)) []),
      some (Lease.mk 0 none [(payer, 4)])],
    let s : State := { base with leases := match l with | none => [] | some x => [(65536 * 5 + 0, x)] }
    ∃ x, s.tasks.find 0 = some x ∧ x.state = .running ∧ s.leases.find (65536 * 5 + 0) = l := by
  intro l hl
  fin_cases hl <;> exact ⟨_, rfl, rfl, rfl⟩

/-! ## One step

Results that the spec works out, or that follow from a rule by hand. -/

/-- The next state, if the instruction gives one. -/
def after (i : Instr) (s : State) : Option State := match exec i s with | .next t => some t | .fault _ => none | .refused _ => none
/-- The value of a register of lane 63 after an instruction, with other registers set. -/
def result (i : Instr) (rs : List (Nat × Word)) (n : Nat) : Option Word := (after i (rs.foldl (fun s r => reg 63 r.1 r.2 s) (on i))).map (fun t => (t.thread 0 63).reg n)
/-- R95, R97, R98: the results at the edges that chapter 6 lists. -/
theorem test_integer_results :
    result (.add 3#6 1#6 2#6 false false) [(1, 0x7FFFFFF0#32), (2, 0x20#32)] 3 = some 0x80000010#32
    ∧ result (.adds 3#6 1#6 2#6 false false) [(1, 0x7FFFFFF0#32), (2, 0x20#32)] 3 = some 0x7FFFFFFF#32
    ∧ result (.subs 3#6 1#6 2#6 false false) [(1, 0x80000000#32), (2, 1#32)] 3 = some 0x80000000#32
    ∧ result (.mul 3#6 1#6 2#6 false false) [(1, 0xFFFFFFFF#32), (2, 2#32)] 3 = some 0xFFFFFFFE#32
    ∧ result (.mulh 3#6 1#6 2#6 false false) [(1, 0xFFFFFFFF#32), (2, 2#32)] 3 = some 0xFFFFFFFF#32
    ∧ result (.mulhu 3#6 1#6 2#6 false false) [(1, 0xFFFFFFFF#32), (2, 2#32)] 3 = some 1#32
    ∧ result (.shr 3#6 1#6 2#6 false false) [(1, 0x80000000#32), (2, 40#32)] 3 = some 0#32
    ∧ result (.sar 3#6 1#6 2#6 false false) [(1, 0x80000000#32), (2, 40#32)] 3 = some 0xFFFFFFFF#32
    ∧ result (.rol 3#6 1#6 2#6 false false) [(1, 0x80000000#32), (2, 40#32)] 3 = some 0x80#32
    ∧ result (.absd 3#6 1#6 2#6 false false) [(1, 0x80000000#32), (2, 0x7FFFFFFF#32)] 3 = some 0xFFFFFFFF#32
    ∧ result (.clz 3#6 1#6 false) [] 3 = some 32#32 ∧ result (.ctz 3#6 1#6 false) [(1, 8#32)] 3 = some 3#32
    ∧ result (.bfxs 3#6 4#6 false 8#5 3#5) [(4, 0xF00#32)] 3 = some 0xFFFFFFFF#32
    ∧ result (.bfi 3#6 1#6 false 4#5 2#5) [(1, 5#32), (3, 0xAAAAAAAA#32)] 3 = some 0xAAAAAADA#32
    ∧ result (.lui 5#6 0x7FFFF#20) [] 5 = some 0x7FFFF000#32
    ∧ result (.add64 2#6 4#6 6#6 false false) [(4, 0xFFFFFFFF#32), (6, 1#32)] 3 = some 1#32 := by decide
/-- R108: the words that the sweeps of chapter 6 form; the last b of the third would be v64. -/
theorem test_formed_words :
    formWord (wordOf (.add 16#6 16#6 32#6 false false)) 0b100#3 0#3 7 = some (wordOf (.add 23#6 16#6 32#6 false false))
    ∧ formWord (wordOf (.add64 16#6 32#6 48#6 false false)) 7#3 1#3 3 = some (wordOf (.add64 22#6 38#6 54#6 false false))
    ∧ formWord (wordOf (.add64 16#6 32#6 48#6 false false)) 7#3 1#3 8 = none := by decide
/-- R189, R195, R196: the results that chapters 9 and 10 work out. -/
theorem test_float_results :
    result (.hadd2 3#6 1#6 2#6 false false .rn) [(1, 0x3F804000#32), (2, 0x3F803F80#32)] 3 = some 0x40004040#32
    ∧ (∀ r ∈ [RMode.rn, .rz, .rd, .ru], result (.fcvte4 3#6 1#6 false r) [(1, 0x43F00000#32)] 3 = some 0x7E#32)
    ∧ result (.fcvte5 3#6 1#6 false .rn) [(1, 0x47700000#32)] 3 = some 0x7C#32 ∧ result (.fcvte5 3#6 1#6 false .rz) [(1, 0x47700000#32)] 3 = some 0x7B#32
    ∧ result (.fcvtsmE4 3#6 1#6 2#6 false false .rn) [(1, 0x42C80000#32)] 3 = some 0x6C#32 ∧ result (.fcvtsmE4 3#6 1#6 2#6 false false .ru) [(1, 0x42C80000#32)] 3 = some 0x6D#32
    ∧ result (.ffma 3#6 1#6 2#6 false false .rn) [(1, 0x3F800001#32), (2, 0x3F800001#32), (3, 0xBF800002#32)] 3 = some 0x28800000#32 := by decide +kernel
/-- R126, R130: a store at the end of the scratchpad, the low byte first; a signed byte; an atomic that returns what stood there. -/
theorem test_scratchpad_results :
    (after (.sts 8#6 4#6 false .d 0#10) (reg 63 9 0x11223344#32 (reg 63 8 0xAABBCCDD#32 (reg 63 4 16376#32 (on (.sts 8#6 4#6 false .d 0#10)))))).map (fun t => (t.teams.find 0).map (fun tm => tm.spad))
      = some (some [(16376, 0xDD#8), (16377, 0xCC#8), (16378, 0xBB#8), (16379, 0xAA#8), (16380, 0x44#8), (16381, 0x33#8), (16382, 0x22#8), (16383, 0x11#8)])
    ∧ (after (.atoms 8#6 4#6 6#6 false false .add) (reg 63 6 2#32 (reg 63 4 8#32 (reg 0 6 1#32 (reg 0 4 8#32 (on (.atoms 8#6 4#6 6#6 false false .add))))))).map (fun t => (t.teams.find 0).map (fun tm => tm.spad))
      = some (some [(8, 3#8)]) := by decide
/-- R342 to R344: TRAP 5 in the first of 15 words of a clause of class INT. -/
theorem test_trap_record :
    (after (.trap 5#6) (handled (on (.trap 5#6)))).map (fun t => ((t.thread 0 63).trapMode, (List.range 8).map (fun k => (t.thread 0 63).reg (64 + k))))
      = some (true, [0x01C00511#32, wordOf (.trap 5#6), 0x10004#32, 0#32, 0#32, 0#32, 0#32, 0#32]) := by decide +kernel
/-- R21, R102: a branch that lane 63 takes and lane 0 does not: two paths, at the next word of the clause and at the header 32 bytes further. -/
theorem test_branch_splits :
    (after (.bnz 4#6 false 8#19) (word 0x10020 header (reg 63 4 1#32 (on (.bnz 4#6 false 8#19))))).map (fun t => (t.groups.find 0).map (fun g => g.paths.map (fun p => (p.lanes, p.pos.pc, p.pos.remain))))
      = some (some [([0], 0x10004#64, 14), ([63], 0x10020#64, 0)]) := by decide
/-- R117: 64 copies of the sign; the high half of a product. -/
theorem test_lead_results :
    (after (.lsar 3#6 1#6 2#6) (sreg 1 (1#64 <<< 63) (sreg 2 64#64 (on (.lsar 3#6 1#6 2#6))))).map (fun t => (t.teams.find 0).map (fun tm => tm.lead.reg 3#6)) = some (some (BitVec.allOnes 64))
    ∧ (after (.lmulhu 3#6 1#6 2#6) (sreg 1 (1#64 <<< 63) (sreg 2 6#64 (on (.lmulhu 3#6 1#6 2#6))))).map (fun t => (t.teams.find 0).map (fun tm => tm.lead.reg 3#6)) = some (some 3#64) := by decide
/-- R225 to R227, R234: the row of chapter 12 before its fifth add, which seals it, and the four codes that SARDQ then returns. -/
def chapterRow : Row := Row.mk 4 (-8) 0 3 0#32 [] 5 4 (BitVec.ofNat 128 (5 * 2 ^ 96 + 4)) 0 [(0, 0x0002000000000000#64), (1, 0xFFFF000000000000#64), (3, 2#64)] none false
def sealedRow : Row := Row.mk 4 (-8) 0 3 0#32 [] 5 5 (BitVec.ofNat 128 (10 * 2 ^ 96 + 4)) 0 [(0, 0x0003000000000000#64), (1, 0xFFFF000000000000#64), (3, 2#64)] (some 0x3F21E89B#32) false
theorem test_the_row_of_chapter_12 :
    (after (.saAddApply 0 0) (atHome (.saReq (aReq (.add 0x3F800000#32) 0#32 false)) chapterRow)).map (fun t => t.rows.find 0) = some (some sealedRow)
    ∧ (after (.saReadRequest 0 0) (atHome (.saReq (aReq .rdq 0#32 false)) sealedRow)).map (fun t => (t.node 0).mesh.map (fun e => e.item))
      = some [.resp (Resp.mk 0 0 [(1, 1#16)] 0#8 (.sa (aReq .rdq 0#32 false) .done [0x0000B23F#32] false))] := by decide +kernel
/-- R275: the delta of chapter 15, of node 1 in epoch 5. -/
theorem test_a_delta : encodeStamp (some (stampBits 5#8 1 [(1, 1#16)])) (stampBits 5#8 1 [(1, 3#16)]) = .delta 0x051002#24 [3#16] := by decide
/-- R7, R20: the end of a clk: the time counter wraps, and a core that has issued may issue again. -/
theorem test_a_clk_ends :
    (match step { (State.reset.modCore 0 (fun c => { c with gIssued := true })) with turns := [.clk], time := 0xFFFFFFFFFFFF#48 } with
    | .next t => t.time == 0#48 && !(t.core 0).gIssued
    | .fault _ | .refused _ => false) = true := by decide

end Sys2Proof.Tests
end

/-!
SUPPORT. Whole-machine rules about the time counter, the schedule and physical memory (R7, R112, R261, R272).
-/
namespace Sys2Proof

/-! ## What a word decodes to has a word -/

/-- The answer of a decoder, where it is an instruction, is one that has an encoding. -/
def Encoded (e : Except Reject Instr) : Prop := ∀ i, e = .ok i → (encode i).isSome = true
theorem encoded_ok {i : Instr} (h : (encode i).isSome = true) : Encoded (.ok i) := by
  intro j hj; injection hj with hj; exact hj ▸ h
theorem encoded_error (r : Reject) : Encoded (.error r) := fun _ h => nomatch h
theorem encoded_ite {c : Prop} [Decidable c] {a b : Except Reject Instr} (ha : Encoded a) (hb : Encoded b) :
    Encoded (if c then a else b) := by split <;> assumption
theorem encoded_withCode {α : Type} {c : Option α} {f : α → Except Reject Instr} (h : ∀ a, Encoded (f a)) :
    Encoded (withCode c f) := by
  cases c with
  | none => exact encoded_error _
  | some a => exact h a

/-- Every leaf of the decoder's tables (R58 to R73) is a rejection or an encoded instruction. -/
theorem decodeFields_encoded (w : Word) : Encoded (decodeFields w) := by
  unfold decodeFields
  extract_lets op
  repeat' first | refine encoded_ite ?_ ?_ | refine encoded_withCode fun _ => ?_
  all_goals first | exact encoded_error _ | exact encoded_ok rfl

theorem decode_encoded {w : Word} {i : Instr} (h : decode w = .ok i) : (encode i).isSome = true :=
  decodeFields_encoded w i (decode_fields h).1

/-- The steps in which the module loses its power have no word. -/
theorem losesPower_of_encoded {i : Instr} (h : (encode i).isSome = true) : Rules.losesPower i = false := by
  unfold Rules.losesPower
  split
  · exact absurd h (by decide)
  · exact absurd h (by decide)
  · rfl

namespace Machine

/-! ## The outcomes of one instruction or step -/

/-- Of the instructions that have a word, only SPAWN and SPAWN.W write physical memory at issue. -/
theorem writesPhysical_of_encoded {i : Instr} (h : (encode i).isSome = true)
    (hs : ∀ d a b, i ≠ .spawn d a b ∧ i ≠ .spawnW d a b) : Instr.writesPhysical i = false := by
  cases i
  case spawn d a b => exact absurd rfl (hs d a b).1
  case spawnW d a b => exact absurd rfl (hs d a b).2
  all_goals first | rfl | exact absurd h Bool.false_ne_true

theorem exec_wrote_of_power {i : Instr} (h : Rules.losesPower i = false) (s : State) : wroteOut (exec i s) s :=
  exec_wrote i s (by rintro rfl; exact absurd h (by decide)) (by rintro rfl; exact absurd h (by decide))

/-- What keeps the time counter and the schedule, in the fields of the state. -/
theorem time_turns_of_wroteK {s t : State} (h : wroteK s.kept t.kept) : t.time = s.time ∧ t.turns = s.turns :=
  Prod.mk.inj h.2
/-- What leaves the kept part alone, in the fields of the memories. -/
theorem memories_of_kept {s t : State} (h : t.kept = s.kept) : t.far = s.far ∧ t.near = s.near ∧ t.hostMem = s.hostMem := by
  simp only [State.kept, Prod.mk.injEq] at h
  obtain ⟨hfar, hnear, hhost, -, -⟩ := h
  exact ⟨hfar, hnear, hhost⟩
/-- An outcome from a state with the same kept part. -/
theorem wroteOut_from {o : Out} {s s' : State} (hk : s'.kept = s.kept) (h : wroteOut o s') : wroteOut o s := by
  intro t ht; rw [← hk]; exact h t ht

/-! ## Turns -/

theorem nextInstr_encoded {s : State} {core space : Nat} {priv : Bool} {p : Pos} {i : Instr}
    (h : nextInstr s core space priv p = .run i) : (encode i).isSome = true := by
  unfold nextInstr at h
  extract_lets pc at h
  split at h
  · cases h
  · cases h
  · extract_lets v at h
    split at h
    · rename_i j hj; injection h with h; exact h ▸ decode_encoded hj
    · cases h

/-- The instruction that a turn of an issue slot comes to, if any, takes no power away. -/
def Issue.powered : Issue → Prop
  | .run i _ => Rules.losesPower i = false
  | .done _ => True

theorem groupTurn_powered (core : Nat) (s : State) : (groupTurn core s).powered := by
  unfold groupTurn
  repeat' first | split | dsimp only
  all_goals first
    | exact trivial
    | rfl
    | exact losesPower_of_encoded (nextInstr_encoded ‹nextInstr _ _ _ _ _ = .run _›)

theorem leadTurn_powered (core : Nat) (s : State) : (leadTurn core s).powered := by
  unfold leadTurn
  repeat' first | split | dsimp only
  all_goals first
    | exact trivial
    | rfl
    | exact losesPower_of_encoded (nextInstr_encoded ‹nextInstr _ _ _ _ _ = .run _›)

/-- What an issue goes on to. -/
def Issue.out : Issue → Out
  | .run i t => exec i t
  | .done t => .next t

theorem issue_wrote {x : Issue} {s : State} (hp : x.powered) (hk : x.state.kept = s.kept) : wroteOut x.out s := by
  cases x with
  | run i t => exact wroteOut_from hk (exec_wrote_of_power hp t)
  | done t => exact wroteOut_kept (keptOut_next hk)

theorem runTurn_issueGroup (core : Nat) (s : State) : runTurn (.issueGroup core) s = (groupTurn core s).out := by
  simp only [runTurn]; split <;> simp_all [Issue.out]
theorem runTurn_issueLead (core : Nat) (s : State) : runTurn (.issueLead core) s = (leadTurn core s).out := by
  simp only [runTurn]; split <;> simp_all [Issue.out]

theorem runTurn_event_wrote {i : Instr} (h : Rules.losesPower i = false) (s : State) : wroteOut (runTurn (.event i) s) s := by
  simp only [runTurn]
  split
  · exact wroteOut_next (wroteK_refl _)
  · exact wroteOut_next (wroteK_refl _)
  · exact wroteOut_from (s' := { s with cur := .none }) rfl (exec_wrote_of_power h _)

/-- No turn but the end of a clk, and a loss of power, moves the time counter or the schedule. -/
theorem runTurn_wrote {turn : Turn} (s : State) (hc : turn ≠ .clk)
    (he : ∀ i, turn = .event i → Rules.losesPower i = false) : wroteOut (runTurn turn s) s := by
  cases turn with
  | issueGroup core => rw [runTurn_issueGroup]; exact issue_wrote (groupTurn_powered core s) (groupTurn_kept core s)
  | issueLead core => rw [runTurn_issueLead]; exact issue_wrote (leadTurn_powered core s) (leadTurn_kept core s)
  | event i => exact runTurn_event_wrote (he i rfl) s
  | clk => exact absurd rfl hc
  | memError => exact wroteOut_kept (keptOut_next (memoryError_kept _ _ _ _ _ _ _))
  | rowError => exact wroteOut_kept (keptOut_next (rowError_kept _ _))
  | unitBegin => exact wroteOut_kept (keptOut_next (unitBegin_kept _ _ _))
  | lingFault => exact wroteOut_kept (keptOut_next (lingFault_kept _ _ _))
  | passEdge => exact wroteOut_kept (keptOut_next (passEdge_kept _ _))
  | throttle => exact wroteOut_kept (keptOut_next (throttle_kept _ _))
  | setRegions => exact wroteOut_kept (keptOut_next (setRegions_kept _ _ _))
  | setLadder => exact wroteOut_next (setLadder_wrote _ _ _ _)

/-- What is due before the end of a clk moves neither. -/
theorem runDue_wrote (d : Due) (s : State) : wroteOut (runDue d s) s := by
  cases d with
  | stop team => exact wroteOut_from (s' := { s with cur := .none }) rfl (wroteOut_kept (execLeadStop_kept team _))
  | arbitrate core => exact wroteOut_from (s' := { s with cur := .none }) rfl (wroteOut_kept (execClauseArbitration_kept core _))
  | group core => exact runTurn_wrote (turn := .issueGroup core) s Turn.noConfusion (fun _ h => Turn.noConfusion h)
  | lead core => exact runTurn_wrote (turn := .issueLead core) s Turn.noConfusion (fun _ h => Turn.noConfusion h)

/-- The end of a clk adds 1 to the time counter, leaves the memories and the schedule alone, and what the clk has brought is no longer new. -/
theorem endClk_time (s : State) : (endClk s).kept = (s.far, s.near, s.hostMem, s.time + 1#48, s.turns) ∧ (endClk s).fresh = Fresh.none := by
  have h : ((completePhases (releaseWaits s)).opqs.foldl (fun s e => s.flushOps e.1) (completePhases (releaseWaits s))).kept = s.kept := by
    rw [foldl_kept (fun s (e : Nat × OpQ) => s.flushOps e.1) (fun s e => flushOps_kept s e.1)]; simp
  simp only [State.kept, Prod.mk.injEq] at h
  obtain ⟨hfar, hnear, hhost, htime, hturns⟩ := h
  exact ⟨by simp only [endClk, State.kept, hfar, hnear, hhost, htime, hturns], rfl⟩

/-! ## A step by its turn -/

theorem step_due {s : State} {ts : List Turn} {d : Due} (hs : s.turns = .clk :: ts) (hd : nextDue s = some d) :
    step s = runDue d { s with freeCtr := s.freeCtr + 1 } := by
  simp [step, hs, dueBefore, hd]
theorem step_clk {s : State} {ts : List Turn} (hs : s.turns = .clk :: ts) (hd : nextDue s = none) :
    step s = .next (endClk { s with freeCtr := s.freeCtr + 1, turns := ts }) := by
  simp [step, hs, dueBefore, hd, runTurn]
theorem step_turn {s : State} {turn : Turn} {ts : List Turn} (hs : s.turns = turn :: ts) (hc : turn ≠ .clk) :
    step s = runTurn turn { s with freeCtr := s.freeCtr + 1, turns := ts } := by
  simp [step, hs, dueBefore, hc]

/-- Settles O59: `exec_wrote` and `exec_kept` for the instructions and steps, and `runTurn_wrote`, `runDue_wrote` and
`endClk_time` for the turns of the schedule. -/
theorem timeAndMemoryStand : Obligations.TimeAndMemoryStand := by
  unfold Obligations.TimeAndMemoryStand
  refine ⟨fun i s t hi ht => time_turns_of_wroteK (exec_wrote_of_power hi s t ht), fun i w s t hw hi ht => ?_,
    fun s ts t d hs hd ht => ?_, fun s ts hs hd => ?_, fun s turn ts t hs hc he ht => ?_⟩
  · exact memories_of_kept (exec_kept i s (writesPhysical_of_encoded (by simp [hw]) hi) t ht)
  · rw [step_due hs hd] at ht
    exact time_turns_of_wroteK (s := { s with freeCtr := s.freeCtr + 1 }) (runDue_wrote d _ t ht)
  · obtain ⟨hk, hf⟩ := endClk_time { s with freeCtr := s.freeCtr + 1, turns := ts }
    simp only [State.kept, Prod.mk.injEq] at hk
    obtain ⟨hfar, hnear, hhost, htime, hturns⟩ := hk
    exact ⟨_, step_clk hs hd, htime, hturns, hf, hfar, hnear, hhost⟩
  · rw [step_turn hs hc] at ht
    exact time_turns_of_wroteK (s := { s with freeCtr := s.freeCtr + 1, turns := ts }) (runTurn_wrote _ hc he t ht)

end Machine

end Sys2Proof

/-!
SUPPORT. The host's accesses of device memory, of its own memory and of the function's own spaces; completions on the host link; and
invalidations (R261, R352, R355, R356, R358, R360, R362, R375).
-/
namespace Sys2Proof.Machine

/-! ## Numbers as bytes -/

theorem leNat_eq_natOfBytes (bs : List Byte) : Rules.leNat bs = natOfBytes bs := by
  induction bs with
  | nil => rfl
  | cons b bs ih => rw [Rules.leNat, natOfBytes, ih]
@[simp] theorem length_bytesOfNat (n v : Nat) : (bytesOfNat n v).length = n := by
  induction n generalizing v with
  | zero => rfl
  | succ n ih => rw [bytesOfNat, List.length_cons, ih]
theorem natOfBytes_bytesOfNat (n v : Nat) : natOfBytes (bytesOfNat n v) = v % 256 ^ n := by
  induction n generalizing v with
  | zero => simp [bytesOfNat, natOfBytes, Nat.mod_one]
  | succ n ih => rw [bytesOfNat, natOfBytes, ih, Nat.pow_succ', Nat.mod_mul, BitVec.toNat_ofNat]
theorem natOfBytes_append (a b : List Byte) : natOfBytes (a ++ b) = natOfBytes a + 256 ^ a.length * natOfBytes b := by
  induction a with
  | nil => simp [natOfBytes]
  | cons x a ih => rw [List.cons_append, natOfBytes, natOfBytes, ih, List.length_cons, Nat.pow_succ']; ring
theorem leNat_bytesOfNat {n v : Nat} (h : v < 256 ^ n) : Rules.leNat (bytesOfNat n v) = v := by
  rw [leNat_eq_natOfBytes, natOfBytes_bytesOfNat, Nat.mod_eq_of_lt h]
theorem numBytes_eq_bytesOfNat (n v : Nat) : Rules.numBytes n v = bytesOfNat n v := by
  unfold Rules.numBytes
  induction n generalizing v with
  | zero => rfl
  | succ n ih =>
    rw [List.range_succ_eq_map, List.map_cons, List.map_map, bytesOfNat, ← ih]
    congr 1
    · simp
    · refine List.map_congr_left (fun k _ => ?_)
      rw [Function.comp_apply, Nat.div_div_eq_div_mul, Nat.succ_eq_add_one, Nat.mul_add, Nat.pow_add, Nat.mul_comm]
/-- The two parts of a concatenation, as numbers. -/
theorem toNat_append_eq_add {n m : Nat} (a : BitVec n) (b : BitVec m) : (a ++ b).toNat = a.toNat * 2 ^ m + b.toNat := by
  rw [BitVec.toNat_append, ← Nat.shiftLeft_add_eq_or_of_lt b.isLt, Nat.shiftLeft_eq]
theorem bitField_of_lt {lo n v : Nat} (h : v < 2 ^ n) : bitField lo n v = 2 ^ lo * v := by
  rw [bitField, Nat.mod_eq_of_lt h, Nat.mul_comm]
/-- A byte string, byte by byte. -/
theorem map_byteAt_range (bs : List Byte) : (List.range bs.length).map (byteAt bs) = bs := by
  refine List.ext_getElem (by simp) (fun i hi _ => ?_)
  simp only [List.length_map, List.length_range] at hi
  simp [byteAt, hi]

/-! ## The registers that the host reads -/

theorem toNat_qstat (q : Queue) : q.qstat.toNat = Rules.qstatOf q := by
  have hseq := q.seq.isLt
  simp only [Queue.qstat, Rules.qstatOf, toNat_append_eq_add, BitVec.toNat_ofNat]
  cases q.rst <;> cases q.done <;> cases q.pre <;> cases q.enabled <;> simp <;> omega
theorem toNat_ferr_word (f : Ferr) : f.word.toNat = Rules.ferrOf f := by
  have he := f.epoch.isLt
  have ht := f.time.isLt
  simp only [Ferr.word, Rules.ferrOf, toNat_append_eq_add, BitVec.toNat_ofNat]
  cases f.v <;> simp <;> omega

/-! ## Memories -/

theorem Memory.bytes_eq_map (m : Memory) (a n : Nat) : Memory.bytes m a n = (List.range n).map (fun k => m.byte (a + k)) := by
  induction n generalizing a with
  | zero => rfl
  | succ n ih =>
    rw [Memory.bytes, ih, List.range_succ_eq_map, List.map_cons, List.map_map]
    congr 1
    exact List.map_congr_left (fun k _ => by rw [Function.comp_apply, Nat.succ_eq_add_one, Nat.add_assoc, Nat.add_comm 1])
@[simp] theorem Memory.length_bytes (m : Memory) (a n : Nat) : (Memory.bytes m a n).length = n := by
  simp [Memory.bytes_eq_map]
/-- What a memory reads after bytes have been written. -/
theorem Memory.byte_setBytes (m : Memory) (a b : Nat) (bs : List Byte) :
    (m.setBytes a bs).byte b = if a ≤ b ∧ b < a + bs.length then bs.getD (b - a) 0#8 else m.byte b := by
  split
  · rename_i h
    obtain ⟨i, rfl⟩ := Nat.exists_eq_add_of_le h.1
    have hi : i < bs.length := by omega
    rw [Memory.byte_setBytes_mem m a i bs hi]
    simp [hi]
  · exact Memory.byte_setBytes_other m a b bs (by omega)
theorem writePa_host (s : State) (pa : Nat) (bs : List Byte) :
    s.writePa 2 pa bs = { s with hostMem := Memory.setBytes s.hostMem pa bs } := rfl
theorem wrote_writePa_host (s : State) (pa : Nat) (bs : List Byte) : Rules.Wrote 2 pa bs s (s.writePa 2 pa bs) := by
  intro k hk a
  obtain rfl | rfl | rfl : k = 0 ∨ k = 1 ∨ k = 2 := by omega
  · rfl
  · rfl
  · simp only [Rules.byteOf, writePa_host, Memory.byte_setBytes]; simp

/-! ## Access queues -/

/-- An access without the note that it has been sent. -/
def MemOp.unsent (o : MemOp) : MemOp := { o with sent := false }

theorem sendCausal_frame (s : State) (i dst : Nat) (b : Body) : ∃ ns, s.sendCausal i dst b = { s with nodes := ns } := ⟨_, rfl⟩
theorem sendOps_frame (s : State) (q node : Nat) (before os : List MemOp) :
    ∃ ns, (sendOps s q node before os).1 = { s with nodes := ns } := by
  induction os generalizing s before with
  | nil => exact ⟨_, rfl⟩
  | cons o os ih =>
    unfold sendOps
    split
    · obtain ⟨ms, hm⟩ := sendCausal_frame s node (homeOf o.loc) (o.body q)
      obtain ⟨ns, hn⟩ := ih (s.sendCausal node (homeOf o.loc) (o.body q)) (before ++ [{ o with sent := true }])
      exact ⟨ns, by rw [hn, hm]⟩
    · exact ih _ _
/-- Sending only notes of accesses that they have been sent. -/
theorem sendOps_unsent (s : State) (q node : Nat) (before os : List MemOp) :
    (sendOps s q node before os).2.map MemOp.unsent = (before ++ os).map MemOp.unsent := by
  induction os generalizing s before with
  | nil => simp [sendOps]
  | cons o os ih =>
    unfold sendOps
    split <;> simp [ih, MemOp.unsent]
theorem flushOps_frame (s : State) (q : Nat) : ∃ qs ns, s.flushOps q = { s with opqs := qs, nodes := ns } := by
  unfold State.flushOps
  split
  · exact ⟨_, _, rfl⟩
  · rename_i oq _
    obtain ⟨ns, hn⟩ := sendOps_frame s q oq.node [] oq.ops
    exact ⟨s.opqs.put q { oq with ops := (sendOps s q oq.node [] oq.ops).2 }, ns, by dsimp only; rw [hn]⟩
theorem opsOf_flushOps (s : State) (q : Nat) : (opsOf (s.flushOps q) q).map MemOp.unsent = (opsOf s q).map MemOp.unsent := by
  unfold State.flushOps
  split
  · rfl
  · rename_i oq h
    simp [opsOf, h, sendOps_unsent]
theorem addOp_frame (s : State) (q : Nat) (who : Who) (task node : Nat) (o : MemOp) :
    ∃ qs ns, s.addOp q who task node o = { s with opqs := qs, nodes := ns } := by
  unfold State.addOp
  obtain ⟨qs, ns, h⟩ := flushOps_frame
    { s with opqs := s.opqs.put q { (s.opqs.get q (OpQ.mk who task node [] [])) with ops := (s.opqs.get q (OpQ.mk who task node [] [])).ops ++ [o] } } q
  exact ⟨qs, ns, h⟩
/-- The access that has been put into a queue stands there. -/
theorem addOp_mem (s : State) (q : Nat) (who : Who) (task node : Nat) (o : MemOp) :
    ∃ o' ∈ opsOf (s.addOp q who task node o) q, o'.id = o.id ∧ o'.loc = o.loc ∧ o'.n = o.n ∧ o'.kind = o.kind := by
  have h : o.unsent ∈ (opsOf (s.addOp q who task node o) q).map MemOp.unsent := by
    rw [State.addOp, opsOf_flushOps]; simp [opsOf]
  obtain ⟨o', ho', he⟩ := List.mem_map.mp h
  simp only [MemOp.unsent, MemOp.mk.injEq] at he
  obtain ⟨hid, hloc, hn, hkind, -⟩ := he
  exact ⟨o', ho', hid, hloc, hn, hkind⟩

/-! ## The host's accesses of memory -/

theorem kindBytes_device {kind : Nat} (h : kind < 2) : kindBytes kind = if kind = 0 then 384 * 2 ^ 30 else 16 * 2 ^ 30 := by
  obtain rfl | rfl : kind = 0 ∨ kind = 1 := by omega
  · rfl
  · rfl
theorem inSpace_device {kind addr n : Nat} (hk : kind < 2) (ha : addr + n ≤ if kind = 0 then 384 * 2 ^ 30 else 16 * 2 ^ 30) :
    inSpace kind addr n = true := by
  rw [inSpace, kindBytes_device hk, Bool.and_eq_true, decide_eq_true_eq, decide_eq_true_eq]
  exact ⟨by omega, ha⟩
/-- What stays within a line is one piece. -/
theorem linePieces_one {fuel addr : Nat} {bs : List Byte} (hb : bs ≠ []) (hl : addr % 64 + bs.length ≤ 64) :
    linePieces (fuel + 1) addr bs = [(addr, bs)] := by
  have hn : bs.length ≤ 64 - addr % 64 := by omega
  rw [linePieces, List.take_of_length_le hn, List.drop_of_length_le hn, if_neg (by simpa using hb)]
  cases fuel <;> rfl

theorem hostWrite_hostMemory (s : State) {addr : Nat} {bytes : List Byte} (ha : addr + bytes.length ≤ 2 ^ 48) :
    exec (.hostWrite 2 addr bytes) s = .next (s.writePa 2 addr bytes) := by
  have hs : inSpace 2 addr bytes.length = true := by rw [inSpace, kindBytes]; simpa using ha
  show execHostWrite 2 addr bytes s = _
  simp [execHostWrite, hs]
theorem hostRead_hostMemory (s : State) {addr n : Nat} (ha : addr + n ≤ 2 ^ 48) :
    exec (.hostRead 2 addr n) s = .next (readNow s 2 addr n (Memory.bytes s.hostMem addr n)) := by
  have hs : inSpace 2 addr n = true := by rw [inSpace, kindBytes]; simpa using ha
  show execHostRead 2 addr n s = _
  simp [execHostRead, hs]

section
variable {s : State} {kind addr : Nat} (hu : s.plat.linkUp = true) (hk : kind < 2)
include hu hk
theorem hostWrite_line {bytes : List Byte} (ha : addr + bytes.length ≤ if kind = 0 then 384 * 2 ^ 30 else 16 * 2 ^ 30)
    (hb : bytes ≠ []) (hl : addr % 64 + bytes.length ≤ 64) :
    exec (.hostWrite kind addr bytes) s = .next (hostStore s kind addr bytes) := by
  have h3 : ¬3 ≤ kind := by omega
  have h2 : kind ≠ 2 := by omega
  show execHostWrite kind addr bytes s = _
  simp [execHostWrite, inSpace_device hk ha, linePieces_one hb hl, hu, h3, h2]
theorem hostRead_line {n : Nat} (ha : addr + n ≤ if kind = 0 then 384 * 2 ^ 30 else 16 * 2 ^ 30)
    (hn : n ≠ 0) (hl : addr % 64 + n ≤ 64) :
    exec (.hostRead kind addr n) s = .next (hostLoad s kind addr n) := by
  have h3 : ¬3 ≤ kind := by omega
  have h2 : kind ≠ 2 := by omega
  have hp : linePieces (n + 1) addr (List.replicate n 0#8) = [(addr, List.replicate n 0#8)] :=
    linePieces_one (by simpa using hn) (by simpa using hl)
  show execHostRead kind addr n s = _
  simp [execHostRead, inSpace_device hk ha, hp, hu, h3, h2]
end

section
variable {s : State} {kind addr : Nat}
theorem hostStore_removed (h : homeOf (Loc.mk kind addr 0) ∈ s.removed) (bytes : List Byte) : hostStore s kind addr bytes = s :=
  if_pos (List.contains_iff_mem.mpr h)
theorem hostLoad_removed (h : homeOf (Loc.mk kind addr 0) ∈ s.removed) (n : Nat) : hostLoad s kind addr n = s :=
  if_pos (List.contains_iff_mem.mpr h)
theorem hostStore_home (h : homeOf (Loc.mk kind addr 0) ∉ s.removed) (bytes : List Byte) :
    hostStore s kind addr bytes = hostOp s (Loc.mk kind addr 0) bytes.length (.store bytes) :=
  if_neg (by simpa using h)
theorem hostLoad_home (h : homeOf (Loc.mk kind addr 0) ∉ s.removed) (n : Nat) :
    hostLoad s kind addr n = hostOp { s with hostReads := s.hostReads ++ [HostRead.mk s.nextId (Place.mk kind addr) n none] }
      (Loc.mk kind addr 0) n (.load (.size .b) []) :=
  if_neg (by simpa using h)
end

theorem hostOp_frame (s : State) (l : Loc) (n : Nat) (k : OpKind) :
    ∃ qs ns, hostOp s l n k = { s with opqs := qs, nodes := ns, nextId := s.nextId + 1 } := addOp_frame _ _ _ _ _ _
theorem hostOp_mem (s : State) (l : Loc) (n : Nat) (k : OpKind) :
    ∃ o ∈ opsOf (hostOp s l n k) 0, o.id = s.nextId ∧ o.loc = l ∧ o.n = n ∧ o.kind = k := addOp_mem _ _ _ _ _ _
/-- A read of a home that stands waits for its answer, and is one access of the host. -/
theorem hostLoad_issued {s : State} {kind addr : Nat} (h : homeOf (Loc.mk kind addr 0) ∉ s.removed) (n : Nat) :
    (∃ qs ns, hostLoad s kind addr n = { s with
      hostReads := s.hostReads ++ [HostRead.mk s.nextId (Place.mk kind addr) n none], opqs := qs, nodes := ns, nextId := s.nextId + 1 })
    ∧ ∃ o ∈ opsOf (hostLoad s kind addr n) 0, o.id = s.nextId ∧ o.loc = Loc.mk kind addr 0 ∧ o.n = n ∧ o.kind.isLoad = true := by
  rw [hostLoad_home h]
  refine ⟨hostOp_frame _ _ _ _, ?_⟩
  obtain ⟨o, ho, hid, hloc, hn, hkind⟩ := hostOp_mem { s with hostReads := s.hostReads ++ [HostRead.mk s.nextId (Place.mk kind addr) n none] }
    (Loc.mk kind addr 0) n (.load (.size .b) [])
  exact ⟨o, ho, hid, hloc, hn, by rw [hkind]; rfl⟩

/-! ## Completions on the host link -/

theorem dropAt_length {α : Type} (before : List α) (x : α) (after : List α) :
    dropAt (before ++ x :: after) before.length = before ++ after := by
  induction before with
  | nil => rfl
  | cons y before ih => rw [List.cons_append, List.length_cons, dropAt, ih, List.cons_append]
theorem modAt_length {α : Type} (f : α → α) (before : List α) (x : α) (after : List α) :
    modAt f (before ++ x :: after) before.length = before ++ f x :: after := by
  induction before with
  | nil => rfl
  | cons y before ih => rw [List.cons_append, List.length_cons, modAt, ih, List.cons_append]
theorem getElem?_append_cons_length {α : Type} (before : List α) (x : α) (after : List α) : (before ++ x :: after)[before.length]? = some x := by
  simp
theorem node_modNode_same (s : State) (k : Nat) (f : Node → Node) : (s.modNode k f).node k = f (s.node k) := SMap.get_set_same _ _ _ _
theorem replied_sendResp (s : State) (k dst : Nat) (b : RBody) : Rules.Replied (s.sendResp k dst b) k dst b := by
  refine ⟨{ src := k, dst := dst, stamp := (s.node k).a, epoch := (s.node k).epoch, body := b }, rfl, rfl, rfl, ?_⟩
  rw [State.sendResp, node_modNode_same]
  split
  · exact ⟨_, List.mem_append_right _ List.mem_cons_self, rfl⟩
  · exact List.mem_append_right _ List.mem_cons_self

theorem hostLinkCompletion_read {s : State} {before after : List LinkTxn} {id n q op src : Nat} {place : Place} {copy : Bool} {data : List Byte}
    (hr : s.linkReads = before ++ .read id place n copy q op src :: after) (hs : s.resync = none) (hd : place.kind ≠ 2 → data.length = n) :
    exec (.hostLinkCompletion before.length data) s = .next (({ s with linkReads := before ++ after } : State).sendResp 8 src
      (if copy then .copy q op (if place.kind = 2 then Memory.bytes s.hostMem place.pa n else data)
        else .mem q op (if place.kind = 2 then Memory.bytes s.hostMem place.pa n else data))) := by
  have hlen : (if place.kind = 2 then Memory.bytes s.hostMem place.pa n else data).length = n := by
    split
    · exact Memory.length_bytes _ _ _
    · exact hd ‹_›
  show execHostLinkCompletion before.length data s = _
  simp only [execHostLinkCompletion, hr, getElem?_append_cons_length, dropAt_length, hs, hlen]
  exact if_neg (by simp)

/-! ## Invalidations -/

theorem SMap.find_map {β : Type} (m : SMap β) (f : β → β) (k : Nat) :
    SMap.find (m.map (fun e => (e.1, f e.2))) k = (m.find k).map f := by
  induction m with
  | nil => rfl
  | cons e m ih =>
    rw [List.map_cons, SMap.find, SMap.find, ih]
    split <;> rfl
theorem core_dropCached (s : State) (i : Inval) (k : Nat) :
    (dropCached s i).core k = { s.core k with cached := (s.core k).cached.filter (fun t => !i.names t) } := by
  show SMap.get (s.cores.map _) k _ = _
  rw [SMap.get, SMap.find_map s.cores (fun c => { c with cached := c.cached.filter (fun t => !i.names t) })]
  unfold State.core SMap.get
  cases s.cores.find k <;> rfl

/-- A core holds a translation that reaches the publishable buffer of a selector. -/
abbrev State.reaches (s : State) (b : Nat) : Prop := ∃ e ∈ s.cores, ∃ x ∈ e.2.cached, x.leaf.pub = true ∧ x.block = b
theorem reaches_iff (s : State) (b : Nat) :
    s.cores.any (fun e => e.2.cached.any (fun t => t.leaf.pub && t.block == b)) = true ↔ s.reaches b := by
  simp [State.reaches]
theorem freeSelectors_frame (s : State) (bs : List Nat) : ∃ sel, freeSelectors s bs = { s with selectors := sel } := by
  unfold freeSelectors
  induction bs generalizing s with
  | nil => exact ⟨_, rfl⟩
  | cons b bs ih =>
    rw [List.foldl_cons]
    split
    · exact ih s
    · exact ih { s with selectors := s.selectors.del b }
theorem SMap.get_del {β : Type} (m : SMap β) (k j : Nat) (d : β) : (m.del k).get j d = if j = k then d else m.get j d := by
  rw [SMap.get, SMap.find_del]
  split <;> rfl
theorem get_freeSelectors (s : State) (bs : List Nat) (b : Nat) :
    SMap.get (freeSelectors s bs).selectors b false = if b ∈ bs ∧ ¬s.reaches b then false else s.selectors.get b false := by
  unfold freeSelectors
  induction bs generalizing s with
  | nil => simp
  | cons c bs ih =>
    rw [List.foldl_cons]
    split
    · rename_i hc
      rw [reaches_iff] at hc
      rw [ih]
      by_cases hb : b = c
      · subst hb; simp [hc]
      · simp [hb]
    · rename_i hc
      rw [reaches_iff] at hc
      rw [ih, SMap.get_del]
      by_cases hb : b = c
      · subst hb; simp [hc]
      · have : State.reaches { s with selectors := s.selectors.del c } b ↔ s.reaches b := Iff.rfl
        simp [hb, this]

theorem invalComplete_begins {s : State} {before after : List Inval} {i : Inval} (hi : s.plat.invals = before ++ i :: after) (h0 : i.upto = 0) :
    exec (.invalComplete before.length) s = .next { s with
      cores := (dropCached s i).cores
      plat := { s.plat with invals := before ++ { i with upto := s.nextId, blocks := i.frees s } :: after } } := by
  show execInvalComplete before.length s = _
  simp only [execInvalComplete, hi, getElem?_append_cons_length, h0, if_true, State.modPlat, dropCached, modAt_length]
theorem invalComplete_ends {s : State} {before after : List Inval} {i : Inval} (hi : s.plat.invals = before ++ i :: after) (h0 : i.upto ≠ 0)
    (hd : invalDone s i = true) :
    exec (.invalComplete before.length) s
      = .next (answer (freeSelectors { s with plat := { s.plat with invals := before ++ after } } i.blocks) 7 0 []) := by
  show execInvalComplete before.length s = _
  simp only [execInvalComplete, hi, getElem?_append_cons_length, h0, hd, if_true, if_false, State.modPlat, dropAt_length]

/-! ## Reads of the function's own spaces -/

section
variable {s : State} {space addr : Nat} (hu : s.plat.linkUp = true) (hs : 3 ≤ space)
include hu hs
/-- A read of the function's own spaces answers with the bytes that stand there. -/
theorem hostRead_function {bs : List Byte} (ha : addr + bs.length ≤ functionSize space)
    (hb : ∀ i < bs.length, functionByte s space (addr + i) = byteAt bs i) :
    ∃ t, exec (.hostRead space addr bs.length) s = .next t ∧ Rules.ReadAs bs s t := by
  have hm : (List.range bs.length).map (fun i => functionByte s space (addr + i)) = bs :=
    (List.map_congr_left (fun i hi => hb i (List.mem_range.mp hi))).trans (map_byteAt_range bs)
  refine ⟨readNow s space addr bs.length bs, ?_, _, rfl, rfl⟩
  show execHostRead space addr bs.length s = _
  simp [execHostRead, hs, ha, hu, hm]
theorem hostRead_number {n v : Nat} (hv : v < 256 ^ n) (ha : addr + n ≤ functionSize space)
    (hb : ∀ i < n, functionByte s space (addr + i) = byteAt (bytesOfNat n v) i) :
    ∃ (t : State) (bs : List Byte), exec (.hostRead space addr n) s = .next t ∧ Rules.ReadAs bs s t ∧ Rules.leNat bs = v := by
  have h := hostRead_function (bs := bytesOfNat n v) hu hs (by simpa using ha) (by simpa using hb)
  rw [length_bytesOfNat] at h
  obtain ⟨t, he, hr⟩ := h
  exact ⟨t, _, he, hr, leNat_bytesOfNat hv⟩
end

/-- A write of the function's own spaces that is none of a register changes nothing. -/
theorem hostWrite_bar0 {s : State} (hu : s.plat.linkUp = true) {addr : Nat} {bytes : List Byte} (ha : addr + bytes.length ≤ 2 ^ 24) :
    exec (.hostWrite 3 addr bytes) s = .next s := by
  have hf : addr + bytes.length ≤ functionSize 3 := ha
  show execHostWrite 3 addr bytes s = _
  simp [execHostWrite, hf, hu]

/-! ### Notify pages -/

theorem toNat_notifyReg (s : State) (aqi off : Nat) : (notifyReg s aqi off).toNat =
    if off = 16 then Rules.qstatOf (s.queue (16 + aqi)) else if off = 24 then (s.queue (16 + aqi)).ictl.toNat else if off = 32 then 1 else 0 := by
  unfold notifyReg
  split
  · exact toNat_qstat _
  · split
    · rfl
    · split <;> rfl
theorem functionByte_notify (s : State) {aqi off i : Nat} (ho : off < 4096) (h8 : off % 8 = 0) (hi : i < 8) :
    functionByte s 4 (4096 * aqi + off + i) = byteAt (bytesOfNat 8 (notifyReg s aqi off).toNat) i := by
  have hpage : (4096 * aqi + off + i) / 4096 = aqi := by omega
  have hoff : (4096 * aqi + off + i) % 4096 / 8 * 8 = off := by omega
  have hbyte : (4096 * aqi + off + i) % 8 = i := by omega
  show bar2Byte s _ = _
  rw [bar2Byte, hpage, hoff, hbyte]
theorem hostWrite_notify {s : State} (hu : s.plat.linkUp = true) {aqi off : Nat} (hq : aqi < 64) (ho : off < 4096) (h8 : off % 8 = 0)
    (value : DWord) : exec (.hostWrite 4 (4096 * aqi + off) (Rules.numBytes 8 value.toNat)) s = exec (.registerWrite aqi off value) s := by
  have hf : 4096 * aqi + off + 8 ≤ functionSize 4 := by rw [functionSize]; simp; omega
  have hpage : (4096 * aqi + off) / 4096 = aqi := by omega
  have hoff : (4096 * aqi + off) % 4096 = off := by omega
  have hal : (4096 * aqi + off) % 8 = 0 := by omega
  have hv : BitVec.ofNat 64 (natOfBytes (bytesOfNat 8 value.toNat)) = value := by
    rw [natOfBytes_bytesOfNat, Nat.mod_eq_of_lt (b := 256 ^ 8) value.isLt, BitVec.ofNat_toNat, BitVec.setWidth_eq]
  show execHostWrite 4 (4096 * aqi + off) (Rules.numBytes 8 value.toNat) s = execRegisterWrite aqi off value s
  rw [numBytes_eq_bytesOfNat]
  simp [execHostWrite, hf, hu, hal, hpage, hoff, hv]

/-! ### BAR0 -/

theorem functionByte_remap (s : State) {entry i : Nat} (he : entry < 2048) (hi : i < 16) :
    functionByte s 3 (16 * entry + i) = byteAt (bytesOfNat 16 (s.plat.remap.get entry 0#128).toNat) i := by
  have hin : 16 * entry + i < 0x8000 := by omega
  have hentry : (16 * entry + i) / 16 = entry := by omega
  have hbyte : (16 * entry + i) % 16 = i := by omega
  show bar0Byte s _ = _
  rw [bar0Byte, if_pos hin, hentry, hbyte]
/-- The latest record that stands in an entry of a ring. -/
theorem ringLast_latest {α : Type} {n : Nat} {seq : α → Nat} {before after : List α} {e : α} (h : ∀ x ∈ after, seq x % n ≠ seq e % n) :
    ringLast n (seq e % n) seq (before ++ e :: after) = some e := by
  have hnone : after.reverse.find? (fun x => seq x % n == seq e % n) = none := by simpa using h
  simp [ringLast, hnone]
theorem functionByte_errLog {s : State} {before after : List ErrEntry} {e : ErrEntry} (hl : s.plat.errLog = before ++ e :: after)
    (ha : ∀ x ∈ after, x.seq % 32768 ≠ e.seq % 32768) {i : Nat} (hi : i < 32) :
    functionByte s 3 (0x100000 + 32 * (e.seq % 32768) + i) = byteAt e.bytes i := by
  have hlow : ¬0x100000 + 32 * (e.seq % 32768) + i < 0x100000 := by omega
  have hlow' : ¬0x100000 + 32 * (e.seq % 32768) + i < 0x8000 := by omega
  have hhigh : 0x100000 + 32 * (e.seq % 32768) + i < 0x200000 := by omega
  have hentry : (0x100000 + 32 * (e.seq % 32768) + i - 0x100000) / 32 = e.seq % 32768 := by omega
  have hbyte : (0x100000 + 32 * (e.seq % 32768) + i - 0x100000) % 32 = i := by omega
  show bar0Byte s _ = _
  rw [bar0Byte, if_neg hlow', if_neg hlow, if_pos hhigh, errLogByte, hentry, hbyte, hl, ringLast_latest ha]
theorem functionByte_mail (s : State) {i : Nat} (hi : i < 16) :
    functionByte s 3 (0x200000 + i) = byteAt (bytesOfNat 8 s.qsag ++ bytesOfNat 8 s.ssar) i := by
  have h : 0x200000 + i < 0x210000 := by omega
  show bar0Byte s _ = _
  rw [bar0Byte, if_neg (by omega), if_neg (by omega), if_neg (by omega), if_pos h, mailByte, Nat.add_sub_cancel_left]
theorem functionByte_ferr (s : State) {k i : Nat} (hk : k < 10) (hi : i < 8) :
    functionByte s 3 (0x210000 + 8 * k + i) = byteAt (bytesOfNat 8 (s.node k).ferr.word.toNat) i := by
  have hin : 0x210000 + 8 * k + i < 0x210000 + 8 * Config.nodes := by simp only [Config.nodes]; omega
  have hnode : (0x210000 + 8 * k + i - 0x210000) / 8 = k := by omega
  have hbyte : (0x210000 + 8 * k + i - 0x210000) % 8 = i := by omega
  show bar0Byte s _ = _
  rw [bar0Byte, if_neg (by omega), if_neg (by omega), if_neg (by omega), if_neg (by omega), if_pos hin, ferrByte, hnode, hbyte]
theorem functionByte_fault {s : State} {ring : Nat} {sp : Space} {before after : List FaultRec} {r : FaultRec}
    (hsp : s.spaces.find (ring / 2) = some sp) (hl : (if ring % 2 = 0 then sp.ring else sp.ring2) = before ++ r :: after)
    (ha : ∀ x ∈ after, x.seq % 1024 ≠ r.seq % 1024) {i : Nat} (hi : i < 32) :
    functionByte s 3 (0x800000 + 32768 * ring + 32 * (r.seq % 1024) + i) = byteAt r.bytes i := by
  have hnodes : ¬0x800000 + 32768 * ring + 32 * (r.seq % 1024) + i < 0x210000 + 8 * Config.nodes := by simp only [Config.nodes]; omega
  have hring : (0x800000 + 32768 * ring + 32 * (r.seq % 1024) + i - 0x800000) / 2 ^ 15 = ring := by omega
  have hentry : (0x800000 + 32768 * ring + 32 * (r.seq % 1024) + i - 0x800000) % 2 ^ 15 / 32 = r.seq % 1024 := by omega
  have hbyte : (0x800000 + 32768 * ring + 32 * (r.seq % 1024) + i - 0x800000) % 32 = i := by omega
  show bar0Byte s _ = _
  rw [bar0Byte, if_neg (by omega), if_neg (by omega), if_neg (by omega), if_neg (by omega), if_neg hnodes, if_neg (by omega),
    if_neg (by omega), faultByte]
  simp only [hring, hentry, hbyte, hsp, hl, ringLast_latest ha]
theorem functionByte_link (s : State) {i : Nat} (hi : i < 2) : functionByte s 5 (0x12 + i) = byteAt (bytesOfNat 2 (linkStatus s)) i := by
  show pcieByte s _ = _
  obtain rfl | rfl : i = 0 ∨ i = 1 := by omega
  · rfl
  · rfl

/-- The number of an error-log entry (R375). -/
theorem errEntry_bytes {e : ErrEntry} (hsrc : e.src < 2 ^ 16) (hcode : e.code < 2 ^ 8) (htime : e.time < 2 ^ 48) (hseq : e.seq < 2 ^ 64) :
    e.bytes = bytesOfNat 32 (2 ^ 16 * e.detail.toNat + 2 ^ 112 * e.src + 2 ^ 128 * e.code + 2 ^ 136 * (if e.transient then 1 else 0)
      + 2 ^ 144 * e.time + 2 ^ 192 * e.seq) := by
  have htr : (if e.transient = true then 1 else 0) < 2 ^ 1 := by split <;> decide
  rw [ErrEntry.bytes, bitField_of_lt e.detail.isLt, bitField_of_lt hsrc, bitField_of_lt hcode, bitField_of_lt htr, bitField_of_lt htime,
    bitField_of_lt hseq]
/-- The number of a fault record (R355). -/
theorem faultRec_bytes {r : FaultRec} (hstage : r.stage < 2) (hacc : r.acc < 4) (hlevel : r.level < 4) (hteam : r.team < 2 ^ 16)
    (htime : r.time < 2 ^ 48) (hseq : r.seq < 2 ^ 64) :
    r.bytes = bytesOfNat 32 (r.va.toNat + 2 ^ 64 * r.pasid.toNat + 2 ^ 84 * r.stage + 2 ^ 85 * r.acc + 2 ^ 87 * r.level
      + 2 ^ 89 * (if r.malf then 1 else 0) + 2 ^ 96 * r.taskh.toNat + 2 ^ 128 * r.team + 2 ^ 144 * r.time + 2 ^ 192 * r.seq) := by
  have hmalf : (if r.malf = true then 1 else 0) < 2 ^ 1 := by split <;> decide
  rw [FaultRec.bytes, bitField_of_lt r.va.isLt, bitField_of_lt r.pasid.isLt, bitField_of_lt (n := 1) hstage, bitField_of_lt (n := 2) hacc,
    bitField_of_lt (n := 2) hlevel, bitField_of_lt hmalf, bitField_of_lt r.taskh.isLt, bitField_of_lt hteam, bitField_of_lt htime,
    bitField_of_lt hseq, pow_zero, one_mul]
theorem linkStatus_eq (s : State) : linkStatus s = s.plat.linkGen % 16 + 16 * (s.plat.linkWidth % 64) := by
  simp only [linkStatus, bitField]; omega

/-! ### The clauses -/

section
variable {s : State} (hu : s.plat.linkUp = true)
include hu
theorem hostRead_notify {aqi off : Nat} (hq : aqi < 64) (ho : off < 4096) (h8 : off % 8 = 0) :
    ∃ (t : State) (bs : List Byte), exec (.hostRead 4 (4096 * aqi + off) 8) s = .next t ∧ Rules.ReadAs bs s t ∧ Rules.leNat bs =
      if off = 16 then Rules.qstatOf (s.queue (16 + aqi)) else if off = 24 then (s.queue (16 + aqi)).ictl.toNat else if off = 32 then 1 else 0 := by
  rw [← toNat_notifyReg]
  have ha : 4096 * aqi + off + 8 ≤ functionSize 4 := by show _ ≤ 2 ^ 18; omega
  exact hostRead_number hu (by decide) (notifyReg s aqi off).isLt ha (fun i hi => functionByte_notify s ho h8 hi)
theorem hostRead_remap {entry : Nat} (he : entry < 2048) :
    ∃ (t : State) (bs : List Byte), exec (.hostRead 3 (16 * entry) 16) s = .next t ∧ Rules.ReadAs bs s t
      ∧ Rules.leNat bs = (s.plat.remap.get entry 0#128).toNat := by
  have ha : 16 * entry + 16 ≤ functionSize 3 := by show _ ≤ 2 ^ 24; omega
  exact hostRead_number hu (by decide) (s.plat.remap.get entry 0#128).isLt ha (fun i hi => functionByte_remap s he hi)
theorem hostRead_errLog {before after : List ErrEntry} {e : ErrEntry} (hl : s.plat.errLog = before ++ e :: after)
    (ha : ∀ x ∈ after, x.seq % 32768 ≠ e.seq % 32768) (hsrc : e.src < 2 ^ 16) (hcode : e.code < 2 ^ 8) (htime : e.time < 2 ^ 48)
    (hseq : e.seq < 2 ^ 64) :
    ∃ (t : State) (bs : List Byte), exec (.hostRead 3 (0x100000 + 32 * (e.seq % 32768)) 32) s = .next t ∧ Rules.ReadAs bs s t
      ∧ Rules.leNat bs = 2 ^ 16 * e.detail.toNat + 2 ^ 112 * e.src + 2 ^ 128 * e.code + 2 ^ 136 * (if e.transient then 1 else 0)
          + 2 ^ 144 * e.time + 2 ^ 192 * e.seq := by
  have hdetail := e.detail.isLt
  have hb := errEntry_bytes hsrc hcode htime hseq
  have hr : 0x100000 + 32 * (e.seq % 32768) + 32 ≤ functionSize 3 := by show _ ≤ 2 ^ 24; omega
  refine hostRead_number hu (by decide) ?_ hr (fun i hi => hb ▸ functionByte_errLog hl ha hi)
  split <;> omega
theorem hostRead_mail :
    ∃ (t : State) (bs : List Byte), exec (.hostRead 3 0x200000 16) s = .next t ∧ Rules.ReadAs bs s t
      ∧ (s.qsag < 2 ^ 64 → s.ssar < 2 ^ 64 → Rules.leNat bs = s.qsag + 2 ^ 64 * s.ssar) := by
  have hlen : (bytesOfNat 8 s.qsag ++ bytesOfNat 8 s.ssar).length = 16 := by simp
  obtain ⟨t, he, hr⟩ := hostRead_function (bs := bytesOfNat 8 s.qsag ++ bytesOfNat 8 s.ssar) (space := 3) (addr := 0x200000) hu (by decide)
    (by rw [hlen]; decide) (fun i hi => functionByte_mail s (hlen ▸ hi))
  refine ⟨t, _, hlen ▸ he, hr, fun hq hs => ?_⟩
  rw [leNat_eq_natOfBytes, natOfBytes_append, natOfBytes_bytesOfNat, natOfBytes_bytesOfNat, length_bytesOfNat]
  omega
theorem hostRead_ferr {k : Nat} (hk : k < 10) :
    ∃ (t : State) (bs : List Byte), exec (.hostRead 3 (0x210000 + 8 * k) 8) s = .next t ∧ Rules.ReadAs bs s t
      ∧ Rules.leNat bs = Rules.ferrOf (s.node k).ferr := by
  rw [← toNat_ferr_word]
  have ha : 0x210000 + 8 * k + 8 ≤ functionSize 3 := by show _ ≤ 2 ^ 24; omega
  exact hostRead_number hu (by decide) (s.node k).ferr.word.isLt ha (fun i hi => functionByte_ferr s hk hi)
theorem hostRead_fault {ring : Nat} {sp : Space} {before after : List FaultRec} {r : FaultRec} (hring : ring < 256)
    (hsp : s.spaces.find (ring / 2) = some sp) (hl : (if ring % 2 = 0 then sp.ring else sp.ring2) = before ++ r :: after)
    (ha : ∀ x ∈ after, x.seq % 1024 ≠ r.seq % 1024) (hstage : r.stage < 2) (hacc : r.acc < 4) (hlevel : r.level < 4)
    (hteam : r.team < 2 ^ 16) (htime : r.time < 2 ^ 48) (hseq : r.seq < 2 ^ 64) :
    ∃ (t : State) (bs : List Byte), exec (.hostRead 3 (0x800000 + 32768 * ring + 32 * (r.seq % 1024)) 32) s = .next t ∧ Rules.ReadAs bs s t
      ∧ Rules.leNat bs = r.va.toNat + 2 ^ 64 * r.pasid.toNat + 2 ^ 84 * r.stage + 2 ^ 85 * r.acc + 2 ^ 87 * r.level
          + 2 ^ 89 * (if r.malf then 1 else 0) + 2 ^ 96 * r.taskh.toNat + 2 ^ 128 * r.team + 2 ^ 144 * r.time + 2 ^ 192 * r.seq := by
  have hva := r.va.isLt
  have hpasid := r.pasid.isLt
  have htaskh := r.taskh.isLt
  have hb := faultRec_bytes hstage hacc hlevel hteam htime hseq
  have hr : 0x800000 + 32768 * ring + 32 * (r.seq % 1024) + 32 ≤ functionSize 3 := by show _ ≤ 2 ^ 24; omega
  refine hostRead_number hu (by decide) ?_ hr (fun i hi => hb ▸ functionByte_fault hsp hl ha hi)
  split <;> omega
theorem hostRead_link :
    ∃ (t : State) (bs : List Byte), exec (.hostRead 5 0x12 2) s = .next t ∧ Rules.ReadAs bs s t
      ∧ Rules.leNat bs = s.plat.linkGen % 16 + 16 * (s.plat.linkWidth % 64) := by
  rw [← linkStatus_eq]
  have hv : linkStatus s < 256 ^ 2 := by rw [linkStatus_eq]; omega
  exact hostRead_number hu (by decide) hv (by decide) (fun i hi => functionByte_link s hi)
end

/-- Settles O51: each clause by the lemma above that says what the access, the completion or the invalidation comes to. -/
theorem hostAccesses : Obligations.HostAccesses := by
  unfold Obligations.HostAccesses
  refine ⟨⟨fun s addr bytes => ⟨fun ha => ?_, fun kind hk ha hu hb hl hh => ?_⟩,
      fun s addr n => ⟨fun ha => ?_, fun kind hk ha hu hn hl hh => ?_⟩,
      fun s before after id place n copy q op src data hr hs hd => ?_,
      fun s before i after hi => ⟨fun h0 => ?_, fun h0 hd => ?_⟩⟩,
    fun s hu => ⟨fun aqi off hq ho h8 => ⟨hostRead_notify hu hq ho h8, hostWrite_notify hu hq ho h8⟩, fun addr bytes => hostWrite_bar0 hu,
      fun entry he => hostRead_remap hu he, fun before e after hl ha => hostRead_errLog hu hl ha, hostRead_mail hu,
      fun k hk => hostRead_ferr hu hk, fun ring sp before r after hring hsp hl ha => hostRead_fault hu hring hsp hl ha, hostRead_link hu⟩,
    fun s kind addr hu hk hh => ⟨fun bytes hb ha hl => ?_, fun n hn ha hl => ?_⟩⟩
  · exact ⟨_, hostWrite_hostMemory s ha, rfl, wrote_writePa_host s addr bytes⟩
  · obtain ⟨qs, ns, hf⟩ := hostOp_frame s (Loc.mk kind addr 0) bytes.length (.store bytes)
    rw [hostWrite_line hu hk ha hb hl, hostStore_home hh]
    exact ⟨_, rfl, by rw [hf], hostOp_mem _ _ _ _⟩
  · refine ⟨_, hostRead_hostMemory s ha, rfl, _, rfl, ?_⟩
    rw [Memory.bytes_eq_map]; rfl
  · obtain ⟨⟨qs, ns, hf⟩, hm⟩ := hostLoad_issued hh n
    exact ⟨_, hostRead_line hu hk ha hn hl, by rw [hf], ⟨_, by rw [hf], rfl, rfl⟩, hm⟩
  · refine ⟨_, hostLinkCompletion_read hr hs hd, rfl, ?_⟩
    rw [Memory.bytes_eq_map]
    exact replied_sendResp _ _ _ _
  · exact ⟨_, invalComplete_begins hi h0, rfl, core_dropCached s i⟩
  · obtain ⟨sel, hf⟩ := freeSelectors_frame { s with plat := { s.plat with invals := before ++ after } } i.blocks
    exact ⟨_, _, invalComplete_ends hi h0 hd, rfl, by rw [hf], get_freeSelectors _ _⟩
  · rw [hostWrite_line hu hk ha hb hl, hostStore_removed hh]
  · rw [hostRead_line hu hk ha hn hl, hostLoad_removed hh]

end Sys2Proof.Machine

/-!
SUPPORT. Where the paths of a group stand after the shared operations of Machine/Ops.lean (R21 to R23, R28, R43, R51, R342, R343): one
lemma for each operation, in the words of `Rules.Places`, `Rules.StandsAt` and `Rules.Trapped`.
-/
namespace Sys2Proof.Machine

/-! ## The party that executes -/

/-- What the running path of the executing group names is what the state holds. -/
theorem gctx_some {s : State} {c : GCtx} (h : gctx s = some c) :
    s.cur = .group c.gk ∧ s.groups.find c.gk = some c.group ∧ c.group.running = some c.path ∧ c.tk = c.group.team
      ∧ s.teams.find c.tk = some c.team ∧ s.tasks.find c.team.task = some c.task ∧ c.core = c.gk / 8 := by
  unfold gctx at h
  split at h
  · rename_i gk hcur
    split at h
    · rename_i g hg
      split at h
      · rename_i p t hp ht
        split at h
        · rename_i k hk
          obtain rfl := Option.some.inj h
          exact ⟨hcur, hg, hp, rfl, ht, hk, rfl⟩
        · cases h
      · cases h
    · cases h
  · cases h
  · cases h

/-- A group executes, or a lead, not both. -/
theorem lctx_none_of_gctx {s : State} {c : GCtx} (h : gctx s = some c) : lctx s = none := by
  unfold lctx
  rw [(gctx_some h).1]

/-- What the executing lead names is what the state holds. -/
theorem lctx_some {s : State} {c : LCtx} (h : lctx s = some c) :
    s.cur = .lead c.tk ∧ s.teams.find c.tk = some c.team ∧ s.tasks.find c.team.task = some c.task ∧ c.core = c.tk / 8 := by
  unfold lctx at h
  split at h
  · rename_i tk hcur
    unfold lctxOf at h
    split at h
    · rename_i t ht
      split at h
      · rename_i k hk
        obtain rfl := Option.some.inj h
        exact ⟨hcur, ht, hk, rfl⟩
      · cases h
    · cases h
  · cases h
  · cases h

theorem gctx_none_of_lctx {s : State} {c : LCtx} (h : lctx s = some c) : gctx s = none := by
  unfold gctx
  rw [(lctx_some h).1]

/-- A charge touches the leases and the record of charges alone: every other field of the state may be read before it or after it. -/
theorem charge_of_eq {s s' : State} {core task : Nat} {who : Payer} {n b : Nat} (h : charge s core task who n b = (true, s')) :
    s' = { s with leases := s'.leases, hist := s'.hist } := by
  have := charge_frame s core task who n b
  rw [h] at this
  exact this

/-! ## Parking and the issue slot -/

/-- A path without threads is none. -/
theorem parkPath_empty {p : Path} (hl : p.lanes = []) (s : State) (gk : Nat) : parkPath s gk p = s := by
  unfold parkPath
  rw [if_pos (by simpa using hl)]

@[simp] theorem gHold_releaseG (s : State) (core : Nat) : ((releaseG s core).core core).gHold = none := by
  unfold releaseG; rw [core_modCore, if_pos rfl]
@[simp] theorem core_setRunning (s : State) (gk : Nat) (p : Option Path) (k : Nat) : (setRunning s gk p).core k = s.core k := rfl
@[simp] theorem core_parkPath (s : State) (gk : Nat) (p : Path) (k : Nat) : (parkPath s gk p).core k = s.core k := by
  unfold parkPath; split <;> rfl
@[simp] theorem gHold_parkRunning (s : State) (gk core : Nat) (p : Path) : ((parkRunning s gk core p).core core).gHold = none :=
  gHold_releaseG _ _

theorem Pos.next_eq_following (p : Pos) : p.next = Rules.following p := by
  unfold Pos.next Rules.following
  cases p.rep <;> rfl

/-! What moves the paths of a group leaves the rest of the state alone. -/

section
variable {gk core : Nat} {s t : State} (h : PlaceOnly gk core s t)
include h
theorem PlaceOnly.threads : t.threads = s.threads := by rw [h.1]
theorem PlaceOnly.teams : t.teams = s.teams := by rw [h.1]
theorem PlaceOnly.tasks : t.tasks = s.tasks := by rw [h.1]
theorem PlaceOnly.queues : t.queues = s.queues := by rw [h.1]
theorem PlaceOnly.thread (l k : Nat) : t.thread l k = s.thread l k := by unfold State.thread; rw [h.threads]
end

end Sys2Proof.Machine

namespace Sys2Proof.Rules
open Sys2Proof.Machine

/-! ## Places -/

/-- Before anything moves, the running path is where it is. -/
theorem Places.refl {c : GCtx} {s : State} (hg : s.groups.find c.gk = some c.group) (hr : c.group.running = some c.path) :
    Places c (some c.path) [] s s := by
  refine ⟨PlaceOnly.refl _ _ _, ?_⟩
  rw [hg, ← hr]
  simp [parkedFrom]

theorem Places.set_running {c : GCtx} {r : Option Path} {ps : List Path} {s t : State} (h : Places c r ps s t) (r' : Option Path) :
    Places c r' ps s (setRunning t c.gk r') := by
  obtain ⟨hp, hg⟩ := h
  refine ⟨hp.trans (placeOnly_setRunning _ _ _ _), ?_⟩
  show (t.groups.mod c.gk _).find c.gk = _
  rw [SMap.find_mod, if_pos rfl, hg]; rfl

theorem parkedFrom_append (n : Nat) (ps : List Path) (p : Path) :
    parkedFrom n (ps ++ [p]) = parkedFrom n ps ++ [{ p with park := n + ps.length }] := by
  induction ps generalizing n with
  | nil => rfl
  | cons q ps ih =>
    simp only [List.cons_append, parkedFrom, ih, List.length_cons]
    rw [show n + 1 + ps.length = n + (ps.length + 1) by omega]

/-- A path that is parked joins the parked ones at the end. -/
theorem Places.park_path {c : GCtx} {r : Option Path} {ps : List Path} {s t : State} (h : Places c r ps s t) {p : Path} (hl : p.lanes ≠ []) :
    Places c r (ps ++ [p]) s (parkPath t c.gk p) := by
  obtain ⟨hp, hg⟩ := h
  refine ⟨hp.trans (placeOnly_parkPath _ _ _ _), ?_⟩
  unfold parkPath
  rw [if_neg (by simpa using hl)]
  show (t.groups.mod c.gk _).find c.gk = _
  rw [SMap.find_mod, if_pos rfl, hg, parkedFrom_append]
  simp [Nat.add_assoc]

theorem Places.release {c : GCtx} {r : Option Path} {ps : List Path} {s t : State} (h : Places c r ps s t) :
    Places c r ps s (releaseG t c.core) :=
  ⟨h.1.trans (placeOnly_releaseG _ _ _), h.2⟩

theorem Places.park_running {c : GCtx} {r : Option Path} {ps : List Path} {s t : State} (h : Places c r ps s t) {p : Path} (hl : p.lanes ≠ []) :
    Places c none (ps ++ [p]) s (parkRunning t c.gk c.core p) :=
  ((h.set_running none).park_path hl).release

/-- Paths that stand where they stand, with the issue slot given up and no path that runs on in its clause. -/
theorem Places.stands_at {c : GCtx} {r : Option Path} {ps : List Path} {s t : State} (h : Places c r ps s t)
    (hr : ∀ p ∈ r, p.pos.remain = 0) (hh : (t.core c.core).gHold = none) : StandsAt c r ps s t := by
  refine ⟨h, ?_⟩
  rw [hh]
  cases r with
  | none => rfl
  | some p => simp [hr p rfl]

/-- Y of the clause is not touched by going on. -/
@[simp] theorem following_y (p : Pos) : (following p).y = p.y := by
  unfold following
  split
  · rfl
  · split <;> rfl

/-- The lanes that run on after an instruction that makes no transfer: at the next word, or at the header there, parked there when the clause has Y set (R43, R51). -/
theorem Places.go_on {c : GCtx} {r : Option Path} {ps : List Path} {lanes : List Nat} {s t : State} (h : Places c r ps s t)
    (hh : (t.core c.core).gHold = (s.core c.core).gHold) (hl : lanes ≠ []) :
    StandsAt c (runOn c lanes) (ps ++ parkOn c lanes) s (goOn (c.keep lanes) .none t) := by
  have hpos : (c.keep lanes).path.pos.next = following c.path.pos := Pos.next_eq_following _
  unfold goOn
  simp only [ne_eq, not_true_eq_false, if_false, hpos, following_y]
  by_cases h0 : (following c.path.pos).remain = 0
  · by_cases hy : c.path.pos.y = true
    · simp only [h0, hy, if_true, runOn, parkOn, and_self]
      exact (h.park_running hl).stands_at (by simp) (gHold_parkRunning _ _ _ _)
    · simp only [h0, hy, if_true, Bool.false_eq_true, if_false, runOn, parkOn, and_false, List.append_nil]
      exact (h.set_running _).release.stands_at (by rintro p ⟨⟩; exact h0) (gHold_releaseG _ _)
  · simp only [h0, if_false, runOn, parkOn, false_and, List.append_nil]
    refine ⟨h.set_running _, ?_⟩
    show (t.core c.core).gHold = if (following c.path.pos).remain = 0 then none else _
    rw [if_neg h0, hh]

/-- What becomes of the threads does not matter to where the paths stand. -/
theorem Places.on_lanes {c : GCtx} {r : Option Path} {ps : List Path} {s t : State} (h : Places c r ps s t) (gk : Nat) (ls : List Nat) (f : Nat → Thread → Thread) :
    Places c r ps (s.onLanes gk ls f) (t.onLanes gk ls f) := by
  refine ⟨⟨?_, h.1.2.1, h.1.2.2⟩, h.2⟩
  have he := h.1.1
  rw [he]
  rfl

end Sys2Proof.Rules

namespace Sys2Proof.Machine

/-! ## Traps -/

/-- A change of some lanes depends on what it does to those lanes alone. -/
theorem onLanes_congr {s : State} {gk : Nat} {lanes : List Nat} {f g : Nat → Thread → Thread} (h : ∀ l ∈ lanes, ∀ th, f l th = g l th) :
    s.onLanes gk lanes f = s.onLanes gk lanes g := by
  unfold State.onLanes SMap.mapIf
  congr 1
  refine List.map_congr_left fun e _ => ?_
  split
  · rename_i hp
    simp only [Bool.and_eq_true, List.contains_iff_mem] at hp
    exact congrArg (Prod.mk e.1) (h _ hp.2 e.2)
  · rfl

/-- The thread in a lane that a change does not name is as it was. -/
theorem thread_onLanes_other {s : State} {gk : Nat} {lanes : List Nat} {f : Nat → Thread → Thread} {l : Nat} (h : l ∉ lanes) :
    (s.onLanes gk lanes f).thread gk l = s.thread gk l := by
  unfold State.thread SMap.get
  rw [find_onLanes, if_neg]
  unfold tkey
  rintro ⟨hk, hm⟩
  rw [show (gk * 64 + l) % 64 = l by omega] at hm
  exact h hm

/-- The list of the traps of some lanes gives each of them its own. -/
theorem find?_lane (lanes : List Nat) (info : Nat → TrapInfo) {l : Nat} (h : l ∈ lanes) (d : TrapInfo) :
    ((List.find? (fun t => t.1 == l) (lanes.map (fun l => (l, info l)))).map Prod.snd).getD d = info l := by
  induction lanes with
  | nil => cases h
  | cons k ks ih =>
    by_cases hk : k = l
    · subst hk; simp
    · have hm : l ∈ ks := (List.mem_cons.mp h).resolve_left (Ne.symm hk)
      simpa [List.find?_cons, hk] using ih hm

/-- What a thread is once it has trapped at the place `p` of the path `c` (R342 step 2). -/
def trappedAt (c : GCtx) (word : Word) (p : Pos) (resume : DWord) (info : Nat → TrapInfo) (l : Nat) (th : Thread) : Thread :=
  th.trap (trapRecord th (c.path.pos.remain == 0) p (info l)) word resume (info l)

/-- The threads that trap take the trap, and those that the handler takes are parked at it (R28, R342). -/
theorem trapLanes_eq (c : GCtx) (word : Word) (p : Pos) (resume : DWord) (lanes : List Nat) (info : Nat → TrapInfo) (s : State) :
    trapLanes c word p resume (lanes.map (fun l => (l, info l))) s =
      parkPath (s.onLanes c.gk lanes (trappedAt c word p resume info)) c.gk
        (Rules.inHandler c (lanes.filter (fun l => handled c (s.thread c.gk l)))) := by
  have hm : (lanes.map (fun l => (l, info l))).map Prod.fst = lanes := by simp [Function.comp_def]
  unfold trapLanes
  simp only [hm]
  rw [onLanes_congr (g := trappedAt c word p resume info)]
  · rfl
  · intro l hl th
    simp only [find?_lane lanes info hl, trappedAt]

theorem handled_iff (c : GCtx) (th : Thread) : handled c th = true ↔ descHv c.task.desc = true ∧ th.trapMode = false := by
  simp [handled]

/-- The handler takes every thread of some lanes. -/
theorem handled_all {s : State} {c : GCtx} (h : Rules.AllHandled s c) {lanes : List Nat} (hl : ∀ l ∈ lanes, l ∈ c.path.lanes) :
    lanes.filter (fun l => handled c (s.thread c.gk l)) = lanes := by
  rw [List.filter_eq_self]
  exact fun l hm => (handled_iff _ _).mpr ⟨h.1, h.2 l (hl l hm)⟩

/-- Where the handler takes every trap the system handler has none. -/
theorem unhandled_none {s : State} {c : GCtx} (h : Rules.AllHandled s c) {lanes : List Nat} (hl : ∀ l ∈ lanes, l ∈ c.path.lanes) (info : Nat → TrapInfo) :
    unhandled c (lanes.map (fun l => (l, info l))) s = none := by
  unfold unhandled
  rw [List.find?_eq_none]
  intro x hx
  obtain ⟨l, hm, rfl⟩ := List.mem_map.mp hx
  simp [(handled_iff c _).mpr ⟨h.1, h.2 l (hl l hm)⟩]

/-- The report of R31 and R342 goes to the system handler. -/
theorem systemHandles (s : State) (task : Nat) (cause : Cause) (t0 word : Word) (pc addr : DWord) :
    Rules.SystemHandles task cause s (systemHandler s task cause.code t0 word pc addr) := ⟨_, rfl⟩

theorem leadTrap_handles (c : LCtx) (w : Word) (i : TrapInfo) (s : State) : Rules.SystemHandles c.team.task i.cause s (leadTrap c w i s) := ⟨_, rfl⟩

/-! ### The record of R343 -/

theorem Cause.code_lt (k : Cause) : k.code < 256 := by cases k <;> decide

theorem toNat_trapT0 (y gen : Bool) (cls : BitVec 3) (remain : Nat) (rep : Option Nat) (i : TrapInfo) (hr : remain < 16) (hc : i.code < 64) :
    (trapT0 y gen cls remain rep i).toNat = i.cause.code + 2 ^ 8 * i.code + (match rep with | some j => 2 ^ 14 * (j % 64) + 2 ^ 20 | none => 0)
      + 2 ^ 21 * remain + 2 ^ 25 * cls.toNat + (if gen then 2 ^ 28 else 0) + (if y then 2 ^ 29 else 0) := by
  have hk := i.cause.code_lt
  unfold trapT0
  simp only [toNat_append_eq_add, BitVec.toNat_ofNat, BitVec.toNat_ofBool]
  cases rep <;> cases y <;> cases gen <;> simp <;> omega

/-- A doubleword is its two halves. -/
theorem halves_append (d : DWord) : d.extractLsb' 32 32 ++ d.extractLsb' 0 32 = d := by
  have h := d.isLt
  apply BitVec.eq_of_toNat_eq
  rw [toNat_append_eq_add]
  simp only [BitVec.extractLsb'_toNat, Nat.shiftRight_eq_div_pow]
  omega

/-- The trap registers of a thread that has trapped (R342 step 2, R343). -/
theorem trap_reg (th : Thread) (t0 word : Word) (resume : DWord) (i : TrapInfo) :
    (th.trap t0 word resume i).reg 64 = t0 ∧ (th.trap t0 word resume i).reg 65 = word
    ∧ (th.trap t0 word resume i).reg 67 ++ (th.trap t0 word resume i).reg 66 = resume
    ∧ (th.trap t0 word resume i).reg 69 ++ (th.trap t0 word resume i).reg 68 = i.addr
    ∧ (th.trap t0 word resume i).reg 70 = 0#32 ∧ (th.trap t0 word resume i).reg 71 = 0#32 := by
  simp [Thread.trap, Thread.reg, SMap.get_del, SMap.get_set, halves_append]

/-- A thread that traps at a word of a clause has the record of R343. -/
theorem hasTrapped_trap (th : Thread) {p : Pos} (word : Word) {i : TrapInfo} (hr : p.remain < 16) (hc : i.code < 64) :
    Rules.HasTrapped p word i th (th.trap (trapRecord th false p i) word p.pc i) := by
  obtain ⟨h0, h1, h2, h4, h6, h7⟩ := trap_reg th (trapRecord th false p i) word p.pc i
  refine ⟨rfl, ?_, h1, h2, h4, h6, h7⟩
  rw [h0]
  unfold trapRecord
  rw [if_neg (by decide), toNat_trapT0 _ _ _ _ _ _ hr hc]
  cases p.rep <;> rfl

/-! ### The whole path traps -/

/-- What becomes of a path all of whose threads trap at its present word: the state that `groupOp`, a word that is no instruction and a header leave. -/
def pathTrap (c : GCtx) (w : Word) (info : Nat → TrapInfo) (s : State) : State :=
  let ts := c.path.lanes.map (fun l => (l, info l))
  sysTrap c w c.path.pos (unhandled c ts s) (splitSet c w ts [] [] s)

/-- Where the set divides and no thread goes on: those that trap leave it, and its slot is free. -/
theorem splitSet_trap (c : GCtx) (w : Word) {lanes : List Nat} (hl : lanes ≠ []) (info : Nat → TrapInfo) (s : State) :
    splitSet c w (lanes.map (fun l => (l, info l))) [] [] s =
      releaseG (setRunning (trapLanes c w c.path.pos c.path.pos.pc (lanes.map (fun l => (l, info l))) s) c.gk none) c.core := by
  unfold splitSet
  rw [if_neg (by simp [hl])]
  dsimp only
  rw [parkPath_empty rfl]
  rfl

/-- With a handler: the threads have trapped and stand parked at it. -/
theorem pathTrap_places {s : State} {c : GCtx} (hc : gctx s = some c) (hl : c.path.lanes ≠ []) (hh : Rules.AllHandled s c) (w : Word) (info : Nat → TrapInfo) :
    Rules.StandsAt c none [Rules.inHandler c c.path.lanes] (s.onLanes c.gk c.path.lanes (trappedAt c w c.path.pos c.path.pos.pc info)) (pathTrap c w info s) := by
  obtain ⟨-, hg, hr, -⟩ := gctx_some hc
  unfold pathTrap
  dsimp only
  rw [unhandled_none hh (fun l h => h), sysTrap_none, splitSet_trap c w hl, trapLanes_eq, handled_all hh (fun l h => h)]
  exact (((Rules.Places.refl (by exact hg) hr).park_path (p := Rules.inHandler c c.path.lanes) hl).set_running none).release.stands_at
    (by simp) (gHold_releaseG _ _)

theorem trapped_of_remain {c : GCtx} (hr : c.path.pos.remain ≠ 0) (w : Word) (p : Pos) (resume : DWord) (info : Nat → TrapInfo) (l : Nat) (th : Thread) :
    trappedAt c w p resume info l th = th.trap (trapRecord th false p (info l)) w resume (info l) := by
  unfold trappedAt
  rw [beq_false_of_ne hr]

theorem pathTrap_trapped {s : State} {c : GCtx} (hc : gctx s = some c) (hl : c.path.lanes ≠ []) (h0 : c.path.pos.remain ≠ 0) (h16 : c.path.pos.remain < 16)
    (hh : Rules.AllHandled s c) (w : Word) {info : Nat → TrapInfo} (hi : ∀ l ∈ c.path.lanes, (info l).code < 64) :
    Rules.Trapped c c.path.pos w info c.path.lanes [] s (pathTrap c w info s) :=
  ⟨_, fun l hm => by rw [trapped_of_remain h0]; exact hasTrapped_trap _ w h16 (hi l hm), pathTrap_places hc hl hh w info⟩

/-- Without a handler for any of them: the threads have their records, none goes on, and the system handler has the trap of the first. -/
theorem pathTrap_unhandled {s : State} {c : GCtx} (hc : gctx s = some c) (hl : c.path.lanes ≠ []) (h0 : c.path.pos.remain ≠ 0) (h16 : c.path.pos.remain < 16)
    (hh : ∀ l ∈ c.path.lanes, descHv c.task.desc = false ∨ (s.thread c.gk l).trapMode = true) (w : Word) {info : Nat → TrapInfo}
    (hi : ∀ l ∈ c.path.lanes, (info l).code < 64) :
    ∃ u l, l ∈ c.path.lanes
      ∧ (∃ f : Nat → Thread → Thread, (∀ l ∈ c.path.lanes, Rules.HasTrapped c.path.pos w (info l) (s.thread c.gk l) (f l (s.thread c.gk l)))
        ∧ Rules.StandsAt c none [] (s.onLanes c.gk c.path.lanes f) u)
      ∧ Rules.SystemHandles c.team.task (info l).cause u (pathTrap c w info s) := by
  obtain ⟨-, hg, hr, -⟩ := gctx_some hc
  have hn : ∀ l ∈ c.path.lanes, handled c (s.thread c.gk l) = false := fun l hm => by
    rw [Bool.eq_false_iff, ne_eq, handled_iff]
    rintro ⟨h1, h2⟩
    rcases hh l hm with h | h
    · rw [h1] at h; cases h
    · rw [h2] at h; cases h
  obtain ⟨l, ls, hls⟩ := List.exists_cons_of_ne_nil hl
  have hm : l ∈ c.path.lanes := by rw [hls]; exact List.mem_cons_self
  have hu : unhandled c (c.path.lanes.map (fun l => (l, info l))) s = some (l, info l) := by
    unfold unhandled
    rw [hls, List.map_cons, List.find?_cons_of_pos (by simp [hn l hm])]
  refine ⟨?_, l, hm, ⟨trappedAt c w c.path.pos c.path.pos.pc info, fun l hm => by rw [trapped_of_remain h0]; exact hasTrapped_trap _ w h16 (hi l hm), ?_⟩, ?_⟩
  · exact splitSet c w (c.path.lanes.map (fun l => (l, info l))) [] [] s
  · rw [splitSet_trap c w hl, trapLanes_eq, List.filter_eq_nil_iff.mpr (by simpa using hn), parkPath_empty rfl]
    exact ((Rules.Places.refl (by exact hg) hr).set_running none).release.stands_at (by simp) (gHold_releaseG _ _)
  · unfold pathTrap
    simp only [hu]
    exact ⟨_, rfl⟩

/-! ### A group instruction that raises in every thread -/

/-- An instruction in a clause of another class (R46 check 3). -/
theorem groupOp_class {i : Instr} {chk : State → GCtx → Nat → Verdict} {hold : State → GCtx → Bool} {fin : GCtx → List Nat → State → State}
    {s : State} {c : GCtx} (hc : gctx s = some c) (hk : i.classOk c.path.pos.cls = false) :
    groupOp i chk hold fin s = .next (pathTrap c (wordOf i) (fun _ => { cause := .clauseClass, code := 0, addr := 0#64 }) s) := by
  unfold groupOp
  rw [hc]
  simp only [hk, Bool.false_eq_true, if_false]
  rfl

/-- The issue of a set no thread of which passes. -/
theorem issueGroup_all_trap {i : Instr} {hold : State → GCtx → Bool} {fin : GCtx → List Nat → State → State} {c : GCtx} {ts : List (Nat × TrapInfo)}
    {vs : List (Nat × Verdict)} {s : State} {info : Nat → TrapInfo} (hv : ∀ v ∈ vs, ∃ x, v.2 = .trap x)
    (ht : ts ++ trapsOf vs = c.path.lanes.map (fun l => (l, info l))) :
    issueGroup i hold fin c ts vs s = pathTrap c (wordOf i) info s := by
  have h1 : vs.any (fun v => v.2 == .lost) = false := by
    rw [List.any_eq_false]; intro v h; obtain ⟨x, hx⟩ := hv v h; simp [hx]
  have h2 : vs.filter (fun v => v.2 == .absent) = [] := by
    rw [List.filter_eq_nil_iff]; intro v h; obtain ⟨x, hx⟩ := hv v h; simp [hx]
  have h3 : missOf vs = none := by
    unfold missOf; rw [List.findSome?_eq_none_iff]; intro v h; obtain ⟨x, hx⟩ := hv v h; simp [hx]
  have h4 : okLanes vs = [] := by
    unfold okLanes
    rw [List.map_eq_nil_iff, List.filter_eq_nil_iff]; intro v h; obtain ⟨x, hx⟩ := hv v h; simp [hx]
  simp only [issueGroup, h1, h2, h3, h4, ht, pathTrap, List.map_nil, List.isEmpty_nil, if_true, Bool.false_eq_true, if_false]

/-- An instruction whose operands raise in every thread (R17, R46 check 4). -/
theorem groupOp_operands {i : Instr} {chk : State → GCtx → Nat → Verdict} {hold : State → GCtx → Bool} {fin : GCtx → List Nat → State → State}
    {s : State} {c : GCtx} (hc : gctx s = some c) (hk : i.classOk c.path.pos.cls = true) {info : Nat → TrapInfo}
    (ht : ∀ l ∈ c.path.lanes, operandTrap i (s.thread c.gk l) = some (info l)) :
    groupOp i chk hold fin s = .next (pathTrap c (wordOf i) info s) := by
  have h1 : c.path.lanes.filterMap (fun l => (operandTrap i (s.thread c.gk l)).map (fun t => (l, t))) = c.path.lanes.map (fun l => (l, info l)) := by
    rw [← List.filterMap_eq_map]
    exact List.filterMap_congr fun l h => by simp [ht l h]
  have h2 : c.path.lanes.filter (fun l => (operandTrap i (s.thread c.gk l)).isNone) = [] := by
    rw [List.filter_eq_nil_iff]; intro l h; simp [ht l h]
  unfold groupOp
  rw [hc]
  simp only [hk, if_true, h1, h2, List.any_nil, Bool.false_eq_true, if_false, List.map_nil]
  rw [issueGroup_all_trap (info := info) (by simp) (by simp [trapsOf])]

/-- An instruction whose own checks raise in every thread (R46 check 5). -/
theorem groupOp_checks {i : Instr} {chk : State → GCtx → Nat → Verdict} {hold : State → GCtx → Bool} {fin : GCtx → List Nat → State → State}
    {s : State} {c : GCtx} (hc : gctx s = some c) (hk : i.classOk c.path.pos.cls = true)
    (ht : ∀ l ∈ c.path.lanes, operandTrap i (s.thread c.gk l) = none) (hw : ∀ l ∈ c.path.lanes, operandWait i (s.thread c.gk l) = false)
    {info : Nat → TrapInfo} (hv : ∀ l ∈ c.path.lanes, chk s c l = .trap (info l)) :
    groupOp i chk hold fin s = .next (pathTrap c (wordOf i) info s) := by
  have h1 : c.path.lanes.filterMap (fun l => (operandTrap i (s.thread c.gk l)).map (fun t => (l, t))) = [] := by
    rw [List.filterMap_eq_nil_iff]; intro l h; simp [ht l h]
  have h2 : c.path.lanes.filter (fun l => (operandTrap i (s.thread c.gk l)).isNone) = c.path.lanes := by
    rw [List.filter_eq_self]; intro l h; simp [ht l h]
  have h3 : c.path.lanes.any (fun l => operandWait i (s.thread c.gk l)) = false := by
    rw [List.any_eq_false]; intro l h; simp [hw l h]
  unfold groupOp
  rw [hc]
  simp only [hk, if_true, h1, h2, h3, Bool.false_eq_true, if_false]
  rw [issueGroup_all_trap (info := info)]
  · intro v h
    obtain ⟨l, hl, rfl⟩ := List.mem_map.mp h
    exact ⟨_, hv l hl⟩
  · rw [List.nil_append]
    unfold trapsOf
    rw [List.filterMap_map, ← List.filterMap_eq_map]
    exact List.filterMap_congr fun l h => by simp [hv l h]

end Sys2Proof.Machine

namespace Sys2Proof.Machine

/-! ## The scalar rows of the lead (R117, R118) -/

section
variable {w : Nat}
theorem shlBy_eq (a : BitVec w) (n : Nat) : shlBy a n = Rules.shiftLeft a n := by
  unfold shlBy Rules.shiftLeft
  by_cases h : n < w
  · rw [if_pos h, if_neg (Nat.not_le.mpr h)]
    apply BitVec.eq_of_toNat_eq
    rw [BitVec.toNat_shiftLeft, Nat.shiftLeft_eq, BitVec.toNat_ofNat]
  · rw [if_neg h, if_pos (Nat.not_lt.mp h)]

theorem shrBy_eq (a : BitVec w) (n : Nat) : shrBy a n = Rules.shiftRight a n := by
  unfold shrBy Rules.shiftRight
  by_cases h : n < w
  · rw [if_pos h, if_neg (Nat.not_le.mpr h)]
    apply BitVec.eq_of_toNat_eq
    rw [BitVec.toNat_ushiftRight, Nat.shiftRight_eq_div_pow, BitVec.toNat_ofNat, Nat.mod_eq_of_lt (Nat.lt_of_le_of_lt (Nat.div_le_self _ _) a.isLt)]
  · rw [if_neg h, if_pos (Nat.not_lt.mp h)]

theorem sarBy_eq (a : BitVec w) (n : Nat) : sarBy a n = Rules.shiftSigned a n := by
  unfold sarBy Rules.shiftSigned
  by_cases h : w ≤ n
  · rw [if_pos h, show n.min w = w from Nat.min_eq_right h]
    ext k hk
    rw [BitVec.getElem_sshiftRight, dif_neg (by omega)]
    split <;> simp [*]
  · rw [if_neg h, show n.min w = n from Nat.min_eq_left (Nat.le_of_not_le h), BitVec.sshiftRight, Int.shiftRight_eq_div_pow]
    norm_cast

theorem sMin_eq (a b : BitVec w) : sMin a b = if a.toInt ≤ b.toInt then a else b := by simp [sMin, BitVec.sle_iff_toInt_le]
theorem sMax_eq (a b : BitVec w) : sMax a b = if a.toInt ≤ b.toInt then b else a := by simp [sMax, BitVec.sle_iff_toInt_le]
theorem uMin_eq (a b : BitVec w) : uMin a b = if a.toNat ≤ b.toNat then a else b := by simp [uMin, BitVec.ule_iff_toNat_le]
theorem uMax_eq (a b : BitVec w) : uMax a b = if a.toNat ≤ b.toNat then b else a := by simp [uMax, BitVec.ule_iff_toNat_le]

theorem onesCount_eq (a : BitVec w) : onesCount a = Rules.oneBits a := by
  unfold onesCount Rules.oneBits
  generalize List.range w = ks
  induction ks with
  | nil => rfl
  | cons k ks ih => cases h : a.getLsbD k <;> simp [h, ih, Nat.add_comm]

/-- The leading zeros of a value other than 0 end at its highest one bit. -/
theorem leadingZeros_eq (a : BitVec w) : leadingZeros a = Rules.firstOneFromTop a := by
  unfold leadingZeros Rules.firstOneFromTop
  by_cases h0 : a = 0#w
  · rw [if_pos h0, h0, List.find?_eq_none.mpr (by simp)]; rfl
  · have hn : a.toNat ≠ 0 := fun h => h0 (BitVec.eq_of_toNat_eq (by simpa using h))
    have hlog : a.toNat.log2 < w := (Nat.log2_lt hn).mpr a.isLt
    have hf : (List.range w).find? (fun k => a.getLsbD (w - 1 - k)) = some (w - 1 - a.toNat.log2) := by
      rw [List.find?_range_eq_some]
      refine ⟨?_, by simp; omega, fun j hj => ?_⟩
      · rw [show w - 1 - (w - 1 - a.toNat.log2) = a.toNat.log2 by omega]
        exact Nat.testBit_log2 hn
      · have : a.toNat < 2 ^ (w - 1 - j) := (Nat.log2_lt hn).mp (by omega)
        rw [BitVec.getLsbD, Nat.testBit_lt_two_pow this]; rfl
    rw [if_neg h0, hf]; rfl

theorem condHolds_eq (c : Cond) (a b : BitVec w) : condHolds c a b = Rules.condition c a b := by
  cases c <;> simp only [condHolds, Rules.condition]
  all_goals rw [Bool.eq_iff_iff]
  all_goals simp [BitVec.toNat_eq, BitVec.slt_iff_toInt_lt, BitVec.sle_iff_toInt_le, BitVec.ult_iff_toNat_lt, BitVec.ule_iff_toNat_le]
end

/-! The forms of a scalar instruction of the lead, with the value written as the tables write it. -/

theorem scalar_eq {f g : Lead → Lead} {i : Instr} {r : Lead → Lead} (hr : some g = some r) (h : ∀ l, f l = g l) (s : State) : scalarOp i f s = scalarOp i r s := by
  obtain rfl := Option.some.inj hr
  rw [show f = g from funext h]
theorem lBinary_eq {f g : DWord → DWord → DWord} {i : Instr} {d a b : BitVec 6} {r : Lead → Lead} (hr : Rules.lead2 d a b g = some r)
    (h : ∀ u v, f u v = g u v) (s : State) : lBinary i d a b f s = scalarOp i r s := by
  obtain rfl := Option.some.inj hr
  rw [show f = g from funext fun u => funext (h u)]; rfl
theorem lUnary_eq {f g : DWord → DWord} {i : Instr} {d a : BitVec 6} {r : Lead → Lead} (hr : Rules.lead1 d a g = some r) (h : ∀ u, f u = g u) (s : State) :
    lUnary i d a f s = scalarOp i r s := by
  obtain rfl := Option.some.inj hr
  rw [show f = g from funext h]; rfl
theorem lPred_eq {f g : Lead → Bool} {i : Instr} {d : BitVec 3} {r : Lead → Lead} (hr : Rules.leadP d g = some r) (h : ∀ l, f l = g l) (s : State) :
    lPred i d f s = scalarOp i r s := by
  obtain rfl := Option.some.inj hr
  rw [show f = g from funext h]; rfl

/-- A scalar row of the lead is what its table says (R117). -/
theorem exec_r117 {i : Instr} {f : Lead → Lead} (h : Rules.r117 i = some f) (s : State) : exec i s = scalarOp i f s := by
  unfold Rules.r117 at h
  split at h
  · exact lBinary_eq h (fun u v => BitVec.eq_of_toNat_eq (by simp)) s
  · exact lBinary_eq h (fun u v => BitVec.eq_of_toNat_eq (by rw [BitVec.toNat_sub, BitVec.toNat_ofInt]; omega)) s
  · exact lBinary_eq h (fun u v => rfl) s
  · exact lBinary_eq h (fun u v => rfl) s
  · exact lBinary_eq h (fun u v => rfl) s
  · exact lBinary_eq h (fun u v => rfl) s
  · exact lBinary_eq h (fun u v => shlBy_eq _ _) s
  · exact lBinary_eq h (fun u v => shrBy_eq _ _) s
  · exact lBinary_eq h (fun u v => sarBy_eq _ _) s
  · exact lBinary_eq h sMin_eq s
  · exact lBinary_eq h sMax_eq s
  · exact lBinary_eq h uMin_eq s
  · exact lBinary_eq h uMax_eq s
  · exact lBinary_eq h (fun u v => BitVec.eq_of_toNat_eq (by simp)) s
  · exact lBinary_eq h (fun u v => rfl) s
  · exact lBinary_eq h (fun u v => rfl) s
  · exact lUnary_eq h (fun u => rfl) s
  · exact lUnary_eq h (fun u => rfl) s
  · exact lUnary_eq h (fun u => by rw [BitVec.ofInt_neg]; simp) s
  · exact lUnary_eq h (fun u => congrArg _ (leadingZeros_eq u)) s
  · exact lUnary_eq h (fun u => congrArg _ (onesCount_eq u)) s
  · exact lPred_eq h (fun l => condHolds_eq _ _ _) s
  · exact scalar_eq h (fun l => rfl) s
  · exact lPred_eq h (fun l => rfl) s
  · exact lPred_eq h (fun l => rfl) s
  · exact lPred_eq h (fun l => by cases l.pred _ <;> cases l.pred _ <;> rfl) s
  · exact lPred_eq h (fun l => rfl) s
  · exact nomatch h

/-- The value of a sign-extended immediate. -/
theorem signExtend_ofInt {w : Nat} (i : BitVec w) : i.signExtend 64 = BitVec.ofInt 64 i.toInt := rfl

/-- A row of R118 is what its table says. -/
theorem exec_r118 {i : Instr} {f : Lead → Lead} (h : Rules.r118 i = some f) (s : State) : exec i s = scalarOp i f s := by
  unfold Rules.r118 at h
  split at h
  next d i => exact scalar_eq (f := fun l => l.setReg d.toNat (i.signExtend 64)) h (fun l => rfl) s
  next d a i => exact lUnary_eq (f := fun u => u + i.signExtend 64) h (fun u => by rw [BitVec.ofInt_add]; simp [signExtend_ofInt]) s
  next d a i => exact lUnary_eq (f := fun u => u &&& i.signExtend 64) h (fun u => rfl) s
  next d a i => exact lUnary_eq (f := fun u => u ||| i.signExtend 64) h (fun u => rfl) s
  next d a n => exact lUnary_eq (f := fun u => shlBy u n.toNat) h (fun u => shlBy_eq _ _) s
  next d a n => exact lUnary_eq (f := fun u => shrBy u n.toNat) h (fun u => shrBy_eq _ _) s
  next d a n => exact lUnary_eq (f := fun u => sarBy u n.toNat) h (fun u => sarBy_eq _ _) s
  next d i =>
    refine lUnary_eq (f := fun u => (u <<< 11) ||| i.zeroExtend 64) h (fun u => ?_) s
    refine congrArg₂ (· ||| ·) (BitVec.eq_of_toNat_eq ?_) (BitVec.eq_of_toNat_eq ?_)
    · rw [BitVec.toNat_shiftLeft, Nat.shiftLeft_eq, BitVec.toNat_ofNat]
    · rw [BitVec.zeroExtend, BitVec.toNat_setWidth, BitVec.toNat_ofNat]
  next => exact nomatch h

/-- A scalar instruction of the lead (R116 to R118). -/
theorem exec_leadScalar {i : Instr} {f : Lead → Lead} (h : Rules.r117 i = some f ∨ Rules.r118 i = some f) (s : State) : exec i s = scalarOp i f s :=
  h.elim (exec_r117 · s) (exec_r118 · s)


/-! ## The pipeline of every encoded instruction (R46) -/

/-- An instruction that may not stand in a clause of the lead goes through the checks of a group. -/
theorem exec_group {i : Instr} (he : (encode i).isSome = true) (hk : i.classOk .lead = false) :
    ∃ chk hold fin, ∀ s, exec i s = groupOp i chk hold fin s := by
  cases i
  all_goals try exact Bool.noConfusion he
  all_goals try exact Bool.noConfusion hk
  all_goals exact ⟨_, _, _, fun _ => rfl⟩

/-- An instruction of the lead that is no scalar one. -/
theorem exec_lead_rest {i : Instr} (he : (encode i).isSome = true) (hk : i.classOk .lead = true) (hn : i ≠ .nop)
    (h117 : Rules.r117 i = none) (h118 : Rules.r118 i = none) : ∃ chk cost fin, ∀ s, exec i s = leadOp i chk cost fin s := by
  cases i
  all_goals try exact Bool.noConfusion he
  all_goals try exact Bool.noConfusion hk
  all_goals try exact absurd h117 (Option.some_ne_none _)
  all_goals try exact absurd h118 (Option.some_ne_none _)
  all_goals try exact absurd rfl hn
  all_goals
    dsimp only [exec, execLbr, execLbrp, execLbrn, lBranch, execCpyin, execCpyout, execCpyg, execGath, copyOp, execSaopen, execSaclr, execSafree, saSimple,
      execJoin, execTstat, execAlwrd, unitOp]
    exact ⟨_, _, _, fun _ => rfl⟩

/-- An instruction of the lead goes through the checks of a lead. -/
theorem exec_lead {i : Instr} (he : (encode i).isSome = true) (hk : i.classOk .lead = true) (hn : i ≠ .nop) :
    ∃ chk cost fin, ∀ s, exec i s = leadOp i chk cost fin s := by
  cases h117 : Rules.r117 i with
  | some f => exact ⟨_, _, _, fun s => exec_leadScalar (.inl h117) s⟩
  | none =>
    cases h118 : Rules.r118 i with
    | some f => exact ⟨_, _, _, fun s => exec_leadScalar (.inr h118) s⟩
    | none => exact exec_lead_rest he hk hn h117 h118

/-- It may stand in no other clause (R45). -/
theorem classOk_of_lead {i : Instr} (hk : i.classOk .lead = true) (hn : i ≠ .nop) {k : Cls} (h : k ≠ .lead) : i.classOk k = false := by
  have hl : i.cls = .lead := by simpa [Instr.classOk, hn] using hk
  have ha : i.anyClass = false := by
    cases i
    all_goals try exact Bool.noConfusion hk
    all_goals try exact absurd rfl hn
    all_goals rfl
  unfold Instr.classOk
  cases k
  all_goals try exact absurd rfl h
  all_goals simp [hl, ha]

/-- A group that reaches an instruction of the lead is in the wrong class (R46 check 3). -/
theorem leadOp_class {i : Instr} {chk : State → LCtx → LVerdict} {cost : State → LCtx → Nat × Nat} {fin : LCtx → State → State} {s : State} {c : GCtx}
    (hc : gctx s = some c) : leadOp i chk cost fin s = .next (pathTrap c (wordOf i) (fun _ => { cause := .clauseClass, code := 0, addr := 0#64 }) s) := by
  unfold leadOp
  rw [lctx_none_of_gctx hc, hc]
  rfl

/-- A lead that reaches an instruction of a group is in the wrong class. -/
theorem groupOp_lead {i : Instr} {chk : State → GCtx → Nat → Verdict} {hold : State → GCtx → Bool} {fin : GCtx → List Nat → State → State} {s : State} {c : LCtx}
    (hc : lctx s = some c) : groupOp i chk hold fin s = .next (leadTrap c (wordOf i) { cause := .clauseClass, code := 0, addr := 0#64 } s) := by
  unfold groupOp
  rw [gctx_none_of_lctx hc, hc]

/-- NOP may stand in a clause of any class. -/
theorem classOk_nop (k : Cls) : Instr.nop.classOk k = true := by cases k <;> rfl

/-- An encoded instruction in a clause of another class raises CLAUSE_CLASS in every thread of its set (R46 check 3). -/
theorem exec_class {i : Instr} (he : (encode i).isSome = true) {s : State} {c : GCtx} (hc : gctx s = some c) (hk : i.classOk c.path.pos.cls = false) :
    exec i s = .next (pathTrap c (wordOf i) (fun _ => { cause := .clauseClass, code := 0, addr := 0#64 }) s) := by
  have hn : i ≠ .nop := by rintro rfl; rw [classOk_nop] at hk; cases hk
  cases hl : i.classOk .lead with
  | false => obtain ⟨_, _, _, h⟩ := exec_group he hl; rw [h, groupOp_class hc hk]
  | true => obtain ⟨_, _, _, h⟩ := exec_lead he hl hn; rw [h, leadOp_class hc]

/-- One whose operands raise in every thread of its set raises what they call for (R46 check 4). -/
theorem exec_operands {i : Instr} (he : (encode i).isSome = true) {s : State} {c : GCtx} (hc : gctx s = some c) (hl : c.path.lanes ≠ [])
    (hk : c.path.pos.cls ≠ .lead) (ho : i.classOk c.path.pos.cls = true) {info : Nat → TrapInfo}
    (ht : ∀ l ∈ c.path.lanes, operandTrap i (s.thread c.gk l) = some (info l)) : exec i s = .next (pathTrap c (wordOf i) info s) := by
  have hn : i ≠ .nop := by
    rintro rfl
    obtain ⟨l, ls, hls⟩ := List.exists_cons_of_ne_nil hl
    exact nomatch ht l (by rw [hls]; exact List.mem_cons_self)
  cases hl : i.classOk .lead with
  | false => obtain ⟨_, _, _, h⟩ := exec_group he hl; rw [h, groupOp_operands hc ho ht]
  | true => rw [classOk_of_lead hl hn hk] at ho; cases ho

/-- The code of a trap for an operand is a register's number (R343). -/
theorem operandTrap_code {i : Instr} {th : Thread} {x : TrapInfo} (h : operandTrap i th = some x) : x.code < 64 := by
  unfold operandTrap at h
  split at h
  · obtain rfl := Option.some.inj h
    exact Nat.mod_lt _ (by decide)
  · cases h

end Sys2Proof.Machine

namespace Sys2Proof.Machine

/-! ## Headers: what a word serves as (R41, R42) -/

/-- A field of a bit vector as a number. -/
theorem toNat_field {m : Nat} (w : BitVec m) (lo n : Nat) : (w.extractLsb' lo n).toNat = w.toNat / 2 ^ lo % 2 ^ n := by
  rw [BitVec.extractLsb'_toNat, Nat.shiftRight_eq_div_pow]

/-- The class that a header names, as a number (R41). -/
theorem ofCode_eq_some (c : BitVec 3) (k : Cls) : Cls.ofCode c = some k ↔ c = k.code := by
  revert c
  cases k <;> decide
theorem ofCode_isSome (c : BitVec 3) : (Cls.ofCode c).isSome = true ↔ c.toNat < 6 := by
  revert c
  decide

theorem headerOk_iff (w : Word) : headerOk w = true ↔ Rules.serves w := by
  have hw := w.isLt
  unfold headerOk Rules.serves isHeader headerN headerCls
  simp only [Bool.and_eq_true, beq_iff_eq, bne_iff_ne, ne_eq, ofCode_isSome, BitVec.toNat_eq, toNat_field, BitVec.toNat_ofNat, Nat.pow_zero, Nat.div_one]
  omega

theorem headerCls_iff (w : Word) (k : Cls) : headerCls w = some k ↔ Rules.classAt w k := by
  unfold headerCls Rules.classAt
  rw [ofCode_eq_some, BitVec.toNat_eq, toNat_field]
  rfl

/-- The class of a word that serves is the one that its field names. -/
theorem headerCls_of_serves {w : Word} (h : Rules.serves w) : ∃ k, headerCls w = some k := by
  rw [← Option.isSome_iff_exists]
  unfold headerCls
  rw [ofCode_isSome, toNat_field]
  exact h.2.2.1

/-- A core that caches a translation changes nothing but what it caches (R356). -/
theorem noteTlb_fetched (s : State) (core space va : Nat) : Rules.Fetched core s (s.noteTlb core space va) := by
  unfold State.noteTlb
  split
  · refine ⟨rfl, fun k => ?_⟩
    rw [core_modCore]
    split
    · split <;> simp_all
    · rfl
  · exact ⟨rfl, fun k => by split <;> rfl⟩

/-! ## The queues of a task (R309, R337) -/

/-- The queues that a task has come through are read off the tasks alone. -/
theorem queuesOf_congr {s t : State} (h : t.tasks = s.tasks) (fuel k : Nat) : queuesOf t fuel k = queuesOf s fuel k := by
  induction fuel generalizing k with
  | zero => rfl
  | succ fuel ih =>
    unfold queuesOf
    rw [h]
    split
    · split <;> simp [ih]
    · rfl

theorem debuggerOn_congr {s t : State} (ht : t.tasks = s.tasks) (hq : t.queues = s.queues) (task : Nat) : debuggerOn t task = debuggerOn s task := by
  unfold debuggerOn treeFuel State.queue
  rw [queuesOf_congr ht, ht, hq]

/-! ## O11 -/

/-- A group that halts is otherwise where it was (R340). -/
theorem places_halt {c : GCtx} {r : Option Path} {ps : List Path} {s t : State} (h : Rules.Places c r ps s t) :
    Rules.Places { c with group := { c.group with halted := true } } r ps s (t.modGroup c.gk (fun g => { g with halted := true })) := by
  obtain ⟨hp, hg⟩ := h
  refine ⟨hp.trans (placeOnly_modGroup _ _ _ _), ?_⟩
  show (t.groups.mod c.gk _).find c.gk = _
  rw [SMap.find_mod, if_pos rfl, hg]
  rfl

/-- The effect of TRAP and BRK: every thread of the path traps, and its record names the word after the instruction (R104, R343). -/
theorem raise_places {s : State} {c : GCtx} (hg : s.groups.find c.gk = some c.group) (hr : c.group.running = some c.path) (hl : c.path.lanes ≠ [])
    (hh : Rules.AllHandled s c) (w : Word) (p : Pos) (info : Nat → TrapInfo) :
    Rules.StandsAt c none [Rules.inHandler c c.path.lanes] (s.onLanes c.gk c.path.lanes (trappedAt c w p p.pc info))
      (trapLanes c w p p.pc (c.path.lanes.map (fun l => (l, info l))) (releaseG (setRunning s c.gk none) c.core)) := by
  rw [trapLanes_eq, handled_all (by exact hh) (fun l h => h)]
  have h0 : Rules.Places c none [] (s.onLanes c.gk c.path.lanes (trappedAt c w p p.pc info))
      ((releaseG (setRunning s c.gk none) c.core).onLanes c.gk c.path.lanes (trappedAt c w p p.pc info)) :=
    ((Rules.Places.refl (s := s.onLanes c.gk c.path.lanes (trappedAt c w p p.pc info)) hg hr).set_running none).release
  refine (h0.park_path (p := Rules.inHandler c c.path.lanes) hl).stands_at (by simp) ?_
  rw [core_parkPath]
  exact gHold_releaseG (setRunning s c.gk none) c.core

/-- The word after the instruction, where RFT resumes after TRAP and BRK (R104). -/
def afterWord (c : GCtx) : Pos := { c.path.pos with pc := c.path.pos.pc + 4#64, remain := c.path.pos.remain - 1 }
/-- TRAP and BRK on a path that is ready and whose threads the handler takes. -/
theorem raiseOp_runs {i : Instr} {s s' : State} {c : GCtx} (h : PathReady i s c s') (hh : Rules.AllHandled s c) (cause : Cause) (n : BitVec 6)
    (aft : GCtx → State → State) :
    raiseOp i cause n aft s = .next (aft c (trapLanes c (wordOf i) (afterWord c)
      (afterWord c).pc (c.path.lanes.map (fun l => (l, { cause := cause, code := n.toNat, addr := 0#64 }))) (releaseG (setRunning s' c.gk none) c.core))) := by
  have hs := charge_of_eq h.paid
  unfold raiseOp
  rw [groupOp_runs h.ctx h.lanes h.cls h.full h.free (fun _ _ => rfl) rfl h.paid]
  dsimp only
  rw [unhandled_none (by rw [hs]; exact hh) (fun l h => h)]
  rfl

theorem hasTrapped_after {c : GCtx} (h0 : c.path.pos.remain ≠ 0) (h16 : c.path.pos.remain < 16) (w : Word) {info : Nat → TrapInfo} {l : Nat}
    (hc : (info l).code < 64) {p : Pos} (hp : p.remain ≤ c.path.pos.remain) (th : Thread) :
    Rules.HasTrapped p w (info l) th (trappedAt c w p p.pc info l th) := by
  rw [trapped_of_remain h0]
  exact hasTrapped_trap _ w (by omega) hc

/-- What BRK does after its trap (R340). -/
def haltUnderDebugger (c : GCtx) (s : State) : State :=
  if debuggerOn s c.team.task then s.modGroup c.gk (fun g => { g with halted := true }) else s
theorem exec_trap_eq (n : BitVec 6) (s : State) : exec (.trap n) s = raiseOp (.trap n) .trap n (fun _ s => s) s := rfl
theorem exec_brk_eq (n : BitVec 6) (s : State) : exec (.brk n) s = raiseOp (.brk n) .brk n haltUnderDebugger s := rfl

section
variable {n : BitVec 6} {s s' : State} {c : GCtx} (h0 : c.path.pos.remain ≠ 0) (h16 : c.path.pos.remain < 16) (hh : Rules.AllHandled s c)
include h0 h16 hh

/-- TRAP n (R104): every thread traps with the code n. -/
theorem exec_trap (h : PathReady (.trap n) s c s') :
    ∃ t, exec (.trap n) s = .next t ∧
      Rules.Trapped c (afterWord c) (wordOf (.trap n)) (fun _ => { cause := .trap, code := n.toNat, addr := 0#64 }) c.path.lanes [] s' t := by
  obtain ⟨-, hg, hr, -⟩ := gctx_some h.ctx
  have hs := charge_of_eq h.paid
  have hst := raise_places (s := s') (by rw [hs]; exact hg) hr h.lanes (by rw [hs]; exact hh) (wordOf (.trap n)) (afterWord c)
    (fun _ => { cause := .trap, code := n.toNat, addr := 0#64 })
  rw [exec_trap_eq, raiseOp_runs h hh]
  exact ⟨_, rfl, trappedAt c (wordOf (.trap n)) (afterWord c) (afterWord c).pc (fun _ => { cause := .trap, code := n.toNat, addr := 0#64 }),
    fun l hm => hasTrapped_after h0 h16 _ n.isLt (Nat.sub_le _ _) _, hst⟩

/-- BRK n (R104, R340): the same, and the group halts when a debugger is attached to a queue of its task. -/
theorem exec_brk (h : PathReady (.brk n) s c s') :
    ∃ t, exec (.brk n) s = .next t ∧
      Rules.Trapped { c with group := { c.group with halted := c.group.halted || debuggerOn s' c.team.task } }
        (afterWord c) (wordOf (.brk n)) (fun _ => { cause := .brk, code := n.toNat, addr := 0#64 }) c.path.lanes [] s' t := by
  obtain ⟨-, hg, hr, -⟩ := gctx_some h.ctx
  have hs := charge_of_eq h.paid
  have hst := raise_places (s := s') (by rw [hs]; exact hg) hr h.lanes (by rw [hs]; exact hh) (wordOf (.brk n)) (afterWord c)
    (fun _ => { cause := .brk, code := n.toNat, addr := 0#64 })
  have hd := debuggerOn_congr (s := s') hst.1.1.tasks hst.1.1.queues c.team.task
  rw [exec_brk_eq, raiseOp_runs h hh]
  refine ⟨_, rfl, trappedAt c (wordOf (.brk n)) (afterWord c) (afterWord c).pc (fun _ => { cause := .brk, code := n.toNat, addr := 0#64 }),
    fun l hm => hasTrapped_after h0 h16 _ n.isLt (Nat.sub_le _ _) _, ?_⟩
  unfold haltUnderDebugger
  rw [hd]
  cases debuggerOn s' c.team.task with
  | false => rw [Bool.or_false]; exact hst
  | true =>
    rw [Bool.or_true]
    exact ⟨places_halt hst.1, hst.2⟩
end

/-- A lead that executes has the header of a clause checked as a lead's. -/
theorem exec_header_lead {s : State} {c : LCtx} {w : Word} (hc : lctx s = some c) (hf : c.team.lead.free = true) (h0 : c.team.lead.remain = 0)
    (hw : fetch s c.core c.task.space c.task.priv c.team.lead.pc = .word w) :
    exec .clauseHeaderIssue s = .next (leadHeaderWord c w (s.noteTlb c.core c.task.space (va48 c.team.lead.pc))) := by
  show execClauseHeaderIssue s = _
  unfold execClauseHeaderIssue leadHeader
  simp only [gctx_none_of_lctx hc, hc, h0, hf, hw, if_true, Bool.not_true, Bool.false_eq_true, if_false]

/-- Settles O11: `pathTrap_trapped` and `pathTrap_unhandled` for the traps of a whole path, `leadTrap_handles` for a lead's, and `exec_trap` and `exec_brk` for the traps that are an effect. -/
theorem trapsAreTaken : Obligations.TrapsAreTaken := by
  unfold Obligations.TrapsAreTaken
  refine ⟨fun i he s c hc hl h0 h16 hh => ⟨fun hk => ?_, fun hcl hk info ht => ?_⟩, fun i he s c hc hl h0 h16 hh info hi => ?_,
    ⟨fun i he hk s c hc => ?_, fun s c w hc hf h0 hw => ⟨fun hn => ?_, fun hs hn => ?_⟩⟩,
    fun n s c _ h0 h16 hh => ⟨fun s' h => exec_trap h0 h16 hh h, fun s' h => exec_brk h0 h16 hh h⟩⟩
  · exact ⟨_, exec_class he hc hk, pathTrap_trapped hc hl h0 h16 hh _ (fun _ _ => by decide)⟩
  · exact ⟨_, exec_operands he hc hl hcl hk ht, pathTrap_trapped hc hl h0 h16 hh _ (fun l hm => operandTrap_code (ht l hm))⟩
  · rcases hi with ⟨hk, hinfo⟩ | ⟨hcl, hk, ht⟩
    · obtain rfl : info = fun _ => { cause := .clauseClass, code := 0, addr := 0#64 } := funext hinfo
      obtain ⟨u, l, hm, hp, hsys⟩ := pathTrap_unhandled hc hl h0 h16 hh (wordOf i) (info := fun _ => { cause := .clauseClass, code := 0, addr := 0#64 }) (fun _ _ => by decide)
      exact ⟨_, u, l, exec_class he hc hk, hm, hp, hsys⟩
    · obtain ⟨u, l, hm, hp, hsys⟩ := pathTrap_unhandled hc hl h0 h16 hh (wordOf i) (fun l hm => operandTrap_code (ht l hm))
      exact ⟨_, u, l, exec_operands he hc hl hcl hk ht, hm, hp, hsys⟩
  · obtain ⟨_, _, _, h⟩ := exec_group he hk
    exact ⟨_, (h s).trans (groupOp_lead hc), leadTrap_handles _ _ _ _⟩
  · refine ⟨_, _, exec_header_lead hc hf h0 hw, noteTlb_fetched s c.core c.task.space (va48 c.team.lead.pc), ?_⟩
    unfold leadHeaderWord
    rw [if_pos (by rwa [Bool.not_eq_true', Bool.eq_false_iff, ne_eq, headerOk_iff])]
    exact leadTrap_handles _ _ _ _
  · refine ⟨_, _, exec_header_lead hc hf h0 hw, noteTlb_fetched s c.core c.task.space (va48 c.team.lead.pc), ?_⟩
    unfold leadHeaderWord
    rw [if_neg (by simp [headerOk_iff, hs]), if_pos (by rwa [ne_eq, headerCls_iff])]
    exact leadTrap_handles _ _ _ _

/-! ## O54 -/

/-- A step that is no turn of an encoded instruction is its meaning. -/
theorem step_event {s : State} {i : Instr} {ts : List Turn} {t : State} (hs : s.turns = .event i :: ts)
    (h : exec i { s with turns := ts, freeCtr := s.freeCtr + 1, cur := .none } = .next t) : step s = .next t := by
  rw [step_turn hs (by simp)]
  unfold runTurn
  dsimp only
  rw [h]

section
variable {s s1 : State} {core gk : Nat} {c : GCtx}

/-- A group's turn at the state with its slot marked as issued (R20, R21): at a header, the header's. -/
theorem groupTurn_header (hh : (s.core core).gHold = some gk) (hi : (s.core core).gIssued = false) (ht : s.plat.thermal = false)
    (hc : gctx (Rules.turnOf core (.group gk) s) = some c) (hw : c.path.wait = .none) (h0 : c.path.pos.remain = 0) :
    groupTurn core s = .run .clauseHeaderIssue (Rules.turnOf core (.group gk) s) := by
  unfold Rules.turnOf at hc
  dsimp only at hc
  simp only [groupTurn, hh, hi, ht, hc, hw, h0, Bool.or_self, Bool.false_eq_true, if_false, if_true, ne_eq, not_true_eq_false]
  rfl

/-- In a clause, what its next word is. -/
theorem groupTurn_word (hh : (s.core core).gHold = some gk) (hi : (s.core core).gIssued = false) (ht : s.plat.thermal = false)
    (hc : gctx (Rules.turnOf core (.group gk) s) = some c) (hw : c.path.wait = .none) (h0 : c.path.pos.remain ≠ 0) :
    (∀ i, nextInstr (Rules.turnOf core (.group gk) s) c.core c.task.space c.task.priv c.path.pos = .run i →
      groupTurn core s = .run i (Rules.turnOf core (.group gk) s))
    ∧ ∀ w, nextInstr (Rules.turnOf core (.group gk) s) c.core c.task.space c.task.priv c.path.pos = .illegal w →
      groupTurn core s = .done (wordTrap c w .illegalOp 0#64 (Rules.turnOf core (.group gk) s)) := by
  unfold Rules.turnOf at hc ⊢
  dsimp only at hc ⊢
  refine ⟨fun i hn => ?_, fun w hn => ?_⟩
  all_goals simp only [groupTurn, hh, hi, ht, hc, hw, h0, hn, Bool.or_self, Bool.false_eq_true, if_false, ne_eq, not_true_eq_false]

/-- The word at which a path stands is the next instruction, where it decodes (R46 check 2, R108). -/
theorem nextInstr_run {w : Word} (h : Rules.StandsBefore s c w) {i : Instr} (hd : decode w = .ok i) :
    nextInstr s c.core c.task.space c.task.priv c.path.pos = .run i := by
  unfold Rules.StandsBefore at h
  unfold nextInstr
  split at h
  · rename_i hr
    simp only [hr, Option.isSome_none, Bool.false_eq_true, if_false, h, hd]
  · rename_i r hr
    obtain ⟨v, hv, hf⟩ := h
    simp only [hr, Option.isSome_some, if_true, hv, hf, Option.getD_some, hd]

theorem nextInstr_illegal {w : Word} (h : Rules.StandsBefore s c w) {e : Reject} (hd : decode w = .error e) :
    nextInstr s c.core c.task.space c.task.priv c.path.pos = .illegal w := by
  unfold Rules.StandsBefore at h
  unfold nextInstr
  split at h
  · rename_i hr
    simp only [hr, Option.isSome_none, Bool.false_eq_true, if_false, h, hd]
  · rename_i r hr
    obtain ⟨v, hv, hf⟩ := h
    simp only [hr, Option.isSome_some, if_true, hv, hf, Option.getD_some, hd]
end

section
variable {s : State} {core tk : Nat} {c : LCtx}

/-- A lead's turn: at a header, the header's. -/
theorem leadTurn_header (hh : (s.core core).lHold = some tk) (hi : (s.core core).lIssued = false) (ht : s.plat.thermal = false)
    (hc : lctx (Rules.turnOf core (.lead tk) s) = some c) (hb : leadBarred (Rules.turnOf core (.lead tk) s) tk = false) (hf : c.team.lead.free = true)
    (h0 : c.team.lead.remain = 0) : leadTurn core s = .run .clauseHeaderIssue (Rules.turnOf core (.lead tk) s) := by
  unfold Rules.turnOf at hc hb
  dsimp only at hc hb
  simp only [leadTurn, hh, hi, ht, hc, hb, hf, h0, Bool.or_self, Bool.not_true, Bool.false_eq_true, if_false, if_true]
  rfl

/-- In a clause, the instruction that its word is. -/
theorem leadTurn_word (hh : (s.core core).lHold = some tk) (hi : (s.core core).lIssued = false) (ht : s.plat.thermal = false)
    (hc : lctx (Rules.turnOf core (.lead tk) s) = some c) (hb : leadBarred (Rules.turnOf core (.lead tk) s) tk = false) (hf : c.team.lead.free = true)
    (h0 : c.team.lead.remain ≠ 0) {w : Word} {i : Instr} (hw : fetch (Rules.turnOf core (.lead tk) s) c.core c.task.space c.task.priv c.team.lead.pc = .word w)
    (hd : decode w = .ok i) : leadTurn core s = .run i (Rules.turnOf core (.lead tk) s) := by
  unfold Rules.turnOf at hc hb hw ⊢
  dsimp only at hc hb hw ⊢
  simp only [leadTurn, nextInstr, hh, hi, ht, hc, hb, hf, h0, hw, hd, Bool.or_self, Bool.not_true, Bool.false_eq_true, if_false, Option.isSome_none]
end

/-- Settles O54: `groupTurn_header`, `groupTurn_word`, `leadTurn_header` and `leadTurn_word` for the turns, `nextInstr_run` and `nextInstr_illegal` for the word at
which a path stands, `pathTrap_trapped` where it is no instruction. -/
theorem stepRunsTheInstruction : Obligations.StepRunsTheInstruction := by
  unfold Obligations.StepRunsTheInstruction
  intro s turn ts hs
  refine ⟨fun i t ht h => step_event (ht ▸ hs) h, ?_, ?_⟩
  · intro core gk c ht hh hi hth s1 hc hw
    subst ht
    have hstep := step_turn hs (by simp)
    rw [runTurn_issueGroup] at hstep
    refine ⟨fun h0 => ?_, fun w h0 hst => ⟨fun i hd => ?_, fun e hd hah hl h16 => ?_⟩⟩
    · rw [hstep, groupTurn_header (s := { s with turns := ts, freeCtr := s.freeCtr + 1 }) hh hi hth hc hw h0]; rfl
    · rw [hstep, (groupTurn_word (s := { s with turns := ts, freeCtr := s.freeCtr + 1 }) hh hi hth hc hw h0).1 i (nextInstr_run hst hd)]; rfl
    · rw [(groupTurn_word (s := { s with turns := ts, freeCtr := s.freeCtr + 1 }) hh hi hth hc hw h0).2 w (nextInstr_illegal hst hd)] at hstep
      exact ⟨_, hstep, pathTrap_trapped hc hl h0 h16 hah w (fun _ _ => by decide)⟩
  · intro core tk c ht hh hi hth s1 hc hf hb
    subst ht
    have hstep := step_turn hs (by simp)
    rw [runTurn_issueLead] at hstep
    refine ⟨fun h0 => ?_, fun w i h0 hw hd => ?_⟩
    · rw [hstep, leadTurn_header (s := { s with turns := ts, freeCtr := s.freeCtr + 1 }) hh hi hth hc hb hf h0]; rfl
    · rw [hstep, leadTurn_word (s := { s with turns := ts, freeCtr := s.freeCtr + 1 }) hh hi hth hc hb hf h0 hw hd]; rfl

end Sys2Proof.Machine

/-!
SUPPORT. The places of the paths after a set that divides at an instruction (R28), after transfers (R22, R23, R102 to R105), and the obligations about them.
-/
namespace Sys2Proof.Machine

/-! ## A set that divides at its checks (R28) -/

/-- Two changes of different lanes of a group may be made in either order. -/
theorem onLanes_comm {s : State} {gk : Nat} {as bs : List Nat} (f g : Nat → Thread → Thread) (h : ∀ l ∈ as, l ∉ bs) :
    (s.onLanes gk as f).onLanes gk bs g = (s.onLanes gk bs g).onLanes gk as f := by
  unfold State.onLanes SMap.mapIf
  congr 1
  simp only [List.map_map]
  refine List.map_congr_left fun e _ => ?_
  by_cases h1 : e.1 / 64 = gk
  · by_cases h2 : e.1 % 64 ∈ as
    · simp [h1, h2, h _ h2]
    · by_cases h3 : e.1 % 64 ∈ bs <;> simp [h1, h2, h3]
  · simp [h1]

/-- The lanes whose checks fail trap, and the others have the effect; the charge is for these, as they pay for it. -/
theorem groupOp_divides {i : Instr} {chk : State → GCtx → Nat → Verdict} {hold : State → GCtx → Bool} {fin : GCtx → List Nat → State → State}
    {s s' : State} {c : GCtx} {good bad : List Nat} {info : Nat → TrapInfo} (h : Rules.Checked i s c)
    (hgood : c.path.lanes.filter (fun l => decide (l ∈ good)) = good) (hbad : c.path.lanes.filter (fun l => decide (l ∈ bad)) = bad)
    (hall : ∀ l ∈ c.path.lanes, l ∈ good ∨ l ∈ bad) (hok : ∀ l ∈ good, chk s c l = .ok) (htr : ∀ l ∈ bad, chk s c l = .trap (info l))
    (hne : good ≠ []) (hh : hold s c = false)
    (hp : charge s c.core c.team.task (c.keep good).payer (good.length * i.cost) (good.length * i.byteCost) = (true, s')) :
    groupOp i chk hold fin s = .next (parkAfterTrap c (bad.map (fun l => (l, info l)))
      (fin (c.keep good) good (splitSet c (wordOf i) (bad.map (fun l => (l, info l))) [] good s'))) := by
  have hv : ∀ l ∈ c.path.lanes, chk s c l = if l ∈ bad then .trap (info l) else .ok := fun l hl => by
    by_cases hb : l ∈ bad
    · rw [if_pos hb, htr l hb]
    · rw [if_neg hb, hok l ((hall l hl).resolve_right hb)]
  have hgb : ∀ l ∈ good, l ∉ bad := fun l hg hb => by
    have := (hok l hg).symm.trans (htr l hb); cases this
  have hbm : ∀ l ∈ bad, l ∈ c.path.lanes := fun l hl => by rw [← hbad] at hl; exact (List.mem_filter.mp hl).1
  have h1 : c.path.lanes.filterMap (fun l => (operandTrap i (s.thread c.gk l)).map (fun t => (l, t))) = [] := by
    rw [List.filterMap_eq_nil_iff]; intro l hl; simp [h.full l hl]
  have h2 : c.path.lanes.filter (fun l => (operandTrap i (s.thread c.gk l)).isNone) = c.path.lanes := by
    rw [List.filter_eq_self]; intro l hl; simp [h.full l hl]
  have h3 : c.path.lanes.any (fun l => operandWait i (s.thread c.gk l)) = false := by
    rw [List.any_eq_false]; intro l hl; simp [h.free l hl]
  have hvs : c.path.lanes.map (fun l => (l, chk s c l)) = c.path.lanes.map (fun l => (l, if l ∈ bad then Verdict.trap (info l) else .ok)) :=
    List.map_congr_left fun l hl => by rw [hv l hl]
  have h4 : (c.path.lanes.map (fun l => (l, if l ∈ bad then Verdict.trap (info l) else .ok))).any (fun v => v.2 == .lost) = false := by
    rw [List.any_eq_false]; intro v hm
    obtain ⟨l, hl, rfl⟩ := List.mem_map.mp hm
    dsimp only; split <;> simp
  have h5 : (c.path.lanes.map (fun l => (l, if l ∈ bad then Verdict.trap (info l) else .ok))).filter (fun v => v.2 == .absent) = [] := by
    rw [List.filter_eq_nil_iff]; intro v hm
    obtain ⟨l, hl, rfl⟩ := List.mem_map.mp hm
    dsimp only; split <;> simp
  have h6 : missOf (c.path.lanes.map (fun l => (l, if l ∈ bad then Verdict.trap (info l) else .ok))) = none := by
    unfold missOf
    rw [List.findSome?_eq_none_iff]; intro v hm
    obtain ⟨l, hl, rfl⟩ := List.mem_map.mp hm
    dsimp only; split <;> rename_i heq <;> split at heq <;> simp_all
  have h7 : trapsOf (c.path.lanes.map (fun l => (l, if l ∈ bad then Verdict.trap (info l) else .ok))) = bad.map (fun l => (l, info l)) := by
    conv_rhs => rw [← hbad]
    unfold trapsOf
    generalize c.path.lanes = ls
    induction ls with
    | nil => rfl
    | cons l ls ih => by_cases hb : l ∈ bad <;> simp_all
  have h8 : okLanes (c.path.lanes.map (fun l => (l, if l ∈ bad then Verdict.trap (info l) else .ok))) = good := by
    have hf : c.path.lanes.filter (fun l => decide (l ∉ bad)) = good := by
      conv_rhs => rw [← hgood]
      exact List.filter_congr fun l hl => by
        rw [decide_eq_decide]
        exact ⟨fun hb => (hall l hl).resolve_right hb, hgb l⟩
    conv_rhs => rw [← hf]
    unfold okLanes
    generalize c.path.lanes = ls
    induction ls with
    | nil => rfl
    | cons l ls ih => by_cases hb : l ∈ bad <;> simp_all
  have hs := charge_of_eq hp
  simp only [groupOp, h.ctx, h.cls, if_true, h1, h2, h3, Bool.false_eq_true, if_false, issueGroup, hvs, h4, h5, h6, h7, h8, hh, hp, List.nil_append,
    unhandled_none h.handled hbm info, sysTrap_none, List.isEmpty_eq_false_iff.mpr hne, List.map_nil]

section
variable {i : Instr} {s : State} {c : GCtx} {good bad : List Nat} {info : Nat → TrapInfo}
/-- Where the paths stand once the lanes that trap have left the set. -/
theorem splitSet_places (hg : s.groups.find c.gk = some c.group) (hr : c.group.running = some c.path)
    (hh : Rules.AllHandled s c) (hbm : ∀ l ∈ bad, l ∈ c.path.lanes) (hb : bad ≠ []) (hne : good ≠ []) (w : Word) :
    Rules.Places c (some (c.keep good).path) [Rules.inHandler c bad] (s.onLanes c.gk bad (trappedAt c w c.path.pos c.path.pos.pc info))
      (splitSet c w (bad.map (fun l => (l, info l))) [] good s)
    ∧ ∀ k, (splitSet c w (bad.map (fun l => (l, info l))) [] good s).core k = s.core k := by
  unfold splitSet
  rw [if_neg (by simp [hb])]
  dsimp only
  rw [parkPath_empty rfl, trapLanes_eq, handled_all hh hbm, if_neg (by simpa using hne)]
  refine ⟨((Rules.Places.refl (by exact hg) hr).park_path (p := Rules.inHandler c bad) hb).set_running _, fun k => ?_⟩
  rw [core_setRunning, core_parkPath]
  rfl
end

/-- The lanes that had their effect are parked too (R28). -/
theorem parkAfterTrap_places {c : GCtx} {ps : List Path} {lanes : List Nat} {ts : List (Nat × TrapInfo)} {s t : State} (hts : ts ≠ []) (hl : lanes ≠ [])
    (h : Rules.StandsAt c (Rules.runOn c lanes) (ps ++ Rules.parkOn c lanes) s t) :
    Rules.StandsAt c none (ps ++ [Rules.onward c lanes]) s (parkAfterTrap c ts t) := by
  obtain ⟨hp, hh⟩ := h
  unfold parkAfterTrap
  rw [if_neg (by simpa using hts), hp.2]
  unfold Rules.runOn at hp hh ⊢
  unfold Rules.parkOn at hp
  by_cases hy : (Rules.following c.path.pos).remain = 0 ∧ c.path.pos.y = true
  · rw [if_pos hy] at hp hh
    rw [if_pos hy] at hp
    rw [if_pos hy]
    exact ⟨hp, hh⟩
  · rw [if_neg hy] at hp hh
    rw [if_neg hy, List.append_nil] at hp
    rw [if_neg hy]
    exact (hp.park_running hl).stands_at (by simp) (gHold_parkRunning _ _ _ _)

/-! ## Instructions that change each thread by its lane -/

@[simp] theorem onLanes_nil (s : State) (gk : Nat) (f : Nat → Thread → Thread) : s.onLanes gk [] f = s := by
  unfold State.onLanes SMap.mapIf
  simp

theorem thread_charge {s s' : State} {core task : Nat} {who : Payer} {n b : Nat} (h : charge s core task who n b = (true, s')) (gk l : Nat) :
    s'.thread gk l = s.thread gk l := by
  rw [charge_of_eq h]; rfl

/-- Where every check passes, every thread of the path is changed. -/
theorem laneOp_runs {i : Instr} {chk : State → GCtx → Nat → Verdict} {f : State → GCtx → Nat → Thread → Thread} {s s' : State} {c : GCtx}
    (h : PathReady i s c s') (hv : ∀ l ∈ c.path.lanes, chk s c l = .ok) : ∃ t, laneOp i chk f s = .next t ∧ Ran c (f s' c) s' t :=
  ⟨_, groupOp_runs h.ctx h.lanes h.cls h.full h.free hv rfl h.paid, placeOnly_goOn _ _ _⟩

/-- Where some checks fail, those threads trap and the others are changed (R28). -/
theorem laneOp_traps {i : Instr} {chk : State → GCtx → Nat → Verdict} {f : Thread → Thread} {s s' : State} {c : GCtx} {good bad : List Nat} {info : Nat → TrapInfo}
    (h : Rules.Checked i s c)
    (hgood : c.path.lanes.filter (fun l => decide (l ∈ good)) = good) (hbad : c.path.lanes.filter (fun l => decide (l ∈ bad)) = bad)
    (hall : ∀ l ∈ c.path.lanes, l ∈ good ∨ l ∈ bad) (hok : ∀ l ∈ good, chk s c l = .ok) (htr : ∀ l ∈ bad, chk s c l = .trap (info l))
    (hb : bad ≠ []) (hcode : ∀ l ∈ bad, (info l).code < 64)
    (hp : charge s c.core c.team.task (c.keep good).payer (good.length * i.cost) (good.length * i.byteCost) = (true, s')) :
    ∃ t, laneOp i chk (fun _ _ _ => f) s = .next t ∧
      Rules.Trapped c c.path.pos (wordOf i) info bad (if good = [] then [] else [Rules.onward c good]) (s'.onLanes c.gk good (fun _ => f)) t := by
  obtain ⟨h0, h16⟩ := h.inside
  obtain ⟨-, hg, hr, -⟩ := gctx_some h.ctx
  have hbm : ∀ l ∈ bad, l ∈ c.path.lanes := fun l hl => by rw [← hbad] at hl; exact (List.mem_filter.mp hl).1
  have hs := charge_of_eq hp
  by_cases hne : good = []
  · subst hne
    have hbl : bad = c.path.lanes := by
      rw [← hbad, List.filter_eq_self]
      exact fun l hl => by simpa using hall l hl
    have hs' : s' = s := by
      simpa [charge] using (congrArg Prod.snd hp).symm
    subst hs' hbl
    simp only [if_true, onLanes_nil]
    exact ⟨_, groupOp_checks h.ctx h.cls h.full h.free htr, pathTrap_trapped h.ctx h.lanes h0 h16 h.handled _ hcode⟩
  · have hgb : ∀ l ∈ bad, l ∉ good := fun l hb hg => by
      have := (hok l hg).symm.trans (htr l hb); cases this
    refine ⟨_, groupOp_divides h hgood hbad hall hok htr hne rfl hp, trappedAt c (wordOf i) c.path.pos c.path.pos.pc info,
      fun l hm => by rw [trapped_of_remain h0]; exact hasTrapped_trap _ _ h16 (hcode l hm), ?_⟩
    obtain ⟨hpl, hco⟩ := splitSet_places (s := s') (info := info) (by rw [hs]; exact hg) hr (by rw [hs]; exact h.handled) hbm hb hne (wordOf i)
    rw [if_neg hne, ← onLanes_comm _ _ hgb]
    exact parkAfterTrap_places (ps := [Rules.inHandler c bad]) (by simpa using hb) hne
      ((hpl.on_lanes c.gk good (fun _ => f)).go_on (congrArg Core.gHold (hco c.core)) hne)

end Sys2Proof.Machine

namespace Sys2Proof.Machine

/-! ## Index registers and specials (R106, R107, R111, R112) -/

/-- The two ways in which an instruction with a bound goes: within it in every thread, and beyond it in some (R28, R106). -/
theorem laneOp_bounded {i : Instr} {chk : State → GCtx → Nat → Verdict} {f : Thread → Thread} {k : BitVec 2} {inRange : GCtx → Thread → Prop}
    (hcost : i.cost = 1) (hbyte : i.byteCost = 0) (hex : ∀ s, exec i s = laneOp i chk (fun _ _ _ => f) s) {s : State} {c : GCtx}
    (hin : ∀ l, inRange c (s.thread c.gk l) → chk s c l = .ok) (hout : ∀ l, ¬inRange c (s.thread c.gk l) → chk s c l = boundsTrap k.toNat) :
    (∀ s', PathReady i s c s' → (∀ l ∈ c.path.lanes, inRange c (s.thread c.gk l)) → ∃ t, exec i s = .next t ∧ Ran c (fun _ => f) s' t)
    ∧ (gctx s = some c → c.path.lanes ≠ [] → c.path.lanes.Nodup → i.classOk c.path.pos.cls = true → c.path.pos.rep = none →
        c.path.pos.remain ≠ 0 → c.path.pos.remain < 16 → Rules.AllHandled s c →
        (∀ l ∈ c.path.lanes, operandTrap i (s.thread c.gk l) = none) → (∀ l ∈ c.path.lanes, operandWait i (s.thread c.gk l) = false) →
        ∀ good bad : List Nat, c.path.lanes.filter (fun l => good.contains l) = good → c.path.lanes.filter (fun l => bad.contains l) = bad →
        (∀ l, l ∈ c.path.lanes ↔ l ∈ good ∨ l ∈ bad) → bad ≠ [] →
        (∀ l ∈ good, inRange c (s.thread c.gk l)) → (∀ l ∈ bad, ¬inRange c (s.thread c.gk l)) →
        ∀ s', charge s c.core c.team.task (c.keep good).payer good.length 0 = (true, s') →
          ∃ t, exec i s = .next t ∧
            Rules.Trapped c c.path.pos (wordOf i) (fun _ => { cause := .indexBounds, code := k.toNat, addr := 0#64 }) bad
              (if good = [] then [] else [Rules.onward c good]) (s'.onLanes c.gk good (fun _ => f)) t) := by
  simp only [hex]
  refine ⟨fun s' h hr => laneOp_runs h (fun l hl => hin l (hr l hl)), ?_⟩
  intro hc hl _ hk _ h0 h16 hh hf hw good bad hgood hbad hall hb hg hbad' s' hp
  refine laneOp_traps ⟨hc, hl, hk, hf, hw, ⟨h0, h16⟩, hh⟩ (by simpa using hgood) (by simpa using hbad) (fun l => (hall l).mp)
    (fun l h => hin l (hg l h)) (fun l h => hout l (hbad' l h)) hb (fun _ _ => Nat.lt_trans k.isLt (by decide)) ?_
  rw [hcost, hbyte, Nat.mul_one, Nat.mul_zero]
  exact hp

theorem xset_bounded (s : State) (c : GCtx) (k : BitVec 2) (a b : BitVec 6) (h64 : 64 ≤ c.team.regs) (l : Nat) :
    (if ((s.thread c.gk l).rd a).toNat + ((s.thread c.gk l).rd b).toNat > c.team.espace then boundsTrap k.toNat else .ok)
      = if ((s.thread c.gk l).rd a).toNat + ((s.thread c.gk l).rd b).toNat + 64 ≤ c.team.regs then .ok else boundsTrap k.toNat := by
  unfold Team.espace
  split <;> split <;> first | rfl | omega

theorem indexCheck_eq (s : State) (c : GCtx) (k : BitVec 2) (b : BitVec 6) (l : Nat) :
    indexCheck k b s c l = if ((s.thread c.gk l).rd b).toNat < ((s.thread c.gk l).xl.get k.toNat 0#32).toNat then .ok else boundsTrap k.toNat := by
  unfold indexCheck
  dsimp only
  split <;> split <;> first | rfl | omega

/-- The specials that groups and the lead both read (R111, R12, R113, R131). -/
theorem sharedSpecial_eq {s : State} {team : Team} {task : Task} {n : Nat} {v : Word} (h : Rules.r111both s team task n = some v) :
    sharedSpecial s team task n = v := by
  unfold Rules.r111both at h
  split at h
  case h_13 => exact nomatch h
  case h_11 =>
    obtain ⟨l, hl, rfl⟩ := Option.map_eq_some_iff.mp h
    simp [sharedSpecial, leaseOf, hl]
  all_goals obtain rfl := Option.some.inj h
  case h_9 =>
    refine BitVec.eq_of_toNat_eq ?_
    show (task.gen ++ BitVec.ofNat 16 team.task).toNat = _
    rw [toNat_append_eq_add, BitVec.toNat_ofNat, BitVec.toNat_ofNat]
    have := task.gen.isLt
    omega
  case h_10 =>
    refine BitVec.eq_of_toNat_eq ?_
    show team.partw.toNat = _
    unfold Team.partw
    simp only [toNat_append_eq_add, BitVec.toNat_ofNat]
    omega
  all_goals rfl

/-- The value of a special in a thread (R111, R112). -/
theorem special_eq {s : State} {c : GCtx} {l n : Nat} {th : Thread} {v : Word} (h : Rules.r111 s c l th n = some v) : special s c l n th = v := by
  unfold Rules.r111 at h
  split at h
  case h_9 m h0 h1 h3 h4 h10 h11 h16 h17 =>
    unfold special
    rw [if_neg h0, if_neg h1, if_neg h3, if_neg h4, if_neg h10, if_neg h11, if_neg h16, if_neg h17, sharedSpecial_eq h]
  all_goals obtain rfl := Option.some.inj h
  case h_4 =>
    show BitVec.ofNat 32 (c.group.gid * 64 + l) = _
    rw [Nat.mul_comm]
  case h_5 =>
    refine BitVec.eq_of_toNat_eq ?_
    show (s.time.extractLsb' 0 32).toNat = _
    rw [toNat_field, BitVec.toNat_ofNat, Nat.pow_zero, Nat.div_one]
  case h_6 => exact (BitVec.ofNat_toNat 32 th.timeh).symm
  case h_7 => exact (BitVec.ofNat_toNat 32 th.qrd).symm
  case h_8 =>
    show (BitVec.ofBool th.trapMode).zeroExtend 32 = _
    cases th.trapMode <;> rfl
  all_goals rfl

/-- The thread under a key of a group is the one of its lane. -/
theorem thread_of_find {s : State} {gk k : Nat} {th : Thread} (hg : k / 64 = gk) (h : s.threads.find k = some th) : s.thread gk (k % 64) = th := by
  unfold State.thread tkey SMap.get
  rw [show gk * 64 + k % 64 = k by omega, h]
  rfl

/-- A change of each thread by its lane may be said of the thread that it finds. -/
theorem ranEach_of_ran {c : GCtx} {f g : Nat → Thread → Thread} {s t : State} (h : Ran c f s t)
    (hfg : ∀ l ∈ c.path.lanes, f l (s.thread c.gk l) = g l (s.thread c.gk l)) : RanEach c g s t := by
  refine ⟨_, h, rfl, fun k => ?_⟩
  rw [find_onLanes]
  split
  · rename_i hk
    cases hf : s.threads.find k with
    | none => rfl
    | some th =>
      have := hfg _ hk.2
      rw [thread_of_find hk.1 hf] at this
      simp [this]
  · rfl

/-- SRD (R111, R112): a read of TIME also latches its upper part for TIMEH. -/
theorem exec_srd {d : BitVec 6} {n : BitVec 8} {s s' : State} {c : GCtx} (h : PathReady (.srd d n) s c s') {value : Nat → Word}
    (hv : ∀ l ∈ c.path.lanes, Rules.r111 s' c l (s.thread c.gk l) n.toNat = some (value l)) :
    ∃ t, exec (.srd d n) s = .next t ∧ RanEach c (fun l th =>
      let th := th.wr d (value l)
      if n = 0x10#8 then { th with timeh := BitVec.ofNat 16 (s.time.toNat / 2 ^ 32) } else th) s' t := by
  obtain ⟨t, ht, hr⟩ := laneOp_runs (chk := noCheck) (f := fun s c l th =>
      let th := th.wr d (special s c l n.toNat th)
      if n = 0x10#8 then { th with timeh := s.time.extractLsb' 32 16 } else th) h (fun _ _ => rfl)
  refine ⟨t, ht, ranEach_of_ran hr fun l hl => ?_⟩
  have hsp := hv l hl
  rw [← thread_charge h.paid] at hsp
  have ht : s'.time = s.time := by rw [charge_of_eq h.paid]
  have hx : s.time.extractLsb' 32 16 = BitVec.ofNat 16 (s.time.toNat / 2 ^ 32) := BitVec.eq_of_toNat_eq (by rw [toNat_field, BitVec.toNat_ofNat])
  simp only [special_eq hsp, ht, hx]

/-- Settles O13: `laneOp_bounded` for XSET, RDX and WRX, each with its own bound, and `exec_srd`. -/
theorem indexAndSpecialRegisters : Obligations.IndexAndSpecialRegisters := by
  unfold Obligations.IndexAndSpecialRegisters
  refine ⟨?_, fun d n => ⟨⟨rfl, fun k hk => ?_⟩, fun s c s' h value hv => exec_srd h hv⟩⟩
  · rintro i k inRange f (⟨a, b, x, y, rfl, hr, hf⟩ | ⟨d, b, y, rfl, hr, hf⟩ | ⟨a, b, x, y, rfl, hr, hf⟩) s c h64
    all_goals obtain rfl := (funext hf : f = _)
    · refine laneOp_bounded rfl rfl (fun s => rfl) (fun l h => ?_) (fun l h => ?_)
      all_goals rw [hr] at h
      all_goals dsimp only
      all_goals rw [xset_bounded s c k a b h64 l]
      · exact if_pos h
      · exact if_neg h
    · refine laneOp_bounded rfl rfl (fun s => rfl) (fun l h => ?_) (fun l h => ?_)
      all_goals rw [hr] at h
      all_goals rw [indexCheck_eq]
      · exact if_pos h
      · exact if_neg h
    · refine laneOp_bounded rfl rfl (fun s => rfl) (fun l h => ?_) (fun l h => ?_)
      all_goals rw [hr] at h
      all_goals rw [indexCheck_eq]
      · exact if_pos h
      · exact if_neg h
  · cases k
    all_goals try exact absurd hk (by decide)
    all_goals rfl

end Sys2Proof.Machine

namespace Sys2Proof.Machine

/-! ## Targets (R56, R57, R103) -/

theorem canonical_iff (a : DWord) : canonical a = true ↔ -2 ^ 47 ≤ a.toInt ∧ a.toInt < 2 ^ 47 := by
  have ha := a.isLt
  unfold canonical
  rw [beq_iff_eq, ← BitVec.toInt_inj, BitVec.toInt_signExtend_of_le (by decide), BitVec.toInt_eq_toNat_cond, BitVec.toInt_eq_toNat_cond, toNat_field]
  split <;> split <;> omega

theorem isHeader_iff (w : Word) : isHeader w = true ↔ w.toNat / 2 ^ 26 = 63 := by
  have hw := w.isLt
  unfold isHeader
  rw [beq_iff_eq, BitVec.toNat_eq, toNat_field, BitVec.toNat_ofNat]
  omega

/-- A target whose check fails is one at which the check raises (R57, R103). -/
theorem checkTarget_fails {s : State} {core : Nat} {k : Task} {t : DWord} {x : Cause × DWord} (h : Rules.targetFails s core k t = some x) :
    checkTarget s core k.space k.priv t = .trap x.1 x.2 := by
  unfold Rules.targetFails at h
  unfold checkTarget
  by_cases hc : canonical t = true ∧ t.toNat % 4 = 0
  · have hc' := (canonical_iff t).mp hc.1
    rw [if_neg (by omega)] at h
    rw [if_neg (by simp [hc.1, hc.2])]
    split at h
    · rename_i hf
      obtain rfl := Option.some.inj h
      rw [hf]
    · rename_i w hf
      rw [hf]
      dsimp only
      split at h
      · cases h
      · rename_i hw
        obtain rfl := Option.some.inj h
        rw [if_neg (by rwa [isHeader_iff])]
    · cases h
  · have hc' : ¬((-2 ^ 47 ≤ t.toInt ∧ t.toInt < 2 ^ 47) ∧ t.toNat % 4 = 0) := by rwa [canonical_iff] at hc
    rw [if_pos (by omega)] at h
    obtain rfl := Option.some.inj h
    rw [if_pos]
    by_cases h1 : canonical t = true
    · simp [h1]; exact fun h2 => hc ⟨h1, h2⟩
    · simp [h1]

theorem targetVerdict_ok {s : State} {c : GCtx} {t : DWord} (h : checkTarget s c.core c.task.space c.task.priv t = .ok) : targetVerdict s c t = .ok := by
  unfold targetVerdict; rw [h]
theorem targetVerdict_fails {s : State} {c : GCtx} {t : DWord} {x : Cause × DWord} (h : Rules.targetFails s c.core c.task t = some x) :
    targetVerdict s c t = .trap { cause := x.1, code := 0, addr := x.2 } := by
  unfold targetVerdict; rw [checkTarget_fails h]; rfl

/-- The target of a displacement (R56). -/
theorem branchTarget_eq (pc : DWord) (disp : BitVec 19) : branchTarget pc disp = BitVec.ofInt 64 (pc.toNat + 4 * disp.toInt) := by
  have hp := pc.isLt
  apply BitVec.eq_of_toNat_eq
  unfold branchTarget
  rw [BitVec.toNat_add, BitVec.toNat_shiftLeft, Nat.shiftLeft_eq, signExtend_ofInt, BitVec.toNat_ofInt, BitVec.toNat_ofInt]
  omega

/-- A transfer is backward when its target is at or below its own word (R23). -/
theorem backward_iff (pc t : DWord) : backward pc t = true ↔ t.toNat ≤ pc.toNat := BitVec.ule_iff_toNat_le

/-! ## Transfers to one target (R102) -/

theorem branchOp_congr {i : Instr} {disp : BitVec 19} {link : Bool} {f g : Thread → Bool} (h : ∀ th, f th = g th) (s : State) :
    branchOp i disp link f s = branchOp i disp link g s := by
  rw [show f = g from funext h]

theorem exec_r102 {i : Instr} {disp : BitVec 19} {link : Bool} {test : Thread → Bool} (h : Rules.r102 i = some (disp, link, test)) :
    (∀ s, exec i s = branchOp i disp link test s) ∧ i.cost = 1 ∧ i.byteCost = 0 := by
  unfold Rules.r102 at h
  split at h
  case h_8 => exact nomatch h
  all_goals
    obtain ⟨rfl, rfl, rfl⟩ : _ ∧ _ ∧ _ := by simpa only [Option.some.injEq, Prod.mk.injEq] using h
    refine ⟨fun s => ?_, rfl, rfl⟩
  case h_1 => rfl
  case h_2 => rfl
  case h_3 => rfl
  case h_4 => exact branchOp_congr (f := fun th => th.rd _ == 0#32) (fun th => rfl) s
  case h_5 => exact branchOp_congr (f := fun th => th.rd _ != 0#32) (fun th => by rw [bne, beq_eq_decide, decide_not]) s
  case h_6 => rfl
  case h_7 => rfl

@[simp] theorem keep_lanes (c : GCtx) : c.keep c.path.lanes = c := rfl

section
variable {c : GCtx} {b : State} (hg : b.groups.find c.gk = some c.group) (hr : c.group.running = some c.path)
include hg hr

/-- Where the paths stand after a transfer of some lanes to one target (R22, R23, R51). -/
theorem transferTo_places (hl : c.path.lanes ≠ []) (t : DWord) (test : Nat → Bool) :
    let go := c.path.lanes.filter test
    let stay := c.path.lanes.filter (fun l => !test l)
    Rules.StandsAt c
      (if go = [] then Rules.runOn c stay
       else if stay = [] then (if t.toNat ≤ c.path.pos.pc.toNat ∨ c.path.pos.y = true then none else some (Rules.atHeader c t go))
       else if t.toNat ≤ c.path.pos.pc.toNat then none else Rules.runOn c stay)
      (if go = [] then Rules.parkOn c stay
       else if stay = [] then (if t.toNat ≤ c.path.pos.pc.toNat ∨ c.path.pos.y = true then [Rules.atHeader c t go] else [])
       else if t.toNat ≤ c.path.pos.pc.toNat then [Rules.onward c stay, Rules.atHeader c t go]
       else Rules.atHeader c t go :: Rules.parkOn c stay)
      b (transferTo c t go stay b) := by
  intro go stay
  have h0 := Rules.Places.refl hg hr
  have hdest : ({ c.path with lanes := go, pos := Pos.target t, wait := .none } : Path) = Rules.atHeader c t go := rfl
  have honw : ({ c.path with lanes := stay, pos := c.path.pos.next, wait := .none } : Path) = Rules.onward c stay := by
    rw [Pos.next_eq_following]; rfl
  unfold transferTo
  dsimp only
  rw [hdest, honw]
  by_cases h1 : go = []
  · have h2 : stay = c.path.lanes := by
      rw [List.filter_eq_self]
      intro l hm
      have := List.filter_eq_nil_iff.mp h1 l hm
      simpa using this
    simp only [h1, h2, List.isEmpty_nil, if_true]
    exact h0.go_on rfl hl
  · simp only [h1, List.isEmpty_eq_false_iff.mpr h1, Bool.false_eq_true, if_false]
    by_cases h2 : stay = []
    · simp only [h2, List.isEmpty_nil, if_true, Bool.or_eq_true, backward_iff]
      split
      · exact (h0.park_running (p := Rules.atHeader c t go) h1).stands_at (by simp) (gHold_parkRunning _ _ _ _)
      · exact (h0.set_running _).release.stands_at (by rintro p ⟨⟩; rfl) (gHold_releaseG _ _)
    · simp only [h2, List.isEmpty_eq_false_iff.mpr h2, Bool.false_eq_true, if_false, backward_iff]
      split
      · exact (((h0.set_running none).park_path (p := Rules.onward c stay) h2).park_path (p := Rules.atHeader c t go) h1).release.stands_at
          (by simp) (gHold_releaseG _ _)
      · exact (h0.park_path (p := Rules.atHeader c t go) h1).go_on (congrArg Core.gHold (core_parkPath _ _ _ _)) h2
end

/-- The state in which the link has been written (R56). -/
theorem linked_places {c : GCtx} {s : State} (hg : s.groups.find c.gk = some c.group) (link : Bool) (go : List Nat) (f : Nat → Thread → Thread) :
    (if link then s.onLanes c.gk go f else s).groups.find c.gk = some c.group := by
  cases link <;> exact hg

section
variable {i : Instr} {disp : BitVec 19} {link : Bool} {test : Thread → Bool} (hi : Rules.r102 i = some (disp, link, test)) {s s' : State} {c : GCtx}
include hi

/-- A transfer whose target passes its check. -/
theorem branch_runs (h : PathReady i s c s') :
    let target : DWord := BitVec.ofInt 64 (c.path.pos.pc.toNat + 4 * disp.toInt)
    let go := c.path.lanes.filter (fun l => test (s.thread c.gk l))
    let stay := c.path.lanes.filter (fun l => !test (s.thread c.gk l))
    (go ≠ [] → checkTarget s c.core c.task.space c.task.priv target = .ok) →
    exec i s = .next (transferTo c target go stay
      (if link then s'.onLanes c.gk go (fun _ th => th.wr2 62#6 (c.path.pos.pc + 4#64)) else s')) := by
  intro target go stay hok
  have hv : ∀ l ∈ c.path.lanes, (if test (s.thread c.gk l) then targetVerdict s c (branchTarget c.path.pos.pc disp) else .ok) = Verdict.ok := by
    intro l hl
    split
    · rename_i ht
      rw [branchTarget_eq]
      exact targetVerdict_ok (hok (List.ne_nil_of_mem (List.mem_filter.mpr ⟨hl, ht⟩)))
    · rfl
  rw [(exec_r102 hi).1, branchOp, groupOp_runs h.ctx h.lanes h.cls h.full h.free hv rfl h.paid]
  simp only [thread_charge h.paid, branchTarget_eq]
  rfl

/-- A transfer whose target fails its check: those that would take it trap, the others go on (R28, R57, R103). -/
theorem branch_traps (h : Rules.Checked i s c) {x : Cause × DWord} :
    let target : DWord := BitVec.ofInt 64 (c.path.pos.pc.toNat + 4 * disp.toInt)
    let go := c.path.lanes.filter (fun l => test (s.thread c.gk l))
    let stay := c.path.lanes.filter (fun l => !test (s.thread c.gk l))
    go ≠ [] → Rules.targetFails s c.core c.task target = some x →
    charge s c.core c.team.task (c.keep stay).payer stay.length 0 = (true, s') →
    ∃ t, exec i s = .next t ∧ Rules.Trapped c c.path.pos (wordOf i) (fun _ => { cause := x.1, code := 0, addr := x.2 }) go
      (if stay = [] then [] else [Rules.onward c stay]) s' t := by
  intro target go stay hgo hx hp
  obtain ⟨h0, h16⟩ := h.inside
  obtain ⟨-, hg, hr, -⟩ := gctx_some h.ctx
  obtain ⟨hex, hcost, hbyte⟩ := exec_r102 hi
  have hs := charge_of_eq hp
  have hgm : ∀ l ∈ go, l ∈ c.path.lanes ∧ test (s.thread c.gk l) = true := fun l hl => List.mem_filter.mp hl
  have hsm : ∀ l ∈ stay, l ∈ c.path.lanes ∧ test (s.thread c.gk l) = false := fun l hl => by simpa using List.mem_filter.mp hl
  have htr : ∀ l ∈ go, (if test (s.thread c.gk l) then targetVerdict s c (branchTarget c.path.pos.pc disp) else .ok)
      = Verdict.trap { cause := x.1, code := 0, addr := x.2 } := fun l hl => by
    rw [if_pos (hgm l hl).2, branchTarget_eq]
    exact targetVerdict_fails hx
  have hok : ∀ l ∈ stay, (if test (s.thread c.gk l) then targetVerdict s c (branchTarget c.path.pos.pc disp) else .ok) = Verdict.ok := fun l hl => by
    rw [if_neg (by rw [(hsm l hl).2]; decide)]
  rw [hex, branchOp]
  by_cases hst : stay = []
  · have hall : go = c.path.lanes := by
      rw [List.filter_eq_self]
      intro l hl
      simpa using List.filter_eq_nil_iff.mp hst l hl
    have hs' : s' = s := by
      rw [hst] at hp
      simpa [charge] using (congrArg Prod.snd hp).symm
    rw [hs', hall, if_pos hst]
    rw [hall] at htr
    exact ⟨_, groupOp_checks h.ctx h.cls h.full h.free htr, pathTrap_trapped h.ctx h.lanes h0 h16 h.handled _ (fun _ _ => Nat.succ_pos 63)⟩
  · have hf1 : c.path.lanes.filter (fun l => decide (l ∈ stay)) = stay :=
      List.filter_congr fun l hl => by simp [stay, hl]
    have hf2 : c.path.lanes.filter (fun l => decide (l ∈ go)) = go :=
      List.filter_congr fun l hl => by simp [go, hl]
    have hall : ∀ l ∈ c.path.lanes, l ∈ stay ∨ l ∈ go := fun l hl => by
      cases ht : test (s.thread c.gk l) <;> simp [stay, go, hl, ht]
    obtain ⟨hpl, hco⟩ := splitSet_places (s := s') (info := fun _ => { cause := x.1, code := 0, addr := x.2 }) (by rw [hs]; exact hg) hr
      (by rw [hs]; exact h.handled) (fun l hl => (hgm l hl).1) hgo hst (wordOf i)
    rw [groupOp_divides h hf1 hf2 hall hok htr hst rfl (by rw [hcost, hbyte, Nat.mul_one, Nat.mul_zero]; exact hp), if_neg hst]
    refine ⟨_, rfl, trappedAt c (wordOf i) c.path.pos c.path.pos.pc (fun _ => { cause := x.1, code := 0, addr := x.2 }),
      fun l hm => by rw [trapped_of_remain h0]; exact hasTrapped_trap _ _ h16 (Nat.succ_pos 63), ?_⟩
    generalize splitSet c (wordOf i) (go.map (fun l => (l, { cause := x.1, code := 0, addr := x.2 }))) [] stay s' = S at hpl hco ⊢
    have hth : ∀ l ∈ stay, test (S.thread c.gk l) = false := fun l hl => by
      rw [hpl.1.thread, thread_onLanes_other (fun hm => by simpa [(hsm l hl).2] using (hgm l hm).2), thread_charge hp]
      exact (hsm l hl).2
    have hno : stay.filter (fun l => test (S.thread c.gk l)) = [] := List.filter_eq_nil_iff.mpr (fun l hl => by simp [hth l hl])
    refine parkAfterTrap_places (ps := [Rules.inHandler c go]) (by simpa using hgo) hst ?_
    show Rules.StandsAt _ _ _ _ (transferTo (c.keep stay) _ (stay.filter (fun l => test (S.thread c.gk l))) _ _)
    rw [hno, transferTo, List.isEmpty_nil, if_pos rfl]
    show Rules.StandsAt _ _ _ _ (goOn _ _ (if link then S.onLanes c.gk (stay.filter (fun l => test (S.thread c.gk l))) _ else S))
    rw [hno, onLanes_nil, ite_self]
    exact hpl.go_on (congrArg Core.gHold (hco c.core)) hst
end

/-! ## Transfers to a target of each thread's own (R103 to R105) -/

theorem mem_insertAsc (n x : Nat) (ls : List Nat) : x ∈ insertAsc n ls ↔ x = n ∨ x ∈ ls := by
  induction ls with
  | nil => simp [insertAsc]
  | cons m ls ih =>
    unfold insertAsc
    split
    · simp
    · split
      · rename_i h; subst h; simp
      · simp only [List.mem_cons, ih]; tauto

theorem insertAsc_sorted (n : Nat) {ls : List Nat} (h : ls.Pairwise (· < ·)) : (insertAsc n ls).Pairwise (· < ·) := by
  induction ls with
  | nil => simp [insertAsc]
  | cons m ls ih =>
    obtain ⟨hm, hls⟩ := List.pairwise_cons.mp h
    unfold insertAsc
    split
    · rename_i hn
      refine List.pairwise_cons.mpr ⟨fun x hx => ?_, h⟩
      rcases List.mem_cons.mp hx with rfl | hx
      · exact hn
      · exact Nat.lt_trans hn (hm x hx)
    · split
      · exact h
      · refine List.pairwise_cons.mpr ⟨fun x hx => ?_, ih hls⟩
        rcases (mem_insertAsc n x ls).mp hx with rfl | hx
        · omega
        · exact hm x hx

/-- The distinct targets of a set, ascending (R105). -/
theorem targetsOf_spec (ts : List (Nat × DWord)) : (targetsOf ts).Pairwise (· < ·) ∧ ∀ x, x ∈ targetsOf ts ↔ ∃ t ∈ ts, t.2.toNat = x := by
  have key : ∀ (ts : List (Nat × DWord)) (r : List Nat), r.Pairwise (· < ·) →
      (ts.foldl (fun r t => insertAsc t.2.toNat r) r).Pairwise (· < ·)
        ∧ ∀ x, x ∈ ts.foldl (fun r t => insertAsc t.2.toNat r) r ↔ x ∈ r ∨ ∃ t ∈ ts, t.2.toNat = x := by
    intro ts
    induction ts with
    | nil => intro r hr; exact ⟨hr, by simp⟩
    | cons t ts ih =>
      intro r hr
      obtain ⟨h1, h2⟩ := ih _ (insertAsc_sorted t.2.toNat hr)
      refine ⟨h1, fun x => ?_⟩
      rw [List.foldl_cons, h2, mem_insertAsc]
      simp only [List.mem_cons, exists_eq_or_imp, eq_comm (a := x), or_assoc, or_left_comm]
  obtain ⟨h1, h2⟩ := key ts [] List.Pairwise.nil
  exact ⟨h1, fun x => by rw [targetsOf, h2]; simp⟩

/-- The parts of a set whose lanes have the targets `at_` (R105). -/
theorem partsOf_eq (c : GCtx) (at_ : Nat → DWord) :
    partsOf c (c.path.lanes.map (fun l => (l, at_ l))) = (targetsOf (c.path.lanes.map (fun l => (l, at_ l)))).map
      (fun x => Rules.atHeader c (BitVec.ofNat 64 x) (c.path.lanes.filter (fun l => decide ((at_ l).toNat = x)))) := by
  unfold partsOf
  refine List.map_congr_left fun x _ => ?_
  have hf : ((c.path.lanes.map (fun l => (l, at_ l))).filter (fun y => decide (y.2.toNat = x))).map Prod.fst
      = c.path.lanes.filter (fun l => decide ((at_ l).toNat = x)) := by
    rw [List.filter_map, List.map_map]
    simp [Function.comp_def]
  rw [hf]
  rfl

/-- Several paths are parked one after the other. -/
theorem Places.park_all {c : GCtx} {r : Option Path} {ps qs : List Path} {s t : State} (h : Rules.Places c r ps s t) (hl : ∀ p ∈ qs, p.lanes ≠ []) :
    Rules.Places c r (ps ++ qs) s (qs.foldl (fun s q => parkPath s c.gk q) t)
      ∧ ∀ k, (qs.foldl (fun s q => parkPath s c.gk q) t).core k = t.core k := by
  induction qs generalizing ps t with
  | nil => exact ⟨by simpa using h, fun _ => rfl⟩
  | cons q qs ih =>
    obtain ⟨h1, h2⟩ := ih (h.park_path (hl q List.mem_cons_self)) (fun p hp => hl p (List.mem_cons_of_mem _ hp))
    refine ⟨?_, fun k => ?_⟩
    · rw [List.foldl_cons, show ps ++ q :: qs = ps ++ [q] ++ qs by simp]; exact h1
    · rw [List.foldl_cons, h2, core_parkPath]

/-- Where the parts stand after a register transfer (R105). -/
theorem transferEach_places {c : GCtx} {b : State} (hg : b.groups.find c.gk = some c.group) (hr : c.group.running = some c.path) (hl : c.path.lanes ≠ [])
    (at_ : Nat → DWord) :
    ∃ (low : Nat) (rest : List Nat), (low :: rest).Pairwise (· < ·) ∧ (∀ x, x ∈ low :: rest ↔ ∃ l ∈ c.path.lanes, (at_ l).toNat = x)
      ∧ (let part : Nat → Path := fun x => Rules.atHeader c (BitVec.ofNat 64 x) (c.path.lanes.filter (fun l => decide ((at_ l).toNat = x)))
        let switch : Prop := low ≤ c.path.pos.pc.toNat ∨ c.path.pos.y = true
        (switch → Rules.StandsAt c none ((low :: rest).map part) b (transferEach c (c.path.lanes.map (fun l => (l, at_ l))) b))
        ∧ (¬switch → Rules.StandsAt c (some (part low)) (rest.map part) b (transferEach c (c.path.lanes.map (fun l => (l, at_ l))) b))) := by
  obtain ⟨hs, hm⟩ := targetsOf_spec (c.path.lanes.map (fun l => (l, at_ l)))
  have hm' : ∀ x, x ∈ targetsOf (c.path.lanes.map (fun l => (l, at_ l))) ↔ ∃ l ∈ c.path.lanes, (at_ l).toNat = x := fun x => by rw [hm]; simp
  have hp := partsOf_eq c at_
  have hsw : (c.path.lanes.map (fun l => (l, at_ l))).any (fun t => backward c.path.pos.pc t.2) = true
      ↔ ∃ x ∈ targetsOf (c.path.lanes.map (fun l => (l, at_ l))), x ≤ c.path.pos.pc.toNat := by
    simp only [List.any_eq_true, List.mem_map, backward_iff, hm']
    constructor
    · rintro ⟨_, ⟨l, hl, rfl⟩, h⟩; exact ⟨_, ⟨l, hl, rfl⟩, h⟩
    · rintro ⟨_, ⟨l, hl, rfl⟩, h⟩; exact ⟨_, ⟨l, hl, rfl⟩, h⟩
  cases hts : targetsOf (c.path.lanes.map (fun l => (l, at_ l))) with
  | nil =>
    obtain ⟨l, ls, hls⟩ := List.exists_cons_of_ne_nil hl
    have := (hm' (at_ l).toNat).mpr ⟨l, by rw [hls]; exact List.mem_cons_self, rfl⟩
    rw [hts] at this; cases this
  | cons low rest =>
    rw [hts] at hs hm' hp hsw
    have hne : ∀ x ∈ low :: rest, c.path.lanes.filter (fun l => decide ((at_ l).toNat = x)) ≠ [] := fun x hx => by
      obtain ⟨l, hl, hx⟩ := (hm' x).mp hx
      exact List.ne_nil_of_mem (List.mem_filter.mpr ⟨hl, by simpa using hx⟩)
    have hlow : (∃ x ∈ low :: rest, x ≤ c.path.pos.pc.toNat) ↔ low ≤ c.path.pos.pc.toNat := by
      constructor
      · rintro ⟨x, hx, hle⟩
        rcases List.mem_cons.mp hx with rfl | hx
        · exact hle
        · exact Nat.le_trans (Nat.le_of_lt ((List.pairwise_cons.mp hs).1 x hx)) hle
      · exact fun h => ⟨low, List.mem_cons_self, h⟩
    rw [hlow] at hsw
    refine ⟨low, rest, hs, hm', fun hswitch => ?_, fun hswitch => ?_⟩
    · unfold transferEach
      rw [hp, List.map_cons]
      dsimp only
      rw [if_pos (by rw [Bool.or_eq_true, hsw]; exact hswitch)]
      have h0 := (Rules.Places.refl hg hr).set_running none
      exact (Places.park_all (qs := (low :: rest).map (fun x => Rules.atHeader c (BitVec.ofNat 64 x) (c.path.lanes.filter (fun l => decide ((at_ l).toNat = x))))) h0 (by
        intro p hp
        obtain ⟨x, hx, rfl⟩ := List.mem_map.mp hp
        exact hne x hx)).1.release.stands_at (by simp) (gHold_releaseG _ _)
    · unfold transferEach
      rw [hp, List.map_cons]
      dsimp only
      rw [if_neg (by rw [Bool.or_eq_true, hsw]; exact hswitch)]
      have h0 := (Rules.Places.refl hg hr).set_running (some (Rules.atHeader c (BitVec.ofNat 64 low) (c.path.lanes.filter (fun l => decide ((at_ l).toNat = low)))))
      exact (Places.park_all (qs := rest.map (fun x => Rules.atHeader c (BitVec.ofNat 64 x) (c.path.lanes.filter (fun l => decide ((at_ l).toNat = x))))) h0 (by
        intro p hp
        obtain ⟨x, hx, rfl⟩ := List.mem_map.mp hp
        exact hne x (List.mem_cons_of_mem _ hx))).1.release.stands_at (by rintro p ⟨⟩; rfl) (gHold_releaseG _ _)

theorem exec_r104 {i : Instr} {a : BitVec 6} {link : Bool} (h : Rules.r104 i = some (a, link)) : (∀ s, exec i s = jumpOp i a link s) ∧ i.cost = 1 := by
  unfold Rules.r104 at h
  split at h
  case h_4 => exact nomatch h
  all_goals
    obtain ⟨rfl, rfl⟩ : _ ∧ _ := by simpa only [Option.some.injEq, Prod.mk.injEq] using h
    exact ⟨fun s => rfl, rfl⟩

/-- Settles O10: `branch_runs` with `transferTo_places` and `branch_traps` for the transfers of R102, `transferEach_places` for those of R104. -/
theorem transfersMove : Obligations.TransfersMove := by
  unfold Obligations.TransfersMove
  refine ⟨fun i disp link test hi => ⟨(exec_r102 hi).2.1, ?_, ?_⟩, fun i a link hi => ⟨(exec_r104 hi).2, ?_, ?_⟩⟩
  · intro s c s' h _ target go stay hok
    obtain ⟨-, hg, hr, -⟩ := gctx_some h.ctx
    have hg' : s'.groups.find c.gk = some c.group := by rw [charge_of_eq h.paid]; exact hg
    exact ⟨_, branch_runs hi h hok, transferTo_places (linked_places hg' link go _) hr h.lanes target (fun l => test (s.thread c.gk l))⟩
  · intro s c h _ target go stay hgo x hx s' hp
    exact branch_traps hi h hgo hx hp
  · intro s c s' h hok
    obtain ⟨-, hg, hr, -⟩ := gctx_some h.ctx
    have hg' : s'.groups.find c.gk = some c.group := by rw [charge_of_eq h.paid]; exact hg
    obtain ⟨low, rest, hs, hm, hst⟩ := transferEach_places (linked_places hg' link c.path.lanes (fun _ th => th.wr2 62#6 (c.path.pos.pc + 4#64))) hr h.lanes
      (fun l => (s.thread c.gk l).rd2 a)
    refine ⟨low, rest, _, ?_, hs, hm, hst⟩
    rw [(exec_r104 hi).1, jumpOp, groupOp_runs h.ctx h.lanes h.cls h.full h.free (fun l hl => targetVerdict_ok (hok l hl)) rfl h.paid]
    simp only [thread_charge h.paid]
    rfl
  · intro s c h x hx
    obtain ⟨h0, h16⟩ := h.inside
    rw [(exec_r104 hi).1, jumpOp, groupOp_checks h.ctx h.cls h.full h.free (fun l hl => targetVerdict_fails (hx l hl))]
    exact ⟨_, rfl, pathTrap_trapped h.ctx h.lanes h0 h16 h.handled _ (fun _ _ => Nat.succ_pos 63)⟩

end Sys2Proof.Machine

/-!
SUPPORT and claims. The switch points, XCONV and EXIT (R23, R27, R36, R104, R350).
-/
namespace Sys2Proof.Machine

/-! ## Counting arrivals leaves the threads and where they stand alone (R134) -/

/-- Of `s` only what counts the arrivals at barriers has changed: the teams, the barriers of wider networks and what is sent to them. -/
def ArrivalsOnly (s t : State) : Prop :=
  t = { s with teams := t.teams, wides := t.wides, nodes := t.nodes, fibres := t.fibres, nextId := t.nextId }

theorem ArrivalsOnly.refl (s : State) : ArrivalsOnly s s := rfl

theorem ArrivalsOnly.trans {s t u : State} (h : ArrivalsOnly s t) (h' : ArrivalsOnly t u) : ArrivalsOnly s u := by
  unfold ArrivalsOnly at *
  rw [h', h]

/-- What each element of a list keeps to, the whole list keeps to. -/
theorem ArrivalsOnly.foldl {α : Type} {f : State → α → State} (hf : ∀ s x, ArrivalsOnly s (f s x)) (l : List α) (s : State) :
    ArrivalsOnly s (l.foldl f s) := by
  induction l generalizing s with
  | nil => exact .refl s
  | cons x l ih => exact (hf s x).trans (ih _)

theorem arrivalsOnly_podCount (s : State) (task : Nat) (pod : BitVec 16) (w : WideBar) : ArrivalsOnly s (podCount s task pod w) := by
  unfold podCount; (repeat' split) <;> rfl

theorem arrivalsOnly_wideArrive (s : State) (t : Team) (b : Barrier) (k : Nat) : ArrivalsOnly s (wideArrive s t b k) := by
  unfold wideArrive
  cases b.net with
  | core => rfl
  | pod => exact arrivalsOnly_podCount s _ _ _
  | quad => rfl
  | die => rfl
  | pkg =>
    dsimp only
    split
    · rfl
    · obtain ⟨ns, h⟩ := sendCausal_frame s (dieOf t.core) (t.task / Config.taskEntries) (.arrive (wideKey t .pkg b.pod k) t.uid)
      rw [h]; rfl

theorem arrivalsOnly_countGroup (s : State) (tk gk gid k : Nat) : ArrivalsOnly s (countGroup s tk gk gid k) := by
  unfold countGroup
  split
  · rfl
  · rename_i t _
    split
    · rfl
    · cases (t.bar k).net <;> rfl

theorem arrivalsOnly_countTeam (s : State) (tk k : Nat) : ArrivalsOnly s (countTeam s tk k) := by
  unfold countTeam
  split
  · rfl
  · dsimp only
    split
    · rfl
    · split
      · rfl
      · exact ArrivalsOnly.trans (t := s.modTeam tk _) rfl (arrivalsOnly_wideArrive _ _ _ _)

theorem arrivalsOnly_countArrivals (s : State) (tk : Nat) : ArrivalsOnly s (countArrivals s tk) :=
  (ArrivalsOnly.foldl (fun s _ => ArrivalsOnly.foldl (fun s _ => arrivalsOnly_countGroup s _ _ _ _) _ s) _ s).trans
    (ArrivalsOnly.foldl (fun s _ => arrivalsOnly_countTeam s _ _) _ _)

section
variable {s t : State} (h : ArrivalsOnly s t)
include h
theorem ArrivalsOnly.groups : t.groups = s.groups := by rw [h]
theorem ArrivalsOnly.threads : t.threads = s.threads := by rw [h]
theorem ArrivalsOnly.cores : t.cores = s.cores := by rw [h]
theorem ArrivalsOnly.opqs : t.opqs = s.opqs := by rw [h]
end

/-! ## The switch points (R23) -/

/-- A switch point that no REP stands before parks the whole path at the next word. -/
theorem goSwitch_places {c : GCtx} {s : State} (hg : s.groups.find c.gk = some c.group) (hr : c.group.running = some c.path) (hl : c.path.lanes ≠ [])
    (hrep : c.path.pos.rep = none) : Rules.StandsAt c none [Rules.onward c c.path.lanes] s (goSwitch c s) := by
  have hn : c.path.pos.next.rep.isSome = false := by
    unfold Pos.next; rw [hrep]; rfl
  unfold goSwitch
  rw [hn, if_neg (by simp), Pos.next_eq_following]
  exact ((Rules.Places.refl hg hr).park_running (p := Rules.onward c c.path.lanes) hl).stands_at (by simp) (gHold_parkRunning _ _ _ _)

/-- A path that goes on to a wait is parked at the next word (R21). -/
theorem goOn_wait_places {c : GCtx} {s : State} (hg : s.groups.find c.gk = some c.group) (hr : c.group.running = some c.path) (hl : c.path.lanes ≠ [])
    {w : PWait} (hw : w ≠ .none) : Rules.StandsAt c none [{ Rules.onward c c.path.lanes with wait := w }] s (goOn c w s) := by
  unfold goOn
  dsimp only
  rw [if_pos hw, Pos.next_eq_following]
  exact ((Rules.Places.refl hg hr).park_running (p := { Rules.onward c c.path.lanes with wait := w }) hl).stands_at (by simp) (gHold_parkRunning _ _ _ _)

/-- The largest of the values is the one that is reached and not passed. -/
theorem foldl_max_eq {α : Type} (f : α → Nat) {l : List α} {m : Nat} (hm : ∃ x ∈ l, f x = m) (hle : ∀ x ∈ l, f x ≤ m) :
    l.foldl (fun n x => Nat.max n (f x)) 0 = m := by
  have key : ∀ (l : List α) (n : Nat), (∀ x ∈ l, f x ≤ m) → n ≤ m → (n = m ∨ ∃ x ∈ l, f x = m) → l.foldl (fun n x => Nat.max n (f x)) n = m := by
    intro l
    induction l with
    | nil =>
      intro n _ _ h
      rcases h with h | ⟨x, hx, -⟩
      · exact h
      · cases hx
    | cons y l ih =>
      intro n hle hn h
      have hy := hle y List.mem_cons_self
      refine ih _ (fun x hx => hle x (List.mem_cons_of_mem _ hx)) (Nat.max_le.mpr ⟨hn, hy⟩) ?_
      rcases h with rfl | ⟨x, hx, hxm⟩
      · exact .inl (Nat.max_eq_left hy)
      · rcases List.mem_cons.mp hx with rfl | hx
        · exact .inl ((Nat.max_eq_right (hxm ▸ hn)).trans hxm)
        · exact .inr ⟨x, hx, hxm⟩
  exact key l 0 hle (Nat.zero_le m) (.inr hm)

/-! ## XCONV (R27) -/

/-- What XCONV comes to, when some path of the group waits at the one at `pc`. -/
theorem convergeAt_eq {s : State} {gk : Nat} {g : Group} {p : Path} {ps : List Path} {pc : DWord} (hg : s.groups.find gk = some g) (hp : g.paths = p :: ps)
    (hm : ∃ q ∈ p :: ps, q.wait = .xconv pc) :
    ((∀ q ∈ p :: ps, q.wait = .xconv pc ∧ ∀ l ∈ q.lanes, (s.thread gk l).trapMode = false) →
        convergeAt s gk = parkPath (s.modGroup gk (fun g => { g with running := none, parked := [] })) gk
          { p with lanes := (p :: ps).flatMap Path.lanes, wait := .none })
      ∧ (¬(∀ q ∈ p :: ps, q.wait = .xconv pc ∧ ∀ l ∈ q.lanes, (s.thread gk l).trapMode = false) → convergeAt s gk = s) := by
  have hall : ∀ pc', (p :: ps).all (fun q => q.wait == .xconv pc' && q.lanes.all (fun l => !(s.thread gk l).trapMode)) = true
      ↔ ∀ q ∈ p :: ps, q.wait = .xconv pc' ∧ ∀ l ∈ q.lanes, (s.thread gk l).trapMode = false := fun pc' => by
    simp only [List.all_eq_true, Bool.and_eq_true, beq_iff_eq, Bool.not_eq_true']
  unfold convergeAt
  rw [hg]
  dsimp only
  rw [hp]
  dsimp only
  refine ⟨fun h => ?_, fun h => ?_⟩
  · rw [(h p List.mem_cons_self).1]
    dsimp only
    rw [if_pos ((hall pc).mpr h)]
  · cases hw : p.wait with
    | xconv pc' =>
      dsimp only
      rw [if_neg]
      intro ha
      have ha := (hall pc').mp ha
      obtain ⟨q, hq, hqw⟩ := hm
      have : pc' = pc := by simpa [hqw] using ((ha q hq).1).symm
      exact h (this ▸ ha)
    | none => rfl
    | barw _ _ => rfl
    | fence _ _ => rfl
    | answers _ _ _ _ => rfl
    | sleep _ => rfl

/-- Converging moves the paths of the group alone, and none of them runs that did not. -/
theorem convergeAt_groups {s : State} {gk : Nat} (core : Nat) :
    PlaceOnly gk core s (convergeAt s gk) ∧ (convergeAt s gk).cores = s.cores
      ∧ ∀ g, s.groups.find gk = some g → g.running = none → ∃ g', (convergeAt s gk).groups.find gk = some g' ∧ g'.running = none ∧ g'.team = g.team ∧ g'.gid = g.gid := by
  have hmoved : ∀ p : Path, let t := parkPath (s.modGroup gk (fun g => { g with running := none, parked := [] })) gk p
      PlaceOnly gk core s t ∧ t.cores = s.cores
        ∧ ∀ g, s.groups.find gk = some g → g.running = none → ∃ g', t.groups.find gk = some g' ∧ g'.running = none ∧ g'.team = g.team ∧ g'.gid = g.gid := by
    intro p
    refine ⟨(placeOnly_modGroup gk core s _).trans (placeOnly_parkPath gk core _ p), ?_, fun g hg _ => ?_⟩
    · unfold parkPath; split <;> rfl
    · unfold parkPath
      split
      · exact ⟨{ g with running := none, parked := [] }, by rw [modGroup_groups, SMap.find_mod, if_pos rfl, hg]; rfl, rfl, rfl, rfl⟩
      · exact ⟨{ g with running := none, parked := [{ p with park := g.parkCtr }], parkCtr := g.parkCtr + 1 },
          by rw [modGroup_groups, SMap.find_mod, if_pos rfl, modGroup_groups, SMap.find_mod, if_pos rfl, hg]; rfl, rfl, rfl, rfl⟩
  have hstays : PlaceOnly gk core s s ∧ s.cores = s.cores
      ∧ ∀ g, s.groups.find gk = some g → g.running = none → ∃ g', s.groups.find gk = some g' ∧ g'.running = none ∧ g'.team = g.team ∧ g'.gid = g.gid :=
    ⟨.refl _ _ _, rfl, fun g hg hr => ⟨g, hg, hr, rfl, rfl⟩⟩
  unfold convergeAt
  split
  · exact hstays
  · split
    · exact hstays
    · split
      · split
        · exact hmoved _
        · exact hstays
      all_goals exact hstays

/-! ## EXIT (R36) -/

theorem SMap.find_filter_keys {β : Type} (m : SMap β) (p : Nat → Bool) (k : Nat) :
    SMap.find (m.filter (fun e => p e.1)) k = if p k then m.find k else none := by
  induction m with
  | nil => simp [SMap.find]
  | cons e m ih =>
    obtain ⟨j, v⟩ := e
    by_cases hk : k = j
    · subst hk
      by_cases hp : p k <;> simp [SMap.find, hp, ih]
    · by_cases hp : p j <;> simp [SMap.find, hp, ih, hk]

/-- What is awaited by threads that exit is no more of them; what they hold and what they have issued stays. -/
theorem flushEach_frame (qs : List Nat) (s : State) : ∃ ops ns, qs.foldl (fun s q => s.flushOps q) s = { s with opqs := ops, nodes := ns } := by
  induction qs generalizing s with
  | nil => exact ⟨_, _, rfl⟩
  | cons q qs ih =>
    obtain ⟨ops, ns, h⟩ := flushOps_frame s q
    obtain ⟨ops', ns', h'⟩ := ih (s.flushOps q)
    exact ⟨ops', ns', by rw [List.foldl_cons, h', h]⟩

/-- That a group has retired shows in its team and in the barriers, not in the groups that are left. -/
theorem noteRetired_slots (s : State) (tk : Nat) :
    (noteRetired s tk).groups = s.groups ∧ (noteRetired s tk).threads = s.threads ∧ (noteRetired s tk).cores = s.cores := by
  unfold noteRetired
  split
  · split <;> exact ⟨rfl, rfl, rfl⟩
  · exact ⟨rfl, rfl, rfl⟩

/-- With the last live thread of a group its slot is free; till then the group stays. -/
theorem retireGroup_groups {s : State} {gk : Nat} {g : Group} (hg : s.groups.find gk = some g) :
    (retireGroup s gk).cores = s.cores
      ∧ (liveLanes s gk = [] → (retireGroup s gk).groups.find gk = none ∧ ∀ l < 64, (retireGroup s gk).thread gk l = Thread.none)
      ∧ (liveLanes s gk ≠ [] → retireGroup s gk = s) := by
  unfold retireGroup
  rw [hg]
  dsimp only
  by_cases hl : liveLanes s gk = []
  · rw [if_pos (by rw [hl]; rfl)]
    generalize hu : ({ s with groups := s.groups.del gk, threads := s.threads.filter (fun e => e.1 / 64 != gk) } : State) = u
    obtain ⟨h1, h2, h3⟩ := noteRetired_slots (countArrivals (u.modTeam g.team (fun t => t.partyEnd g.gid)) g.team) g.team
    have ha := arrivalsOnly_countArrivals (u.modTeam g.team (fun t => t.partyEnd g.gid)) g.team
    refine ⟨by rw [h3, ha.cores, ← hu]; rfl, fun _ => ⟨?_, fun l hl64 => ?_⟩, fun h => absurd hl h⟩
    · rw [h1, ha.groups, ← hu]
      show (s.groups.del gk).find gk = none
      rw [SMap.find_del, if_pos rfl]
    · unfold State.thread SMap.get
      rw [h2, ha.threads, ← hu]
      show (SMap.find (s.threads.filter (fun e => e.1 / 64 != gk)) (tkey gk l)).getD Thread.none = Thread.none
      rw [SMap.find_filter_keys s.threads (fun k => k / 64 != gk), if_neg]
      · rfl
      · unfold tkey
        have : (gk * 64 + l) / 64 = gk := by omega
        simp [this]
  · rw [if_neg (by simpa using hl)]
    exact ⟨rfl, fun h => absurd h hl, fun _ => rfl⟩

/-- The threads that exit are live no more; the group stays, with no path that runs, as long as another is. -/
theorem exitLanes_spec {s : State} {gk : Nat} {g : Group} (hg : s.groups.find gk = some g) (hr : g.running = none) (lanes : List Nat) :
    (exitLanes s gk lanes).cores = s.cores
      ∧ (∀ l ∈ lanes, l < 64 → ((exitLanes s gk lanes).thread gk l).live = false)
      ∧ ((∀ l < 64, (s.thread gk l).live = true → l ∈ lanes) → (exitLanes s gk lanes).groups.find gk = none)
      ∧ ((∃ l < 64, (s.thread gk l).live = true ∧ l ∉ lanes) → ∃ g', (exitLanes s gk lanes).groups.find gk = some g' ∧ g'.running = none) := by
  have key : ∃ u g', u.groups.find gk = some g' ∧ g'.running = none ∧ u.cores = s.cores
      ∧ u.threads = (s.onLanes gk lanes (fun _ th => { th with live := false, pend := [], qpend := [] })).threads ∧ exitLanes s gk lanes = retireGroup u gk := by
    unfold exitLanes
    rw [hg]
    dsimp only
    generalize hw : s.onLanes gk lanes (fun _ th => { th with live := false, pend := [], qpend := [] }) = w
    have hwg : w.groups = s.groups ∧ w.cores = s.cores := by rw [← hw]; exact ⟨rfl, rfl⟩
    obtain ⟨ops, ns, hf⟩ := flushEach_frame (lanes.map (fun l => (s.thread gk l).ops))
      { w with opqs := w.opqs.map (fun (e : Nat × OpQ) =>
          if (lanes.map (fun l => (s.thread gk l).ops)).contains e.1 then (e.1, { e.2 with ops := e.2.ops.filter (fun o => !o.kind.isLoad) }) else e) }
    rw [hf]
    generalize hv : ({ w with opqs := ops, nodes := ns } : State) = v
    have hvs : v.groups = w.groups ∧ v.cores = w.cores ∧ v.threads = w.threads := by rw [← hv]; exact ⟨rfl, rfl, rfl⟩
    obtain ⟨hvg, hvc, hvt⟩ := hvs
    obtain ⟨hpl, hco, hgr⟩ := convergeAt_groups (gk := gk) 0 (s := v)
    obtain ⟨g', hg', hr', -, -⟩ := hgr g (by rw [hvg, hwg.1]; exact hg) hr
    have ha := arrivalsOnly_countArrivals (convergeAt v gk) g.team
    exact ⟨_, g', by rw [ha.groups]; exact hg', hr', by rw [ha.cores, hco, hvc, hwg.2], by rw [ha.threads, hpl.threads, hvt], by rw [← hv]⟩
  obtain ⟨u, g', hg', hr', hcores, hthreads, he⟩ := key
  have hout : ∀ l, l ∉ lanes → u.thread gk l = s.thread gk l := fun l hl => by
    have h := thread_onLanes_other (s := s) (gk := gk) (f := fun _ th => { th with live := false, pend := [], qpend := [] }) hl
    unfold State.thread at h ⊢
    rw [hthreads]; exact h
  have hin : ∀ l ∈ lanes, l < 64 → (u.thread gk l).live = false := fun l hl hl64 => by
    unfold State.thread SMap.get
    rw [hthreads, find_onLanes, tkey, if_pos ⟨by omega, by rwa [show (gk * 64 + l) % 64 = l by omega]⟩]
    cases s.threads.find (gk * 64 + l) <;> rfl
  obtain ⟨hc, hnone, hsome⟩ := retireGroup_groups hg'
  have hlive : ∀ l, l ∈ liveLanes u gk ↔ l < 64 ∧ (s.thread gk l).live = true ∧ l ∉ lanes := fun l => by
    unfold liveLanes
    rw [List.mem_filter, List.mem_range]
    refine and_congr_right fun hl64 => ?_
    by_cases hl : l ∈ lanes
    · simp [hl, hin l hl hl64]
    · simp [hl, hout l hl]
  rw [he]
  refine ⟨hc.trans hcores, fun l hl hl64 => ?_, fun hall => (hnone ?_).1, fun ⟨l, hl64, hlv, hl⟩ => ?_⟩
  · by_cases h : liveLanes u gk = []
    · rw [(hnone h).2 l hl64]; rfl
    · rw [hsome h]; exact hin l hl hl64
  · refine List.eq_nil_iff_forall_not_mem.mpr fun l hl => ?_
    obtain ⟨hl64, hlv, hm⟩ := (hlive l).mp hl
    exact hm (hall l hl64 hlv)
  · rw [hsome (List.ne_nil_of_mem ((hlive l).mpr ⟨hl64, hlv, hl⟩))]
    exact ⟨g', hg', hr'⟩

/-- Settles O12: `goSwitch_places` and `goOn_wait_places` for the switch points, `exitLanes_spec` for EXIT, `convergeAt_eq` for XCONV. -/
theorem switchPointsAndJoins : Obligations.SwitchPointsAndJoins := by
  unfold Obligations.SwitchPointsAndJoins
  have hgroup : ∀ {i s c s'}, PathReady i s c s' → s'.groups.find c.gk = some c.group ∧ c.group.running = some c.path := fun h => by
    obtain ⟨-, hg, hr, -⟩ := gctx_some h.ctx
    exact ⟨by rw [charge_of_eq h.paid]; exact hg, hr⟩
  refine ⟨⟨fun s c s' h hrep => ?_, fun a x s c s' h hrep m hm hle => ?_, fun s c s' h => ?_⟩, ?_⟩
  · obtain ⟨hg, hr⟩ := hgroup h
    exact ⟨goSwitch c s', groupOp_runs h.ctx h.lanes h.cls h.full h.free (fun _ _ => rfl) rfl h.paid, goSwitch_places hg hr h.lanes hrep⟩
  · obtain ⟨hg, hr⟩ := hgroup h
    have hmax : c.path.lanes.foldl (fun m l => Nat.max m ((s'.thread c.gk l).rd a).toNat) 0 = m := by
      simp only [thread_charge h.paid]
      exact foldl_max_eq (fun l => ((s.thread c.gk l).rd a).toNat) hm hle
    have ht : s'.time = s.time := by rw [charge_of_eq h.paid]
    refine ⟨goOn c (.sleep (s.time.toNat + m)) s', ?_, goOn_wait_places hg hr h.lanes (by simp)⟩
    rw [show exec (.sleep a x) s = execSleep a x s from rfl, execSleep, groupOp_runs h.ctx h.lanes h.cls h.full h.free (fun _ _ => rfl) rfl h.paid, hmax, ht]
  · obtain ⟨hg, hr⟩ := hgroup h
    have hb : (releaseG (setRunning s' c.gk none) c.core).groups.find c.gk = some { c.group with running := none } := by
      show (s'.groups.mod c.gk _).find c.gk = _
      rw [SMap.find_mod, if_pos rfl, hg]; rfl
    have hth : ∀ l, (releaseG (setRunning s' c.gk none) c.core).thread c.gk l = s.thread c.gk l := fun l => thread_charge h.paid c.gk l
    obtain ⟨hc, hd, hn, hs⟩ := exitLanes_spec hb rfl c.path.lanes
    simp only [hth] at hn hs
    refine ⟨exitLanes (releaseG (setRunning s' c.gk none) c.core) c.gk c.path.lanes,
      groupOp_runs h.ctx h.lanes h.cls h.full h.free (fun _ _ => rfl) rfl h.paid, hd, ?_, hn, hs⟩
    unfold State.core
    rw [hc]
    exact gHold_releaseG _ _
  · intro s c s' h hrep mine all
    obtain ⟨hg, hr⟩ := hgroup h
    obtain ⟨⟨hpl, hfind⟩, hhold⟩ := goOn_wait_places (w := .xconv c.path.pos.pc) hg hr h.lanes (by simp)
    have hrun : exec .xconv s = .next (convergeAt (goOn c (.xconv c.path.pos.pc) s') c.gk) :=
      groupOp_runs h.ctx h.lanes h.cls h.full h.free (fun _ _ => rfl) rfl h.paid
    have hth : ∀ l, (goOn c (.xconv c.path.pos.pc) s').thread c.gk l = s.thread c.gk l := fun l => (hpl.thread _ _).trans (thread_charge h.paid c.gk l)
    generalize goOn c (.xconv c.path.pos.pc) s' = u at hpl hfind hhold hrun hth
    obtain ⟨hpl', hcores, -⟩ := convergeAt_groups (s := u) (gk := c.gk) c.core
    obtain ⟨p, ps, hps⟩ := List.exists_cons_of_ne_nil (l := c.group.parked ++ [{ mine with park := c.group.parkCtr }]) (by simp)
    obtain ⟨hconv, hstay⟩ := convergeAt_eq (pc := c.path.pos.pc) hfind hps ⟨{ mine with park := c.group.parkCtr }, by rw [← hps]; simp, rfl⟩
    have hall : (∀ q ∈ p :: ps, q.wait = .xconv c.path.pos.pc ∧ ∀ l ∈ q.lanes, (u.thread c.gk l).trapMode = false) ↔ all := by
      simp only [← hps, hth, List.mem_append, List.mem_cons, List.not_mem_nil, or_false, all]
      constructor
      · refine fun hq => ⟨fun q hm => (hq q (.inl hm)).1, fun q hm => ?_⟩
        rcases hm with rfl | hm
        · exact (hq _ (.inr rfl)).2
        · exact (hq q (.inl hm)).2
      · rintro ⟨hw, ht⟩ q (hm | rfl)
        · exact ⟨hw q hm, ht q (.inr hm)⟩
        · exact ⟨rfl, ht c.path (.inl rfl)⟩
    rw [hall] at hconv hstay
    refine ⟨convergeAt u c.gk, hrun, hpl.trans hpl', ?_, fun hn => ?_, fun ha => ?_⟩
    · unfold State.core at hhold ⊢
      rw [hcores]; exact hhold
    · rw [hstay hn]; exact hfind
    · rw [hconv ha]
      have hne : (p :: ps).flatMap Path.lanes ≠ [] := by
        obtain ⟨l, hl⟩ := List.exists_mem_of_ne_nil _ h.lanes
        exact List.ne_nil_of_mem (List.mem_flatMap.mpr ⟨{ mine with park := c.group.parkCtr }, by rw [← hps]; simp, hl⟩)
      refine ⟨{ c.group with running := none, parked := [{ p with lanes := (p :: ps).flatMap Path.lanes, wait := .none, park := c.group.parkCtr + 1 }],
                             parkCtr := c.group.parkCtr + 2 }, _, ?_, rfl, rfl, rfl, fun l => ?_⟩
      · unfold parkPath
        rw [if_neg (by simpa using hne), modGroup_groups, SMap.find_mod, if_pos rfl, modGroup_groups, SMap.find_mod, if_pos rfl, hfind]
        rfl
      · rw [List.mem_flatMap, ← hps]
        simp only [List.mem_append, List.mem_cons, List.not_mem_nil, or_false]
        constructor
        · rintro ⟨q, hm | rfl, hl⟩
          · exact ⟨q, .inr hm, hl⟩
          · exact ⟨c.path, .inl rfl, hl⟩
        · rintro ⟨q, rfl | hm, hl⟩
          · exact ⟨_, .inr rfl, hl⟩
          · exact ⟨q, .inl hm, hl⟩

end Sys2Proof.Machine

/-!
SUPPORT and claims. RFT (R347).
-/
namespace Sys2Proof.Machine

/-- RFT and CSRR read t0 as R343 lays it out. -/
theorem t0Remain_eq (t0 : Word) : t0Remain t0 = t0.toNat / 2 ^ 21 % 16 := toNat_field t0 21 4

theorem t0Cls_eq {t0 : Word} {k : Cls} (h : k.code.toNat = t0.toNat / 2 ^ 25 % 8) : t0Cls t0 = some k := by
  unfold t0Cls
  rw [ofCode_eq_some, BitVec.toNat_eq, toNat_field]
  exact h.symm

/-- Where the trap registers send a thread (R347), in the words of the statement. -/
theorem resumeAt_eq {th : Thread} {t0 : Word} {pc : DWord} {k : Cls} (h0 : th.t.get 0 0#32 = t0) (hpc : th.t.get 3 0#32 ++ th.t.get 2 0#32 = pc)
    (hk : k.code.toNat = t0.toNat / 2 ^ 25 % 8) :
    th.resumeAt = if t0.toNat / 2 ^ 21 % 16 = 0 then { pc := pc, remain := 0, cls := .int, y := false, rep := none, repFrom := none }
      else { pc := pc, remain := t0.toNat / 2 ^ 21 % 16, cls := k, y := t0.getLsbD 29, rep := none,
             repFrom := if t0.getLsbD 20 then some (t0.toNat / 2 ^ 14 % 64) else none } := by
  unfold Thread.resumeAt
  simp only [h0, hpc, t0Remain_eq, t0Cls_eq hk, Option.getD_some, toNat_field]
  generalize t0.toNat / 2 ^ 21 % 16 = r
  by_cases hr : r = 0
  · subst hr; simp
  · simp [hr]

/-- The check of RFT, of a thread in trap mode whose t0 is well formed (R347). -/
theorem rftCheck_eq {s : State} {c : GCtx} {l : Nat} {t0 : Word} {k : Cls} (hm : (s.thread c.gk l).trapMode = true)
    (h0 : (s.thread c.gk l).t.get 0 0#32 = t0) (hz : t0.toNat / 2 ^ 30 = 0) (hk : k.code.toNat = t0.toNat / 2 ^ 25 % 8) (hl : k ≠ .lead) :
    rftCheck s c l =
      if !canonical (s.thread c.gk l).resumeAt.pc || (s.thread c.gk l).resumeAt.pc.toNat % 4 ≠ 0 then .of .branchTarget
      else if (s.thread c.gk l).resumeAt.remain = 0 then targetVerdict s c (s.thread c.gk l).resumeAt.pc
      else .ok := by
  have hg : k.group = true := by
    cases k with
    | lead => exact absurd rfl hl
    | int => rfl
    | flt => rfl
    | mem => rfl
    | sa => rfl
    | sys => rfl
  have hf : t0.extractLsb' 30 2 = 0#2 := by
    rw [BitVec.toNat_eq, toNat_field, hz]; rfl
  unfold rftCheck
  simp only [hm, h0, hf, t0Cls_eq hk, hg, ne_eq, not_true_eq_false, decide_false, Bool.not_true, Bool.or_false, Bool.false_eq_true, if_false]

/-- Threads that all resume at one place are one part. -/
theorem partsAt_one {s : State} {gk n : Nat} {lanes : List Nat} {p : Pos} (hl : lanes ≠ []) (h : ∀ l ∈ lanes, (s.thread gk l).resumeAt = p) :
    partsAt s gk (n + 1) lanes = [(p, lanes)] := by
  obtain ⟨l, ls, rfl⟩ := List.exists_cons_of_ne_nil hl
  have hp := h l List.mem_cons_self
  have hs : (l :: ls).filter (fun k => (s.thread gk k).resumeAt == p) = l :: ls := List.filter_eq_self.mpr fun k hk => by simp [h k hk]
  have hn : (l :: ls).filter (fun k => (s.thread gk k).resumeAt != p) = [] := List.filter_eq_nil_iff.mpr fun k hk => by simp [h k hk]
  have hnil : ∀ n, partsAt s gk n [] = [] := fun n => by cases n <;> rfl
  rw [partsAt]
  rw [hp, hs, hn, hnil]

/-- Settles O16: `rftCheck_eq` says what is checked, `resumeAt_eq` and `partsAt_one` where the threads go on. -/
theorem returnFromTrap : Obligations.ReturnFromTrap := by
  unfold Obligations.ReturnFromTrap
  refine ⟨rfl, ?_, ?_⟩
  · intro s c s' h t0 pc k hth hz hk hlead h4 hcan remain hok at_ p
    obtain ⟨-, hg, hr, -⟩ := gctx_some h.ctx
    have hg' : s'.groups.find c.gk = some c.group := by rw [charge_of_eq h.paid]; exact hg
    have hat : ∀ l ∈ c.path.lanes, (s.thread c.gk l).resumeAt = at_ := fun l hl => resumeAt_eq (hth l hl).2.1 (hth l hl).2.2 hk
    have hapc : at_.pc = pc := by
      show (if remain = 0 then _ else _ : Pos).pc = pc
      split <;> rfl
    have harem : at_.remain = remain := by
      show (if remain = 0 then _ else _ : Pos).remain = remain
      split
      · rename_i h0; exact h0.symm
      · rfl
    have hv : ∀ l ∈ c.path.lanes, rftCheck s c l = .ok := fun l hl => by
      rw [rftCheck_eq (hth l hl).1 (hth l hl).2.1 hz hk hlead, hat l hl, hapc, harem, if_neg (by simp [hcan, h4])]
      split
      · rename_i h0; exact targetVerdict_ok (hok h0)
      · rfl
    have hparts : partsAt s' c.gk 64 c.path.lanes = [(at_, c.path.lanes)] :=
      partsAt_one h.lanes fun l hl => by rw [thread_charge h.paid]; exact hat l hl
    have hpl : ∀ u : State, u.groups.find c.gk = some c.group → Rules.Places c (if c.path.pos.y then none else some p) (if c.path.pos.y then [p] else []) u
        (releaseG (if c.path.pos.y then parkPath (setRunning u c.gk none) c.gk p else setRunning u c.gk (some p)) c.core) := fun u hu => by
      have h0 := Rules.Places.refl hu hr
      split
      · exact ((h0.set_running none).park_path (p := p) h.lanes).release
      · exact (h0.set_running (some p)).release
    refine ⟨_, s'.onLanes c.gk c.path.lanes (fun _ th => th.rft), ?_, gHold_releaseG _ _, hpl _ hg', ranEach_of_ran (PlaceOnly.refl _ _ _) fun l hl => ?_⟩
    · rw [show exec .rft s = execRft s from rfl, execRft, groupOp_runs h.ctx h.lanes h.cls h.full h.free hv rfl h.paid, hparts]
      rfl
    · rw [Thread.rft, thread_charge h.paid, (hth l hl).2.1, t0Remain_eq]
  · intro s c hc hl hcls h0 h16 t0 pc k x hth hz hk hlead hx
    have hcheck : ∀ l ∈ c.path.lanes, rftCheck s c l = .trap { cause := x.1, code := 0, addr := x.2 } := fun l hm => by
      have hpc : (s.thread c.gk l).resumeAt.pc = pc := (hth l hm).2.2
      have hrem : (s.thread c.gk l).resumeAt.remain = t0.toNat / 2 ^ 21 % 16 := by
        show t0Remain ((s.thread c.gk l).t.get 0 0#32) = _
        rw [(hth l hm).2.1, t0Remain_eq]
      rw [rftCheck_eq (hth l hm).1 (hth l hm).2.1 hz hk hlead, hpc, hrem]
      rcases hx with ⟨hbad, rfl⟩ | ⟨hr, hf⟩
      · rw [if_pos (by rcases hbad with h | h <;> simp [h])]
        rfl
      · rw [if_pos hr]
        split
        · rename_i hbad
          have hc' := canonical_iff pc
          unfold Rules.targetFails at hf
          rw [if_pos] at hf
          · obtain rfl := Option.some.inj hf; rfl
          · rw [Bool.or_eq_true, Bool.not_eq_true', decide_eq_true_eq] at hbad
            rcases hbad with hcan | h4
            · have := mt hc'.mpr (by simp [hcan])
              omega
            · exact .inr (.inr h4)
        · exact targetVerdict_fails hf
    obtain ⟨u, l, -, hu, hsys⟩ := pathTrap_unhandled hc hl h0 h16 (fun l hm => .inr (hth l hm).1) (wordOf .rft)
      (info := fun _ => { cause := x.1, code := 0, addr := x.2 }) (fun _ _ => Nat.succ_pos 63)
    exact ⟨_, u, groupOp_checks hc hcls (fun _ _ => rfl) (fun _ _ => rfl) hcheck, hu, hsys⟩

end Sys2Proof.Machine

/-!
Claims. O27 and O35 fail: they do not ask that the accesses of a queue have numbers of their own.
-/
namespace Sys2Proof.Machine

/-! ## A lead that ends while an answer comes too late (R32, R35, R281) -/

/-- A thread that awaits entry 0 of its team's decision queue, which has not been made. -/
def lateThread : Thread := { Thread.none with live := true, qpend := [(4, 0#16)], ops := 7 }
/-- Its queue: a load whose answer is older than what the queue has delivered (R281), and an entry that has come, both under the number 5. -/
def lateQueue : OpQ :=
  { who := .thread 1 0 0, task := 3, node := 0, m := [(0, 5#16)],
    ops := [{ id := 5, loc := { kind := 0, pa := 0, pub := 0 }, n := 4, kind := .load (.size .w) [8], sent := true, got := some ([(0, 4#16)], [0#8, 0#8, 0#8, 0#8]) },
            { id := 5, loc := { kind := 0, pa := 0, pub := 0 }, n := 0, kind := .edge true none, sent := true, got := some ([], []) }] }
/-- Its team, whose lead stands at LEND. -/
def lateTeam : Team :=
  { uid := 1, task := 3, index := 0, core := 0, slots := [0], ngroups := 1, regs := 64, regg := 1, spadg := 0, accg := 0, quadg := 0,
    lead := { s := [], empty := [], p := 0#8, waitb := 0#16, pc := 0#64, remain := 1, ended := false, stopped := false, halted := false, wait := .none,
              cmd := 0#32, pend := [], ops := 9 },
    spad := [], absent := [], acc := [], bars := [], dq := [], dqFirst := 0#16, qsent := 0#16, producer := true, tab0 := [], tab1 := [], gen := false, mats := [],
    array := none, tloads := [], heldSa := [], thalt := false, faults := [], swap := none, faultSeqs := [], since := 0 }
/-- Its task, which runs. -/
def lateTask : Task :=
  { gen := 0#16, state := .running, pool := 10, parent := none, children := [], desc := [], place := 0#64, queue := 0, ticket := 0, admitted := 0, ready := true,
    placed := 1, retired := 0, teams := 1, inst := none, late := false, drop := false, dropb := 0#32, cause := 0, remainder := 0, starvedAt := none, space := 0,
    priv := false, know := [], codeid := 0 }
/-- The state in which the lead ends. -/
def lateState : State :=
  { State.reset with
    cur := .lead 0, threads := [(0, lateThread)], groups := [(0, { team := 0, gid := 0, running := none, parked := [], parkCtr := 0, halted := false })],
    teams := [(0, lateTeam)], leases := [(leaseKey 0 3, { bal := 10, req := none, paid := [] })], tasks := [(3, lateTask)], opqs := [(7, lateQueue)] }
/-- The lead as it executes. -/
def lateCtx : LCtx := { tk := 0, core := 0, team := lateTeam, task := lateTask }

theorem lctx_late : lctx lateState = some lateCtx := rfl
theorem charge_late : (charge lateState 0 3 lateCtx.payer 1 0).1 = true := by decide

/-- The accesses of a queue that await an entry. -/
def awaiting (o : Out) (q : Nat) : Nat :=
  match o with
  | .next t => ((opsOf t q).filter MemOp.awaitsEntry).length
  | .fault _ => 0
  | .refused _ => 0

theorem awaiting_late : awaiting (exec .lend lateState) 7 = 1 := by decide +kernel

/-- What the only thread and the only queue of the state are. -/
theorem find_late {key : Nat} {th : Thread} (h : lateState.threads.find key = some th) : key = 0 ∧ th = lateThread := by
  change (if key = 0 then some lateThread else none) = some th at h
  split at h
  · rename_i hk
    exact ⟨hk, (Option.some.inj h).symm⟩
  · cases h

/-- Refutes O27: no hypothesis gives the accesses of a thread's queue numbers of their own. In `lateState` the late answer of a load is asked for once more (R281) when the lead's
LEND closes the thread's pair, and the entry under the same number, which had come, is awaited again: the queue awaits an entry although the thread awaits none. -/
theorem not_leadScalarsAndTransfers : ¬ Obligations.LeadScalarsAndTransfers := by
  unfold Obligations.LeadScalarsAndTransfers
  rintro ⟨-, -, -, hlend⟩
  have hready : LeadReady .lend 1 0 lateState lateCtx (charge lateState 0 3 lateCtx.payer 1 0).2 :=
    { ctx := lctx_late, free := by decide, srcs := by decide, dsts := by decide, paid := Prod.ext charge_late rfl }
  have hatom : Rules.noAtomic lateState 0 lateTeam := by
    intro key th oq _ hth hoq
    obtain ⟨-, rfl⟩ := find_late hth
    obtain rfl : lateQueue = oq := Option.some.inj hoq
    refine ⟨⟨1, 0, 0, rfl⟩, fun o ho => ?_⟩
    rcases List.mem_cons.mp ho with rfl | ho
    · exact fun _ _ _ _ => nofun
    · obtain rfl := List.mem_singleton.mp ho
      exact fun _ _ _ _ => nofun
  have hnone : Rules.awaitsNone lateState 0 lateTeam 0 :=
    ⟨⟨_, List.mem_cons_self, rfl, rfl⟩, lateThread, rfl, (4, 0#16), List.mem_cons_self, by decide⟩
  obtain ⟨t, ht, bars, pend, -, -, -, -, -, -, hclosed, -⟩ := hlend lateState lateCtx _ hready hatom
  have hle : ((opsOf t 7).filter MemOp.awaitsEntry).length ≤ 0 := (hclosed 0 lateThread hnone rfl).2
  have h1 := awaiting_late
  rw [ht] at h1
  exact absurd (h1.symm.trans_le hle) (by decide)

/-! ## A pair that fills while two entries are awaited under one number (R114, R281) -/

/-- A queue of a thread that awaits two entries, both under the number 5. -/
def twinQueue : OpQ :=
  { who := .thread 1 0 0, task := 3, node := 0, m := [], ops := List.replicate 2
      { id := 5, loc := { kind := 0, pa := 0, pub := 0 }, n := 0, kind := .edge true none, sent := true, got := none } }
/-- The team with an entry made. -/
def twinTeam : Team := { lateTeam with dq := [9#64], qsent := 1#16 }
/-- The thread awaits that entry and the next. -/
def twinThread : Thread := { lateThread with qrd := 2#16, qpend := [(4, 0#16), (6, 1#16)] }
def twinState : State := { lateState with threads := [(0, twinThread)], teams := [(0, twinTeam)], opqs := [(7, twinQueue)] }

theorem awaiting_twin : awaiting (exec (.queueEntryFill 0) twinState) 7 = 0 := by decide +kernel
theorem awaiting_twin_before : awaiting (.next twinState) 7 = 2 := by decide

/-- Refutes O35: no hypothesis gives the accesses of a thread's queue numbers of their own. In `twinState` the entry that fills the pair leaves the queue by its number (R281), and the
entry that the thread awaits next leaves it with it. -/
theorem not_waitsEnd : ¬ Obligations.WaitsEnd := by
  unfold Obligations.WaitsEnd
  rintro ⟨-, -, -, -, -, -, hfill, -⟩
  obtain ⟨t, j, pend, ht, -, -, -, hcount, -⟩ := hfill twinState 0 { team := 0, gid := 0, running := none, parked := [], parkCtr := 0, halted := false } twinTeam
    twinThread [(6, 1#16)] 4 0#16 9#64 rfl rfl rfl rfl rfl (by decide) (by
      intro oq hoq
      obtain rfl : twinQueue = oq := Option.some.inj hoq
      refine ⟨⟨1, 0, 0, rfl⟩, fun o ho => ?_⟩
      obtain rfl := List.eq_of_mem_replicate ho
      exact ⟨fun _ _ _ _ => nofun, fun _ _ => nofun⟩)
  have h0 := awaiting_twin
  rw [ht] at h0
  have h2 := awaiting_twin_before
  have hone : awaiting (.next t) 7 = awaiting (.next twinState) 7 - 1 := hcount
  rw [h0, h2] at hone
  exact absurd hone (by decide)

end Sys2Proof.Machine

/-!
SUPPORT and claims. What awaits in a party's queue (R253, R281), and QGET (R114).
-/
namespace Sys2Proof.Machine

/-! ## The queues of accesses -/

theorem opsOf_flushOps_other {s : State} {q j : Nat} (h : j ≠ q) : opsOf (s.flushOps q) j = opsOf s j := by
  unfold State.flushOps
  split
  · rfl
  · rename_i oq _
    obtain ⟨ns, hn⟩ := sendOps_frame s q oq.node [] oq.ops
    unfold opsOf
    dsimp only
    rw [hn, SMap.find_put, if_neg h]

/-- What is put into a queue stands at its end, and the other queues are as they were. -/
theorem opsOf_addOp (s : State) (q : Nat) (who : Who) (task node : Nat) (o : MemOp) (j : Nat) :
    (opsOf (s.addOp q who task node o) j).map MemOp.unsent = (opsOf s j).map MemOp.unsent ++ if j = q then [o.unsent] else [] := by
  unfold State.addOp
  by_cases h : j = q
  · subst h
    dsimp only
    rw [opsOf_flushOps, if_pos rfl]
    simp only [opsOf, SMap.find_put, if_true, List.map_append, List.map_cons, List.map_nil, SMap.get]
    cases s.opqs.find j <;> rfl
  · dsimp only
    rw [opsOf_flushOps_other h, if_neg h, List.append_nil]
    simp only [opsOf, SMap.find_put, if_neg h]

/-- A queue awaits an entry of the decision queue, that nothing has gone past. -/
def AwaitsEntry (s : State) (q : Nat) : Prop := ∃ o ∈ opsOf s q, o.kind = .edge true none ∧ o.got = none

theorem awaitsEntry_iff (s : State) (q : Nat) : AwaitsEntry s q ↔ ∃ o ∈ (opsOf s q).map MemOp.unsent, o.kind = .edge true none ∧ o.got = none := by
  simp [AwaitsEntry, MemOp.unsent]

theorem AwaitsEntry.addOp {s : State} {j : Nat} (h : AwaitsEntry s j) (q : Nat) (who : Who) (task node : Nat) (o : MemOp) :
    AwaitsEntry (s.addOp q who task node o) j := by
  rw [awaitsEntry_iff] at h ⊢
  obtain ⟨o', ho', he⟩ := h
  exact ⟨o', by rw [opsOf_addOp]; exact List.mem_append_left _ ho', he⟩

theorem awaitsEntry_addEdge (s : State) (q : Nat) (who : Who) (task node id : Nat) : AwaitsEntry (s.addEdge q who task node id true) q := by
  rw [awaitsEntry_iff, State.addEdge, opsOf_addOp, if_pos rfl]
  exact ⟨_, List.mem_append_right _ List.mem_cons_self, rfl, rfl⟩

/-! ## QGET (R114) -/

theorem unmade_iff (t : Team) (n : BitVec 16) : t.unmade n = true ↔ t.dq.length ≤ (n - t.dqFirst).toNat := by simp [Team.unmade]

/-- Of `s` only the queues of accesses, what nodes have sent and the numbers given out have changed. -/
def QueuesOnly (s t : State) : Prop := t = { s with opqs := t.opqs, nodes := t.nodes, nextId := t.nextId }

theorem QueuesOnly.trans {s t u : State} (h : QueuesOnly s t) (h' : QueuesOnly t u) : QueuesOnly s u := by
  unfold QueuesOnly at *
  rw [h', h]

theorem QueuesOnly.thread {s t : State} (h : QueuesOnly s t) (gk l : Nat) : t.thread gk l = s.thread gk l := by rw [h]; rfl

/-- A thread that awaits its next entry awaits it in its queue. -/
theorem qgetEdge_spec (c : GCtx) (l : Nat) (s : State) :
    QueuesOnly s (qgetEdge c l s) ∧ (∀ j, AwaitsEntry s j → AwaitsEntry (qgetEdge c l s) j)
      ∧ ((!c.team.producer && c.team.unmade (s.thread c.gk l).qrd) = false → AwaitsEntry (qgetEdge c l s) (s.thread c.gk l).ops) := by
  unfold qgetEdge
  dsimp only
  split
  · rename_i hn
    exact ⟨rfl, fun _ h => h, fun h => by rw [hn] at h; cases h⟩
  · refine ⟨?_, fun j h => ?_, fun _ => awaitsEntry_addEdge _ _ _ _ _ _⟩
    · unfold State.addEdge
      obtain ⟨qs, ns, h⟩ := addOp_frame { s with nextId := s.nextId + 1 } (s.thread c.gk l).ops (.thread c.team.uid c.group.gid l) c.team.task (dieOf c.core)
        { id := s.nextId, loc := { kind := 0, pa := 0, pub := 0 }, n := 0, kind := .edge true none, sent := true, got := none }
      rw [h]; rfl
    · exact AwaitsEntry.addOp (s := { s with nextId := s.nextId + 1 }) h _ _ _ _ _

theorem qgetEdges_spec (c : GCtx) (lanes : List Nat) (s : State) :
    QueuesOnly s (lanes.foldl (fun s l => qgetEdge c l s) s) ∧ (∀ j, AwaitsEntry s j → AwaitsEntry (lanes.foldl (fun s l => qgetEdge c l s) s) j)
      ∧ ∀ l ∈ lanes, (!c.team.producer && c.team.unmade (s.thread c.gk l).qrd) = false →
        AwaitsEntry (lanes.foldl (fun s l => qgetEdge c l s) s) (s.thread c.gk l).ops := by
  induction lanes generalizing s with
  | nil => exact ⟨rfl, fun _ h => h, fun l hl => nomatch hl⟩
  | cons k ks ih =>
    obtain ⟨h1, h2, h3⟩ := qgetEdge_spec c k s
    obtain ⟨i1, i2, i3⟩ := ih (qgetEdge c k s)
    refine ⟨h1.trans i1, fun j h => i2 j (h2 j h), fun l hl hn => ?_⟩
    rcases List.mem_cons.mp hl with rfl | hl
    · exact i2 _ (h3 hn)
    · have := i3 l hl
      rw [h1.thread] at this
      exact this hn

/-- What QGET does in a thread (R35, R114). -/
theorem qgetThread_eq (t : Team) (d : BitVec 6) (th : Thread) :
    qgetThread t d th =
      if t.producer = false ∧ t.dq.length ≤ (th.qrd - t.dqFirst).toNat then
        { th with empty := Rules.notFull (th.ix d + 1) (.closed .qClosed 0#32) (Rules.notFull (th.ix d) (.closed .qClosed 0#32) th.empty), qrd := th.qrd + 1#16 }
      else
        { th with
          empty := Rules.notFull (th.ix d + 1) .pending (Rules.notFull (th.ix d) .pending th.empty), qrd := th.qrd + 1#16,
          qpend := th.qpend ++ [(th.ix d, th.qrd)] } := by
  unfold qgetThread
  dsimp only
  simp only [Bool.and_eq_true, Bool.not_eq_true', unmade_iff]
  split
  · unfold Thread.close Rules.notFull
    split <;> split <;> rfl
  · unfold Thread.markEmpty Rules.notFull
    split <;> split <;> rfl

/-- Settles O14: `qgetEdges_spec` for what the threads await, `qgetThread_eq` for what becomes of them. -/
theorem queueGet : Obligations.QueueGet := by
  unfold Obligations.QueueGet
  refine fun d => ⟨rfl, ?_⟩
  intro s c s' h never
  obtain ⟨-, hg, hr, -⟩ := gctx_some h.ctx
  obtain ⟨hq, -, haw⟩ := qgetEdges_spec c c.path.lanes s'
  have hrun : exec (.qget d) s = .next (goOn c .none ((c.path.lanes.foldl (fun s l => qgetEdge c l s) s').onLanes c.gk c.path.lanes (fun _ th => qgetThread c.team d th))) :=
    groupOp_runs h.ctx h.lanes h.cls h.full h.free (fun _ _ => rfl) rfl h.paid
  generalize c.path.lanes.foldl (fun s l => qgetEdge c l s) s' = u at hq haw hrun
  have hug : (u.onLanes c.gk c.path.lanes (fun _ th => qgetThread c.team d th)).groups.find c.gk = some c.group := by
    show u.groups.find c.gk = _
    rw [hq, charge_of_eq h.paid]
    exact hg
  refine ⟨_, u.onLanes c.gk c.path.lanes (fun _ th => qgetThread c.team d th), hrun, ?_, ⟨?_, fun k => ?_, fun k hk => ?_⟩, fun l hl hn => ?_, ?_⟩
  · exact (Rules.Places.refl hug hr).go_on rfl h.lanes
  · rw [hq]; rfl
  · have hc : (u.onLanes c.gk c.path.lanes (fun _ th => qgetThread c.team d th)).core k = s'.core k := by rw [hq]; rfl
    rw [hc]
    split <;> rfl
  · rw [find_onLanes, if_neg hk, hq]
  · have := haw l hl
    rw [thread_charge h.paid] at this
    refine this (Bool.eq_false_iff.mpr fun hb => hn ?_)
    rw [Bool.and_eq_true, Bool.not_eq_true', unmade_iff] at hb
    exact hb
  · have hth : u.threads = s'.threads := by rw [hq]
    simp only [State.onLanes, hth]
    congr 1
    funext k th
    rw [qgetThread_eq]
    by_cases hn : never th
    · rw [if_pos (show c.team.producer = false ∧ _ from hn)]; simp [hn]
    · rw [if_neg (show ¬(c.team.producer = false ∧ _) from hn)]; simp [hn]

end Sys2Proof.Machine

/-!
SUPPORT and claims. The lead's reads, its queue and its barriers (R33, R111, R115, R117, R134, R138).
-/
namespace Sys2Proof.Machine

/-! ## The lead goes on -/

/-- Where the lead goes on from does not depend on how a team is stored, only on which team stands under each key. -/
theorem LeadOn.of_find {c : LCtx} {s s0 t : State} (h : LeadOn c s t) (hs : s = { s0 with teams := s.teams }) (hf : ∀ k, s.teams.find k = s0.teams.find k) :
    LeadOn c s0 t := by
  obtain ⟨h1, h2, h3⟩ := h
  refine ⟨?_, fun k => ?_, fun k => ?_⟩
  · rw [h1, hs]
  · rw [h2 k, hf k]
  · have hc : s.core k = s0.core k := by rw [hs]; rfl
    rw [← hc]
    exact h3 k

theorem core_releaseL (s : State) (core k : Nat) : (releaseL s core).core k = if k = core then { s.core k with lHold := none } else s.core k := by
  unfold releaseL
  rw [core_modCore]
  split
  · rename_i h; rw [h]
  · rfl

/-- The lead is changed and gives the issue slot up. -/
theorem leadAt_release (c : LCtx) (f : Lead → Lead) (s : State) : Rules.LeadAt c f s (releaseL (s.modLead c.tk f) c.core) :=
  ⟨rfl, fun k => modLead_teams s c.tk k f, fun k => by rw [core_releaseL]; rfl⟩

/-- Of a lead that has gone on, the issue slot of its core may still be given up. -/
theorem leadOnWait_waits (i : Instr) (c : LCtx) (w : LWait) (s : State) : Rules.LeadWaits c i w s (leadOnWait i c w s) := by
  obtain ⟨h1, h2, h3⟩ := leadOn_on c s
  unfold leadOnWait
  generalize leadOn c s = u at h1 h2 h3
  refine ⟨?_, fun k => ?_, fun k => ?_⟩
  · unfold releaseL State.modLead State.modTeam State.modCore
    rw [h1]
  · show (u.modLead c.tk (fun l => { l with wait := w, cmd := wordOf i })).teams.find k = _
    rw [modLead_teams, h2]
    split
    · rw [Option.map_map]; rfl
    · rfl
  · rw [core_releaseL]
    show (if k = c.core then { u.core k with lHold := none } else u.core k) = _
    rw [h3 k]
    split <;> rfl

/-- The team of the lead that executes, once the charge has been taken. -/
theorem team_charged {s s' : State} {c : LCtx} {n b : Nat} (hc : lctx s = some c) (hp : charge s c.core c.team.task c.payer n b = (true, s')) :
    s'.teams.find c.tk = some c.team := by
  rw [charge_of_eq hp]
  exact (lctx_some hc).2.1

/-! ## The decision queue (R33, R38) -/

/-- Every live thread has read an entry of the window, the earlier ones of which it has read already. -/
theorem entryRead_iff {s : State} {tk : Nat} {first : BitVec 16} {i : Nat} (hi : i < 64) (hb : ∀ j < i, Rules.entryIsRead s tk first j) :
    entryRead s tk (first + BitVec.ofNat 16 i) = true ↔ Rules.entryIsRead s tk first i := by
  have hlive : ∀ gk l, l ∈ liveLanes s gk ↔ l < 64 ∧ (s.thread gk l).live = true := fun gk l => by
    unfold liveLanes; rw [List.mem_filter, List.mem_range]; rfl
  have hne : ∀ x : BitVec 16, (∀ j < i, j < (x - first).toNat) → (x ≠ first + BitVec.ofNat 16 i ↔ i < (x - first).toNat) := by
    intro x hx
    have hle : i ≤ (x - first).toNat := by
      by_contra hlt
      have := hx (x - first).toNat (by omega)
      omega
    have heq : x = first + BitVec.ofNat 16 i ↔ (x - first).toNat = i := by
      rw [← BitVec.toNat_inj]
      have h1 := x.isLt
      have h2 := first.isLt
      simp only [BitVec.toNat_sub, BitVec.toNat_add, BitVec.toNat_ofNat]
      omega
    rw [ne_eq, heq]
    omega
  unfold entryRead Rules.entryIsRead groupsOf
  simp only [List.all_eq_true, List.mem_filter, Bool.and_eq_true, bne_iff_ne, Bool.not_eq_true', List.any_eq_false, beq_iff_eq, hlive]
  constructor
  · intro h e he hte l hl hlv
    obtain ⟨h1, h2⟩ := h e ⟨he, hte⟩ l ⟨hl, hlv⟩
    exact ⟨(hne _ fun j hj => (hb j hj e he hte l hl hlv).1).mp h1, fun q hq => h2 q hq⟩
  · rintro h e ⟨he, hte⟩ l ⟨hl, hlv⟩
    obtain ⟨h1, h2⟩ := h e he hte l hl hlv
    exact ⟨(hne _ fun j hj => (hb j hj e he hte l hl hlv).1).mpr h1, fun q hq => h2 q hq⟩

/-- The team with its oldest `i` entries released. -/
def Team.released (t : Team) (i : Nat) : Team := { t with dq := t.dq.drop i, dqFirst := t.dqFirst + BitVec.ofNat 16 i }

/-- Nothing but the team under `tk`, which is `tm` now, has changed. -/
def NowTeam (tk : Nat) (tm : Team) (s t : State) : Prop :=
  t = { s with teams := t.teams } ∧ ∀ k, t.teams.find k = if k = tk then some tm else s.teams.find k

/-- Whether an entry has been read does not depend on the teams. -/
theorem entryRead_congr {s t : State} (h : t = { s with teams := t.teams }) (tk : Nat) (n : BitVec 16) : entryRead t tk n = entryRead s tk n := by
  rw [h]; rfl

/-- The oldest entries that every live thread has read are released, and no more. -/
theorem releaseEntries_spec {s t : State} {tk : Nat} {tm : Team} {i fuel : Nat} (ht : NowTeam tk (tm.released i) s t)
    {r : Nat} (hir : i ≤ r) (hfuel : r ≤ i + fuel) (hr : r ≤ tm.dq.length) (h64 : tm.dq.length ≤ 64) (hf64 : 64 ≤ i + fuel)
    (hread : ∀ j < r, Rules.entryIsRead s tk tm.dqFirst j) (hstop : r < tm.dq.length → ¬Rules.entryIsRead s tk tm.dqFirst r) :
    NowTeam tk (tm.released r) s (releaseEntries t tk fuel) := by
  induction fuel generalizing t i with
  | zero =>
    obtain rfl : i = r := by omega
    exact ht
  | succ fuel ih =>
    have hfind : t.teams.find tk = some (tm.released i) := by rw [ht.2, if_pos rfl]
    unfold releaseEntries
    rw [hfind]
    dsimp only
    have hdq : (tm.released i).dq = tm.dq.drop i := rfl
    by_cases hlt : i < tm.dq.length
    · rw [hdq, List.drop_eq_getElem_cons hlt]
      dsimp only
      have hiff : entryRead t tk (tm.released i).dqFirst = true ↔ Rules.entryIsRead s tk tm.dqFirst i := by
        rw [entryRead_congr ht.1]
        exact entryRead_iff (by omega) fun j hj => hread j (by omega)
      by_cases hi : i < r
      · rw [if_pos (hiff.mpr (hread i hi))]
        refine ih ⟨?_, fun k => ?_⟩ (i := i + 1) (by omega) (by omega) (by omega)
        · rw [ht.1]; rfl
        · show (t.teams.mod tk _).find k = _
          rw [SMap.find_mod]
          split
          · rw [hfind]
            simp [Team.released, BitVec.ofNat_add, BitVec.add_assoc]
          · rename_i hk; rw [ht.2, if_neg hk]
      · obtain rfl : i = r := by omega
        rw [if_neg (fun h => hstop hlt (hiff.mp h))]
        exact ht
    · obtain rfl : i = r := by omega
      rw [hdq, List.drop_of_length_le (by omega)]
      exact ht

/-- What `dqRelease` leaves of the team of a lead (R33). -/
theorem dqRelease_spec {s s' : State} {c : LCtx} {r : Nat} (hr : Rules.Released s c r) (hg : s'.groups = s.groups) (hth : s'.threads = s.threads)
    (ht : s'.teams.find c.tk = some c.team) : NowTeam c.tk (c.team.released r) s' (s'.dqRelease c.tk) := by
  obtain ⟨h64, hlen, hread, hstop⟩ := hr
  have hsame : ∀ i, Rules.entryIsRead s' c.tk c.team.dqFirst i ↔ Rules.entryIsRead s c.tk c.team.dqFirst i := fun i => by
    unfold Rules.entryIsRead State.thread; rw [hg, hth]
  have h0 : c.team.released 0 = c.team := by simp [Team.released]
  unfold State.dqRelease
  refine releaseEntries_spec (i := 0) ⟨rfl, fun k => ?_⟩ (by omega) (by omega) hlen h64 (by omega) (fun j hj => (hsame j).mpr (hread j hj))
    (fun h hn => hstop h ((hsame r).mp hn))
  rw [h0]
  split
  · rename_i hk; rw [hk, ht]
  · rfl

/-- The state that the statements call `Rules.holds`, by what stands under each key. -/
theorem holds_find {s : State} {c : LCtx} {r : Nat} {dq : List DWord} {sent : BitVec 16} (ht : s.teams.find c.tk = some c.team) (k : Nat) :
    (Rules.holds s c r dq sent).teams.find k =
      if k = c.tk then some { c.team with dq := dq, dqFirst := c.team.dqFirst + BitVec.ofNat 16 r, qsent := sent } else s.teams.find k := by
  show (s.teams.mod c.tk _).find k = _
  rw [SMap.find_mod, ht]
  rfl

/-! ## The specials that a lead reads (R111, R112) -/

theorem leadSpecial_eq {s : State} {c : LCtx} {n : Nat} {v : DWord} (h : Rules.r111lead s c n = some v) : n ≠ 0x20 ∧ leadSpecial s c.team c.task n = v := by
  unfold Rules.r111lead at h
  split at h
  case h_1 =>
    obtain rfl := Option.some.inj h
    exact ⟨by decide, (BitVec.ofNat_toNat 64 s.time).symm⟩
  case h_2 =>
    obtain rfl := Option.some.inj h
    refine ⟨by decide, BitVec.eq_of_toNat_eq ?_⟩
    have ht := s.time.isLt
    show ((s.time.extractLsb' 32 16).setWidth 64).toNat = _
    rw [BitVec.toNat_setWidth, toNat_field, BitVec.toNat_ofNat]
    omega
  case h_3 h10 h11 =>
    obtain ⟨w, hw, rfl⟩ := Option.map_eq_some_iff.mp h
    have h20 : n ≠ 0x20 := by
      rintro rfl
      exact nomatch hw
    refine ⟨h20, ?_⟩
    unfold leadSpecial
    rw [if_neg h10, if_neg h11, if_neg h20, sharedSpecial_eq hw]
    exact (BitVec.ofNat_toNat 64 w).symm

/-! ## LSRD, QSEND, LBARA and LBARW -/

/-- The team that the queue's release leaves, under its key and under the others. -/
theorem released_holds {s' t : State} {c : LCtx} {r : Nat} (ht : s'.teams.find c.tk = some c.team) (h : NowTeam c.tk (c.team.released r) s' t) (k : Nat) :
    t.teams.find k = (Rules.holds s' c r (c.team.dq.drop r) c.team.qsent).teams.find k := by
  rw [h.2, holds_find ht]
  rfl

section
variable {s s' : State} {c : LCtx}

theorem lsrd_runs {d n m : BitVec 6} (h : LeadReady (.lsrd d n m) 1 0 s c s') {v : DWord} (hv : Rules.r111lead s' c (64 * n.toNat + m.toNat) = some v) :
    ∃ t, exec (.lsrd d n m) s = .next t ∧ LeadRan c (fun l => l.setReg d.toNat v) s' t := by
  have hnum : num12 n m = 64 * n.toNat + m.toNat := by rw [num12, Nat.mul_comm]
  obtain ⟨h20, hsp⟩ := leadSpecial_eq hv
  refine ⟨_, ?_, leadOn_on c (s'.modLead c.tk (fun l => l.setReg d.toNat v))⟩
  rw [show exec (.lsrd d n m) s = execLsrd d n m s from rfl, execLsrd, leadOp_runs h.ctx h.free h.srcs h.dsts rfl h.paid]
  simp only [hnum, if_neg h20, team_charged h.ctx h.paid, hsp]

theorem lsrd_free {d n m : BitVec 6} (h : LeadReady (.lsrd d n m) 1 0 s c s') (hn : 64 * n.toNat + m.toNat = 0x20) {r : Nat} (hr : Rules.Released s c r) :
    ∃ t, exec (.lsrd d n m) s = .next t ∧ LeadRan c (fun l => l.setReg d.toNat (BitVec.ofNat 64 (64 - (c.team.dq.length - r))))
      (Rules.holds s' c r (c.team.dq.drop r) c.team.qsent) t := by
  have hnum : num12 n m = 0x20 := by rw [num12, Nat.mul_comm]; exact hn
  have ht := team_charged h.ctx h.paid
  have hs := charge_of_eq h.paid
  have hrel := dqRelease_spec hr (by rw [hs]) (by rw [hs]) ht
  have hfind : (s'.dqRelease c.tk).teams.find c.tk = some (c.team.released r) := by rw [hrel.2, if_pos rfl]
  have hsp : leadSpecial (s'.dqRelease c.tk) (c.team.released r) c.task 0x20 = BitVec.ofNat 64 (64 - (c.team.dq.length - r)) := by
    rw [leadSpecial, if_neg (by decide), if_neg (by decide), if_pos rfl, Team.released, List.length_drop]
  refine ⟨_, ?_, (leadOn_on c ((s'.dqRelease c.tk).modLead c.tk (fun l => l.setReg d.toNat (BitVec.ofNat 64 (64 - (c.team.dq.length - r)))))).of_find ?_ fun k => ?_⟩
  · rw [show exec (.lsrd d n m) s = execLsrd d n m s from rfl, execLsrd, leadOp_runs h.ctx h.free h.srcs h.dsts rfl h.paid]
    simp only [hnum, if_true, hfind, hsp]
  · unfold State.modLead State.modTeam Rules.holds
    rw [hrel.1]
  · rw [modLead_teams, modLead_teams, released_holds ht hrel]

/-- While fewer than 64 entries are held QSEND appends its own, otherwise it waits. -/
theorem dqRoom_iff {r : Nat} (hr : Rules.Released s c r) (ht : s.teams.find c.tk = some c.team) : dqRoom s c.tk = decide (c.team.dq.length - r < 64) := by
  have hrel := dqRelease_spec hr rfl rfl ht
  unfold dqRoom
  rw [hrel.2, if_pos rfl]
  dsimp only
  rw [Team.released, List.length_drop]

theorem qsend_appends {a : BitVec 6} (hq : quiet s c.team.lead.ops = true) {r : Nat} (hr : Rules.Released s c r) (hlt : c.team.dq.length - r < 64)
    (h : LeadReady (.qsend a) 1 0 s c s') :
    ∃ t, exec (.qsend a) s = .next t ∧ LeadOn c
      { Rules.holds s' c r (c.team.dq.drop r ++ [c.team.lead.reg a]) (c.team.qsent + 1#16) with
        fresh := { s'.fresh with entries := (c.team.uid, c.team.qsent) :: s'.fresh.entries } } t := by
  have ht := team_charged h.ctx h.paid
  have hs := charge_of_eq h.paid
  have hrel := dqRelease_spec hr (by rw [hs]) (by rw [hs]) ht
  have hfind : (s'.dqRelease c.tk).teams.find c.tk = some (c.team.released r) := by rw [hrel.2, if_pos rfl]
  have hcost : qsendCost s c = (1, 0) := by
    rw [qsendCost, dqRoom_iff hr (lctx_some h.ctx).2.1, if_pos (by simpa using hlt)]
  have hlen : (c.team.released r).dq.length < 64 := by rw [Team.released, List.length_drop]; exact hlt
  have hmake : makeEntry (s'.dqRelease c.tk) c.tk a.toNat =
      { (s'.dqRelease c.tk).modTeam c.tk (fun t => t.append (t.lead.s.get a.toNat 0#64)) with
        fresh := { (s'.dqRelease c.tk).fresh with entries := (c.team.uid, c.team.qsent) :: (s'.dqRelease c.tk).fresh.entries } } := by
    unfold makeEntry
    rw [hfind]
    rfl
  refine ⟨leadOn c (makeEntry (s'.dqRelease c.tk) c.tk a.toNat), ?_, (leadOn_on c _).of_find ?_ fun k => ?_⟩
  · rw [show exec (.qsend a) s = execQsend a s from rfl, execQsend, leadOp_runs h.ctx h.free h.srcs h.dsts (by rw [qsendCheck, hq]; rfl) (by rw [hcost]; exact h.paid)]
    simp only [hfind, if_pos hlen]
  · rw [hmake]
    unfold State.modTeam Rules.holds
    rw [hrel.1]
  · rw [hmake]
    show ((s'.dqRelease c.tk).teams.mod c.tk _).find k = (Rules.holds s' c r (c.team.dq.drop r ++ [c.team.lead.reg a]) (c.team.qsent + 1#16)).teams.find k
    rw [SMap.find_mod, hfind, holds_find ht]
    split
    · rfl
    · rename_i hk; rw [hrel.2, if_neg hk]

theorem qsend_waits {a : BitVec 6} (hq : quiet s c.team.lead.ops = true) {r : Nat} (hr : Rules.Released s c r) (hfull : c.team.dq.length - r = 64)
    (h : LeadReady (.qsend a) 0 0 s c s') :
    ∃ t, exec (.qsend a) s = .next t ∧ Rules.LeadAt c (fun l => { l with wait := .qsend a.toNat, cmd := wordOf (.qsend a) }) s' t := by
  have ht := team_charged h.ctx h.paid
  have hs := charge_of_eq h.paid
  have hrel := dqRelease_spec hr (by rw [hs]) (by rw [hs]) ht
  have h64 := hr.1
  obtain rfl : r = 0 := by omega
  have hsame : c.team.released 0 = c.team := by simp [Team.released]
  rw [hsame] at hrel
  have hfind : (s'.dqRelease c.tk).teams.find c.tk = some c.team := by rw [hrel.2, if_pos rfl]
  have hcost : qsendCost s c = (0, 0) := by
    rw [qsendCost, dqRoom_iff hr (lctx_some h.ctx).2.1, if_neg (by simp [hfull])]
  refine ⟨releaseL ((s'.dqRelease c.tk).modLead c.tk (fun l => { l with wait := .qsend a.toNat, cmd := wordOf (.qsend a) })) c.core, ?_, ?_⟩
  · rw [show exec (.qsend a) s = execQsend a s from rfl, execQsend, leadOp_runs h.ctx h.free h.srcs h.dsts (by rw [qsendCheck, hq]; rfl) (by rw [hcost]; exact h.paid)]
    simp only [hfind]
    rw [if_neg (by omega)]
  · obtain ⟨h1, h2, h3⟩ := leadAt_release c (fun l => { l with wait := .qsend a.toNat, cmd := wordOf (.qsend a) }) (s'.dqRelease c.tk)
    refine ⟨?_, fun k => ?_, fun k => ?_⟩
    · rw [h1, hrel.1]
    · rw [h2]
      split
      · rename_i hk; rw [hk, hfind, ht]
      · rename_i hk; rw [hrel.2, if_neg hk]
    · have hc : (s'.dqRelease c.tk).core k = s'.core k := by rw [hrel.1]; rfl
      rw [h3, hc]

theorem lbara_runs {k : BitVec 4} (h : LeadReady (.lbara k) 1 0 s c s') (hq : quiet s c.team.lead.ops = true)
    (hnet : (c.team.bar k.toNat).net = .core) (hhere : (c.team.bar k.toNat).here.getLsbD 8 = false) :
    ∃ t, exec (.lbara k) s = .next t ∧ LeadOn c (s'.modTeam c.tk (fun t => t.modBar k.toNat (fun b => b.arrive leadBit))) t := by
  refine ⟨_, ?_, leadOn_on c _⟩
  rw [show exec (.lbara k) s = execLbara k s from rfl, execLbara, leadOp_runs h.ctx h.free h.srcs h.dsts ?_ h.paid]
  unfold lbaraCheck
  dsimp only
  rw [if_neg (by simp [hnet]), leadBit, hhere, hq, if_neg (by simp)]
end

/-- Settles O28: `lsrd_runs` and `lsrd_free`, `qsend_appends` and `qsend_waits`, `lbara_runs`, `leadOnWait_waits`. -/
theorem leadReadsAndQueues : Obligations.LeadReadsAndQueues := by
  unfold Obligations.LeadReadsAndQueues
  refine ⟨fun d n m s c s' h => ⟨fun v hv => lsrd_runs h hv, fun hn r hr => lsrd_free h hn hr⟩,
    fun a s c hq r hr => ⟨fun hlt s' h => qsend_appends hq hr hlt h, fun hfull s' h => qsend_waits hq hr hfull h⟩, ?_, fun k s c s' h => ?_⟩
  · intro k s c s' h hq b hnet hhere
    obtain ⟨t, ht, hon⟩ := lbara_runs h hq hnet hhere
    refine ⟨t, c.team.bars.set k.toNat (b.arrive leadBit) Barrier.initial, ht, fun j => ?_, hon.of_find rfl fun j => ?_⟩
    · rw [SMap.get_set]
      rfl
    · show (s'.teams.mod c.tk _).find j = (s'.teams.mod c.tk _).find j
      rw [SMap.find_mod, SMap.find_mod, team_charged h.ctx h.paid]
      rfl
  · refine ⟨leadOnWait (.lbarw k) c (.barw k.toNat) s', ?_, leadOnWait_waits _ _ _ _⟩
    rw [show exec (.lbarw k) s = execLbarw k s from rfl, execLbarw, leadOp_runs h.ctx h.free h.srcs h.dsts rfl h.paid]

end Sys2Proof.Machine

/-!
SUPPORT and claims. What a clause header asks of threads and leads, and how it issues (R26, R41, R42, R47 to R50).
-/
namespace Sys2Proof.Machine

/-! ## WAIT and D of a header (R47, R48) -/

theorem headerWait_getLsbD (w : Word) (k : Nat) : (headerWait w).getLsbD k = (decide (k < 8) && w.getLsbD (10 + k)) := by
  unfold headerWait
  rw [show BitVec.zeroExtend 16 (w.extractLsb' 10 8) = (w.extractLsb' 10 8).setWidth 16 from rfl, BitVec.getLsbD_setWidth, BitVec.getLsbD_extractLsb']
  by_cases h : k < 8
  · simp [h, show k < 16 by omega]
  · simp [h]

theorem headerWait_eq (w : Word) : headerWait w = BitVec.ofNat 16 (w.toNat / 2 ^ 10 % 256) := by
  apply BitVec.eq_of_toNat_eq
  rw [show headerWait w = (w.extractLsb' 10 8).setWidth 16 from rfl, BitVec.toNat_setWidth, toNat_field, BitVec.toNat_ofNat]
  omega

theorem inverted_eq (w : Word) (b : BitVec 16) : b ^^^ headerWait w = Rules.inverted w b := by
  rw [headerWait_eq]; rfl

/-- The barriers that WAIT names are met. -/
theorem unmet_iff (s : State) (t : Team) (w : Word) (b : BitVec 16) : unmet s t (headerWait w) b = false ↔ Rules.awaitedMet s w t b := by
  unfold unmet Rules.awaitedMet
  simp only [List.any_eq_false, List.mem_range, headerWait_getLsbD, Bool.and_eq_true, decide_eq_true_eq, beq_iff_eq]
  constructor
  · exact fun h k hk hw he => h k (by omega) ⟨⟨hk, hw⟩, he⟩
  · rintro h k - ⟨⟨hk, hw⟩, he⟩
    exact h k hk hw he

/-- The stores that D waits for are applied. -/
theorem storesDone_iff (s : State) (q : Nat) : storesDone s q = true ↔ ∀ o ∈ opsOf s q, o.kind.isLoad = true := List.all_eq_true

/-- No SEND of a thread is left. -/
theorem sendsOf_nil_iff (s : State) (uid gid lane : Nat) :
    (sendsOf s uid gid lane).isEmpty = true ↔ ∀ i ∈ s.sends, ¬(i.uid = uid ∧ i.gid = gid ∧ i.lane = lane) := by
  unfold sendsOf
  simp only [List.isEmpty_iff, List.filter_eq_nil_iff, Bool.and_eq_true, beq_iff_eq, and_assoc]

/-- A header's WAIT and D are met for a thread. -/
theorem headerMet_iff (s : State) (c : GCtx) (w : Word) (l : Nat) : headerMet s c.team c.group c.gk w l = true ↔ Rules.meets s c w l := by
  unfold headerMet Rules.meets headerD drained
  rw [Bool.and_eq_true, Bool.not_eq_true', unmet_iff]
  refine and_congr_right fun _ => ?_
  simp only [Bool.or_eq_true, Bool.not_eq_true', Bool.and_eq_true, storesDone_iff, sendsOf_nil_iff, List.contains_eq_mem, decide_eq_false_iff_not, and_assoc]
  cases w.getLsbD 9 <;> simp

/-- The same for a lead. -/
theorem leadMet_iff (s : State) (c : LCtx) (w : Word) :
    (unmet s c.team (headerWait w) c.team.lead.waitb || (headerD w && !leadDrained s c.team.lead)) = false ↔ Rules.leadMeets s c w := by
  unfold Rules.leadMeets headerD leadDrained
  rw [Bool.or_eq_false_iff, unmet_iff]
  refine and_congr_right fun _ => ?_
  rw [← Bool.not_eq_true, Bool.and_eq_true]
  simp only [Bool.not_eq_true', ← Bool.not_eq_true, Bool.and_eq_true, storesDone_iff, List.contains_eq_mem, decide_eq_true_eq, not_and, not_not, Classical.not_imp]

/-! ## Who joins at a header (R26) -/

/-- A store or atomic that a fence does not wait for, by its scope (R264). -/
theorem fenceOp_iff (scope : Net) (die : Nat) (o : MemOp) :
    fenceOp scope die o = false ↔ (o.kind.isLoad = false → scope = .core ∨ scope = .quad ∨ (scope = .die ∧ homeOf o.loc ≠ die)) := by
  cases scope <;> cases h : o.kind.isLoad <;> simp [fenceOp, h]

/-- A SEND that a fence does not wait for. -/
theorem fenceSend_iff (scope : Net) (i : SendItem) : fenceSend scope i = false ↔ scope = .core ∧ i.dest_ = Consumer.next := by
  unfold fenceSend
  rw [Bool.or_eq_false_iff, bne_eq_false_iff_eq, bne_eq_false_iff_eq]

/-- What a fence waits for is applied (R264). -/
theorem fenceMet_iff (s : State) (c : GCtx) (scope : Net) (upto l : Nat) : fenceMet s c.team c.group c.gk scope upto l = true ↔ Rules.fenceOver s c scope upto l := by
  unfold fenceMet Rules.fenceOver sendsOf
  simp only [Bool.and_eq_true, Bool.or_eq_true, List.all_eq_true, decide_eq_true_eq, Bool.not_eq_true', fenceOp_iff, fenceSend_iff, List.mem_filter, beq_iff_eq,
    bne_iff_ne, and_assoc]
  refine and_congr (forall₂_congr fun o _ => ?_) (and_congr ?_ ?_)
  · rw [or_iff_not_imp_left, not_le]; rfl
  · constructor
    · intro h i hi hu hg hl hid
      exact (h i ⟨hi, hu, hg, hl⟩).resolve_left (Nat.not_le.mpr hid)
    · rintro h i ⟨hi, hu, hg, hl⟩
      exact or_iff_not_imp_left.mpr fun hid => h i hi hu hg hl (Nat.not_le.mp hid)
  · constructor
    · rintro (h | h) hp e he f hf n p bs heq
      · exact h hp
      · have hw := h e he f hf
        rw [heq] at hw
        exact Bool.noConfusion hw
    · intro h
      refine or_iff_not_imp_left.mpr fun hp e he f hf => ?_
      have hw := h (not_not.mp hp) e he f hf
      cases hk : f.2 with
      | write n p bs => exact absurd hk (hw n p bs)
      | podArrival _ => rfl
      | ack _ => rfl

/-- Nothing stands between a parked path and its next instruction (R26, R264). -/
theorem waitOver_iff (s : State) (c : GCtx) (q : Path) :
    waitOver s c.team c.group c.gk q = true ↔ q.wait = .none ∨ ∃ scope upto, q.wait = .fence scope upto ∧ ∀ m ∈ q.lanes, Rules.fenceOver s c scope upto m := by
  unfold waitOver
  cases hq : q.wait with
  | fence scope upto => simp [fenceMet_iff]
  | none => simp
  | barw _ _ => simp
  | xconv _ => simp
  | answers _ _ _ _ => simp
  | sleep _ => simp

/-- The parked lanes that join at a header. -/
theorem mem_joiners (s : State) (c : GCtx) (w : Word) (l : Nat) : l ∈ joiners s c w c.path.pos.pc ↔ Rules.joinsAt s c w l := by
  unfold joiners Rules.joinsAt
  simp only [List.mem_flatMap, List.mem_filter, Bool.and_eq_true, decide_eq_true_eq, beq_iff_eq, waitOver_iff, headerMet_iff, Bool.not_eq_true', and_assoc]
  refine exists_congr fun q => and_congr_right fun _ => ?_
  tauto


/-- Whether a header is met does not depend on where the paths of the group stand. -/
theorem meets_congr {s u : State} {c : GCtx} {g : Group} (hu : u = { s with groups := u.groups, cores := u.cores }) (hg : g.gid = c.group.gid) (w : Word) (l : Nat) :
    Rules.meets u { c with group := g } w l ↔ Rules.meets s c w l := by
  unfold Rules.meets
  rw [hu, hg]
  rfl

/-- Who joins, once the lanes that do not meet the header have been parked at it as `p`. -/
theorem joinsAt_parked {s u : State} {c : GCtx} {g : Group} {p : List Path} (hu : u = { s with groups := u.groups, cores := u.cores }) (hg : g.gid = c.group.gid)
    (hp : g.parked = c.group.parked ++ p) (w : Word) (l : Nat) :
    Rules.joinsAt u { c with group := g } w l → Rules.joinsAt s c w l ∨ ∃ q ∈ p, l ∈ q.lanes := by
  rintro ⟨q, hq, hl, hrem, hpc, hwait, hmode, hmet⟩
  change q ∈ g.parked at hq
  rw [hp, List.mem_append] at hq
  rcases hq with hq | hq
  · refine .inl ⟨q, hq, hl, hrem, hpc, ?_, ?_, (meets_congr hu hg w l).mp hmet⟩
    · unfold Rules.fenceOver at hwait ⊢
      rw [hu, hg] at hwait
      exact hwait
    · rw [hu] at hmode; exact hmode
  · exact .inr ⟨q, hq, hl⟩

theorem joinsAt_parked_of {s u : State} {c : GCtx} {g : Group} {p : List Path} (hu : u = { s with groups := u.groups, cores := u.cores }) (hg : g.gid = c.group.gid)
    (hp : g.parked = c.group.parked ++ p) {w : Word} {l : Nat} (h : Rules.joinsAt s c w l) : Rules.joinsAt u { c with group := g } w l := by
  obtain ⟨q, hq, hl, hrem, hpc, hwait, hmode, hmet⟩ := h
  refine ⟨q, ?_, hl, hrem, hpc, ?_, ?_, (meets_congr hu hg w l).mpr hmet⟩
  · show q ∈ g.parked
    rw [hp]
    exact List.mem_append_left _ hq
  · unfold Rules.fenceOver at hwait ⊢
    rw [hu, hg]
    exact hwait
  · rw [hu]; exact hmode

/-! ## A header of a group (R50) -/

section
variable {s : State} {c : GCtx} {w : Word}

/-- A header that does not serve traps, and one of the lead's class does. -/
theorem headerWord_traps {cause : Cause} (h : (cause = .illegalHeader ∧ ¬Rules.serves w) ∨ (cause = .clauseClass ∧ Rules.serves w ∧ Rules.classAt w .lead)) :
    headerWord c w s = headerTrap c w cause 0#64 s := by
  unfold headerWord
  rcases h with ⟨rfl, hs⟩ | ⟨rfl, hs, hc⟩
  · rw [← headerOk_iff, Bool.not_eq_true] at hs
    cases headerCls w with
    | none => rfl
    | some k => dsimp only; rw [hs]; rfl
  · rw [(headerCls_iff w .lead).mpr hc]
    dsimp only
    rw [(headerOk_iff w).mpr hs]
    rfl

/-- Past the checks of R42, a path waits at its header or goes through it. -/
theorem headerWord_serves (hs : Rules.serves w) {cls : Cls} (hcls : Rules.classAt w cls) (hlead : cls ≠ .lead) :
    headerWord c w s =
      if c.team.swap.isSome || c.task.state == .starved then stallPath c s
      else
        let met := c.path.lanes.filter (headerMet s c.team c.group c.gk w)
        let left := c.path.lanes.filter (fun l => !headerMet s c.team c.group c.gk w l)
        if met.isEmpty then stallPath c s
        else
          let u := parkPath s c.gk { c.path with lanes := left }
          let more := (joiners u { c with group := (u.groups.find c.gk).getD c.group } w c.path.pos.pc).filter (fun l => !left.contains l)
          setRunning ((u.modGroup c.gk (fun g => g.without more)).onLanes c.gk (met ++ more)
              (fun _ th => { th with waitb := th.waitb ^^^ headerWait w, gen := clauseGen u c.team })) c.gk
            (some { c.path with
              lanes := met ++ more, pos := { pc := c.path.pos.pc + 4#64, remain := headerN w, cls := cls, y := headerY w, rep := none, repFrom := none } }) := by
  have hg : cls.group = true := by
    cases cls with
    | lead => exact absurd rfl hlead
    | int => rfl
    | flt => rfl
    | mem => rfl
    | sa => rfl
    | sys => rfl
  unfold headerWord
  rw [(headerCls_iff w cls).mpr hcls]
  dsimp only
  rw [(headerOk_iff w).mpr hs, hg]
  rfl

/-- A path that waits at its header is parked at it (R22, R50). -/
theorem stallPath_places (hg : s.groups.find c.gk = some c.group) (hr : c.group.running = some c.path) (hl : c.path.lanes ≠ []) :
    Rules.StandsAt c none [c.path] s (stallPath c s) :=
  ((Rules.Places.refl hg hr).park_running hl).stands_at (by simp) (gHold_parkRunning _ _ _ _)

/-- A header that no thread meets is waited at, and in a STARVED task none passes (R50, R304). -/
theorem headerWord_stalls (hs : Rules.serves w) (hlead : ¬Rules.classAt w .lead) (h : c.task.state = .starved ∨ ∀ l ∈ c.path.lanes, ¬Rules.meets s c w l) :
    headerWord c w s = stallPath c s := by
  obtain ⟨cls, hcls⟩ := headerCls_of_serves hs
  have hcls := (headerCls_iff w cls).mp hcls
  rw [headerWord_serves hs hcls (by rintro rfl; exact hlead hcls)]
  split
  · rfl
  · rename_i hn
    rcases h with h | h
    · simp [h] at hn
    · dsimp only
      rw [if_pos]
      rw [List.isEmpty_iff, List.filter_eq_nil_iff]
      exact fun l hl => mt (headerMet_iff s c w l).mp (h l hl)

end

/-! ### The issue of a header -/

/-- The lanes of a set that do not meet a header stay behind at it, as a path of their own. -/
def Path.behind (p : Path) (left : List Nat) : List Path := if left = [] then [] else [{ p with lanes := left }]

theorem park_behind {s : State} {c : GCtx} (hg : s.groups.find c.gk = some c.group) (hr : c.group.running = some c.path) (left : List Nat) :
    Rules.Places c (some c.path) (c.path.behind left) s (parkPath s c.gk { c.path with lanes := left }) := by
  unfold Path.behind
  split
  · rename_i h
    rw [parkPath_empty h]
    exact Rules.Places.refl hg hr
  · rename_i h
    exact (Rules.Places.refl hg hr).park_path (p := { c.path with lanes := left }) h

/-- The place behind a header (R43, R50). -/
def headerPos (pc : DWord) (w : Word) (cls : Cls) : Pos :=
  { pc := pc + 4#64, remain := w.toNat / 2 ^ 22 % 16, cls := cls, y := w.getLsbD 18, rep := none, repFrom := none }

/-- The group once its header has issued for `set`, with `left` behind (R50). -/
def Group.issued (g : Group) (p : Path) (w : Word) (cls : Cls) (set left : List Nat) : Group :=
  { g with
    running := some { p with lanes := set, pos := headerPos p.pos.pc w cls },
    parked := ((g.parked ++ Rules.parkedFrom g.parkCtr (p.behind left)).map (fun q =>
      { q with lanes := q.lanes.filter (fun l => !set.contains l) })).filter (fun q => !q.lanes.isEmpty),
    parkCtr := g.parkCtr + (p.behind left).length }

/-- Where the set goes through the header: who goes, who stays, and what the state is then (R26, R47, R50, R202). -/
theorem headerWord_issues {s : State} {c : GCtx} {w : Word} {cls : Cls} (hg : s.groups.find c.gk = some c.group) (hr : c.group.running = some c.path)
    (hs : Rules.serves w) (hcls : Rules.classAt w cls) (hlead : cls ≠ .lead) (hswap : c.team.swap = none) (hstarved : c.task.state ≠ .starved)
    (hmeet : ∃ l ∈ c.path.lanes, Rules.meets s c w l) (hapart : ∀ q ∈ c.group.parked, ∀ l ∈ q.lanes, l ∉ c.path.lanes) :
    ∃ set left u, headerWord c w s = setRunning (u.onLanes c.gk set (fun _ th =>
          { th with waitb := Rules.inverted w th.waitb, gen := if c.team.uid ∈ s.fresh.swaps then !c.team.gen else c.team.gen })) c.gk
          (some { c.path with lanes := set, pos := headerPos c.path.pos.pc w cls })
      ∧ PlaceOnly c.gk c.core s u ∧ u.cores = s.cores
      ∧ (∃ r, u.groups.find c.gk = some { c.group.issued c.path w cls set left with running := r })
      ∧ (∀ l, l ∈ set ↔ (l ∈ c.path.lanes ∧ Rules.meets s c w l) ∨ Rules.joinsAt s c w l)
      ∧ (∀ l, l ∈ left ↔ l ∈ c.path.lanes ∧ ¬Rules.meets s c w l) := by
  have hword := headerWord_serves (s := s) (c := c) hs hcls hlead
  rw [if_neg (by simp [hswap, hstarved])] at hword
  dsimp only at hword
  have hmetm : ∀ l, l ∈ c.path.lanes.filter (headerMet s c.team c.group c.gk w) ↔ l ∈ c.path.lanes ∧ Rules.meets s c w l := fun l => by
    rw [List.mem_filter, headerMet_iff]
  have hleftm : ∀ l, l ∈ c.path.lanes.filter (fun l => !headerMet s c.team c.group c.gk w l) ↔ l ∈ c.path.lanes ∧ ¬Rules.meets s c w l := fun l => by
    rw [List.mem_filter, Bool.not_eq_true', ← Bool.not_eq_true, headerMet_iff]
  generalize c.path.lanes.filter (headerMet s c.team c.group c.gk w) = met at hword hmetm
  generalize c.path.lanes.filter (fun l => !headerMet s c.team c.group c.gk w l) = left at hword hleftm
  rw [if_neg (by
    obtain ⟨l, hl, hm⟩ := hmeet
    simpa using List.ne_nil_of_mem ((hmetm l).mpr ⟨hl, hm⟩))] at hword
  obtain ⟨hpl, hfind⟩ := park_behind hg hr left
  have hcores : (parkPath s c.gk { c.path with lanes := left }).cores = s.cores := by unfold parkPath; split <;> rfl
  generalize parkPath s c.gk { c.path with lanes := left } = u at hword hpl hfind hcores
  rw [hfind, Option.getD_some] at hword
  have hmore : ∀ l, l ∈ (joiners u { c with group := { c.group with
        running := some c.path, parked := c.group.parked ++ Rules.parkedFrom c.group.parkCtr (c.path.behind left),
        parkCtr := c.group.parkCtr + (c.path.behind left).length } } w c.path.pos.pc).filter (fun l => !left.contains l) ↔ Rules.joinsAt s c w l := by
    intro l
    have hjoin := mem_joiners u { c with group := { c.group with
        running := some c.path, parked := c.group.parked ++ Rules.parkedFrom c.group.parkCtr (c.path.behind left),
        parkCtr := c.group.parkCtr + (c.path.behind left).length } } w l
    rw [List.mem_filter, hjoin]
    constructor
    · rintro ⟨hj, hnot⟩
      refine (joinsAt_parked hpl.1 (by rfl) (by rfl) w l hj).resolve_right ?_
      rintro ⟨q, hq, hl⟩
      unfold Path.behind at hq
      split at hq
      · exact nomatch hq
      · obtain rfl := List.mem_singleton.mp hq
        simp only [Bool.not_eq_true', List.contains_eq_mem, decide_eq_false_iff_not] at hnot
        exact hnot hl
    · intro hj
      refine ⟨joinsAt_parked_of hpl.1 (by rfl) (by rfl) hj, ?_⟩
      obtain ⟨q, hq, hl, -⟩ := hj
      simp only [Bool.not_eq_true', List.contains_eq_mem, decide_eq_false_iff_not]
      exact fun hm => hapart q hq l hl ((hleftm l).mp hm).1
  generalize (joiners u { c with group := { c.group with
      running := some c.path, parked := c.group.parked ++ Rules.parkedFrom c.group.parkCtr (c.path.behind left),
      parkCtr := c.group.parkCtr + (c.path.behind left).length } } w c.path.pos.pc).filter (fun l => !left.contains l) = more at hword hmore
  refine ⟨met ++ more, left, u.modGroup c.gk (fun g => g.without more), ?_, hpl.trans (placeOnly_modGroup _ _ _ _), hcores, ⟨some c.path, ?_⟩, fun l => ?_, hleftm⟩
  · have hgen : clauseGen u c.team = if c.team.uid ∈ s.fresh.swaps then !c.team.gen else c.team.gen := by
      unfold clauseGen
      rw [hpl.1]
      simp only [List.contains_eq_mem]
      split <;> rename_i hm <;> simp [hm]
    rw [hword]
    simp only [inverted_eq, hgen]
    unfold headerPos headerN headerY
    rw [toNat_field]
    rfl
  · rw [modGroup_groups, SMap.find_mod, if_pos rfl, hfind]
    unfold Group.without Group.issued
    have hkeep : ∀ q ∈ c.group.parked ++ Rules.parkedFrom c.group.parkCtr (c.path.behind left),
        q.lanes.filter (fun l => !more.contains l) = q.lanes.filter (fun l => !(met ++ more).contains l) := by
      intro q hq
      refine List.filter_congr fun l hl => ?_
      have hnot : l ∉ met := by
        rw [hmetm]
        rintro ⟨hlc, hm⟩
        rcases List.mem_append.mp hq with hq | hq
        · exact hapart q hq l hl hlc
        · unfold Path.behind at hq
          split at hq
          · exact nomatch hq
          · obtain rfl := List.mem_singleton.mp hq
            exact ((hleftm l).mp hl).2 hm
      simp [hnot]
    have hmap : (c.group.parked ++ Rules.parkedFrom c.group.parkCtr (c.path.behind left)).map (fun q => { q with lanes := q.lanes.filter (fun l => !more.contains l) })
        = (c.group.parked ++ Rules.parkedFrom c.group.parkCtr (c.path.behind left)).map (fun q => { q with lanes := q.lanes.filter (fun l => !(met ++ more).contains l) }) :=
      List.map_congr_left fun q hq => by rw [hkeep q hq]
    simp only [Option.map_some, hmap]
  · rw [List.mem_append, hmetm, hmore]

/-- A thread that traps at a header has the record of R343: the cause, the word, the address of the header, and zeros. -/
theorem trappedAtHeader {c : GCtx} (h0 : c.path.pos.remain = 0) (w : Word) (cause : Cause) (l : Nat) (th : Thread) :
    Rules.TrappedAtHeader w c.path.pos.pc cause th
      (trappedAt c w c.path.pos c.path.pos.pc (fun _ => { cause := cause, code := 0, addr := 0#64 }) l th) := by
  unfold trappedAt
  rw [h0]
  obtain ⟨ht0, ht1, ht2, ht4, ht6, ht7⟩ := trap_reg th (trapRecord th true c.path.pos { cause := cause, code := 0, addr := 0#64 }) w c.path.pos.pc
    { cause := cause, code := 0, addr := 0#64 }
  refine ⟨rfl, ?_, ht1, ht2, fun k h1 h2 => ?_⟩
  · show ((th.trap (trapRecord th true c.path.pos { cause := cause, code := 0, addr := 0#64 }) w c.path.pos.pc _).reg 64).toNat = _
    rw [ht0, trapRecord, if_pos rfl, toNat_trapT0 _ _ _ _ _ _ (by decide) (Nat.succ_pos 63)]
    rfl
  · have h64 : (th.trap (trapRecord th true c.path.pos { cause := cause, code := 0, addr := 0#64 }) w c.path.pos.pc { cause := cause, code := 0, addr := 0#64 }).reg 68 = 0#32
        ∧ (th.trap (trapRecord th true c.path.pos { cause := cause, code := 0, addr := 0#64 }) w c.path.pos.pc { cause := cause, code := 0, addr := 0#64 }).reg 69 = 0#32 := by
      have h := congrArg BitVec.toNat ht4
      rw [toNat_append_eq_add] at h
      simp only [BitVec.toNat_ofNat, Nat.zero_mod] at h
      exact ⟨BitVec.eq_of_toNat_eq (by simp; omega), BitVec.eq_of_toNat_eq (by simp; omega)⟩
    obtain rfl | rfl | rfl | rfl : k = 68 ∨ k = 69 ∨ k = 70 ∨ k = 71 := by omega
    · exact h64.1
    · exact h64.2
    · exact ht6
    · exact ht7

/-- A path at a header whose word the fetch finds (R42, R50). -/
theorem exec_header_group {s : State} {c : GCtx} {w : Word} (hc : gctx s = some c) (h0 : c.path.pos.remain = 0)
    (hw : fetch s c.core c.task.space c.task.priv c.path.pos.pc = .word w) :
    exec .clauseHeaderIssue s = .next (headerWord c w (s.noteTlb c.core c.task.space (va48 c.path.pos.pc))) := by
  show execClauseHeaderIssue s = _
  unfold execClauseHeaderIssue groupHeader
  simp only [hc, h0, hw, if_true]

/-- The fetch leaves the executing group as it is. -/
theorem gctx_fetched {s u : State} {core : Nat} (h : Rules.Fetched core s u) : gctx u = gctx s := by rw [h.1]; rfl

/-- What the threads and the lead meet does not depend on what the core caches. -/
theorem meets_fetched {s u : State} {core : Nat} (h : Rules.Fetched core s u) (c : GCtx) (w : Word) (l : Nat) : Rules.meets u c w l ↔ Rules.meets s c w l := by
  rw [h.1]; rfl
theorem joinsAt_fetched {s u : State} {core : Nat} (h : Rules.Fetched core s u) (c : GCtx) (w : Word) (l : Nat) : Rules.joinsAt u c w l ↔ Rules.joinsAt s c w l := by
  rw [h.1]; rfl
theorem leadMeets_fetched {s u : State} {core : Nat} (h : Rules.Fetched core s u) (c : LCtx) (w : Word) : Rules.leadMeets u c w ↔ Rules.leadMeets s c w := by
  rw [h.1]; rfl

section
variable {s : State} {c : GCtx} {w : Word} (hc : gctx s = some c) (h0 : c.path.pos.remain = 0) (hl : c.path.lanes ≠ [])
  (hw : fetch s c.core c.task.space c.task.priv c.path.pos.pc = .word w)
include hc h0 hl hw

theorem header_traps {cause : Cause} (h : (cause = .illegalHeader ∧ ¬Rules.serves w) ∨ (cause = .clauseClass ∧ Rules.serves w ∧ Rules.classAt w .lead))
    (hh : Rules.AllHandled s c) :
    ∃ t u f, exec .clauseHeaderIssue s = .next t ∧ Rules.Fetched c.core s u
      ∧ (∀ l ∈ c.path.lanes, Rules.TrappedAtHeader w c.path.pos.pc cause (s.thread c.gk l) (f l (s.thread c.gk l)))
      ∧ Rules.StandsAt c none [Rules.inHandler c c.path.lanes] (u.onLanes c.gk c.path.lanes f) t := by
  rw [exec_header_group hc h0 hw, headerWord_traps h]
  have hf := noteTlb_fetched s c.core c.task.space (va48 c.path.pos.pc)
  generalize s.noteTlb c.core c.task.space (va48 c.path.pos.pc) = u at hf
  refine ⟨_, u, trappedAt c w c.path.pos c.path.pos.pc (fun _ => { cause := cause, code := 0, addr := 0#64 }), rfl, hf, fun l _ => trappedAtHeader h0 w cause l _, ?_⟩
  exact pathTrap_places ((gctx_fetched hf).trans hc) hl ⟨hh.1, fun l hm => by rw [hf.1]; exact hh.2 l hm⟩ w _

theorem header_stalls (hs : Rules.serves w) (hlead : ¬Rules.classAt w .lead) (h : c.task.state = .starved ∨ ∀ l ∈ c.path.lanes, ¬Rules.meets s c w l) :
    ∃ t u, exec .clauseHeaderIssue s = .next t ∧ Rules.Fetched c.core s u ∧ Rules.StandsAt c none [c.path] u t := by
  rw [exec_header_group hc h0 hw]
  have hf := noteTlb_fetched s c.core c.task.space (va48 c.path.pos.pc)
  generalize s.noteTlb c.core c.task.space (va48 c.path.pos.pc) = u at hf
  obtain ⟨-, hg, hr, -⟩ := gctx_some ((gctx_fetched hf).trans hc)
  rw [headerWord_stalls hs hlead (h.imp_right fun h l hm => mt (meets_fetched hf c w l).mp (h l hm))]
  exact ⟨_, u, rfl, hf, stallPath_places hg hr hl⟩
end

section
variable {s : State} {c : LCtx} {w : Word}

theorem leadHeaderWord_issues (hs : Rules.serves w) (hcls : Rules.classAt w .lead) (hswap : c.team.swap = none) (hstarved : c.task.state ≠ .starved)
    (hm : Rules.leadMeets s c w) :
    Rules.OneTeam c.tk (fun x => { x with lead := { x.lead with
      pc := x.lead.pc + 4#64, remain := w.toNat / 2 ^ 22 % 16, waitb := Rules.inverted w x.lead.waitb } }) s (leadHeaderWord c w s) := by
  have hmet := (leadMet_iff s c w).mpr hm
  unfold leadHeaderWord
  rw [if_neg (by rw [(headerOk_iff w).mpr hs]; decide), if_neg (by rw [(headerCls_iff w .lead).mpr hcls]; decide), Bool.or_assoc, hmet,
    if_neg (by simp [hswap, hstarved]), headerN, toNat_field]
  simp only [inverted_eq]
  exact ⟨rfl, fun k => modLead_teams s c.tk k _⟩

theorem leadHeaderWord_waits (hs : Rules.serves w) (hcls : Rules.classAt w .lead) (hm : ¬Rules.leadMeets s c w) :
    Rules.LeadAt c (fun l => l) s (leadHeaderWord c w s) := by
  have hmet := mt (leadMet_iff s c w).mp hm
  rw [Bool.not_eq_false] at hmet
  unfold leadHeaderWord
  rw [if_neg (by rw [(headerOk_iff w).mpr hs]; decide), if_neg (by rw [(headerCls_iff w .lead).mpr hcls]; decide), Bool.or_assoc, hmet, Bool.or_true, if_pos rfl]
  refine ⟨rfl, fun k => ?_, fun k => core_releaseL s c.core k⟩
  show s.teams.find k = _
  split
  · cases s.teams.find k <;> rfl
  · rfl
end

/-- Settles O36: `header_traps`, `header_stalls`, `headerWord_issues` for groups, `leadHeaderWord_issues` and `leadHeaderWord_waits` for leads. -/
theorem headersIssue : Obligations.HeadersIssue := by
  unfold Obligations.HeadersIssue
  refine ⟨fun s c w hc h0 hl hw => ⟨fun cause h hh => header_traps hc h0 hl hw h hh, fun hs hlead h => header_stalls hc h0 hl hw hs hlead (.inr h), ?_⟩,
    fun s c w _ hc h0 hfree hw hs hcls hswap hstarved => ?_, fun s c w hc h0 hl hw hs hlead h => header_stalls hc h0 hl hw hs hlead (.inl h)⟩
  · intro hs cls hlead hcls hswap hstarved hmeet hapart
    have hf := noteTlb_fetched s c.core c.task.space (va48 c.path.pos.pc)
    rw [exec_header_group hc h0 hw]
    generalize s.noteTlb c.core c.task.space (va48 c.path.pos.pc) = v at hf
    obtain ⟨-, hg, hr, -⟩ := gctx_some ((gctx_fetched hf).trans hc)
    obtain ⟨set, left, u, hword, hpl, hcores, ⟨r, hfind⟩, hset, hleft⟩ := headerWord_issues hg hr hs hcls hlead hswap hstarved
      (by simpa only [meets_fetched hf] using hmeet) hapart
    simp only [meets_fetched hf, joinsAt_fetched hf] at hset hleft
    rw [hword]
    refine ⟨_, c.group.issued c.path w cls set left, set, left, rfl, ?_, fun k => ?_, ?_, fun k hk => ?_, hset, hleft, ?_, fun k => ?_⟩
    · rw [hpl.1, hf.1]; rfl
    · have hk : u.core k = v.core k := by unfold State.core; rw [hcores]
      show u.core k = if k = c.core then { s.core k with cached := (u.core k).cached } else s.core k
      rw [hk]
      exact hf.2 k
    · show (u.groups.mod c.gk _).find c.gk = _
      rw [SMap.find_mod, if_pos rfl, hfind]
      rfl
    · show (u.groups.mod c.gk _).find k = _
      rw [SMap.find_mod, if_neg hk, hpl.2.1 k hk, hf.1]
    · rfl
    · rw [setRunning_threads, find_onLanes, hpl.threads, hf.1]
  · rw [exec_header_lead hc hfree h0 hw]
    have hf := noteTlb_fetched s c.core c.task.space (va48 c.team.lead.pc)
    refine ⟨_, _, rfl, hf, fun hm => ?_, fun hm => ?_⟩
    · exact leadHeaderWord_issues hs hcls hswap hstarved ((leadMeets_fetched hf c w).mpr hm)
    · exact leadHeaderWord_waits hs hcls (mt (leadMeets_fetched hf c w).mp hm)

end Sys2Proof.Machine

/-!
SUPPORT and claims. How teams and tasks end (R36, R247, R298 to R300, R316, R318, R324).
-/
namespace Sys2Proof.Machine

/-! ## The barriers of wider networks -/

/-- Of `s` only the barriers of wider networks, what is sent for them, and the numbers given out have changed. -/
def WidesOnly (s t : State) : Prop := t = { s with wides := t.wides, fibres := t.fibres, nextId := t.nextId }

theorem WidesOnly.refl (s : State) : WidesOnly s s := rfl
theorem WidesOnly.trans {s t u : State} (h : WidesOnly s t) (h' : WidesOnly t u) : WidesOnly s u := by
  unfold WidesOnly at *
  rw [h', h]

theorem widesOnly_podCount (s : State) (task : Nat) (pod : BitVec 16) (w : WideBar) : WidesOnly s (podCount s task pod w) := by
  unfold podCount
  (repeat' split) <;> rfl

theorem widesOnly_wideTeamEnd (s : State) (uid : Nat) : WidesOnly s (wideTeamEnd s uid) := by
  have hfold : ∀ (l : List (Nat × WideBar)) (s : State),
      WidesOnly s (l.foldl (fun (s : State) (e : Nat × WideBar) => if 2 ^ 61 ≤ e.1 then podCount s e.2.task (BitVec.ofNat 16 e.1) e.2 else s) s) := by
    intro l
    induction l with
    | nil => exact WidesOnly.refl
    | cons e l ih =>
      intro s
      refine WidesOnly.trans ?_ (ih _)
      dsimp only
      split
      · exact widesOnly_podCount _ _ _ _
      · exact .refl _
  exact WidesOnly.trans (t := { s with wides := _ }) rfl (hfold _ _)

/-- The last team of a task takes its task out of the barriers (R136). -/
theorem widesOnly_taskEnd (s : State) (task : Nat) : WidesOnly s (if teamsLeft s task = 0 then wideTaskEnd s task else s) := by
  split <;> rfl

/-! ## A team retires (R36, R300) -/

/-- What stands under a key, said as a change of it that changes nothing. -/
theorem SMap.find_self {β : Type} {m : SMap β} {k : Nat} {v : β} (h : m.find k = some v) (j : Nat) : m.find j = if j = k then some v else m.find j := by
  split
  · rename_i hj; rw [hj, h]
  · rfl

/-- What a team holds of its core is free. -/
theorem dropTeam_spec {s : State} {tk : Nat} {t : Team} (ht : s.teams.find tk = some t) :
    let u := dropTeam s tk
    u = { s with teams := s.teams.del tk, groups := u.groups, threads := u.threads, cores := u.cores }
      ∧ ((s.core t.core).array.holder = some t.uid → (u.core t.core).array.holder = none) := by
  unfold dropTeam
  rw [ht]
  refine ⟨rfl, fun h => ?_⟩
  dsimp only
  rw [core_modCore, if_pos rfl]
  show (if (s.core t.core).array.holder == some t.uid then ArraySt.initial else (s.core t.core).array).holder = none
  rw [if_pos (by simpa using h)]
  rfl

/-- A lease goes back to the pool with what has been paid for instructions that have not run. -/
theorem returnLease_spec {s : State} {core task : Nat} {x : Task} (hx : s.tasks.find task = some x) :
    let u := returnLease s core task
    ∃ pool, u = { s with leases := u.leases, tasks := u.tasks } ∧ u.leases.find (leaseKey core task) = none
      ∧ (∀ k, u.tasks.find k = if k = task then some { x with pool := pool } else s.tasks.find k)
      ∧ ∀ l, s.leases.find (leaseKey core task) = some l → pool = x.pool + l.bal + (l.paid.map Prod.snd).sum := by
  unfold returnLease
  cases hl : s.leases.find (leaseKey core task) with
  | none =>
    exact ⟨x.pool, rfl, hl, SMap.find_self hx, fun l h => nomatch h⟩
  | some l =>
    refine ⟨x.pool + l.bal + (l.paid.map Prod.snd).sum, rfl, ?_, fun k => ?_, ?_⟩
    · show (s.leases.del _).find _ = none
      rw [SMap.find_del, if_pos rfl]
    · show (s.tasks.mod task _).find k = _
      rw [SMap.find_mod, hx]
      rfl
    · rintro l' h
      obtain rfl := Option.some.inj h
      rfl

/-- With its last team a task is DRAINING; it has no child that is final to be credited. -/
theorem drainIfDone_spec {s : State} {k : Nat} {x : Task} (hx : s.tasks.find k = some x) (hc : x.children = []) :
    let u := drainIfDone s k
    u = { s with tasks := u.tasks }
      ∧ ∀ j, u.tasks.find j = if j = k then some { x with state := if x.state = .running ∧ x.retired = x.teams then .draining else x.state } else s.tasks.find j := by
  unfold drainIfDone
  rw [hx]
  dsimp only
  simp only [Bool.and_eq_true, decide_eq_true_eq]
  by_cases h : x.state = .running ∧ x.retired = x.teams
  · have hfind : (s.modTask k (fun x => { x with state := .draining })).tasks.find k = some { x with state := .draining } := by
      show (s.tasks.mod k _).find k = _
      rw [SMap.find_mod, if_pos rfl, hx]; rfl
    have hcc : creditChildren (s.modTask k (fun x => { x with state := .draining })) k = s.modTask k (fun x => { x with state := .draining }) := by
      unfold creditChildren
      rw [hfind]
      dsimp only
      rw [hc]; rfl
    rw [if_pos h, if_pos h, hcc]
    refine ⟨rfl, fun j => ?_⟩
    show (s.tasks.mod k _).find j = _
    rw [SMap.find_mod, hx]
    rfl
  · rw [if_neg h, if_neg h]
    exact ⟨rfl, SMap.find_self hx⟩

theorem hasTeamOn_iff (s : State) (task core : Nat) : hasTeamOn s task core = true ↔ ∃ e ∈ s.teams, e.2.task = task ∧ e.2.core = core := by
  simp [hasTeamOn]

/-- The lease of a task on a core goes back with its last team there (R300). -/
theorem leaseBack_spec {s : State} {core task : Nat} {x : Task} (hx : s.tasks.find task = some x) :
    let u := if hasTeamOn s task core then s else returnLease s core task
    ∃ pool, u = { s with leases := u.leases, tasks := u.tasks }
      ∧ (∀ k, u.tasks.find k = if k = task then some { x with pool := pool } else s.tasks.find k)
      ∧ (hasTeamOn s task core = true → u.leases = s.leases ∧ pool = x.pool)
      ∧ (hasTeamOn s task core = false → u.leases.find (leaseKey core task) = none
          ∧ ∀ l, s.leases.find (leaseKey core task) = some l → pool = x.pool + l.bal + (l.paid.map Prod.snd).sum) := by
  cases hasTeamOn s task core with
  | true => exact ⟨x.pool, rfl, SMap.find_self hx, fun _ => ⟨rfl, rfl⟩, fun h => Bool.noConfusion h⟩
  | false =>
    obtain ⟨pool, h1, h2, h3, h4⟩ := returnLease_spec (core := core) hx
    exact ⟨pool, h1, h3, fun h => Bool.noConfusion h, fun _ => ⟨h2, h4⟩⟩

theorem releaseQuad_frame (s : State) (task quad : Nat) :
    releaseQuad s task quad = { s with quadAlloc := (releaseQuad s task quad).quadAlloc, quadPool := (releaseQuad s task quad).quadPool } := by
  unfold releaseQuad
  split <;> rfl

/-- What is left when a team has retired. -/
theorem retireTeam_spec {s : State} {tk : Nat} {t : Team} {x : Task} (ht : s.teams.find tk = some t) (hx : s.tasks.find t.task = some x) (hc : x.children = []) :
    ∃ y, (retireTeam s tk t).teams = s.teams.del tk ∧ (retireTeam s tk t).tasks.find t.task = some y
      ∧ (∀ k, k ≠ t.task → (retireTeam s tk t).tasks.find k = s.tasks.find k)
      ∧ y.retired = x.retired + 1 ∧ y.state = (if x.state = .running ∧ x.retired + 1 = x.teams then .draining else x.state)
      ∧ ((s.core t.core).array.holder = some t.uid → ((retireTeam s tk t).core t.core).array.holder = none)
      ∧ ((∃ e ∈ s.teams.del tk, e.2.task = t.task ∧ e.2.core = t.core) → (retireTeam s tk t).leases = s.leases ∧ y.pool = x.pool)
      ∧ ((¬∃ e ∈ s.teams.del tk, e.2.task = t.task ∧ e.2.core = t.core) → (retireTeam s tk t).leases.find (leaseKey t.core t.task) = none
          ∧ ∀ l, s.leases.find (leaseKey t.core t.task) = some l → y.pool = x.pool + l.bal + (l.paid.map Prod.snd).sum) := by
  unfold retireTeam
  dsimp only
  generalize hs1 : s.modTask t.task (fun k => { k with retired := k.retired + 1, know := Stamp.merge k.know (s.node (dieOf t.core)).k }) = s1
  have hx1 : s1.tasks.find t.task = some { x with retired := x.retired + 1, know := Stamp.merge x.know (s.node (dieOf t.core)).k } := by
    rw [← hs1]
    show (s.tasks.mod t.task _).find _ = _
    rw [SMap.find_mod, if_pos rfl, hx]; rfl
  have hother : ∀ k, k ≠ t.task → s1.tasks.find k = s.tasks.find k := fun k hk => by
    rw [← hs1]
    show (s.tasks.mod t.task _).find _ = _
    rw [SMap.find_mod, if_neg hk]
  have hs1' : s1.teams = s.teams ∧ s1.leases = s.leases ∧ s1.core t.core = s.core t.core := by rw [← hs1]; exact ⟨rfl, rfl, rfl⟩
  obtain ⟨hteams1, hleases1, hcore1⟩ := hs1'
  obtain ⟨hd, hholder⟩ := dropTeam_spec (s := s1) (tk := tk) (t := t) (by rw [hteams1]; exact ht)
  generalize dropTeam s1 tk = s2 at hd hholder
  have hw := (widesOnly_wideTeamEnd s2 t.uid).trans (widesOnly_taskEnd (wideTeamEnd s2 t.uid) t.task)
  generalize (if teamsLeft (wideTeamEnd s2 t.uid) t.task = 0 then wideTaskEnd (wideTeamEnd s2 t.uid) t.task else wideTeamEnd s2 t.uid) = s4 at hw
  have hs4 : s4.tasks = s1.tasks ∧ s4.teams = s.teams.del tk ∧ s4.leases = s.leases ∧ s4.cores = s2.cores := by
    rw [hw]
    dsimp only
    exact ⟨by rw [hd], by rw [hd, hteams1], by rw [hd, hleases1], rfl⟩
  obtain ⟨htasks4, hteams4, hleases4, hcores4⟩ := hs4
  obtain ⟨pool, h5, htasks5, hstay5, hback5⟩ := leaseBack_spec (s := s4) (core := t.core) (x := { x with retired := x.retired + 1, know := Stamp.merge x.know (s.node (dieOf t.core)).k })
    (by rw [htasks4]; exact hx1)
  generalize (if hasTeamOn s4 t.task t.core then s4 else returnLease s4 t.core t.task) = s5 at h5 htasks5 hstay5 hback5
  have h6 := releaseQuad_frame s5 t.task (quadOf t.core)
  generalize releaseQuad s5 t.task (quadOf t.core) = s6 at h6
  obtain ⟨h7, htasks7⟩ := drainIfDone_spec (s := s6) (k := t.task)
    (x := { x with retired := x.retired + 1, know := Stamp.merge x.know (s.node (dieOf t.core)).k, pool := pool })
    (by rw [h6]; show s5.tasks.find t.task = _; rw [htasks5, if_pos rfl]) hc
  generalize drainIfDone s6 t.task = s7 at h7 htasks7
  have hteams7 : s7.teams = s.teams.del tk := by rw [h7, h6, h5]; exact hteams4
  have hleases7 : s7.leases = s5.leases := by rw [h7, h6]
  have hcores7 : s7.cores = s2.cores := by rw [h7, h6, h5]; exact hcores4
  have hon : hasTeamOn s4 t.task t.core = true ↔ ∃ e ∈ s.teams.del tk, e.2.task = t.task ∧ e.2.core = t.core := by rw [hasTeamOn_iff, hteams4]
  refine ⟨_, hteams7, by rw [htasks7, if_pos rfl], fun k hk => ?_, rfl, rfl, fun h => ?_, fun h => ?_, fun h => ?_⟩
  · rw [htasks7, if_neg hk, h6]
    show s5.tasks.find k = _
    rw [htasks5, if_neg hk, htasks4, hother k hk]
  · unfold State.core
    rw [hcores7]
    exact hholder (by rw [hcore1]; exact h)
  · obtain ⟨hl, hp⟩ := hstay5 (hon.mpr h)
    exact ⟨by rw [hleases7, hl, hleases4], hp⟩
  · obtain ⟨hl, hp⟩ := hback5 (Bool.eq_false_iff.mpr (mt hon.mp h))
    rw [hleases4] at hp
    exact ⟨by rw [hleases7]; exact hl, hp⟩

/-! ## Credits of final children (R299, R316) -/

/-- Of `s` only the task records, with the generations and what goes with a record that is released, have changed. -/
def RecordsOnly (s t : State) : Prop := t = { s with tasks := t.tasks, gens := t.gens, hist := t.hist, opqs := t.opqs }

theorem RecordsOnly.trans {s t u : State} (h : RecordsOnly s t) (h' : RecordsOnly t u) : RecordsOnly s u := by
  unfold RecordsOnly at *
  rw [h', h]

/-- A record with a child that has been credited and is gone. -/
def Task.credited (y : Task) (k remainder : Nat) (know : Stamp) : Task :=
  { y with pool := y.pool + remainder, know := Stamp.merge y.know know, children := y.children.filter (fun c => c != k) }

theorem releaseTask_spec {s : State} {k : Nat} {x : Task} (hx : s.tasks.find k = some x) :
    let u := releaseTask s k
    RecordsOnly s u ∧ u.gens.find k = some (nextGen x.gen)
      ∧ ∀ j, u.tasks.find j = if j = k then none
          else if some j = x.parent then (s.tasks.find j).map (fun y => { y with children := y.children.filter (fun c => c != k) }) else s.tasks.find j := by
  unfold releaseTask
  rw [hx]
  dsimp only
  have hdel : ∀ j, (s.tasks.del k).find j = if j = k then none else s.tasks.find j := fun j => SMap.find_del _ _ _
  have hgen : (s.gens.put k (nextGen x.gen)).find k = some (nextGen x.gen) := SMap.find_put_same _ _ _
  cases hp : x.parent with
  | none => exact ⟨rfl, hgen, fun j => by simp only [hdel, reduceCtorEq, if_false]⟩
  | some p =>
    refine ⟨rfl, hgen, fun j => ?_⟩
    show ((s.tasks.del k).mod p _).find j = _
    rw [SMap.find_mod, hdel, hdel]
    simp only [Option.some.injEq]
    by_cases hjk : j = k
    · subst hjk
      by_cases hjp : j = p
      · subst hjp; simp
      · simp [hjp]
    · by_cases hjp : j = p
      · subst hjp; simp [hjk]
      · simp [hjp, hjk]

/-- A child that is final is credited to its parent, and its entry is free. -/
theorem creditChild_spec {s : State} {p k : Nat} {t y : Task} (ht : s.tasks.find k = some t) (hf : t.state.final = true) (hp : t.parent = some p) (hpk : p ≠ k)
    (hy : s.tasks.find p = some y) :
    let u := creditChild s p k
    RecordsOnly s u ∧ ∀ j, u.tasks.find j = if j = k then none else if j = p then some (y.credited k t.remainder t.know) else s.tasks.find j := by
  unfold creditChild
  rw [ht]
  dsimp only
  rw [if_pos hf]
  have hmod : ∀ j, (s.modTask p (fun x => { x with pool := x.pool + t.remainder, know := Stamp.merge x.know t.know })).tasks.find j =
      if j = p then some { y with pool := y.pool + t.remainder, know := Stamp.merge y.know t.know } else s.tasks.find j := fun j => by
    show (s.tasks.mod p _).find j = _
    rw [SMap.find_mod, hy]; rfl
  obtain ⟨h1, -, h2⟩ := releaseTask_spec (s := s.modTask p (fun x => { x with pool := x.pool + t.remainder, know := Stamp.merge x.know t.know })) (k := k) (x := t)
    (by rw [hmod, if_neg (Ne.symm hpk)]; exact ht)
  refine ⟨RecordsOnly.trans (t := s.modTask p _) rfl h1, fun j => ?_⟩
  rw [h2, hmod, hp]
  simp only [Option.some.injEq]
  by_cases hj : j = p
  · simp [hj, Task.credited]
  · simp [hj]

/-- What the children of a task leave, as their records say. -/
def remainders (s : State) (cs : List Nat) : Nat := (cs.map (fun k => ((s.tasks.find k).map Task.remainder).getD 0)).sum

/-- When all its children are credited, a task has none. -/
theorem creditEach_spec {s : State} {p : Nat} {x : Task} (hx : s.tasks.find p = some x) {cs : List Nat} (hn : cs.Nodup) (hp : p ∉ cs)
    (hc : ∀ k ∈ cs, ∃ y, s.tasks.find k = some y ∧ y.state.final = true ∧ y.parent = some p) :
    let u := cs.foldl (fun s c => creditChild s p c) s
    RecordsOnly s u ∧ ∃ know, ∀ j, u.tasks.find j = if j ∈ cs then none
      else if j = p then some { x with pool := x.pool + remainders s cs, know := know, children := x.children.filter (fun c => !cs.contains c) } else s.tasks.find j := by
  induction cs generalizing s x with
  | nil =>
    refine ⟨rfl, x.know, fun j => ?_⟩
    have hfil : x.children.filter (fun c => !List.contains [] c) = x.children := List.filter_eq_self.mpr (by simp)
    rw [if_neg (by simp), hfil]
    exact SMap.find_self hx j
  | cons c cs ih =>
    obtain ⟨hcn, hn⟩ := List.nodup_cons.mp hn
    obtain ⟨y, hy, hyf, hyp⟩ := hc c List.mem_cons_self
    have hpc : p ≠ c := fun h => hp (h ▸ List.mem_cons_self)
    obtain ⟨h1, h2⟩ := creditChild_spec hy hyf hyp hpc hx
    rw [List.foldl_cons]
    have hkeep : ∀ k ∈ cs, (creditChild s p c).tasks.find k = s.tasks.find k := fun k hk => by
      rw [h2, if_neg (fun h : k = c => hcn (h ▸ hk)), if_neg (fun h : k = p => hp (h ▸ List.mem_cons_of_mem _ hk))]
    obtain ⟨h3, know, h4⟩ := ih (s := creditChild s p c) (x := x.credited c y.remainder y.know) (by rw [h2, if_neg hpc, if_pos rfl]) hn
      (fun h => hp (List.mem_cons_of_mem _ h)) (fun k hk => by rw [hkeep k hk]; exact hc k (List.mem_cons_of_mem _ hk))
    refine ⟨h1.trans h3, know, fun j => ?_⟩
    have hsum : remainders (creditChild s p c) cs = remainders s cs := by
      unfold remainders
      rw [List.map_congr_left fun k hk => by rw [hkeep k hk]]
    have htotal : y.remainder + remainders s cs = remainders s (c :: cs) := by
      unfold remainders
      rw [List.map_cons, List.sum_cons, hy]; rfl
    have hfil : (x.children.filter (fun j => j != c)).filter (fun j => !cs.contains j) = x.children.filter (fun j => !(c :: cs).contains j) := by
      rw [List.filter_filter]
      refine List.filter_congr fun j _ => ?_
      by_cases hjc : j = c <;> simp [hjc, hcn]
    rw [h4, hsum, h2]
    by_cases hjc : j = c
    · subst hjc; simp [hcn, Ne.symm hpc]
    · by_cases hjm : j ∈ cs
      · simp [hjm]
      · by_cases hjp : j = p
        · subst hjp
          simp only [hjm, if_false, if_true, List.mem_cons, hjc, or_self, Task.credited]
          rw [hfil, Nat.add_assoc, htotal]
        · simp [hjm, hjp, hjc]

end Sys2Proof.Machine

/-!
SUPPORT and claims. How tasks reach their final states: the status entry of a root, the rows, TASK_COMPLETION and UNWIND_END (R247, R299, R315, R316, R324).
-/
namespace Sys2Proof.Machine

/-! ## The status ring (R324) -/

theorem wrote_writePa {s : State} {kind : Nat} (pa : Nat) (bs : List Byte) : Rules.Wrote kind pa bs s (s.writePa kind pa bs) ∨ 2 < kind := by
  by_cases h : 2 < kind
  · exact .inr h
  · refine .inl fun k hk a => ?_
    obtain rfl | rfl | rfl : kind = 0 ∨ kind = 1 ∨ kind = 2 := by omega
    all_goals
      obtain rfl | rfl | rfl : k = 0 ∨ k = 1 ∨ k = 2 := by omega
    all_goals simp [Rules.byteOf, State.writePa, Memory.byte_setBytes]

/-- What has been written stays as long as the memories do. -/
theorem wrote_of_kept {s t u : State} {kind pa : Nat} {bs : List Byte} (h : Rules.Wrote kind pa bs s t) (hu : u.kept = t.kept) : Rules.Wrote kind pa bs s u := by
  simp only [State.kept, Prod.mk.injEq] at hu
  obtain ⟨hfar, hnear, hhost, -, -⟩ := hu
  intro k hk a
  rw [← h k hk a, Rules.byteOf, Rules.byteOf, hfar, hnear, hhost]

/-- A write of a ring at a place that is no I/O space. -/
theorem wrote_ringWrite (s : State) {p : Place} (hk : p.kind < 3) (off : Nat) (bs : List Byte) : Rules.Wrote p.kind (p.pa + off) bs s (ringWrite s p off bs) := by
  have hw : Rules.Wrote p.kind (p.pa + off) bs s (s.writePa p.kind (p.pa + off) bs) := (wrote_writePa _ _).resolve_right (by omega)
  have hl : s.writeLoc (placeLoc p off) bs = s.writePa p.kind (p.pa + off) bs := by
    rw [State.writeLoc, framePa, placeLoc, if_pos rfl]
  have hk3 : (placeLoc p off).kind ≠ 3 := by unfold placeLoc; dsimp only; omega
  unfold ringWrite applyWrite
  rw [if_neg hk3, hl]
  dsimp only
  split
  · exact hw
  · exact hw

theorem ringOk_kind {s : State} {b : Place} (h : ringOk s b = true) : b.kind < 3 := by
  simp only [ringOk, Bool.and_eq_true, decide_eq_true_eq, and_assoc] at h
  exact h.1

theorem openRing_kind {s : State} {q : Nat} {b : Place} (h : openRing s q = some b) : b.kind < 3 := by
  unfold openRing at h
  split at h
  · cases h
  · split at h
    · rename_i hb
      obtain rfl := Option.some.inj h
      rw [Bool.and_eq_true] at hb
      exact ringOk_kind hb.2
    · cases h

/-- Of `s` only what the host's memory and its link, the queues and the platform hold has changed. -/
def PlatOnly (s t : State) : Prop :=
  t = { s with far := t.far, near := t.near, hostMem := t.hostMem, link := t.link, queues := t.queues, plat := t.plat }

theorem ringWrite_frame (s : State) (p : Place) (off : Nat) (bs : List Byte) : PlatOnly s (ringWrite s p off bs) := by
  unfold ringWrite applyWrite State.writeLoc State.writePa
  dsimp only
  (repeat' split) <;> rfl

theorem sendInterrupt_frame (s : State) (addr : DWord) (data : BitVec 32) : sendInterrupt s addr data = { s with link := (sendInterrupt s addr data).link } := rfl

theorem logError_frame (s : State) (transient : Bool) (code src : Nat) (detail : BitVec 96) :
    logError s transient code src detail = { s with link := (logError s transient code src detail).link, plat := (logError s transient code src detail).plat } := by
  unfold logError
  dsimp only
  split <;> rfl

/-- An interrupt leaves the queues as they are. -/
theorem statusInterrupt_frame (s : State) (n : Nat) : statusInterrupt s n = { s with link := (statusInterrupt s n).link, plat := (statusInterrupt s n).plat } := by
  unfold statusInterrupt
  dsimp only
  split
  · split
    · split
      · rfl
      · exact logError_frame _ _ _ _ _
    · exact logError_frame _ _ _ _ _
  · rfl

theorem statusEntry_spec (s : State) (q : Nat) (handle : BitVec 32) (status : DWord) (remainder : Nat) :
    PlatOnly s (statusEntry s q handle status remainder)
      ∧ ∀ b, openRing s q = some b → Rules.StatusGiven q b handle.toNat status remainder s (statusEntry s q handle status remainder) := by
  unfold statusEntry
  cases hb : openRing s q with
  | none => exact ⟨rfl, fun b h => nomatch h⟩
  | some b =>
    dsimp only
    have hw := wrote_ringWrite s (p := ringEntry s b (s.queue q).statusSeq) (show b.kind < 3 from openRing_kind hb) 0
      (bytesOfNat 8 handle.toNat ++ bytesOfNat 8 status.toNat ++ bytesOfNat 8 remainder ++ bytesOfNat 8 (s.queue q).statusSeq)
    have hf := ringWrite_frame s (ringEntry s b (s.queue q).statusSeq) 0
      (bytesOfNat 8 handle.toNat ++ bytesOfNat 8 status.toNat ++ bytesOfNat 8 remainder ++ bytesOfNat 8 (s.queue q).statusSeq)
    generalize ringWrite s (ringEntry s b (s.queue q).statusSeq) 0
      (bytesOfNat 8 handle.toNat ++ bytesOfNat 8 status.toNat ++ bytesOfNat 8 remainder ++ bytesOfNat 8 (s.queue q).statusSeq) = u at hw hf
    have hseq : ((u.modQueue q (fun x => { x with statusSeq := (s.queue q).statusSeq + 1 })).queue q).statusSeq = (s.queue q).statusSeq + 1 := by
      unfold State.modQueue State.queue
      dsimp only
      rw [SMap.get_set_same]
    have hinner : PlatOnly s (u.modQueue q (fun x => { x with statusSeq := (s.queue q).statusSeq + 1 })) := by
      unfold PlatOnly State.modQueue at *
      rw [hf]
    have hgiven : ∀ t, t.kept = u.kept → (t.queue q).statusSeq = (s.queue q).statusSeq + 1 → Rules.StatusGiven q b handle.toNat status remainder s t := by
      intro t ht hq
      refine ⟨hq, ?_⟩
      simp only [numBytes_eq_bytesOfNat]
      exact wrote_of_kept hw ht
    split
    · have hi := statusInterrupt_frame (u.modQueue q (fun x => { x with statusSeq := (s.queue q).statusSeq + 1 })) (q - 16)
      have hk := statusInterrupt_kept (u.modQueue q (fun x => { x with statusSeq := (s.queue q).statusSeq + 1 })) (q - 16)
      generalize statusInterrupt (u.modQueue q (fun x => { x with statusSeq := (s.queue q).statusSeq + 1 })) (q - 16) = v at hi hk
      refine ⟨?_, fun b' h => ?_⟩
      · unfold PlatOnly at *
        rw [hi, hinner]
      · obtain rfl := Option.some.inj h
        exact hgiven v hk (by rw [hi]; exact hseq)
    · refine ⟨hinner, fun b' h => ?_⟩
      obtain rfl := Option.some.inj h
      exact hgiven _ rfl hseq

/-! ## Rows pass to the parent, those of a root are freed (R247) -/

/-- Of `s` only the rows, what is held at their homes, and what nodes send have changed. -/
def RowsOnly (s t : State) : Prop := t = { s with rows := t.rows, heldReqs := t.heldReqs, nodes := t.nodes }

theorem RowsOnly.trans {s t u : State} (h : RowsOnly s t) (h' : RowsOnly t u) : RowsOnly s u := by
  unfold RowsOnly at *
  rw [h', h]

/-- Answers that the elements of a list are given show in the nodes alone. -/
theorem foldl_nodes {α : Type} {f : State → α → State} (hf : ∀ s x, ∃ ns, f s x = { s with nodes := ns }) (l : List α) (s : State) :
    ∃ ns, l.foldl f s = { s with nodes := ns } := by
  induction l generalizing s with
  | nil => exact ⟨_, rfl⟩
  | cons x l ih =>
    obtain ⟨ns, hn⟩ := hf s x
    obtain ⟨ms, hm⟩ := ih (f s x)
    exact ⟨ms, by rw [List.foldl_cons, hm, hn]⟩

theorem freeRow_eq (s : State) (row : Nat) :
    ∃ ns, freeRow s row = { s with rows := s.rows.del row, heldReqs := s.heldReqs.filter (fun h => !h.atRow row), nodes := ns } :=
  foldl_nodes (fun s h => by cases h <;> exact ⟨_, rfl⟩) _ _

theorem freeRow_spec (s : State) (row : Nat) : RowsOnly s (freeRow s row) ∧ (freeRow s row).rows = s.rows.del row := by
  obtain ⟨ns, h⟩ := freeRow_eq s row
  rw [h]
  exact ⟨rfl, rfl⟩

/-- A removed key is no key of the map. -/
theorem SMap.ne_of_mem_del {β : Type} {m : SMap β} {k : Nat} {x : Nat × β} (h : x ∈ m.del k) : x.1 ≠ k := by
  induction m with
  | nil => cases h
  | cons e m ih =>
    simp only [SMap.del] at h
    split at h
    · exact ih h
    · rename_i hk
      rcases List.mem_cons.mp h with rfl | h
      · exact Ne.symm hk
      · exact ih h

/-- Rows that are freed one after the other. -/
theorem freeRows_spec (l : List (Nat × Row)) (s : State) :
    RowsOnly s (l.foldl (fun s e => freeRow s e.1) s) ∧ ∀ e ∈ (l.foldl (fun s e => freeRow s e.1) s).rows, e ∈ s.rows ∧ ∀ r ∈ l, r.1 ≠ e.1 := by
  induction l generalizing s with
  | nil => exact ⟨rfl, fun e he => ⟨he, fun r hr => nomatch hr⟩⟩
  | cons r l ih =>
    obtain ⟨h1, h2⟩ := freeRow_spec s r.1
    obtain ⟨h3, h4⟩ := ih (freeRow s r.1)
    refine ⟨h1.trans h3, fun e he => ?_⟩
    obtain ⟨hmem, hne⟩ := h4 e he
    rw [h2] at hmem
    refine ⟨SMap.mem_del hmem, fun x hx => ?_⟩
    rcases List.mem_cons.mp hx with rfl | hx
    · exact Ne.symm (SMap.ne_of_mem_del hmem)
    · exact hne x hx

/-- The rows of a task that completes (R247). -/
theorem passRows_spec (s : State) (k : Nat) :
    (RowsOnly s (passRows s k none) ∧ ∀ e ∈ (passRows s k none).rows, e.2.owner ≠ k)
      ∧ ∀ p, RowsOnly s (passRows s k (some p))
        ∧ ∀ r row, s.rows.find r = some row → (passRows s k (some p)).rows.find r = some { row with owner := if row.owner = k then p else row.owner } := by
  refine ⟨?_, fun p => ⟨rfl, fun r row hr => ?_⟩⟩
  · obtain ⟨h1, h2⟩ := freeRows_spec (s.rows.filter (fun e => e.2.owner == k)) s
    refine ⟨h1, fun e he ho => ?_⟩
    obtain ⟨hmem, hne⟩ := h2 e he
    exact hne e (List.mem_filter.mpr ⟨hmem, by simpa using ho⟩) rfl
  · have hrows : (passRows s k (some p)).rows = s.rows.map (fun e => (e.1, (fun x : Row => { x with owner := if x.owner = k then p else x.owner }) e.2)) := by
      unfold passRows
      refine List.map_congr_left fun e _ => ?_
      by_cases ho : e.2.owner = k
      · simp [ho]
      · simp [ho]
    rw [hrows, SMap.find_map s.rows (fun x : Row => { x with owner := if x.owner = k then p else x.owner }), hr]
    rfl

/-! ## Final states (R298, R299) -/

/-- A record that has reached a final state. -/
def Task.finished (x : Task) (st : TaskState) : Task := { x with state := st, remainder := x.pool, pool := 0 }

theorem status_eq (x : Task) : x.status = Rules.statusOf x := by
  unfold Task.status statusWord Rules.statusOf
  apply BitVec.eq_of_toNat_eq
  have hc : x.state.code < 16 := by cases x.state <;> decide
  have hd := x.dropb.isLt
  simp only [toNat_append_eq_add, BitVec.toNat_ofNat, BitVec.toNat_ofBool]
  cases x.late <;> cases x.drop <;> simp <;> omega

theorem handle_eq (x : Task) (k : Nat) : (x.handle k).toNat = 2 ^ 16 * x.gen.toNat + k % 2 ^ 16 := by
  unfold Task.handle handleOf
  rw [toNat_append_eq_add, BitVec.toNat_ofNat]
  omega

theorem nextGen_eq (g : BitVec 16) : nextGen g = Rules.genAfter g := by
  unfold nextGen Rules.genAfter
  have : g = 0xFFFF#16 ↔ g.toNat = 2 ^ 16 - 1 := by rw [← BitVec.toNat_inj]; rfl
  simp only [this]

/-- A root reports in its status ring, and its entry is free. -/
theorem finishTask_root {s : State} {k : Nat} {x : Task} {st : TaskState} (hx : s.tasks.find k = some x) (hp : x.parent = none) :
    Rules.RootGone k x (Rules.statusOf { x with state := st }) x.pool s (finishTask s k st)
      ∧ (finishTask s k st).rows = s.rows ∧ ∀ j, j ≠ k → (finishTask s k st).tasks.find j = s.tasks.find j := by
  unfold finishTask
  dsimp only
  generalize hv : s.modTask k (fun t => { t with state := st, remainder := t.pool, pool := 0 }) = v
  have hv' : v = { s with tasks := v.tasks } := by rw [← hv]; rfl
  have hfind : ∀ j, v.tasks.find j = if j = k then some (x.finished st) else s.tasks.find j := fun j => by
    rw [← hv]
    show (s.tasks.mod k _).find j = _
    rw [SMap.find_mod, hx]; rfl
  have hk : v.tasks.find k = some (x.finished st) := by rw [hfind, if_pos rfl]
  rw [hk]
  dsimp only
  rw [show (x.finished st).parent = none from hp]
  dsimp only
  obtain ⟨hplat, hgiven⟩ := statusEntry_spec v (x.finished st).queue ((x.finished st).handle k) (x.finished st).status (x.finished st).remainder
  generalize statusEntry v (x.finished st).queue ((x.finished st).handle k) (x.finished st).status (x.finished st).remainder = w at hplat hgiven
  obtain ⟨hrel, hgen, htasks⟩ := releaseTask_spec (s := w) (k := k) (x := x.finished st) (by rw [hplat]; exact hk)
  generalize releaseTask w k = u at hrel hgen htasks
  have hstatus : (x.finished st).status = Rules.statusOf { x with state := st } := status_eq _
  refine ⟨⟨by rw [htasks, if_pos rfl], by rw [hgen, nextGen_eq]; rfl, fun b hb => ?_⟩, ?_, fun j hj => ?_⟩
  · have hb' : openRing v (x.finished st).queue = some b := by
      rw [hv']; exact hb
    have h := hgiven b hb'
    rw [handle_eq, hstatus] at h
    obtain ⟨h1, h2⟩ := h
    rw [hv'] at h1 h2
    refine ⟨?_, ?_⟩
    · rw [hrel]; exact h1
    · exact wrote_of_kept h2 (by rw [hrel]; rfl)
  · rw [hrel, hplat, hv']
  · rw [htasks, if_neg hj, show (x.finished st).parent = none from hp, if_neg (by simp), hplat]
    show v.tasks.find j = _
    rw [hfind, if_neg hj]

/-- A task with a parent that is DRAINING is credited at once; any other waits for its parent. -/
theorem finishTask_child {s : State} {k p : Nat} {x : Task} {st : TaskState} (hx : s.tasks.find k = some x) (hp : x.parent = some p) (hf : st.final = true) :
    RecordsOnly s (finishTask s k st)
      ∧ ((∀ y, s.tasks.find p = some y → p ≠ k → y.state = .draining →
            ∀ j, (finishTask s k st).tasks.find j = if j = k then none else if j = p then some (y.credited k x.pool x.know) else s.tasks.find j))
      ∧ ((∀ y, p ≠ k → s.tasks.find p = some y → y.state ≠ .draining) →
            ∀ j, (finishTask s k st).tasks.find j = if j = k then some (x.finished st) else s.tasks.find j) := by
  unfold finishTask
  dsimp only
  generalize hv : s.modTask k (fun t => { t with state := st, remainder := t.pool, pool := 0 }) = v
  have hv' : RecordsOnly s v := by rw [← hv]; rfl
  have hfind : ∀ j, v.tasks.find j = if j = k then some (x.finished st) else s.tasks.find j := fun j => by
    rw [← hv]
    show (s.tasks.mod k _).find j = _
    rw [SMap.find_mod, hx]; rfl
  have hk : v.tasks.find k = some (x.finished st) := by rw [hfind, if_pos rfl]
  have hnd : st ≠ .draining := by rintro rfl; cases hf
  rw [hk]
  dsimp only
  rw [show (x.finished st).parent = some p from hp]
  dsimp only
  by_cases hpk : p = k
  · subst hpk
    rw [hk]
    dsimp only
    rw [if_neg (show (x.finished st).state ≠ .draining from hnd)]
    exact ⟨hv', fun y _ h => absurd rfl h, fun _ => hfind⟩
  · have hvp : v.tasks.find p = s.tasks.find p := by rw [hfind, if_neg hpk]
    rw [hvp]
    cases hy : s.tasks.find p with
    | none => exact ⟨hv', fun y h => (nomatch h), fun _ => hfind⟩
    | some y =>
      dsimp only
      by_cases hd : y.state = .draining
      · rw [if_pos hd]
        obtain ⟨h1, h2⟩ := creditChild_spec hk (p := p) (y := y) hf hp hpk (by rw [hvp]; exact hy)
        refine ⟨hv'.trans h1, fun y' h _ _ j => ?_, fun h => absurd hd (h y hpk rfl)⟩
        obtain rfl := Option.some.inj h
        rw [h2, hfind]
        by_cases hjk : j = k
        · simp [hjk]
        · simp only [hjk, if_false]
          rfl
      · rw [if_neg hd]
        refine ⟨hv', fun y' h _ hdr => ?_, fun _ => hfind⟩
        obtain rfl := Option.some.inj h
        exact absurd hdr hd

/-- No record comes to be when a task reaches its final state. -/
theorem finishTask_absent {s : State} {k j : Nat} {x : Task} {st : TaskState} (hx : s.tasks.find k = some x) (hf : st.final = true) (hj : j ≠ k)
    (hn : s.tasks.find j = none) : (finishTask s k st).tasks.find j = none := by
  cases hp : x.parent with
  | none => rw [(finishTask_root hx hp).2.2 j hj]; exact hn
  | some p =>
    obtain ⟨-, hdrains, hwaits⟩ := finishTask_child hx hp hf
    by_cases h : ∃ y, s.tasks.find p = some y ∧ p ≠ k ∧ y.state = .draining
    · obtain ⟨y, hy, hpk, hd⟩ := h
      have hjp : j ≠ p := by rintro rfl; rw [hn] at hy; cases hy
      rw [hdrains y hy hpk hd, if_neg hj, if_neg hjp]; exact hn
    · rw [hwaits (fun y hpk hy hd => h ⟨y, hy, hpk, hd⟩), if_neg hj]; exact hn

/-! ## The home units' turn (R307) -/

theorem finishStep_frame (s : State) (task : Nat) (x : Task) : s.finishStep task x = { s with fresh := (s.finishStep task x).fresh } := by
  unfold State.finishStep
  dsimp only
  cases x.parent with
  | none => rfl
  | some p => dsimp only; split <;> rfl

theorem finishMay_of_turn {s : State} {task : Nat} {x : Task} (h : Rules.finishTurn s task x) : finishMay s task x = true := by
  obtain ⟨h1, h2⟩ := h
  unfold finishMay unitNew unitMay
  rw [Bool.and_eq_true, decide_eq_true_eq]
  refine ⟨h1, ?_⟩
  cases hp : x.parent with
  | none => rfl
  | some p =>
    dsimp only
    cases hy : s.tasks.find p with
    | none => simp
    | some y =>
      dsimp only
      by_cases hd : y.state = .draining
      · simp [h2 p y hp hy hd]
      · simp [hd]

/-! ## TEAM_RETIREMENT, TASK_COMPLETION and UNWIND_END -/

theorem groupsOf_nil {s : State} {tk : Nat} (h : ∀ e ∈ s.groups, e.2.team ≠ tk) : groupsOf s tk = [] := by
  unfold groupsOf
  rw [List.filter_eq_nil_iff]
  exact fun e he => by simpa using h e he

theorem teamRetirement_runs {s : State} {tk : Nat} {tm : Team} (ht : s.teams.find tk = some tm) (hg : ∀ e ∈ s.groups, e.2.team ≠ tk)
    (hl : tm.lead.ended = true ∨ tm.lead.stopped = true) (he : enginesDone s tm = true) : exec (.teamRetirement tk) s = .next (retireTeam s tk tm) := by
  show execTeamRetirement tk s = _
  unfold execTeamRetirement
  rw [ht]
  dsimp only
  rw [if_pos (by rw [groupsOf_nil hg, he]; simpa using hl)]

theorem taskCompletion_runs {s : State} {task : Nat} {x : Task} (hx : s.tasks.find task = some x) (hs : x.state = .draining) (hc : x.children = [])
    (hq : taskQuiet s task = true) (ht : Rules.finishTurn s task x) :
    exec (.taskCompletion task) s = .next (finishTask (passRows (s.finishStep task x) task x.parent) task .completed) := by
  show execTaskCompletion task s = _
  unfold execTaskCompletion
  rw [hx]
  dsimp only
  rw [if_pos (by rw [finishMay_of_turn ht, completes, hs, hc, hq]; rfl)]

theorem unwindEnd_runs {s : State} {task : Nat} {x : Task} (hx : s.tasks.find task = some x) (hs : x.state = .unwinding) (hq : taskQuiet s task = true)
    (ht : Rules.finishTurn s task x) (hc : ∀ k ∈ x.children, ∃ y, s.tasks.find k = some y ∧ y.state.final = true ∧ y.parent = some task) :
    exec (.unwindEnd task) s = .next (finishTask (creditChildren (s.finishStep task x) task) task (if x.cause = 0 then .unwound else .failed)) := by
  have hfinal : childrenFinal s x = true := by
    unfold childrenFinal
    rw [List.all_eq_true]
    intro k hk
    obtain ⟨y, hy, hf, -⟩ := hc k hk
    rw [hy]
    exact hf
  show execUnwindEnd task s = _
  unfold execUnwindEnd
  rw [hx]
  dsimp only
  rw [if_pos (by rw [finishMay_of_turn ht, hs, hfinal, hq]; rfl)]

/-- What a root leaves is said of the state from which the home units took their turn. -/
theorem rootGone_of_frame {s u t : State} {task : Nat} {x : Task} {status : DWord} {remainder : Nat} (h : Rules.RootGone task x status remainder u t)
    (hu : u = { s with fresh := u.fresh, tasks := u.tasks, gens := u.gens, hist := u.hist, opqs := u.opqs, rows := u.rows, heldReqs := u.heldReqs, nodes := u.nodes }) :
    Rules.RootGone task x status remainder s t := by
  rw [hu] at h
  exact h

/-- Settles O46: `retireTeam_spec` for teams; `passRows_spec`, `creditEach_spec`, `finishTask_child` and `finishTask_root` for tasks. -/
theorem teamsAndTasksEnd : Obligations.TeamsAndTasksEnd := by
  unfold Obligations.TeamsAndTasksEnd
  refine ⟨fun s tk tm x ht hx hg hl he hc _ => ?_, fun s task x hx hs hc hq hturn => ?_, fun s task x hx hs hn hself hq hturn hc => ?_⟩
  · obtain ⟨y, h1, h2, h3, h4, h5, h6, h7, h8⟩ := retireTeam_spec ht hx hc
    refine ⟨retireTeam s tk tm, y, teamRetirement_runs ht hg hl he, ?_, fun k hk => ?_, h2, h3, h4, h5, h6, ?_⟩
    · rw [h1, SMap.find_del, if_pos rfl]
    · rw [h1, SMap.find_del, if_neg hk]
    · split
      · rename_i h; rw [h1] at h; exact h7 h
      · rename_i h; rw [h1] at h; exact h8 h
  · rw [taskCompletion_runs hx hs hc hq hturn]
    refine ⟨_, rfl, fun p hp hpt => ?_, fun hp => ?_⟩
    · have hstep := finishStep_frame s task x
      generalize s.finishStep task x = u at hstep
      obtain ⟨hrows, hfind⟩ := (passRows_spec u task).2 p
      rw [hp]
      generalize passRows u task (some p) = v at hrows hfind
      have hv : v.tasks = s.tasks := by rw [hrows, hstep]
      obtain ⟨hrec, hdrains, hwaits⟩ := finishTask_child (s := v) (st := .completed) (by rw [hv]; exact hx) hp rfl
      refine ⟨fun r row hr => ?_, fun y hy => ?_⟩
      · rw [hrec]
        exact hfind r row (by rw [hstep]; exact hr)
      · split
        · rename_i hd
          have h := hdrains y (by rw [hv]; exact hy) hpt hd
          exact ⟨by rw [h, if_pos rfl], _, by rw [h, if_neg hpt, if_pos rfl]; rfl⟩
        · rename_i hd
          have h := hwaits (fun y' _ hy' => by rw [hv, hy] at hy'; obtain rfl := Option.some.inj hy'; exact hd)
          exact ⟨by rw [h, if_neg hpt, hv]; exact hy, by rw [h, if_pos rfl, ← hp]; rfl⟩
    · have hstep := finishStep_frame s task x
      generalize s.finishStep task x = u at hstep
      obtain ⟨hrows, hnone⟩ := (passRows_spec u task).1
      rw [hp]
      generalize passRows u task none = v at hrows hnone
      obtain ⟨hgone, hkeep, -⟩ := finishTask_root (s := v) (st := .completed) (by rw [hrows, hstep]; exact hx) hp
      exact ⟨by rw [hkeep]; exact hnone, rootGone_of_frame hgone (by rw [hrows, hstep])⟩
  · rw [unwindEnd_runs hx hs hq hturn hc]
    have hstep := finishStep_frame s task x
    generalize s.finishStep task x = u at hstep
    have hu : u.tasks = s.tasks := by rw [hstep]
    have hcredit : creditChildren u task = x.children.foldl (fun s c => creditChild s task c) u := by
      unfold creditChildren
      rw [hu, hx]
    obtain ⟨hrec, know, hfind⟩ := creditEach_spec (s := u) (p := task) (x := x) (by rw [hu]; exact hx) hn hself (by rw [hu]; exact hc)
    rw [hcredit]
    generalize x.children.foldl (fun s c => creditChild s task c) u = v at hrec hfind
    have hnil : x.children.filter (fun c => !x.children.contains c) = [] := List.filter_eq_nil_iff.mpr fun c hm => by simp [hm]
    have hsum : remainders u x.children = (x.children.map (fun k => ((s.tasks.find k).map Task.remainder).getD 0)).sum := by rw [remainders, hu]
    rw [hnil, hsum] at hfind
    have hself' := hfind task
    rw [if_neg hself, if_pos rfl] at hself'
    have hf : (if x.cause = 0 then TaskState.unwound else TaskState.failed).final = true := by split <;> rfl
    refine ⟨_, rfl, fun k hk => finishTask_absent hself' hf (fun h : k = task => hself (h ▸ hk)) (by rw [hfind, if_pos hk]), fun p hp hpar => ?_, fun hp => ?_⟩
    · obtain ⟨-, -, hwaits⟩ := finishTask_child (p := p) hself' hp hf
      refine ⟨know, ?_⟩
      rw [hwaits (fun y hpt hy => ?_), if_pos rfl]
      · rfl
      · rw [hfind, if_neg hpt] at hy
        split at hy
        · cases hy
        · rw [hu] at hy
          exact hpar y hy
    · exact rootGone_of_frame (finishTask_root hself' hp).1 (by rw [hrec, hstep])

end Sys2Proof.Machine

/-!
SUPPORT. The distributor: the order of the ready set, where a team fits, which core is preferred (R297, R326 to R329).
-/
namespace Sys2Proof.Machine

/-! ## The order of the ready set (R326) -/

@[simp] theorem decideBy_lt (gt rest : Bool) : decideBy true gt rest = true := rfl
@[simp] theorem decideBy_gt (rest : Bool) : decideBy false true rest = false := rfl
@[simp] theorem decideBy_same (rest : Bool) : decideBy false false rest = rest := rfl

@[simp] theorem before48_self (a : BitVec 48) : before48 a a = false := by simp [before48]

theorem before48_iff {x y : BitVec 48} (h : x ≠ y) : before48 x y = true ↔ (y - x).toNat < 2 ^ 47 := by
  simp only [before48, Bool.and_eq_true, bne_iff_ne, decide_eq_true_eq]
  exact and_iff_right h

/-- Of two times that do not stand opposite each other one is before the other. -/
theorem before48_of_ne {x y : BitVec 48} (h : x ≠ y) (ho : (y - x).toNat ≠ 2 ^ 47) :
    (before48 x y = true ↔ (y - x).toNat < 2 ^ 47) ∧ (before48 x y = false → before48 y x = true) := by
  have hiff := before48_iff h
  refine ⟨hiff, fun hf => ?_⟩
  have hge : ¬(y - x).toNat < 2 ^ 47 := fun hl => by rw [hiff.mpr hl] at hf; cases hf
  have hlt : (x - y).toNat < 2 ^ 47 := by
    have hne := fun e => h (BitVec.eq_of_toNat_eq e)
    have hx := x.isLt
    have hy := y.isLt
    simp only [BitVec.toNat_sub] at hge ho ⊢
    omega
  exact (before48_iff (Ne.symm h)).mpr hlt

/-- Admission times less than 2^47 apart. -/
theorem before48_of_lt {m n : Nat} (_ : m < 2 ^ 48) (_ : n < 2 ^ 48) (hlt : m < n) (hd : n < m + 2 ^ 47) :
    before48 (BitVec.ofNat 48 m) (BitVec.ofNat 48 n) = true ∧ before48 (BitVec.ofNat 48 n) (BitVec.ofNat 48 m) = false := by
  have hsub : (BitVec.ofNat 48 n - BitVec.ofNat 48 m).toNat = n - m := by
    rw [BitVec.toNat_sub, BitVec.toNat_ofNat, BitVec.toNat_ofNat]; omega
  have hsub' : (BitVec.ofNat 48 m - BitVec.ofNat 48 n).toNat = 2 ^ 48 + m - n := by
    rw [BitVec.toNat_sub, BitVec.toNat_ofNat, BitVec.toNat_ofNat]; omega
  have hne : BitVec.ofNat 48 m ≠ BitVec.ofNat 48 n := by
    rw [ne_eq, ← BitVec.toNat_inj, BitVec.toNat_ofNat, BitVec.toNat_ofNat]; omega
  unfold before48
  rw [hsub, hsub']
  refine ⟨?_, ?_⟩
  · simp [hne]; omega
  · simp; omega

/-- What decides between two candidates without a deadline between them: re-entry, admission, queue, ticket, index. -/
def Cand.laterBefore (a b : Cand) : Bool :=
  decideBy (a.again && !b.again) (b.again && !a.again)
    (decideBy (before48 (BitVec.ofNat 48 a.admitted) (BitVec.ofNat 48 b.admitted))
      (before48 (BitVec.ofNat 48 b.admitted) (BitVec.ofNat 48 a.admitted))
      (decideBy (a.queue < b.queue) (b.queue < a.queue)
        (decideBy (a.ticket < b.ticket) (b.ticket < a.ticket) (a.index < b.index))))

theorem before_deadlines {a b : Cand} {x y : BitVec 48} (ha : a.deadline = some x) (hb : b.deadline = some y) :
    a.before b = decideBy (before48 x y) (before48 y x) (a.laterBefore b) := by
  unfold Cand.before; rw [ha, hb]; rfl
theorem before_of_deadline {a b : Cand} (ha : a.deadline ≠ none) (hb : b.deadline = none) : a.before b = true ∧ b.before a = false := by
  obtain ⟨x, hx⟩ := Option.ne_none_iff_exists'.mp ha
  unfold Cand.before
  rw [hx, hb]
  exact ⟨rfl, rfl⟩
theorem before_of_same {a b : Cand} (h : a.deadline = b.deadline) : a.before b = a.laterBefore b := by
  cases hb : b.deadline with
  | none => unfold Cand.before; rw [h, hb]; rfl
  | some y => rw [before_deadlines (h.trans hb) hb]; simp

/-- Less, or equal and then the rest. -/
theorem decideBy_nat (m n : Nat) (rest : Bool) : decideBy (m < n) (n < m) rest = true ↔ m < n ∨ (m = n ∧ rest = true) := by
  rcases Nat.lt_trichotomy m n with h | rfl | h
  · simp [h]
  · simp
  · simp [show ¬m < n by omega, h, show m ≠ n by omega]

/-- Which of two teams goes first (R326). -/
theorem cand_order (a b : Cand) :
    (∀ x y, a.deadline = some x → b.deadline = some y → x ≠ y → (y - x).toNat ≠ 2 ^ 47 → (a.before b = true ↔ (y - x).toNat < 2 ^ 47))
    ∧ (a.deadline ≠ none → b.deadline = none → a.before b = true ∧ b.before a = false)
    ∧ (a.deadline = b.deadline → a.again ≠ b.again → a.before b = a.again)
    ∧ (a.deadline = b.deadline → a.again = b.again → a.admitted < 2 ^ 48 → b.admitted < 2 ^ 48 →
      (a.admitted < b.admitted → b.admitted < a.admitted + 2 ^ 47 → a.before b = true ∧ b.before a = false)
      ∧ (a.admitted = b.admitted → (a.before b = true ↔ a.queue < b.queue ∨ (a.queue = b.queue ∧ (a.ticket < b.ticket ∨ (a.ticket = b.ticket ∧ a.index < b.index)))))) := by
  refine ⟨fun x y ha hb hne ho => ?_, before_of_deadline, fun h hag => ?_, fun h hag ha hb => ⟨fun hlt hd => ?_, fun heq => ?_⟩⟩
  · obtain ⟨hiff, hother⟩ := before48_of_ne hne ho
    rw [before_deadlines ha hb, ← hiff]
    cases hb' : before48 x y with
    | true => simp
    | false => simp [hother hb']
  · rw [before_of_same h, Cand.laterBefore]
    cases ha : a.again <;> cases hb : b.again <;> simp_all
  · obtain ⟨h1, h2⟩ := before48_of_lt ha hb hlt hd
    rw [before_of_same h, before_of_same h.symm, Cand.laterBefore, Cand.laterBefore, hag, h1, h2]
    cases b.again <;> exact ⟨rfl, rfl⟩
  · rw [before_of_same h, Cand.laterBefore, hag, heq]
    simp only [Bool.and_not_self, before48_self, decideBy_same, decideBy_nat, decide_eq_true_eq]

/-! ## Where a team fits, and which core is preferred (R297, R328, R329) -/

/-- The descriptor as a number. -/
theorem descSpan_eq (d : List Byte) : descSpan d = natBits (natOfBytes d) 25 24 := rfl

theorem inSpan_iff (s : State) (x : Task) (core : Nat) : inSpan s x core = true ↔ Rules.InPlace s x core := by
  unfold inSpan Rules.InPlace instOf quadOf dieOf
  rw [descSpan_eq]
  dsimp only
  generalize (if natBits (natOfBytes x.desc) 25 24 = 0 then core else if natBits (natOfBytes x.desc) 25 24 = 1 then core / 4
    else if natBits (natOfBytes x.desc) 25 24 = 2 then core / 96 else 0) = u
  simp only [Bool.and_eq_true, Bool.or_eq_true, decide_eq_true_eq, beq_iff_eq, Bool.not_eq_true', List.contains_eq_mem, decide_eq_false_iff_not, and_assoc, or_assoc]
  refine and_congr Iff.rfl (and_congr Iff.rfl (and_congr Iff.rfl ?_))
  cases x.inst with
  | none => simp
  | some i => simp

theorem freeCtxs_ne_nil (s : State) (core : Nat) : (freeCtxs s core).isEmpty = false ↔ ∃ x < 8, s.teams.find (8 * core + x) = none := by
  unfold freeCtxs
  rw [← Bool.not_eq_true, List.isEmpty_iff, List.filter_eq_nil_iff]
  simp only [List.mem_range, SMap.has, Bool.not_eq_true', not_forall, Option.isSome_eq_false_iff, Option.isNone_iff_eq_none, Config.slots, not_not, exists_prop]

theorem fits_iff (s : State) (x : Task) (n : Need) (core : Nat) :
    fits s x n core = true ↔ Rules.InPlace s x core ∧ Rules.HasRoom s n.task n.groups n.granules n.quadg core := by
  unfold fits Rules.HasRoom quadOf
  simp only [Bool.and_eq_true, Bool.or_eq_true, decide_eq_true_eq, beq_iff_eq, Bool.not_eq_true', inSpan_iff, freeCtxs_ne_nil, and_assoc, or_assoc, SMap.has,
    Option.isSome_iff_ne_none]
  rfl

theorem prefers_iff (s : State) (k a b : Nat) : prefers s k a b = true ↔ Rules.Preferred s k a b := by
  have hsame : decideBy (groupsOn s a < groupsOn s b) (groupsOn s b < groupsOn s a) (a < b) = true ↔
      groupsOn s a < groupsOn s b ∨ (groupsOn s a = groupsOn s b ∧ a < b) := by rw [decideBy_nat, decide_eq_true_eq]
  change decideBy (!classClash s k a && classClash s k b) (classClash s k a && !classClash s k b)
      (decideBy (groupsOn s a < groupsOn s b) (groupsOn s b < groupsOn s a) (a < b)) = true
    ↔ (classClash s k a = false ∧ classClash s k b = true) ∨ (classClash s k a = classClash s k b
      ∧ (groupsOn s a < groupsOn s b ∨ (groupsOn s a = groupsOn s b ∧ a < b)))
  cases classClash s k a <;> cases classClash s k b
  case false.true | true.false => simp
  all_goals simpa using hsame

theorem chosenCore_iff (s : State) (x : Task) (n : Need) (core : Nat) :
    chosenCore s x n core = true ↔ fits s x n core = true ∧ ∀ c < 768, c ≠ core → fits s x n c = true → Rules.Preferred s n.task core c := by
  unfold chosenCore
  simp only [Bool.and_eq_true, List.all_eq_true, List.mem_range, Bool.or_eq_true, beq_iff_eq, Bool.not_eq_true', prefers_iff, Config.cores, or_assoc]
  refine and_congr_right fun _ => forall₂_congr fun c _ => ?_
  rw [or_iff_not_imp_left, or_iff_not_imp_left, Bool.not_eq_false]

end Sys2Proof.Machine

/-!
SUPPORT. The placement of a team: its slots, its groups with their threads, its quad pool, the first placement of its task, and what
its die then knows (R13, R29, R129, R253, R298, R326 to R329).
-/
namespace Sys2Proof.Machine

/-! ## Free contexts and slots (R328) -/

/-- The first context that the distributor takes is the lowest free one. -/
theorem freeCtxs_of_freeContext {s : State} {core ctx : Nat} (h : Rules.FreeContext s core ctx) : ∃ rest, freeCtxs s core = ctx :: rest := by
  obtain ⟨hlt, hfree, hlow⟩ := h
  have hhead : (freeCtxs s core).head? = some ctx := by
    unfold freeCtxs
    rw [List.head?_filter, List.find?_range_eq_some]
    refine ⟨by simp [SMap.has, hfree], by simpa [Config.slots] using hlt, fun j hj => ?_⟩
    simpa [SMap.has, Option.isSome_iff_ne_none] using hlow j hj
  cases hc : freeCtxs s core with
  | nil => rw [hc] at hhead; cases hhead
  | cons a rest => rw [hc] at hhead; exact ⟨rest, by rw [Option.some.inj hhead]⟩

theorem eraseDups_of_nodup : ∀ {l : List Nat}, l.Nodup → l.eraseDups = l
  | [], _ => rfl
  | a :: l, h => by
    obtain ⟨ha, hl⟩ := List.nodup_cons.mp h
    have hkeep : l.filter (fun b => !b == a) = l := List.filter_eq_self.mpr fun b hb => by
      simpa using (fun e => ha (e ▸ hb) : b ≠ a)
    rw [List.eraseDups_cons, hkeep, eraseDups_of_nodup hl]

theorem slotsOk_of_freePlaces {s : State} {core n : Nat} {places : List Nat} (h : Rules.FreePlaces s core n places) : slotsOk s core n places = true := by
  obtain ⟨hlen, hnodup, hfree⟩ := h
  unfold slotsOk freeSlots
  rw [eraseDups_of_nodup hnodup]
  simp only [hlen, beq_self_eq_true, Bool.true_and, Bool.and_true, List.all_eq_true, List.contains_eq_mem, decide_eq_true_eq, List.mem_filter, List.mem_range,
    Bool.not_eq_true', SMap.has, Option.isSome_eq_false_iff, Option.isNone_iff_eq_none]
  exact hfree

/-! ## The groups of a team and their threads (R13, R22) -/

/-- The threads of a group written lane after lane. -/
theorem find_putLanes (m : SMap Thread) (gk : Nat) (f : Nat → Thread) (k : Nat) : ∀ n ≤ 64,
    ((List.range n).foldl (fun m l => SMap.put m (tkey gk l) (f l)) m).find k = if k / 64 = gk ∧ k % 64 < n then some (f (k % 64)) else m.find k
  | 0, _ => by simp
  | n + 1, hn => by
    rw [List.range_succ, List.foldl_append, List.foldl_cons, List.foldl_nil, SMap.find_put, find_putLanes m gk f k n (by omega)]
    unfold tkey
    by_cases hk : k = gk * 64 + n
    · rw [if_pos hk, if_pos ⟨by omega, by omega⟩, show k % 64 = n by omega]
    · rw [if_neg hk]
      exact if_congr (by omega) rfl rfl

/-- Whose groups and threads `launchGroups` writes, and as what. -/
theorem launchGroups_spec (tk core uid : Nat) (d : List Byte) : ∀ (places : List Nat) (gid : Nat) (s : State), let t := launchGroups s tk core uid d gid places
    t = { s with groups := t.groups, threads := t.threads }
      ∧ (∀ k, (∀ p ∈ places, k ≠ 8 * core + p) → t.groups.find k = s.groups.find k)
      ∧ (∀ k, (∀ p ∈ places, k / 64 ≠ 8 * core + p) → t.threads.find k = s.threads.find k)
      ∧ (places.Nodup → ∀ g p, places[g]? = some p → t.groups.find (8 * core + p) = some (newGroup tk (gid + g) d)
        ∧ ∀ l < 64, t.threads.find (64 * (8 * core + p) + l) = some (newThread (descArgs d) (uid + 2 + 64 * (gid + g) + l)))
  | [], gid, s => ⟨rfl, fun _ _ => rfl, fun _ _ => rfl, fun _ g p h => by simp at h⟩
  | q :: places, gid, s => by
    have hthreads := fun k => find_putLanes s.threads (8 * core + q) (fun l => newThread (descArgs d) (uid + 2 + 64 * gid + l)) k 64 (le_refl 64)
    unfold launchGroups
    simp only [Config.lanes]
    generalize (List.range 64).foldl (fun m l => SMap.put m (tkey (8 * core + q) l) (newThread (descArgs d) (uid + 2 + 64 * gid + l))) s.threads = m at hthreads
    obtain ⟨hframe, hgroups, hthr, hnew⟩ := launchGroups_spec tk core uid d places (gid + 1)
      { s with groups := s.groups.put (8 * core + q) (newGroup tk gid d), threads := m }
    generalize launchGroups { s with groups := s.groups.put (8 * core + q) (newGroup tk gid d), threads := m } tk core uid d (gid + 1) places = t at *
    refine ⟨hframe, fun k hk => ?_, fun k hk => ?_, fun hnodup g p hp => ?_⟩
    · rw [hgroups k fun p hp => hk p (List.mem_cons_of_mem q hp)]
      exact SMap.find_put_other _ _ (hk q List.mem_cons_self)
    · rw [hthr k fun p hp => hk p (List.mem_cons_of_mem q hp)]
      exact (hthreads k).trans (if_neg fun h => hk q List.mem_cons_self h.1)
    · obtain ⟨hq, hnodup⟩ := List.nodup_cons.mp hnodup
      cases g with
      | zero =>
        obtain rfl : q = p := Option.some.inj hp
        have hne : ∀ p ∈ places, q ≠ p := fun p hp e => hq (e ▸ hp)
        refine ⟨?_, fun l hl => ?_⟩
        · rw [hgroups _ fun p hp e => hne p hp (by omega)]
          exact SMap.find_put_same _ _ _
        · rw [hthr _ fun p hp e => hne p hp (by omega)]
          refine (hthreads _).trans ((if_pos ⟨by omega, by omega⟩).trans ?_)
          rw [show (64 * (8 * core + q) + l) % 64 = l by omega]
          rfl
      | succ g =>
        obtain ⟨hg, ht⟩ := hnew hnodup g p hp
        rw [show gid + (g + 1) = gid + 1 + g by omega]
        exact ⟨hg, ht⟩

theorem newGroup_fresh (tk gid : Nat) (d : List Byte) : newGroup tk gid d = Rules.freshGroup tk gid (natOfBytes d) := rfl

theorem newThread_fresh (d : List Byte) (ops : Nat) : Rules.FreshThread (natOfBytes d) (newThread (descArgs d) ops) := by
  refine ⟨rfl, fun r => ?_⟩
  unfold Thread.reg newThread
  dsimp only
  rw [SMap.get_set, SMap.get_set]
  by_cases h : r < 64
  · rw [if_pos h]
    rcases r with _ | _ | r <;> rfl
  · rw [if_neg h, if_neg (by omega), if_neg (by omega)]
    rfl

theorem newTeam_launched (uid task index core : Nat) (places : List Nat) (d : List Byte) :
    Rules.Launched uid task index core places (natOfBytes d) (newTeam uid task index core places d) := by
  refine ⟨rfl, rfl, rfl, rfl, rfl, rfl, rfl, rfl, rfl, rfl, fun r => ?_, fun _ => rfl, rfl, rfl, rfl, rfl, rfl, fun _ => rfl, fun _ => rfl, fun _ => rfl,
    rfl, rfl, rfl, rfl, rfl⟩
  show (SMap.set [] 0 (descArgs d) 0#64).get r.toNat 0#64 = _
  rw [SMap.get_set]
  exact if_congr ⟨fun h => BitVec.eq_of_toNat_eq h, fun h => h ▸ rfl⟩ rfl rfl

/-! ## What a node learns (R253, R274) -/

/-- A map set key after key. -/
theorem SMap.get_setEach {β : Type} [DecidableEq β] (f : Nat → β) (d : β) (j : Nat) : ∀ n,
    SMap.get ((List.range n).foldl (fun m k => SMap.set m k (f k) d) []) j d = if j < n then f j else d
  | 0 => rfl
  | n + 1 => by
    rw [List.range_succ, List.foldl_append, List.foldl_cons, List.foldl_nil, SMap.get_set, SMap.get_setEach f d j n]
    by_cases hj : j = n
    · rw [if_pos hj, if_pos (by omega), hj]
    · rw [if_neg hj]
      exact if_congr (by omega) rfl rfl

theorem at_merge (v w : Stamp) {j : Nat} (h : j < 10) : Stamp.at (Stamp.merge v w) j = Rules.laterOf (Stamp.at v j) (Stamp.at w j) := by
  refine (SMap.get_setEach _ _ j Config.nodes).trans ?_
  rw [if_pos (show j < Config.nodes from h)]
  unfold max16 le16 Rules.laterOf
  simp only [decide_eq_true_eq]

theorem learn_at (s : State) (i : Nat) (v : Stamp) {j : Nat} (h : j < 10) (hi : j ≠ i) :
    Stamp.at ((s.learn i v).node i).k j = Rules.laterOf (Stamp.at (s.node i).k j) (Stamp.at v j) := by
  unfold State.learn
  rw [node_modNode_same, ← at_merge _ _ h]
  exact SMap.get_set_other _ _ _ hi

/-! ## The parts of a placement -/

theorem isLate_none {s : State} {x : Task} (h : x.deadline = none) : Rules.isLate s x = false := by
  unfold Task.deadline at h
  split at h
  · cases h
  · next hdv =>
    have hdv : natBits (natOfBytes x.desc) 8 8 ≠ 1 := fun e => hdv (beq_iff_eq.mpr e)
    exact decide_eq_false fun hl => hdv hl.1

theorem isLate_some {s : State} {x : Task} {d : BitVec 48} (h : x.deadline = some d) :
    Rules.isLate s x = (decide (0 < (s.time - d).toNat) && decide ((s.time - d).toNat < 2 ^ 47)) := by
  unfold Task.deadline at h
  split at h
  · next hdv =>
    obtain rfl := Option.some.inj h
    have hdv : natBits (natOfBytes x.desc) 8 8 = 1 := beq_iff_eq.mp hdv
    unfold Rules.isLate
    simp only [hdv, true_and, Bool.decide_and]
    rfl
  · cases h

/-- The task as its first placement leaves it (R298, R327). -/
def Task.begun (s : State) (x : Task) (core : Nat) : Task :=
  { x with state := .running, inst := some (instOf (descSpan x.desc) core), late := Rules.isLate s x }

theorem firstPlacement_eq (s : State) (k core : Nat) (x : Task) : ∃ ts : SMap Task,
    ts = s.tasks.mod k (fun y => { y with state := .running, inst := some (instOf (descSpan y.desc) core), late := Rules.isLate s x })
    ∧ firstPlacement s k core x = if Rules.isLate s x = true then statusEntry { s with tasks := ts } x.queue (x.handle k) (statusWord 0#32 true false 0 1) 0
      else { s with tasks := ts } := by
  refine ⟨_, rfl, ?_⟩
  unfold firstPlacement
  cases hd : x.deadline with
  | none => rw [isLate_none hd]; rfl
  | some d => rw [isLate_some hd]; rfl

theorem firstPlacement_spec {s : State} {k : Nat} {x : Task} (hx : s.tasks.find k = some x) (core : Nat) : let t := firstPlacement s k core x
    t = { s with tasks := t.tasks, far := t.far, near := t.near, hostMem := t.hostMem, link := t.link, queues := t.queues, plat := t.plat }
      ∧ (∀ j, t.tasks.find j = if j = k then some (x.begun s core) else s.tasks.find j)
      ∧ (if Rules.isLate s x = true then ∀ b, openRing s x.queue = some b →
          Rules.StatusGiven x.queue b (2 ^ 16 * x.gen.toNat + k % 2 ^ 16) 0x20001#64 0 s t
        else t.far = s.far ∧ t.near = s.near ∧ t.hostMem = s.hostMem) := by
  obtain ⟨ts, hts, heq⟩ := firstPlacement_eq s k core x
  have hfind : ∀ j, ts.find j = if j = k then some (x.begun s core) else s.tasks.find j := fun j => by
    rw [hts, SMap.find_mod, hx]
    rfl
  dsimp only
  rw [heq]
  cases hl : Rules.isLate s x with
  | false => exact ⟨rfl, hfind, rfl, rfl, rfl⟩
  | true =>
    obtain ⟨hframe, hstatus⟩ := statusEntry_spec { s with tasks := ts } x.queue (x.handle k) (statusWord 0#32 true false 0 1) 0
    simp only [if_true]
    generalize statusEntry { s with tasks := ts } x.queue (x.handle k) (statusWord 0#32 true false 0 1) 0 = t at *
    refine ⟨?_, ?_, fun b hb => ?_⟩
    · unfold PlatOnly at hframe; rw [hframe]
    · unfold PlatOnly at hframe; rw [hframe]; exact hfind
    · rw [← handle_eq]
      exact hstatus b hb

theorem allocQuad_spec (s : State) (task quad quadg : Nat) :
    allocQuad s task quad quadg = { s with quadAlloc := (allocQuad s task quad quadg).quadAlloc }
      ∧ (quadg ≠ 0 → (allocQuad s task quad quadg).quadAlloc.find (192 * task + quad) ≠ none) := by
  unfold allocQuad
  split
  · next h =>
    refine ⟨rfl, fun hq => ?_⟩
    rcases Bool.or_eq_true_iff.mp h with h | h
    · exact absurd (of_decide_eq_true h) hq
    · exact Option.isSome_iff_ne_none.mp h
  · exact ⟨rfl, fun _ => by rw [SMap.find_put_same]; exact Option.some_ne_none _⟩

/-- A placement, after what its task's first placement does to the state. -/
theorem placeTeam_spec (s : State) (k : Nat) (x : Task) (core ctx : Nat) (places : List Nat) :
    let u := if x.placed = 0 then firstPlacement s k core x else s
    let t := placeTeam s k x core ctx places
    t.teams = u.teams.put (8 * core + ctx) (newTeam s.nextId k x.placed core places x.desc)
      ∧ t.tasks = u.tasks.mod k (fun y => { y with placed := y.placed + 1 })
      ∧ (∀ j, (∀ p ∈ places, j ≠ 8 * core + p) → t.groups.find j = u.groups.find j)
      ∧ (∀ j, (∀ p ∈ places, j / 64 ≠ 8 * core + p) → t.threads.find j = u.threads.find j)
      ∧ (places.Nodup → ∀ g p, places[g]? = some p → t.groups.find (8 * core + p) = some (newGroup (8 * core + ctx) g x.desc)
        ∧ ∀ l < 64, t.threads.find (64 * (8 * core + p) + l) = some (newThread (descArgs x.desc) (s.nextId + 2 + 64 * g + l)))
      ∧ (descQuadg x.desc ≠ 0 → t.quadAlloc.find (192 * k + core / 4) ≠ none)
      ∧ t.queues = u.queues ∧ t.kept = u.kept
      ∧ ∀ j < 10, j ≠ core / 96 → Stamp.at (t.node (core / 96)).k j = Rules.laterOf (Stamp.at (u.node (core / 96)).k j) (Stamp.at x.know j) := by
  unfold placeTeam
  dsimp only
  generalize (if x.placed = 0 then firstPlacement s k core x else s) = u
  obtain ⟨hquad, halloc⟩ := allocQuad_spec (clearWins u core (8 * core + ctx) places) k (quadOf core) (descQuadg x.desc)
  generalize allocQuad (clearWins u core (8 * core + ctx) places) k (quadOf core) (descQuadg x.desc) = v at *
  obtain ⟨hframe, hgroups, hthreads, hnew⟩ := launchGroups_spec (8 * core + ctx) core s.nextId x.desc places 0
    { v with nextId := v.nextId + 2 + 64 * places.length, teams := v.teams.put (8 * core + ctx) (newTeam s.nextId k x.placed core places x.desc) }
  generalize launchGroups { v with nextId := v.nextId + 2 + 64 * places.length, teams := v.teams.put (8 * core + ctx) (newTeam s.nextId k x.placed core places x.desc) }
    (8 * core + ctx) core s.nextId x.desc 0 places = w at *
  refine ⟨?_, ?_, fun j hj => ?_, fun j hj => ?_, fun hn g p hp => ?_, fun hq => ?_, ?_, ?_, fun j hj hi => ?_⟩
  · show w.teams = _
    rw [hframe]; show v.teams.put _ _ = _; rw [hquad]; rfl
  · show w.tasks.mod k _ = _
    rw [hframe]; show v.tasks.mod k _ = _; rw [hquad]; rfl
  · exact (hgroups j hj).trans (by rw [hquad]; rfl)
  · exact (hthreads j hj).trans (by rw [hquad]; rfl)
  · obtain ⟨hg, ht⟩ := hnew hn g p hp
    rw [Nat.zero_add] at hg ht
    exact ⟨hg, ht⟩
  · have hw : w.quadAlloc = v.quadAlloc := by rw [hframe]
    exact hw ▸ halloc hq
  · show w.queues = _
    rw [hframe]; show v.queues = _; rw [hquad]; rfl
  · rw [learn_kept]
    show w.kept = _
    rw [hframe]; show v.kept = _; rw [hquad]; rfl
  · refine (learn_at _ (core / 96) _ hj hi).trans ?_
    have hn : w.nodes = u.nodes := by rw [hframe]; show v.nodes = _; rw [hquad]; rfl
    show Rules.laterOf (Stamp.at (SMap.get w.nodes (core / 96) Node.initial).k j) _ = _
    rw [hn]
    rfl

/-- The first placement of a task, where it is one: the rest of the state stands. -/
theorem firstPlacement_once {s : State} {k : Nat} {x : Task} (hx : s.tasks.find k = some x) (core : Nat) :
    let u := if x.placed = 0 then firstPlacement s k core x else s
    (u.teams = s.teams ∧ u.groups = s.groups ∧ u.threads = s.threads ∧ u.nodes = s.nodes)
      ∧ (∀ j, u.tasks.find j = if j = k then some { x with
          state := if x.placed = 0 then .running else x.state, inst := if x.placed = 0 then some (instOf (descSpan x.desc) core) else x.inst,
          late := if x.placed = 0 then Rules.isLate s x else x.late } else s.tasks.find j)
      ∧ (if x.placed = 0 ∧ Rules.isLate s x = true then ∀ b, openRing s x.queue = some b →
          Rules.StatusGiven x.queue b (2 ^ 16 * x.gen.toNat + k % 2 ^ 16) 0x20001#64 0 s u
        else u.far = s.far ∧ u.near = s.near ∧ u.hostMem = s.hostMem) := by
  dsimp only
  by_cases h0 : x.placed = 0
  · obtain ⟨hframe, hfind, hstatus⟩ := firstPlacement_spec hx core
    simp only [if_pos h0, and_iff_right h0]
    exact ⟨by rw [hframe]; exact ⟨rfl, rfl, rfl, rfl⟩, hfind, hstatus⟩
  · simp only [h0, if_false, false_and, true_and, and_true]
    exact SMap.find_self hx

/-- A placement that every condition of R326 to R328 allows. -/
theorem teamPlacement_runs {s : State} {task core ctx : Nat} {places : List Nat} {x : Task} (hx : s.tasks.find task = some x)
    (hctx : Rules.FreeContext s core ctx) (hready : x.ready = true) (hleft : x.placed < x.teams)
    (hst : x.state = .queued ∨ x.state = .running ∨ x.state = .starved) (hmay : mayPlace s task = true)
    (htake : mayTake s (x.cand false x.placed) core = true) (hcore : chosenCore s x (taskNeed task x.desc) core = true)
    (hplaces : Rules.FreePlaces s core (descGroups x.desc) places) :
    exec (.teamPlacement task core places) s = .next (placeTeam s task x core ctx places) := by
  obtain ⟨rest, hfree⟩ := freeCtxs_of_freeContext hctx
  have hto : toPlace s task x = true := by
    unfold toPlace
    simp only [hready, hmay, hleft, decide_true, Bool.true_and, Bool.and_true, Bool.or_eq_true, beq_iff_eq, or_assoc]
    exact hst
  rw [show exec (.teamPlacement task core places) s = execTeamPlacement task core places s from rfl]
  unfold execTeamPlacement
  rw [hx, hfree]
  simp only [hto, htake, hcore, slotsOk_of_freePlaces hplaces, Bool.and_self, if_true]

/-- Settles O48: the order, the fit and the preference are the rules' own, decided case by case; a placed team is what the parts of a placement write. -/
theorem teamsArePlaced : Obligations.TeamsArePlaced := by
  unfold Obligations.TeamsArePlaced
  refine ⟨cand_order, fits_iff, chosenCore_iff, ?_⟩
  intro s task core ctx places x hx hctx hready hleft hst hmay htake hcore hplaces d span
  have hrun := teamPlacement_runs hx hctx hready hleft hst hmay htake hcore hplaces
  obtain ⟨hteams, htasks, hgroups, hthreads, hnew, hquad, hqueues, hkept, hknow⟩ := placeTeam_spec s task x core ctx places
  obtain ⟨-, hnodup, -⟩ := hplaces
  generalize placeTeam s task x core ctx places = t at *
  obtain ⟨⟨hut, hug, huth, hun⟩, hufind, hustatus⟩ := firstPlacement_once hx core
  generalize (if x.placed = 0 then firstPlacement s task core x else s) = u at *
  refine ⟨t, newTeam s.nextId task x.placed core places x.desc, hrun, ⟨?_, fun k hk => ?_⟩, newTeam_launched _ _ _ _ _ _, fun g p hp => ?_, fun k hk => ?_,
    fun k hk => ?_, fun k => ?_, hquad, ?_, fun j hj hi => ?_⟩
  · rw [hteams, SMap.find_put_same]
  · rw [hteams, SMap.find_put_other _ _ hk, hut]
  · obtain ⟨hg, ht⟩ := hnew hnodup g p hp
    exact ⟨hg, fun l hl => ⟨_, ht l hl, newThread_fresh _ _⟩⟩
  · rw [hgroups k hk, hug]
  · rw [hthreads k hk, huth]
  · rw [htasks, SMap.find_mod, hufind, hufind, if_pos rfl]
    by_cases hk : k = task
    · rw [if_pos hk, if_pos hk]; rfl
    · rw [if_neg hk, if_neg hk, if_neg hk]
  · split
    · next hl =>
      rw [if_pos hl] at hustatus
      intro b hb
      obtain ⟨hseq, hw⟩ := hustatus b hb
      exact ⟨by unfold State.queue; rw [hqueues]; exact hseq, wrote_of_kept hw hkept⟩
    · next hl =>
      rw [if_neg hl] at hustatus
      simp only [State.kept, Prod.mk.injEq] at hkept
      obtain ⟨hfar, hnear, hhost, -, -⟩ := hkept
      rw [hfar, hnear, hhost]
      exact hustatus
  · rw [hknow j hj hi]
    unfold State.node
    rw [hun]

end Sys2Proof.Machine

/-!
SUPPORT. Arbitration of a core's issue slots (R24, R330): who contends, who wins, and what the winner's slot and paths then are.
-/
namespace Sys2Proof.Machine

/-! ## Entries of a map in key order -/

theorem SMap.mem_of_find {β : Type} {m : SMap β} {k : Nat} {v : β} (h : m.find k = some v) : (k, v) ∈ m := by
  induction m with
  | nil => cases h
  | cons e m ih =>
    obtain ⟨j, w⟩ := e
    rw [SMap.find] at h
    split at h
    · next hk => rw [hk, ← Option.some.inj h]; exact List.mem_cons_self
    · exact List.mem_cons_of_mem _ (ih h)

theorem SMap.find_of_mem {β : Type} {m : SMap β} (hs : m.sorted = true) {k : Nat} {v : β} (h : (k, v) ∈ m) : m.find k = some v := by
  rw [SMap.sorted_iff] at hs
  induction m with
  | nil => cases h
  | cons e m ih =>
    obtain ⟨j, w⟩ := e
    obtain ⟨hlow, hs⟩ := List.pairwise_cons.mp hs
    rw [SMap.find]
    rcases List.mem_cons.mp h with h | h
    · obtain ⟨rfl, rfl⟩ := Prod.mk.inj h
      rw [if_pos rfl]
    · rw [if_neg (Nat.ne_of_gt (hlow _ h)), ih hs h]

theorem SMap.mem_iff_find {β : Type} {m : SMap β} (hs : m.sorted = true) {k : Nat} {v : β} : (k, v) ∈ m ↔ m.find k = some v :=
  ⟨SMap.find_of_mem hs, SMap.mem_of_find⟩

/-! ## The best of a list, one after another -/

section
variable {α : Type} {f : Option α → α → Option α} {le : α → α → Bool}

theorem foldl_best_some (h1 : ∀ a b, f (some a) b = some (if le a b then a else b)) (l : List α) (a : α) : ∃ w, l.foldl f (some a) = some w := by
  induction l generalizing a with
  | nil => exact ⟨a, rfl⟩
  | cons b l ih => rw [List.foldl_cons, h1]; exact ih _

theorem foldl_best_isSome (h0 : ∀ b, f none b = some b) (h1 : ∀ a b, f (some a) b = some (if le a b then a else b)) (l : List α) :
    (l.foldl f none).isSome = true ↔ l ≠ [] := by
  cases l with
  | nil => simp
  | cons b l =>
    rw [List.foldl_cons, h0]
    obtain ⟨w, hw⟩ := foldl_best_some h1 l b
    simp [hw]

/-- One that goes strictly before every other one is what is left, whatever is held when the search reaches it. -/
theorem foldl_best_from {w : α} (h1 : ∀ a b, f (some a) b = some (if le a b then a else b)) :
    ∀ (l : List α) (a : α), (∀ x ∈ a :: l, x = w ∨ (le w x = true ∧ le x w = false)) → w ∈ a :: l → l.foldl f (some a) = some w
  | [], a, _, hw => by rw [List.mem_singleton.mp hw]; rfl
  | b :: l, a, hbest, hw => by
    rw [List.foldl_cons, h1]
    have ha := hbest a List.mem_cons_self
    have hb := hbest b (List.mem_cons_of_mem _ List.mem_cons_self)
    have hl : ∀ x ∈ l, x = w ∨ (le w x = true ∧ le x w = false) := fun x hx => hbest x (List.mem_cons_of_mem _ (List.mem_cons_of_mem _ hx))
    apply foldl_best_from h1
    · intro x hx
      rcases List.mem_cons.mp hx with rfl | hx
      · split
        · exact ha
        · exact hb
      · exact hl x hx
    · rcases List.mem_cons.mp hw with rfl | hw
      · rcases hb with rfl | ⟨hle, -⟩
        · simp
        · simp [hle]
      · rcases List.mem_cons.mp hw with rfl | hw
        · rcases ha with rfl | ⟨-, hle⟩
          · simp
          · simp [hle]
        · exact List.mem_cons_of_mem _ hw

theorem foldl_best {w : α} {l : List α} (h0 : ∀ b, f none b = some b) (h1 : ∀ a b, f (some a) b = some (if le a b then a else b))
    (hbest : ∀ x ∈ l, x = w ∨ (le w x = true ∧ le x w = false)) (hw : w ∈ l) : l.foldl f none = some w := by
  cases l with
  | nil => cases hw
  | cons b l => rw [List.foldl_cons, h0]; exact foldl_best_from h1 l b hbest hw
end

/-! ## Who wins (R330) -/

/-- `x` is held against `b`. -/
def Contender.stays (x b : Contender) : Bool :=
  decideBy (b.prio < x.prio) (x.prio < b.prio) (decideBy (b.age < x.age) (x.age < b.age) (x.tie ≤ b.tie))

theorem winner_none (b : Contender) : winner none b = some b := rfl
theorem winner_some (x b : Contender) : winner (some x) b = some (if x.stays b then x else b) := rfl

theorem stays_of_less {w x : Contender} (h : x.prio < w.prio ∨ (x.prio = w.prio ∧ (x.age < w.age ∨ (x.age = w.age ∧ w.tie < x.tie)))) :
    w.stays x = true ∧ x.stays w = false := by
  unfold Contender.stays decideBy
  rcases h with h | ⟨hp, h | ⟨ha, h⟩⟩
  · simp [h, Nat.lt_asymm h]
  · simp [hp, h, Nat.lt_asymm h]
  · simp [hp, ha, h, Nat.le_of_lt h]

theorem foldl_winner {l : List Contender} {P : Contender → Prop} (hl : ∀ x, x ∈ l ↔ P x) {w : Contender} (hw : Rules.Wins P w) :
    l.foldl winner none = some w := by
  obtain ⟨hmem, hbest⟩ := hw
  refine foldl_best winner_none winner_some (fun x hx => ?_) ((hl w).mpr hmem)
  exact (hbest x ((hl x).mp hx)).imp_right stays_of_less

theorem foldl_winner_none {l : List Contender} {P : Contender → Prop} (hl : ∀ x, x ∈ l ↔ P x) (hn : ∀ w, ¬P w) : l.foldl winner none = none := by
  cases l with
  | nil => rfl
  | cons x l => exact absurd ((hl x).mp List.mem_cons_self) (hn x)

/-! ## The path that a group issues (R24) -/

theorem lowerPark_none (b : Path) : lowerPark none b = some b := rfl
theorem lowerPark_some (x b : Path) : lowerPark (some x) b = some (if decide (x.park ≤ b.park) then x else b) := by
  unfold lowerPark; simp only [decide_eq_true_eq]

/-- Of the parked paths that can issue the one with the lowest park number. -/
theorem foldl_lowerPark {l : List Path} {q : Path} (hq : q ∈ l) (hlow : ∀ r ∈ l, r = q ∨ q.park < r.park) : l.foldl lowerPark none = some q := by
  refine foldl_best lowerPark_none lowerPark_some (fun r hr => (hlow r hr).imp_right fun h => ?_) hq
  exact ⟨decide_eq_true (Nat.le_of_lt h), decide_eq_false (Nat.not_le.mpr h)⟩

theorem nextPath_running {s : State} {gk : Nat} {g : Group} {p : Path} (hr : g.running = some p) (hc : canIssue s gk g p = true) :
    nextPath s gk g = some (true, p) := by
  unfold nextPath; simp only [hr, hc, if_true]
theorem nextPath_parked {s : State} {gk : Nat} {g : Group} (h : ∀ p, g.running = some p → canIssue s gk g p = false) :
    nextPath s gk g = ((g.parked.filter (canIssue s gk g)).foldl lowerPark none).map (fun p => (false, p)) := by
  unfold nextPath
  cases hr : g.running with
  | none => rfl
  | some p => simp [h p hr]

theorem nextPath_isSome (s : State) (gk : Nat) (g : Group) :
    (nextPath s gk g).isSome = true ↔ ∃ p, (g.running = some p ∨ p ∈ g.parked) ∧ canIssue s gk g p = true := by
  by_cases h : ∀ p, g.running = some p → canIssue s gk g p = false
  · rw [nextPath_parked h, Option.isSome_map, foldl_best_isSome lowerPark_none lowerPark_some, ne_eq, List.filter_eq_nil_iff]
    constructor
    · intro hne
      obtain ⟨p, hp⟩ := not_forall.mp hne
      obtain ⟨hp, hc⟩ := Classical.not_imp.mp hp
      exact ⟨p, .inr hp, not_not.mp hc⟩
    · rintro ⟨p, hr | hp, hc⟩ hall
      · rw [h p hr] at hc; cases hc
      · exact hall p hp hc
  · obtain ⟨p, hp⟩ := not_forall.mp h
    obtain ⟨hr, hc⟩ := Classical.not_imp.mp hp
    have hc : canIssue s gk g p = true := by simpa using hc
    rw [nextPath_running hr hc]
    exact ⟨fun _ => ⟨p, .inl hr, hc⟩, fun _ => rfl⟩

theorem team_of_canIssue {s : State} {gk : Nat} {g : Group} {p : Path} (h : canIssue s gk g p = true) :
    ∃ tm x, s.teams.find g.team = some tm ∧ s.tasks.find tm.task = some x := by
  unfold canIssue pathCtx at h
  cases ht : s.teams.find g.team with
  | none => rw [ht] at h; cases h
  | some tm =>
    cases hx : s.tasks.find tm.task with
    | none => simp only [ht, hx] at h; cases h
    | some x => exact ⟨tm, x, rfl, hx⟩

theorem teamPrio_eq {s : State} {tk : Nat} {tm : Team} {x : Task} (ht : s.teams.find tk = some tm) (hx : s.tasks.find tm.task = some x) :
    teamPrio s tk = natBits (natOfBytes x.desc) 27 26 := by
  unfold teamPrio; simp only [ht, hx]; rfl

theorem mem_groupContenders {s : State} (hs : s.groups.sorted = true) (core : Nat) (w : Contender) :
    w ∈ groupContenders s core ↔ Rules.GroupContends s core w := by
  unfold groupContenders Rules.GroupContends
  simp only [List.mem_map, List.mem_filter, Bool.and_eq_true, beq_iff_eq, nextPath_isSome, coreOf]
  constructor
  · rintro ⟨⟨gk, g⟩, ⟨hg, hcore, p, hp, hc⟩, rfl⟩
    obtain ⟨tm, x, ht, hx⟩ := team_of_canIssue hc
    exact ⟨hcore, rfl, rfl, g, tm, x, SMap.find_of_mem hs hg, ht, hx, teamPrio_eq ht hx, p, hp, hc⟩
  · rintro ⟨hcore, htie, hage, g, tm, x, hg, ht, hx, hprio, p, hp, hc⟩
    refine ⟨(w.key, g), ⟨SMap.mem_of_find hg, hcore, p, hp, hc⟩, ?_⟩
    cases w
    rw [teamPrio_eq ht hx]
    exact congr (congr (congrArg _ hprio.symm) hage.symm) htie.symm

theorem lctxOf_of_find {s : State} {tk : Nat} {tm : Team} {x : Task} (ht : s.teams.find tk = some tm) (hx : s.tasks.find tm.task = some x) :
    lctxOf s tk = some { tk := tk, core := coreOf tk, team := tm, task := x } := by
  unfold lctxOf; simp only [ht, hx]

theorem lctxOf_some {s : State} {tk : Nat} {c : LCtx} (h : lctxOf s tk = some c) : s.teams.find tk = some c.team ∧ s.tasks.find c.team.task = some c.task := by
  unfold lctxOf at h
  cases ht : s.teams.find tk with
  | none => rw [ht] at h; cases h
  | some tm =>
    cases hx : s.tasks.find tm.task with
    | none => simp only [ht, hx] at h; cases h
    | some x => simp only [ht, hx] at h; obtain rfl := Option.some.inj h; exact ⟨rfl, hx⟩

theorem mem_leadContenders {s : State} (hs : s.teams.sorted = true) (core : Nat) (w : Contender) :
    w ∈ leadContenders s core ↔ Rules.LeadContends s core w := by
  unfold leadContenders Rules.LeadContends
  simp only [List.mem_map, List.mem_filter, Bool.and_eq_true, beq_iff_eq]
  constructor
  · rintro ⟨⟨tk, tm⟩, ⟨hmem, hcore, hcan⟩, rfl⟩
    have ht := SMap.find_of_mem hs hmem
    cases hc : lctxOf s tk with
    | none => simp only [hc] at hcan; cases hcan
    | some c =>
      simp only [hc] at hcan
      obtain ⟨ht', hx⟩ := lctxOf_some hc
      obtain rfl : tm = c.team := Option.some.inj (ht.symm.trans ht')
      exact ⟨rfl, c, rfl, hcore, hcan, rfl, teamPrio_eq ht hx⟩
  · rintro ⟨hage, c, hc, hcore, hcan, htie, hprio⟩
    obtain ⟨ht, hx⟩ := lctxOf_some hc
    refine ⟨(w.key, c.team), ⟨SMap.mem_of_find ht, hcore, by simp only [hc]; exact hcan⟩, ?_⟩
    cases w
    rw [teamPrio_eq ht hx]
    exact congr (congr (congrArg _ hprio.symm) hage.symm) htie.symm

/-! ## The slots afterwards -/

theorem slotsOnly_refl (core : Nat) (s : State) : Rules.SlotsOnly core s s := ⟨rfl, fun k => by split <;> rfl⟩

theorem slotsOnly_trans {core : Nat} {s t u : State} (h : Rules.SlotsOnly core s t) (h' : Rules.SlotsOnly core t u) : Rules.SlotsOnly core s u := by
  obtain ⟨hst, hs⟩ := h
  obtain ⟨htu, ht⟩ := h'
  refine ⟨?_, fun k => ?_⟩
  · rw [htu, hst]
  · rw [ht k, hs k]
    by_cases hk : k = core
    · simp only [if_pos hk]
    · simp only [if_neg hk]

/-- The group slot is given to a group, whose paths are as its own rule says. -/
theorem slotsOnly_give (s : State) (core gk : Nat) (gs : SMap Group) :
    Rules.SlotsOnly core s (({ s with groups := gs } : State).modCore core (fun c => { c with gHold := some gk, gWins := gk :: c.gWins.filter (fun x => x != gk) })) := by
  refine ⟨rfl, fun k => ?_⟩
  rw [core_modCore]
  by_cases hk : k = core
  · rw [if_pos hk, if_pos hk, hk]; rfl
  · rw [if_neg hk, if_neg hk]; rfl

/-- What the lead's arbitration leaves alone. -/
theorem arbitrateLead_frame (s : State) (core : Nat) :
    Rules.SlotsOnly core s (arbitrateLead s core) ∧ (arbitrateLead s core).groups = s.groups
      ∧ ((arbitrateLead s core).core core).gHold = (s.core core).gHold ∧ ((arbitrateLead s core).core core).gWins = (s.core core).gWins := by
  unfold arbitrateLead
  split
  · exact ⟨slotsOnly_refl core s, rfl, rfl, rfl⟩
  · cases (leadContenders s core).foldl winner none with
    | none => exact ⟨slotsOnly_refl core s, rfl, rfl, rfl⟩
    | some w =>
      refine ⟨⟨rfl, fun k => ?_⟩, rfl, ?_, ?_⟩
      · dsimp only
        rw [core_modCore]
        by_cases hk : k = core
        · rw [if_pos hk, if_pos hk, hk]
        · rw [if_neg hk, if_neg hk]
      · dsimp only; rw [core_modCore, if_pos rfl]
      · dsimp only; rw [core_modCore, if_pos rfl]

/-- What a group is when it has won the slot: as it was where its running path goes on, else with the parked path that it issues as its
running path, the one that ran parked. -/
def Group.given (g : Group) (q : Path) : Group :=
  { g with
    running := some { q with wait := .none }, parkCtr := g.parkCtr + (if g.running = none then 0 else 1),
    parked := g.parked.filter (fun r => r.park != q.park) ++ Rules.parkedFrom g.parkCtr g.running.toList }

/-- The running path of a group leaves for its parked paths. -/
def parkedRunning (s : State) (gk : Nat) (g : Group) : State := g.running.elim s (parkPath s gk)

theorem parkPath_nonempty {p : Path} (hl : p.lanes ≠ []) (s : State) (gk : Nat) :
    parkPath s gk p = s.modGroup gk (fun g => { g with parked := g.parked ++ [{ p with park := g.parkCtr }], parkCtr := g.parkCtr + 1 }) := by
  unfold parkPath
  rw [if_neg (by simpa using hl)]

theorem parkPath_groups_other (s : State) {gk k : Nat} (p : Path) (h : k ≠ gk) : (parkPath s gk p).groups.find k = s.groups.find k := by
  by_cases hl : p.lanes = []
  · rw [parkPath_empty hl]
  · rw [parkPath_nonempty hl, modGroup_groups, SMap.find_mod, if_neg h]

theorem parkedRunning_frame (s : State) (gk : Nat) (g : Group) :
    parkedRunning s gk g = { s with groups := (parkedRunning s gk g).groups } ∧ ∀ k, k ≠ gk → (parkedRunning s gk g).groups.find k = s.groups.find k := by
  unfold parkedRunning
  cases g.running with
  | none => exact ⟨rfl, fun _ _ => rfl⟩
  | some p =>
    refine ⟨?_, fun k hk => parkPath_groups_other s p hk⟩
    show parkPath s gk p = { s with groups := (parkPath s gk p).groups }
    unfold parkPath
    split <;> rfl

theorem parkedRunning_find {s : State} {gk : Nat} {g : Group} (hg : s.groups.find gk = some g) (hl : ∀ p, g.running = some p → p.lanes ≠ []) :
    (parkedRunning s gk g).groups.find gk = some { g with
      parked := g.parked ++ Rules.parkedFrom g.parkCtr g.running.toList, parkCtr := g.parkCtr + (if g.running = none then 0 else 1) } := by
  unfold parkedRunning
  cases hr : g.running with
  | none =>
    refine hg.trans (congrArg some ?_)
    cases g
    simp only at hr
    simp [hr, Rules.parkedFrom]
  | some p =>
    show (parkPath s gk p).groups.find gk = _
    rw [parkPath_nonempty (hl p hr), modGroup_groups, SMap.find_mod, if_pos rfl, hg]
    simp [Rules.parkedFrom, hr]

theorem giveGroup_eq {s : State} {core gk : Nat} {g : Group} (hg : s.groups.find gk = some g) (hn : (nextPath s gk g).isSome = true) :
    ∃ gs : SMap Group, giveGroup s core gk = ({ s with groups := gs } : State).modCore core (fun c => { c with gHold := some gk, gWins := gk :: c.gWins.filter (fun x => x != gk) })
      ∧ (∀ k, k ≠ gk → gs.find k = s.groups.find k)
      ∧ (∀ p, nextPath s gk g = some (true, p) → gs.find gk = some g)
      ∧ ∀ q, nextPath s gk g = some (false, q) → (∀ p, g.running = some p → p.lanes ≠ []) → q.park < g.parkCtr → gs.find gk = some (g.given q) := by
  cases hp : nextPath s gk g with
  | none => rw [hp] at hn; cases hn
  | some x =>
    obtain ⟨b, q⟩ := x
    cases b with
    | true =>
      refine ⟨s.groups, ?_, fun _ _ => rfl, fun _ _ => hg, fun _ h => by cases h⟩
      unfold giveGroup
      simp only [hg, hp]
    | false =>
      obtain ⟨hframe, hother⟩ := parkedRunning_frame s gk g
      refine ⟨(parkedRunning s gk g).groups.mod gk (fun y => { y with running := some { q with wait := .none }, parked := y.parked.filter (fun r => r.park != q.park) }),
        ?_, fun k hk => ?_, fun _ h => by (cases h), fun q' hq' hl hlow => ?_⟩
      · have heq : ∀ f, (parkedRunning s gk g).modGroup gk f = { s with groups := (parkedRunning s gk g).groups.mod gk f } := fun f => by
          unfold State.modGroup; rw [hframe]
        rw [← heq]
        unfold giveGroup parkedRunning
        simp only [hg, hp]
        cases g.running <;> rfl
      · rw [SMap.find_mod, if_neg hk, hother k hk]
      · obtain rfl : q = q' := (Prod.mk.inj (Option.some.inj hq')).2
        rw [SMap.find_mod, if_pos rfl, parkedRunning_find hg hl]
        have hkeep : (Rules.parkedFrom g.parkCtr g.running.toList).filter (fun r => r.park != q.park) = Rules.parkedFrom g.parkCtr g.running.toList := by
          cases g.running with
          | none => rfl
          | some p => simp [Rules.parkedFrom, show g.parkCtr ≠ q.park by omega]
        simp only [Option.map_some, List.filter_append, hkeep]
        rfl

theorem slotsOnly_giveGroup (s : State) (core gk : Nat) : Rules.SlotsOnly core s (giveGroup s core gk) := by
  cases hg : s.groups.find gk with
  | none => unfold giveGroup; simp only [hg]; exact slotsOnly_refl core s
  | some g =>
    cases hn : nextPath s gk g with
    | none => unfold giveGroup; simp only [hg, hn]; exact slotsOnly_refl core s
    | some x =>
      obtain ⟨gs, hgive, -⟩ := giveGroup_eq (core := core) hg (by rw [hn]; rfl)
      rw [hgive]
      exact slotsOnly_give s core gk gs

/-- The group slot is free: it stays so when no group contends, and goes to the one that wins. -/
theorem arbitrateGroup_spec {s : State} {core : Nat} (hfree : (s.core core).gHold = none) (hiss : (s.core core).gIssued = false) (hs : s.groups.sorted = true) :
    let t := arbitrateGroup s core
    Rules.SlotsOnly core s t
      ∧ ((∀ w, ¬Rules.GroupContends s core w) → t = s)
      ∧ ∀ w g, Rules.Wins (Rules.GroupContends s core) w → s.groups.find w.key = some g →
        (t.core core).gHold = some w.key ∧ (t.core core).gWins = w.key :: (s.core core).gWins.filter (fun k => k != w.key)
        ∧ (∀ k, k ≠ w.key → t.groups.find k = s.groups.find k)
        ∧ (∀ p, nextPath s w.key g = some (true, p) → t.groups.find w.key = some g)
        ∧ ∀ q, nextPath s w.key g = some (false, q) → (∀ p, g.running = some p → p.lanes ≠ []) → q.park < g.parkCtr →
          t.groups.find w.key = some (g.given q) := by
  have heq : arbitrateGroup s core = ((groupContenders s core).foldl winner none).elim s (fun w => giveGroup s core w.key) := by
    unfold arbitrateGroup
    rw [if_neg (by simp [hfree, hiss])]
    cases (groupContenders s core).foldl winner none <;> rfl
  dsimp only
  rw [heq]
  have hwin : ∀ w, Rules.Wins (Rules.GroupContends s core) w → (groupContenders s core).foldl winner none = some w :=
    fun w => foldl_winner (mem_groupContenders hs core)
  refine ⟨?_, fun hn => ?_, fun w g hw hg => ?_⟩
  · cases (groupContenders s core).foldl winner none with
    | none => exact slotsOnly_refl core s
    | some w => exact slotsOnly_giveGroup s core w.key
  · rw [foldl_winner_none (mem_groupContenders hs core) hn]; rfl
  · rw [hwin w hw]
    obtain ⟨⟨-, -, -, g', -, -, hg', -, -, -, hcan⟩, -⟩ := hw
    obtain rfl : g = g' := Option.some.inj (hg.symm.trans hg')
    obtain ⟨gs, hgive, hother, hruns, hparked⟩ := giveGroup_eq (core := core) hg ((nextPath_isSome s w.key g).mpr hcan)
    show _ ∧ _
    simp only [Option.elim]
    rw [hgive, core_modCore, if_pos rfl]
    exact ⟨rfl, rfl, hother, hruns, hparked⟩

theorem clauseArbitration_runs {s : State} {core : Nat} (ht : s.plat.thermal = false)
    (h : ((s.core core).gHold = none ∧ (s.core core).gIssued = false) ∨ ((s.core core).lHold = none ∧ (s.core core).lIssued = false)) :
    exec (.clauseArbitration core) s = .next (arbitrateLead (arbitrateGroup s core) core) := by
  rw [show exec (.clauseArbitration core) s = execClauseArbitration core s from rfl]
  unfold execClauseArbitration
  rw [if_neg]
  rcases h with ⟨hh, hi⟩ | ⟨hh, hi⟩ <;> simp [ht, hh, hi]

/-- The arbitration of a free group slot (R24, R330). -/
theorem clauseArbitration_group {s : State} {core : Nat} (hth : s.plat.thermal = false) (hfree : (s.core core).gHold = none)
    (hiss : (s.core core).gIssued = false) (hs : s.groups.sorted = true) :
    ∃ t, exec (.clauseArbitration core) s = .next t ∧ Rules.SlotsOnly core s t
      ∧ ((∀ w, ¬Rules.GroupContends s core w) → (t.core core).gHold = none ∧ t.groups = s.groups)
      ∧ ∀ w g, Rules.Wins (Rules.GroupContends s core) w → s.groups.find w.key = some g →
        (t.core core).gHold = some w.key ∧ (t.core core).gWins = w.key :: (s.core core).gWins.filter (fun k => k != w.key)
        ∧ (∀ k, k ≠ w.key → t.groups.find k = s.groups.find k)
        ∧ (∀ p, g.running = some p → canIssue s w.key g p = true → t.groups.find w.key = some g)
        ∧ ((∀ p, g.running = some p → canIssue s w.key g p = false ∧ p.lanes ≠ []) → ∀ q ∈ g.parked, canIssue s w.key g q = true →
          (∀ r ∈ g.parked, canIssue s w.key g r = true → r = q ∨ q.park < r.park) → q.park < g.parkCtr → t.groups.find w.key = some (g.given q)) := by
  obtain ⟨hslots, hnone, hwon⟩ := arbitrateGroup_spec hfree hiss hs
  obtain ⟨hlslots, hlgroups, hlhold, hlwins⟩ := arbitrateLead_frame (arbitrateGroup s core) core
  refine ⟨_, clauseArbitration_runs hth (.inl ⟨hfree, hiss⟩), slotsOnly_trans hslots hlslots, fun hn => ?_, fun w g hw hg => ?_⟩
  · rw [hlhold, hlgroups, hnone hn]
    exact ⟨hfree, rfl⟩
  · obtain ⟨hhold, hwins, hother, hruns, hparked⟩ := hwon w g hw hg
    rw [hlhold, hlwins, hlgroups]
    refine ⟨hhold, hwins, hother, fun p hr hc => hruns p (nextPath_running hr hc), fun hrun q hq hc hlow hpark => ?_⟩
    refine hparked q ?_ (fun p hp => (hrun p hp).2) hpark
    rw [nextPath_parked fun p hp => (hrun p hp).1, foldl_lowerPark (q := q)]
    · rfl
    · exact List.mem_filter.mpr ⟨hq, hc⟩
    · intro r hr
      obtain ⟨hr, hrc⟩ := List.mem_filter.mp hr
      exact hlow r hr hrc

/-- The arbitration of a free lead slot, while the group slot is not free (R330). -/
theorem clauseArbitration_lead {s : State} {core : Nat} (hth : s.plat.thermal = false) (hheld : (s.core core).gHold ≠ none ∨ (s.core core).gIssued = true)
    (hfree : (s.core core).lHold = none) (hiss : (s.core core).lIssued = false) (hs : s.teams.sorted = true) :
    ∃ t, exec (.clauseArbitration core) s = .next t ∧ Rules.SlotsOnly core s t ∧ t.groups = s.groups
      ∧ ((∀ w, ¬Rules.LeadContends s core w) → (t.core core).lHold = none)
      ∧ ∀ w, Rules.Wins (Rules.LeadContends s core) w →
        (t.core core).lHold = some w.key ∧ (t.core core).lWins = w.key :: (s.core core).lWins.filter (fun k => k != w.key) := by
  have hgroup : arbitrateGroup s core = s := by
    unfold arbitrateGroup
    exact if_pos (by rwa [Bool.or_eq_true, Option.isSome_iff_ne_none])
  have hlead : arbitrateLead s core = ((leadContenders s core).foldl winner none).elim s
      (fun w => s.modCore core (fun c => { c with lHold := some w.key, lWins := w.key :: c.lWins.filter (fun x => x != w.key) })) := by
    unfold arbitrateLead
    rw [if_neg (by simp [hfree, hiss])]
    cases (leadContenders s core).foldl winner none <;> rfl
  obtain ⟨hlslots, hlgroups, -, -⟩ := arbitrateLead_frame s core
  refine ⟨arbitrateLead s core, ?_, hlslots, hlgroups, fun hn => ?_, fun w hw => ?_⟩
  · rw [clauseArbitration_runs hth (.inr ⟨hfree, hiss⟩), hgroup]
  · rw [hlead, foldl_winner_none (mem_leadContenders hs core) hn]
    exact hfree
  · rw [hlead, foldl_winner (mem_leadContenders hs core) hw]
    simp only [Option.elim]
    rw [core_modCore, if_pos rfl]
    exact ⟨rfl, rfl⟩

end Sys2Proof.Machine

/-!
SUPPORT. The decision to swap a team out, and the records of its faults (R331, R355).
-/
namespace Sys2Proof.Machine

/-- `SMap.find_mod` with the key looked at in both cases. -/
theorem SMap.find_mod_at {β : Type} (m : SMap β) (k j : Nat) (f : β → β) : (m.mod k f).find j = if j = k then (m.find j).map f else m.find j := by
  rw [SMap.find_mod]
  split
  · next h => rw [h]
  · rfl

theorem numbered_nil (n : Nat) : Rules.numbered n [] = [] := rfl
theorem numbered_cons (n : Nat) (r : FaultRec) (rs : List FaultRec) : Rules.numbered n (r :: rs) = { r with seq := n } :: Rules.numbered (n + 1) rs := by
  unfold Rules.numbered
  rw [List.mapIdx_cons]
  refine congrArg₂ _ rfl (congrArg (fun f => List.mapIdx f rs) ?_)
  funext i r
  rw [Nat.add_assoc, Nat.add_comm 1 i]

/-- One record is written, and its number noted with the team. -/
def noteFault (tk task : Nat) (s : State) (r : FaultRec) : State :=
  (writeFault s (spaceOf s task) r).modTeam tk (fun t => { t with faultSeqs := t.faultSeqs ++ [(r.stage, nextFault s (spaceOf s t.task) r.stage)] })

theorem writeFaults_eq {s : State} {tk : Nat} {tm : Team} (ht : s.teams.find tk = some tm) :
    writeFaults s tk = tm.faults.foldl (noteFault tk tm.task) (s.modTeam tk (fun t => { t with faults := [] })) := by
  unfold writeFaults
  simp only [ht]
  rfl

/-- The rings of a space after records have been written. -/
def Space.noted (sp : Space) (rs : List FaultRec) : Space :=
  { sp with
    ring := sp.ring ++ Rules.numbered sp.ring.length (rs.filter (fun r => r.stage == 0)),
    ring2 := sp.ring2 ++ Rules.numbered sp.ring2.length (rs.filter (fun r => !(r.stage == 0))) }

/-- The records of a list written one after another (R355): `seqs` are the numbers that they receive. -/
def FaultsNoted (tk space : Nat) (rs : List FaultRec) (seqs : List (Nat × Nat)) (s t : State) : Prop :=
  t = { s with spaces := t.spaces, teams := t.teams }
  ∧ (∀ k, t.teams.find k = if k = tk then (s.teams.find k).map (fun y => { y with faultSeqs := y.faultSeqs ++ seqs }) else s.teams.find k)
  ∧ seqs.map Prod.fst = rs.map FaultRec.stage
  ∧ ∀ sp, s.spaces.find space = some sp →
    (seqs.filter (fun q => q.1 == 0)).map Prod.snd = List.range' sp.ring.length (rs.filter (fun r => r.stage == 0)).length
    ∧ (seqs.filter (fun q => !(q.1 == 0))).map Prod.snd = List.range' sp.ring2.length (rs.filter (fun r => !(r.stage == 0))).length
    ∧ ∀ k, t.spaces.find k = if k = space then some (sp.noted rs) else s.spaces.find k

theorem faultsNoted_nil (tk space : Nat) (s : State) : FaultsNoted tk space [] [] s s := by
  refine ⟨rfl, fun k => ?_, rfl, fun sp hsp => ⟨rfl, rfl, fun k => ?_⟩⟩
  · simp
  · simpa [Space.noted, Rules.numbered] using SMap.find_self hsp k

theorem faultsNoted_one {tk space task : Nat} {s : State} {y : Team} (hy : s.teams.find tk = some y) (htask : y.task = task) (hspace : spaceOf s task = space)
    (r : FaultRec) : FaultsNoted tk space [r] [(r.stage, nextFault s space r.stage)] s (noteFault tk task s r) := by
  refine ⟨rfl, fun k => ?_, rfl, fun sp hsp => ?_⟩
  · show (s.teams.mod tk _).find k = _
    rw [SMap.find_mod]
    split
    · next hk => rw [hk, hy]; simp only [Option.map_some, htask, hspace]
    · rfl
  · have hfind : ∀ k, (noteFault tk task s r).spaces.find k = if k = space then some (sp.noted [r]) else s.spaces.find k := fun k => by
      show (s.spaces.mod (spaceOf s task) _).find k = _
      rw [hspace, SMap.find_mod, hsp]
      refine if_congr Iff.rfl ?_ rfl
      by_cases h0 : r.stage = 0 <;> simp [h0, Space.noted, Rules.numbered]
    refine ⟨?_, ?_, hfind⟩ <;> by_cases h0 : r.stage = 0 <;> simp [h0, nextFault, hsp]

theorem FaultsNoted.teams_find {tk space : Nat} {rs : List FaultRec} {seqs : List (Nat × Nat)} {s t : State} (h : FaultsNoted tk space rs seqs s t) {y : Team}
    (hy : s.teams.find tk = some y) : t.teams.find tk = some { y with faultSeqs := y.faultSeqs ++ seqs } := by
  obtain ⟨-, hteams, -⟩ := h
  rw [hteams, if_pos rfl, hy]
  rfl

theorem noted_cons (sp : Space) (r : FaultRec) (rs : List FaultRec) : (sp.noted [r]).noted rs = sp.noted (r :: rs) := by
  unfold Space.noted
  by_cases h0 : r.stage = 0 <;> simp [h0, numbered_cons, numbered_nil]

theorem noted_length (sp : Space) (r : FaultRec) :
    (sp.noted [r]).ring.length = sp.ring.length + (if r.stage = 0 then 1 else 0) ∧ (sp.noted [r]).ring2.length = sp.ring2.length + (if r.stage = 0 then 0 else 1) := by
  unfold Space.noted
  by_cases h0 : r.stage = 0 <;> simp [h0, numbered_cons, numbered_nil]

theorem faultsNoted_cons {tk space : Nat} {r : FaultRec} {rs : List FaultRec} {n : Nat} {seqs : List (Nat × Nat)} {s t u : State}
    (h : FaultsNoted tk space [r] [(r.stage, n)] s t) (h' : FaultsNoted tk space rs seqs t u) : FaultsNoted tk space (r :: rs) ((r.stage, n) :: seqs) s u := by
  obtain ⟨hst, hteams, -, hspaces⟩ := h
  obtain ⟨htu, hteams', hstages, hspaces'⟩ := h'
  refine ⟨by rw [htu, hst], fun k => ?_, by rw [List.map_cons, List.map_cons, hstages], fun sp hsp => ?_⟩
  · rw [hteams', hteams]
    split
    · cases s.teams.find k <;> simp
    · rfl
  · obtain ⟨hn, hn', hfind⟩ := hspaces sp hsp
    obtain ⟨hs, hs', hfind'⟩ := hspaces' (sp.noted [r]) (by rw [hfind, if_pos rfl])
    obtain ⟨hlen, hlen'⟩ := noted_length sp r
    rw [hlen] at hs
    rw [hlen'] at hs'
    refine ⟨?_, ?_, fun k => ?_⟩
    · by_cases h0 : r.stage = 0 <;> simp [h0] at hn hs ⊢ <;> simp [hn, hs, List.range'_succ]
    · by_cases h0 : r.stage = 0 <;> simp [h0] at hn' hs' ⊢ <;> simp [hn', hs', List.range'_succ]
    · rw [hfind', hfind, noted_cons]
      split <;> rfl

theorem faultsNoted_foldl {tk space task : Nat} : ∀ (rs : List FaultRec) {s : State} {y : Team}, s.teams.find tk = some y → y.task = task → spaceOf s task = space →
    ∃ seqs, FaultsNoted tk space rs seqs s (rs.foldl (noteFault tk task) s)
  | [], s, _, _, _, _ => ⟨[], faultsNoted_nil tk space s⟩
  | r :: rs, _, _, hy, htask, hspace => by
    have hone := faultsNoted_one hy htask hspace r
    obtain ⟨seqs, hrest⟩ := faultsNoted_foldl rs (hone.teams_find hy) htask hspace
    exact ⟨_, faultsNoted_cons hone hrest⟩

/-- Every record of a team is written, and the team has none left. -/
theorem writeFaults_spec {s : State} {tk : Nat} {tm : Team} (ht : s.teams.find tk = some tm) :
    ∃ seqs, FaultsNoted tk (spaceOf s tm.task) tm.faults seqs (s.modTeam tk (fun t => { t with faults := [] })) (writeFaults s tk) := by
  rw [writeFaults_eq ht]
  refine faultsNoted_foldl tm.faults (y := { tm with faults := [] }) ?_ rfl rfl
  rw [modTeam_teams, SMap.find_mod, if_pos rfl, ht]
  rfl

/-! ## The decision (R331) -/

theorem decideSwap_spec (s : State) (tk : Nat) (tm : Team) (reason : BitVec 4) : Rules.SwapDecided tk tm reason s (decideSwap s tk tm reason) :=
  ⟨rfl, fun _ => SMap.find_mod_at _ _ _ _⟩

theorem swapOut_faults {s : State} {tk : Nat} {tm : Team} {x : Task} {sp : Space} (ht : s.teams.find tk = some tm) (hx : s.tasks.find tm.task = some x)
    (hswap : tm.swap = none) (hf : tm.faults ≠ []) (hsp : s.spaces.find x.space = some sp) :
    let first := tm.faults.filter (fun r => r.stage == 0)
    let second := tm.faults.filter (fun r => !(r.stage == 0))
    ∃ t u seqs, exec (.swapOut tk 1#4) s = .next t ∧ u = { s with spaces := u.spaces, fresh := { s.fresh with saves := tm.uid :: s.fresh.saves } }
      ∧ Rules.OneTeam tk (fun y => { y with faults := [], swap := some 1#4, faultSeqs := y.faultSeqs ++ seqs }) u t
      ∧ seqs.map Prod.fst = tm.faults.map FaultRec.stage
      ∧ (seqs.filter (fun q => q.1 == 0)).map Prod.snd = List.range' sp.ring.length first.length
      ∧ (seqs.filter (fun q => !(q.1 == 0))).map Prod.snd = List.range' sp.ring2.length second.length
      ∧ ∀ k, u.spaces.find k = if k = x.space then
          some { sp with ring := sp.ring ++ Rules.numbered sp.ring.length first, ring2 := sp.ring2 ++ Rules.numbered sp.ring2.length second }
        else s.spaces.find k := by
  intro first second
  have hrun : exec (.swapOut tk 1#4) s = .next (writeFaults (decideSwap s tk tm 1#4) tk) := by
    rw [show exec (.swapOut tk 1#4) s = execSwapOut tk 1#4 s from rfl]
    unfold execSwapOut
    simp [ht, hswap, hf]
  obtain ⟨hframe, hdec⟩ := decideSwap_spec s tk tm 1#4
  have ht' : (decideSwap s tk tm 1#4).teams.find tk = some { tm with swap := some 1#4 } := by rw [hdec, if_pos rfl, ht]; rfl
  obtain ⟨seqs, hnoted, hteams, hstages, hspaces⟩ := writeFaults_spec ht'
  have hspace : spaceOf (decideSwap s tk tm 1#4) tm.task = x.space := by
    rw [hframe]; unfold spaceOf; simp only [hx]
  dsimp only at hnoted hstages hspaces
  rw [hspace] at hspaces
  generalize writeFaults (decideSwap s tk tm 1#4) tk = t at *
  obtain ⟨h1, h2, h3⟩ := hspaces sp (by rw [hframe]; exact hsp)
  refine ⟨t, { s with spaces := t.spaces, fresh := { s.fresh with saves := tm.uid :: s.fresh.saves } }, seqs, hrun, rfl, ⟨?_, fun k => ?_⟩, hstages, h1, h2, fun k => ?_⟩
  · rw [hnoted, hframe]; rfl
  · rw [hteams, modTeam_teams, SMap.find_mod_at, hdec]
    by_cases hk : k = tk
    · simp only [if_pos hk]
      cases s.teams.find k <;> rfl
    · simp only [if_neg hk]
  · refine (h3 k).trans ?_
    rw [hframe]
    rfl

theorem swapOut_spawn {s : State} {tk : Nat} {tm : Team} (ht : s.teams.find tk = some tm) (hswap : tm.swap = none)
    {desc : List Byte} {place : DWord} {sd allow since : Nat} (hw : tm.lead.wait = .spawnW desc place sd allow since)
    (hlate : 4096 ≤ (s.time - BitVec.ofNat 48 since).toNat) :
    ∃ t, exec (.swapOut tk 2#4) s = .next t ∧ Rules.SwapDecided tk tm 2#4 s t := by
  have hlate : spawnLate s tm = true := by unfold spawnLate; rw [hw]; exact decide_eq_true hlate
  refine ⟨_, ?_, decideSwap_spec s tk tm 2#4⟩
  rw [show exec (.swapOut tk 2#4) s = execSwapOut tk 2#4 s from rfl]
  unfold execSwapOut
  simp [ht, hswap, hlate]

theorem swapOut_preempted {s : State} {tk : Nat} {tm : Team} (ht : s.teams.find tk = some tm) (hswap : tm.swap = none) {q : Nat}
    (hq : concerned s q tm.task = true) (hpre : (s.queue q).pre = true) (hrung : 2 ≤ (s.queue q).rung) :
    ∃ t, exec (.swapOut tk 3#4) s = .next t ∧ Rules.SwapDecided tk tm 3#4 s t := by
  have hr : rung2 s tm.task = true := by
    unfold rung2
    rw [List.any_eq_true]
    exact ⟨q, by simpa [concerned] using hq, by rw [hpre, Bool.true_and]; exact decide_eq_true hrung⟩
  refine ⟨_, ?_, decideSwap_spec s tk tm 3#4⟩
  rw [show exec (.swapOut tk 3#4) s = execSwapOut tk 3#4 s from rfl]
  unfold execSwapOut
  simp [ht, hswap, hr]

end Sys2Proof.Machine

/-!
SUPPORT. The write of a context image (R331, R333): nothing of the team is held at a home, so nothing is withdrawn; what the image holds
and what then is left of the team.
-/
namespace Sys2Proof.Machine

/-! ## Maps built entry by entry -/

section
variable {α β : Type} (key : α → Nat) (val : α → β)

theorem find_foldl_put_other {k : Nat} : ∀ (l : List α) (m : SMap β), (∀ e ∈ l, key e ≠ k) → (l.foldl (fun m e => m.put (key e) (val e)) m).find k = m.find k
  | [], _, _ => rfl
  | a :: l, m, h => by
    rw [List.foldl_cons, find_foldl_put_other l _ fun e he => h e (List.mem_cons_of_mem _ he), SMap.find_put_other _ _ (Ne.symm (h a List.mem_cons_self))]

theorem find_foldl_put {k : Nat} {v : β} : ∀ (l : List α) (m : SMap β), (∀ e ∈ l, key e = k → val e = v) → (m.find k = some v ∨ ∃ e ∈ l, key e = k) →
    (l.foldl (fun m e => m.put (key e) (val e)) m).find k = some v
  | [], _, _, h => by
    rcases h with h | ⟨e, he, -⟩
    · exact h
    · cases he
  | a :: l, m, hv, h => by
    rw [List.foldl_cons]
    apply find_foldl_put l _ fun e he => hv e (List.mem_cons_of_mem _ he)
    by_cases ha : key a = k
    · left; rw [← ha, SMap.find_put_same, hv a List.mem_cons_self ha]
    · rcases h with h | ⟨e, he, hk⟩
      · left; rw [SMap.find_put_other _ _ (Ne.symm ha)]; exact h
      · rcases List.mem_cons.mp he with rfl | he
        · exact absurd hk ha
        · exact .inr ⟨e, he, hk⟩
end

theorem SMap.find_filter {β : Type} {m : SMap β} (hs : m.sorted = true) (p : Nat × β → Bool) {k : Nat} {v : β} (h : m.find k = some v) :
    SMap.find (m.filter p) k = if p (k, v) then some v else none := by
  have hs' : SMap.sorted (m.filter p) = true := (SMap.sorted_iff _).mpr (((SMap.sorted_iff _).mp hs).filter p)
  by_cases hp : p (k, v) = true
  · rw [if_pos hp]
    exact SMap.find_of_mem hs' (List.mem_filter.mpr ⟨SMap.mem_of_find h, hp⟩)
  · rw [if_neg hp]
    cases hf : SMap.find (m.filter p) k with
    | none => rfl
    | some w =>
      obtain ⟨hm, hw⟩ := List.mem_filter.mp (SMap.mem_of_find hf)
      obtain rfl : v = w := Option.some.inj (h.symm.trans (SMap.find_of_mem hs hm))
      exact absurd hw hp

/-! ## Nothing is withdrawn -/

theorem heldNow_nil {s : State} (h : s.heldReqs = []) (id : Nat) : heldNow s id = false := by unfold heldNow; rw [h]; rfl

/-- A path that stalls on nothing stands as it does. -/
theorem withdrawPath_settled {s : State} (h : s.heldReqs = []) {p : Path} (hp : pathSettled s p = true) (task tk gk : Nat) :
    withdrawPath task tk gk s p = s := by
  unfold withdrawPath
  unfold pathSettled at hp
  cases hw : p.wait with
  | answers rs at_ word cost =>
    rw [hw] at hp
    simp only [heldNow_nil h, Bool.or_false] at hp
    have hnone : rs.filter (fun r => r.2.2 == .waiting) = [] := by
      rw [List.filter_eq_nil_iff]
      intro r hr he
      exact bne_iff_ne.mp (List.all_eq_true.mp hp r hr) (beq_iff_eq.mp he)
    simp only [hnone, List.map_nil, List.isEmpty_nil, if_true]
  | none | barw _ _ | xconv _ | fence _ _ | sleep _ => rfl

theorem foldl_stays {α β : Type} {f : β → α → β} {b : β} (l : List α) (h : ∀ x ∈ l, f b x = b) : l.foldl f b = b := by
  induction l with
  | nil => rfl
  | cons x l ih =>
    rw [List.foldl_cons, h x List.mem_cons_self]
    exact ih fun y hy => h y (List.mem_cons_of_mem _ hy)

theorem withdrawPaths_settled {s : State} {tk : Nat} {t : Team} (h : s.heldReqs = [])
    (hp : ∀ e ∈ groupsOf s tk, ∀ p ∈ e.2.parked, pathSettled s p = true) : withdrawPaths s tk t = s := by
  unfold withdrawPaths
  exact foldl_stays _ fun e he => foldl_stays _ fun p hp' => withdrawPath_settled h (hp e he p hp') t.task tk e.1

/-! ## What the image holds (R333) -/

theorem mem_groupsOf {s : State} (hs : s.groups.sorted = true) {tk gk : Nat} {g : Group} : (gk, g) ∈ groupsOf s tk ↔ s.groups.find gk = some g ∧ g.team = tk := by
  unfold groupsOf
  rw [List.mem_filter, SMap.mem_iff_find hs, beq_iff_eq]

theorem mem_savedThreads {s : State} (hs : s.threads.sorted = true) {gk gid : Nat} {x : Nat × Thread} :
    x ∈ savedThreads s gk gid ↔ ∃ k, k / 64 = gk ∧ s.threads.find k = some x.2 ∧ x.1 = 64 * gid + k % 64 := by
  unfold savedThreads
  simp only [List.mem_map, List.mem_filter, beq_iff_eq]
  constructor
  · rintro ⟨⟨k, th⟩, ⟨hm, hk⟩, rfl⟩
    exact ⟨k, hk, SMap.find_of_mem hs hm, rfl⟩
  · rintro ⟨k, hk, hf, hx⟩
    exact ⟨(k, x.2), ⟨SMap.mem_of_find hf, hk⟩, by rw [← hx]⟩

section
variable {s : State} {tk gk : Nat} {g : Group} (hgs : s.groups.sorted = true) (hths : s.threads.sorted = true) (hg : s.groups.find gk = some g) (htk : g.team = tk)
  (hone : ∀ e ∈ s.groups, ∀ f ∈ s.groups, e.2.team = tk → f.2.team = tk → e.2.gid = f.2.gid → e = f)
include hg htk hone
theorem eq_of_same_gid {e : Nat × Group} (he : e ∈ groupsOf s tk) (hgid : e.2.gid = g.gid) : e = (gk, g) := by
  obtain ⟨hm, ht⟩ := List.mem_filter.mp he
  exact hone e hm (gk, g) (SMap.mem_of_find hg) (beq_iff_eq.mp ht) htk hgid

include hgs
theorem savedOf_groups (tm : Team) (reason : BitVec 4) (sa : List HeldSa) : (savedOf s tk tm reason sa).groups.find g.gid = some g :=
  find_foldl_put (fun e : Nat × Group => e.2.gid) Prod.snd (groupsOf s tk) []
    (fun e he hgid => by rw [eq_of_same_gid hg htk hone he hgid]) (.inr ⟨(gk, g), (mem_groupsOf hgs).mpr ⟨hg, htk⟩, rfl⟩)

include hths
theorem savedOf_threads (tm : Team) (reason : BitVec 4) (sa : List HeldSa) {l : Nat} (hl : l < 64) :
    (savedOf s tk tm reason sa).threads.find (64 * g.gid + l) = s.threads.find (64 * gk + l) := by
  have hflat : (savedOf s tk tm reason sa).threads
      = ((groupsOf s tk).flatMap (fun e => savedThreads s e.1 e.2.gid)).foldl (fun m x => SMap.put m x.1 x.2) [] := by
    rw [List.foldl_flatMap]; rfl
  have hkey : ∀ x ∈ (groupsOf s tk).flatMap (fun e => savedThreads s e.1 e.2.gid), x.1 = 64 * g.gid + l → s.threads.find (64 * gk + l) = some x.2 := by
    intro x hx hk
    obtain ⟨e, he, hx⟩ := List.mem_flatMap.mp hx
    obtain ⟨k, hkg, hf, hx⟩ := (mem_savedThreads hths).mp hx
    have hgid : e.2.gid = g.gid := by omega
    rw [eq_of_same_gid hg htk hone he hgid] at hkg
    rw [show 64 * gk + l = k by simp only at hkg; omega, hf]
  rw [hflat]
  cases hth : s.threads.find (64 * gk + l) with
  | none =>
    rw [find_foldl_put_other]
    · rfl
    · intro x hx hk
      rw [hkey x hx hk] at hth
      cases hth
  | some th =>
    apply find_foldl_put
    · intro x hx hk
      rw [hkey x hx hk] at hth
      exact Option.some.inj hth
    · right
      refine ⟨(64 * g.gid + l, th), List.mem_flatMap.mpr ⟨(gk, g), (mem_groupsOf hgs).mpr ⟨hg, htk⟩, ?_⟩, rfl⟩
      exact (mem_savedThreads hths).mpr ⟨64 * gk + l, by omega, hth, by simp only; omega⟩
end

/-! ## The write (R331) -/

theorem heldCmd_nil {s : State} (h : s.heldReqs = []) (uid : Nat) : heldCmd s uid = none := by unfold heldCmd; rw [h]; rfl
theorem heldReads_nil {s : State} (h : s.heldReqs = []) (uid : Nat) : heldReads s uid = [] := by unfold heldReads; rw [h]; rfl
theorem heldRows_nil {s : State} (h : s.heldReqs = []) (uid : Nat) : heldRows s uid = [] := by unfold heldRows; rw [h]; rfl
theorem withdrawHeld_nil {s : State} (h : s.heldReqs = []) (ids : List Nat) : withdrawHeld s ids = s := by
  unfold withdrawHeld
  rw [h]
  cases s
  simp only at h
  rw [h]
  rfl

/-- The paths of a team whose stop is complete are settled. -/
theorem settled_of_saveReady {s : State} {tk : Nat} {tm : Team} (h : saveReady s tk tm = true) : ∀ e ∈ groupsOf s tk, ∀ p ∈ e.2.parked, pathSettled s p = true := by
  unfold saveReady at h
  simp only [Bool.and_eq_true, List.all_eq_true] at h
  obtain ⟨⟨⟨⟨⟨⟨⟨⟨⟨-, -⟩, hpaths⟩, -⟩, -⟩, -⟩, -⟩, -⟩, -⟩, -⟩ := h
  exact fun e he p hp => (hpaths e he).1 p (List.mem_append_right _ hp)

/-- The team as it leaves its core and lease behind. -/
def leavePlace (s : State) (tk : Nat) (tm : Team) : State :=
  if hasTeamOn (dropTeam s tk) tm.task tm.core then dropTeam s tk else returnLease (dropTeam s tk) tm.core tm.task

theorem saveTeam_eq {s : State} {tk : Nat} {tm : Team} (ht : s.teams.find tk = some tm) (hready : saveReady s tk tm = true) (hh : s.heldReqs = []) (reason : BitVec 4) :
    ∃ (w : State) (tm' : Team), w = { s with spaces := w.spaces, teams := w.teams } ∧ w.teams.find tk = some tm' ∧ (∀ k, k ≠ tk → w.teams.find k = s.teams.find k)
      ∧ (∃ seqs, tm' = { tm with faults := [], faultSeqs := tm.faultSeqs ++ seqs } ∧ seqs.map Prod.fst = tm.faults.map FaultRec.stage)
      ∧ saveTeam s tk reason = leavePlace { w with images := w.images.put tm.uid (savedOf w tk tm' reason []) } tk tm := by
  obtain ⟨seqs, hnoted⟩ := writeFaults_spec ht
  have hfind := hnoted.teams_find (y := { tm with faults := [] }) (by rw [modTeam_teams, SMap.find_mod_at, if_pos rfl, ht]; rfl)
  obtain ⟨hframe, hteams, hstages, -⟩ := hnoted
  have hw : writeFaults s tk = { s with spaces := (writeFaults s tk).spaces, teams := (writeFaults s tk).teams } := hframe
  refine ⟨writeFaults s tk, _, hw, hfind, fun k hk => ?_, ⟨seqs, rfl, hstages⟩, ?_⟩
  · rw [hteams, if_neg hk, modTeam_teams, SMap.find_mod_at, if_neg hk]
  · have hh' : (writeFaults s tk).heldReqs = [] := by rw [hw]; exact hh
    have hset : ∀ e ∈ groupsOf (writeFaults s tk) tk, ∀ p ∈ e.2.parked, pathSettled (writeFaults s tk) p = true := by
      have hsame : ∀ p, pathSettled (writeFaults s tk) p = pathSettled s p := fun p => by rw [hw]; rfl
      have hgroups : groupsOf (writeFaults s tk) tk = groupsOf s tk := by rw [hw]; rfl
      rw [hgroups]
      exact fun e he p hp => (hsame p).trans (settled_of_saveReady hready e he p hp)
    unfold saveTeam
    simp only [ht, heldRows_nil hh, List.foldl_nil, withdrawPaths_settled hh' hset, hfind, heldReads_nil hh', heldCmd_nil hh', withdrawHeld_nil hh', List.map_nil]
    rfl

theorem returnLease_frame (s : State) (core task : Nat) :
    returnLease s core task = { s with leases := (returnLease s core task).leases, tasks := (returnLease s core task).tasks }
      ∧ (returnLease s core task).leases.find (leaseKey core task) = none := by
  unfold returnLease
  cases hl : s.leases.find (leaseKey core task) with
  | none => exact ⟨rfl, hl⟩
  | some l => exact ⟨rfl, by show (s.leases.del _).find _ = none; rw [SMap.find_del, if_pos rfl]⟩

theorem dropTeam_groups {s : State} {tk : Nat} {t : Team} (ht : s.teams.find tk = some t) (hs : s.groups.sorted = true) {gk : Nat} {g : Group}
    (hg : s.groups.find gk = some g) : (dropTeam s tk).groups.find gk = if g.team = tk then none else some g := by
  have hgroups : (dropTeam s tk).groups = s.groups.filter (fun e => e.2.team != tk) := by unfold dropTeam; rw [ht]; rfl
  rw [hgroups, SMap.find_filter hs _ hg]
  by_cases h : g.team = tk <;> simp [h]

/-- What is left when a team has left its place. -/
theorem leavePlace_spec {s : State} {tk : Nat} {t tm : Team} (ht : s.teams.find tk = some t) (hcore : t.core = tm.core) (huid : t.uid = tm.uid) (hs : s.groups.sorted = true) :
    let u := leavePlace s tk tm
    u = { s with teams := s.teams.del tk, groups := u.groups, threads := u.threads, cores := u.cores, leases := u.leases, tasks := u.tasks }
      ∧ (∀ gk g, s.groups.find gk = some g → u.groups.find gk = if g.team = tk then none else some g)
      ∧ ((s.core tm.core).array.holder = some tm.uid → (u.core tm.core).array.holder = none)
      ∧ ((∀ e ∈ u.teams, ¬(e.2.task = tm.task ∧ e.2.core = tm.core)) → u.leases.find (leaseKey tm.core tm.task) = none) := by
  obtain ⟨hframe, harray⟩ := dropTeam_spec ht
  rw [hcore, huid] at harray
  have hgroups : ∀ gk g, s.groups.find gk = some g → (dropTeam s tk).groups.find gk = if g.team = tk then none else some g :=
    fun gk g hg => dropTeam_groups ht hs hg
  obtain ⟨hlframe, hlease⟩ := returnLease_frame (dropTeam s tk) tm.core tm.task
  unfold leavePlace
  generalize dropTeam s tk = v at *
  dsimp only
  split
  · next hteam =>
    refine ⟨by rw [hframe], hgroups, harray, fun hn => ?_⟩
    obtain ⟨e, he, heq⟩ := (hasTeamOn_iff v tm.task tm.core).mp hteam
    exact absurd heq (hn e he)
  · refine ⟨?_, fun gk g hg => ?_, fun ha => ?_, fun _ => hlease⟩
    · rw [hlframe, hframe]
    · rw [hlframe]; exact hgroups gk g hg
    · rw [hlframe]; exact harray ha

/-- The image is written in a clk after the decision, when the stop is complete. -/
theorem contextImageWrite_spec {s : State} {tk : Nat} {tm : Team} {reason : BitVec 4} (ht : s.teams.find tk = some tm) (hswap : tm.swap = some reason)
    (hready : saveReady s tk tm = true) (hfresh : tm.uid ∉ s.fresh.saves) (hh : s.heldReqs = []) (hgs : s.groups.sorted = true) (hths : s.threads.sorted = true)
    (hone : ∀ e ∈ s.groups, ∀ f ∈ s.groups, e.2.team = tk → f.2.team = tk → e.2.gid = f.2.gid → e = f) :
    ∃ t i, exec (.contextImageWrite tk) s = .next t ∧ t.teams.find tk = none ∧ (∀ k, k ≠ tk → t.teams.find k = s.teams.find k)
      ∧ (∀ k, t.images.find k = if k = tm.uid then some i else s.images.find k)
      ∧ i.cmd = none ∧ i.team.faultSeqs.length = tm.faultSeqs.length + tm.faults.length ∧ (tm.faults = [] → i.team.faultSeqs = tm.faultSeqs)
      ∧ i.team = { tm with swap := none, faults := [], faultSeqs := i.team.faultSeqs, heldSa := [], array :=
          if (s.core tm.core).array.holder = some tm.uid then some { (s.core tm.core).array with holder := none } else tm.array }
      ∧ i.reason = reason ∧ i.savetime = s.time.toNat ∧ i.held = [] ∧ i.k = (s.node (tm.core / 96)).k ∧ i.epoch = (s.node (tm.core / 96)).epoch
      ∧ (∀ gk g, s.groups.find gk = some g → if g.team = tk then t.groups.find gk = none ∧ i.groups.find g.gid = some g
          ∧ ∀ l < 64, i.threads.find (64 * g.gid + l) = s.threads.find (64 * gk + l)
        else t.groups.find gk = some g)
      ∧ ((s.core tm.core).array.holder = some tm.uid → (t.core tm.core).array.holder = none)
      ∧ ((∀ e ∈ t.teams, ¬(e.2.task = tm.task ∧ e.2.core = tm.core)) → t.leases.find (65536 * tm.core + tm.task) = none) := by
  have hrun : exec (.contextImageWrite tk) s = .next (saveTeam s tk reason) := by
    rw [show exec (.contextImageWrite tk) s = execContextImageWrite tk s from rfl]
    unfold execContextImageWrite
    simp [ht, hswap, hready, hfresh]
  obtain ⟨w, tm', hw, ht', hothers, ⟨seqs, rfl, hstages⟩, hsave⟩ := saveTeam_eq ht hready hh reason
  have hlen := congrArg List.length hstages
  simp only [List.length_map] at hlen
  generalize hi : savedOf w tk { tm with faults := [], faultSeqs := tm.faultSeqs ++ seqs } reason [] = i at *
  obtain ⟨hframe, hgroups, harray, hlease⟩ := leavePlace_spec (s := { w with images := w.images.put tm.uid i }) (tm := tm) ht' rfl rfl (by rw [hw]; exact hgs)
  rw [hsave] at hrun
  generalize leavePlace { w with images := w.images.put tm.uid i } tk tm = t at *
  refine ⟨t, i, hrun, ?_, fun k hk => ?_, fun k => ?_, ?_, ?_, fun hf => ?_, ?_, ?_, ?_, ?_, ?_, ?_, fun gk g hg => ?_, fun ha => ?_, hlease⟩
  · rw [hframe]; show (w.teams.del tk).find tk = none; rw [SMap.find_del, if_pos rfl]
  · rw [hframe]; show (w.teams.del tk).find k = _; rw [SMap.find_del, if_neg hk, hothers k hk]
  · rw [hframe]; show (w.images.put tm.uid i).find k = _; rw [SMap.find_put, hw]
  · rw [← hi]; exact heldCmd_nil (by rw [hw]; exact hh) tm.uid
  · rw [← hi, ← hlen]; exact List.length_append
  · rw [hf, List.length_nil, List.length_eq_zero_iff] at hlen
    rw [← hi, hlen]
    exact List.append_nil _
  · have hcores : w.core tm.core = s.core tm.core := by rw [hw]; rfl
    rw [← hi, ← hcores]
    unfold savedOf
    simp only [beq_iff_eq]
  · rw [← hi]; rfl
  · rw [← hi, hw]; rfl
  · rw [← hi]; rfl
  · rw [← hi, hw]; rfl
  · rw [← hi, hw]; rfl
  · have hwg : w.groups = s.groups := by rw [hw]
    have hwt : w.threads = s.threads := by rw [hw]
    have hfind := hgroups gk g (by rw [← hg, ← hwg])
    split
    · next htk =>
      rw [if_pos htk] at hfind
      have hone' : ∀ e ∈ w.groups, ∀ f ∈ w.groups, e.2.team = tk → f.2.team = tk → e.2.gid = f.2.gid → e = f := by rw [hwg]; exact hone
      rw [← hi, ← hwt]
      refine ⟨hfind, savedOf_groups (by rw [hwg]; exact hgs) (by rw [hwg]; exact hg) htk hone' _ _ _, fun l hl => ?_⟩
      exact savedOf_threads (by rw [hwg]; exact hgs) (by rw [hwt]; exact hths) (by rw [hwg]; exact hg) htk hone' _ _ _ hl
    · next htk => rw [hfind, if_neg htk]
  · have hcores : w.core tm.core = s.core tm.core := by rw [hw]; rfl
    exact harray (by rw [← hcores] at ha; exact ha)

end Sys2Proof.Machine

/-!
SUPPORT. The re-entry of a saved team (R333): its groups and threads in their new slots, its queues, what its die then knows, the
deliveries held for it, and what is sent again.
-/
namespace Sys2Proof.Machine

/-! ## Groups and threads in their slots -/

theorem mem_mine {i : Saved} (hs : i.threads.sorted = true) {gid l : Nat} {th : Thread} (hth : i.threads.find (64 * gid + l) = some th)
    {e : Nat × Thread} (he : e ∈ i.threads.filter (fun e => e.1 / 64 == gid)) (hk : e.1 % 64 = l) : e.2 = th := by
  obtain ⟨hm, hgid⟩ := List.mem_filter.mp he
  have hgid := beq_iff_eq.mp hgid
  have hfind : i.threads.find e.1 = some e.2 := SMap.find_of_mem hs hm
  rw [show e.1 = 64 * gid + l by omega, hth] at hfind
  exact (Option.some.inj hfind).symm

theorem enterGroup_spec {i : Saved} (hs : i.threads.sorted = true) (core tk : Nat) (s : State) (gid : Nat) (g : Group) (p : Nat) :
    let t := enterGroup i core tk s ((gid, g), p)
    t = { s with groups := t.groups, threads := t.threads }
      ∧ (∀ k, t.groups.find k = if k = 8 * core + p then some { g with team := tk } else s.groups.find k)
      ∧ (∀ k, k / 64 ≠ 8 * core + p → t.threads.find k = s.threads.find k)
      ∧ ∀ l < 64, ∀ th, i.threads.find (64 * gid + l) = some th → t.threads.find (64 * (8 * core + p) + l) = some th := by
  refine ⟨rfl, fun k => SMap.find_put _ _ _ _, fun k hk => ?_, fun l hl th hth => ?_⟩
  · refine find_foldl_put_other (fun e : Nat × Thread => tkey (8 * core + p) (e.1 % 64)) Prod.snd _ _ fun e _ he => hk ?_
    unfold tkey at he
    omega
  · refine find_foldl_put (fun e : Nat × Thread => tkey (8 * core + p) (e.1 % 64)) Prod.snd _ _ (fun e he hk => ?_) (.inr ⟨(64 * gid + l, th), ?_, ?_⟩)
    · exact mem_mine hs hth he (by unfold tkey at hk; omega)
    · exact List.mem_filter.mpr ⟨SMap.mem_of_find hth, beq_iff_eq.mpr (by simp only; omega)⟩
    · unfold tkey; simp only; omega

/-- What the groups of an image become, each in its slot. -/
theorem enterGroups_spec {i : Saved} (hs : i.threads.sorted = true) (core tk : Nat) : ∀ (xs : List ((Nat × Group) × Nat)) (s : State),
    let t := xs.foldl (enterGroup i core tk) s
    t = { s with groups := t.groups, threads := t.threads }
      ∧ (∀ k, (∀ x ∈ xs, k ≠ 8 * core + x.2) → t.groups.find k = s.groups.find k)
      ∧ (∀ k, (∀ x ∈ xs, k / 64 ≠ 8 * core + x.2) → t.threads.find k = s.threads.find k)
      ∧ ((xs.map Prod.snd).Nodup → ∀ gid g p, ((gid, g), p) ∈ xs → t.groups.find (8 * core + p) = some { g with team := tk }
        ∧ ∀ l < 64, ∀ th, i.threads.find (64 * gid + l) = some th → t.threads.find (64 * (8 * core + p) + l) = some th)
  | [], s => ⟨rfl, fun _ _ => rfl, fun _ _ => rfl, fun _ _ _ _ h => by cases h⟩
  | ((gid, g), p) :: xs, s => by
    obtain ⟨hframe, hgroups, hthreads, hnew⟩ := enterGroup_spec hs core tk s gid g p
    obtain ⟨hframe', hgroups', hthreads', hnew'⟩ := enterGroups_spec hs core tk xs (enterGroup i core tk s ((gid, g), p))
    rw [List.foldl_cons]
    generalize enterGroup i core tk s ((gid, g), p) = u at *
    generalize xs.foldl (enterGroup i core tk) u = t at *
    refine ⟨by rw [hframe', hframe], fun k hk => ?_, fun k hk => ?_, fun hn gid' g' p' hx => ?_⟩
    · rw [hgroups' k fun x hx => hk x (List.mem_cons_of_mem _ hx), hgroups, if_neg (hk _ List.mem_cons_self)]
    · rw [hthreads' k fun x hx => hk x (List.mem_cons_of_mem _ hx), hthreads k (hk _ List.mem_cons_self)]
    · obtain ⟨hp, hn⟩ := List.nodup_cons.mp hn
      rcases List.mem_cons.mp hx with hx | hx
      · obtain ⟨hgg, rfl⟩ := Prod.mk.inj hx
        obtain ⟨rfl, rfl⟩ := Prod.mk.inj hgg
        have hne : ∀ x ∈ xs, p' ≠ x.2 := fun x hx e => hp (by rw [e]; exact List.mem_map.mpr ⟨x, hx, rfl⟩)
        refine ⟨?_, fun l hl th hth => ?_⟩
        · rw [hgroups' _ fun x hx e => hne x hx (by omega), hgroups, if_pos rfl]
        · rw [hthreads' _ fun x hx e => hne x hx (by omega)]
          exact hnew l hl th hth
      · exact hnew' hn gid' g' p' hx

/-! ## Bytes in a sparse map -/

theorem SMap.get_setBytes (a : Nat) : ∀ (bs : List Byte) (m : SMap Byte) (b : Nat),
    (m.setBytes b bs).get a 0#8 = if b ≤ a ∧ a < b + bs.length then bs.getD (a - b) 0#8 else m.get a 0#8
  | [], m, b => by rw [SMap.setBytes, if_neg]; simp
  | c :: bs, m, b => by
    rw [SMap.setBytes, SMap.get_setBytes a bs, SMap.get_set]
    by_cases hab : a = b
    · subst hab
      rw [if_neg (by omega), if_pos rfl, if_pos (by simp), Nat.sub_self]
      rfl
    · rw [if_neg hab, List.length_cons]
      by_cases hin : b + 1 ≤ a ∧ a < b + 1 + bs.length
      · rw [if_pos hin, if_pos (by omega), show a - b = a - (b + 1) + 1 by omega]
        rfl
      · rw [if_neg hin, if_neg (by omega)]

/-! ## What a node knows -/

theorem node_modNode (s : State) (k j : Nat) (f : Node → Node) : (s.modNode k f).node j = if j = k then f (s.node k) else s.node j := SMap.get_set _ _ _ _ _

/-- What a node knows of others is not changed by what it sends. -/
theorem sendCausal_at (s : State) (i dst : Nat) (b : Body) {n j : Nat} (h : j ≠ n) : Stamp.at ((s.sendCausal i dst b).node n).k j = Stamp.at (s.node n).k j := by
  unfold State.sendCausal State.refreshA
  dsimp only
  rw [node_modNode]
  by_cases hn : n = i
  · rw [if_pos hn, node_modNode_same]
    subst hn
    split <;> exact SMap.get_set_other _ _ _ h
  · rw [if_neg hn, node_modNode, if_neg hn]

/-! ## Deliveries that were held for the team (R147, R259) -/

/-- One team has this number. -/
def OnlyOwner (s : State) (uid tk : Nat) (y : Team) : Prop := s.teams.find tk = some y ∧ y.uid = uid ∧ ∀ e ∈ s.teams, e.2.uid = uid → e.1 = tk

theorem teamByUid_owner {s : State} {uid tk : Nat} {y : Team} (h : OnlyOwner s uid tk y) : ∃ e, teamByUid s uid = some e ∧ e.1 = tk := by
  obtain ⟨hy, huid, hone⟩ := h
  unfold teamByUid
  cases hf : List.find? (fun e : Nat × Team => e.2.uid == uid) s.teams with
  | none => exact absurd (beq_iff_eq.mpr huid) (List.find?_eq_none.mp hf (tk, y) (SMap.mem_of_find hy))
  | some e =>
    have hu := List.find?_some hf
    exact ⟨e, rfl, hone e (List.mem_of_find?_eq_some hf) (beq_iff_eq.mp hu)⟩

theorem SMap.mem_mod {β : Type} {m : SMap β} {k : Nat} {f : β → β} {x : Nat × β} (h : x ∈ m.mod k f) : x ∈ m ∨ x.1 = k := by
  unfold SMap.mod at h
  split at h
  · rcases SMap.mem_put h with rfl | h
    · exact .inr rfl
    · exact .inl h
  · exact .inl h

theorem onlyOwner_modTeam {s : State} {uid tk : Nat} {y : Team} (h : OnlyOwner s uid tk y) {f : Team → Team} (hf : (f y).uid = y.uid) :
    OnlyOwner (s.modTeam tk f) uid tk (f y) := by
  obtain ⟨hy, huid, hone⟩ := h
  refine ⟨by rw [modTeam_teams, SMap.find_mod, if_pos rfl, hy]; rfl, hf.trans huid, fun e he hu => ?_⟩
  rcases SMap.mem_mod he with he | he
  · exact hone e he hu
  · exact he

theorem countOff_eq (t : Team) (k : Option Nat) (n : Nat) : t.countOff k n = { t with bars := (t.countOff k n).bars } := by
  unfold Team.countOff
  cases k <;> rfl

/-- A team with the bytes of a delivery, its barrier counted. -/
def Team.landed (y : Team) (e : Delivery) : Team := (y.setSpad e.addr e.bytes).countOff e.bar e.bytes.length

theorem landed_eq (y : Team) (e : Delivery) : y.landed e = { y with spad := y.spad.setBytes e.addr e.bytes, bars := (y.landed e).bars } := countOff_eq _ _ _

theorem landHeld_spec {s : State} {uid tk core : Nat} {y : Team} (h : OnlyOwner s uid tk y) (e : Delivery) : let t := landHeld uid core s e
    t = { s with nodes := t.nodes, teams := t.teams } ∧ OnlyOwner t uid tk (y.landed e) ∧ (∀ k, k ≠ tk → t.teams.find k = s.teams.find k)
      ∧ ∀ j < 10, j ≠ core / 96 → Stamp.at (t.node (core / 96)).k j = Rules.laterOf (Stamp.at (s.node (core / 96)).k j) (Stamp.at e.know j) := by
  have hl : OnlyOwner (s.learn (dieOf core) e.know) uid tk y := h
  obtain ⟨f, hf, htk⟩ := teamByUid_owner hl
  have heq : landHeld uid core s e = (s.learn (dieOf core) e.know).modTeam tk (fun t => t.landed e) := by
    unfold landHeld landBytes
    rw [hf, ← htk]
    rfl
  dsimp only
  rw [heq]
  refine ⟨rfl, onlyOwner_modTeam hl (by rw [landed_eq]), fun k hk => ?_, fun j hj hne => learn_at s (core / 96) e.know hj hne⟩
  rw [modTeam_teams, SMap.find_mod, if_neg hk]
  rfl

/-- A byte of the scratchpad after deliveries. -/
def landedByte (a : Nat) (held : List Delivery) (b : Byte) : Byte :=
  held.foldl (fun b e => if e.addr ≤ a ∧ a < e.addr + e.bytes.length then e.bytes.getD (a - e.addr) 0#8 else b) b

theorem spadByte_landed (y : Team) (e : Delivery) (a : Nat) :
    Rules.spadByte (y.landed e) a = if e.addr ≤ a ∧ a < e.addr + e.bytes.length then e.bytes.getD (a - e.addr) 0#8 else Rules.spadByte y a := by
  rw [landed_eq]
  exact SMap.get_setBytes a e.bytes y.spad e.addr

theorem landEach_spec {uid tk core : Nat} : ∀ (held : List Delivery) {s : State} {y : Team}, OnlyOwner s uid tk y → let t := held.foldl (landHeld uid core) s
    ∃ z, t = { s with nodes := t.nodes, teams := t.teams } ∧ t.teams.find tk = some z ∧ z = { y with spad := z.spad, bars := z.bars } ∧ (held = [] → z.bars = y.bars)
      ∧ (∀ k, k ≠ tk → t.teams.find k = s.teams.find k) ∧ (∀ a, Rules.spadByte z a = landedByte a held (Rules.spadByte y a))
      ∧ ∀ j < 10, j ≠ core / 96 → Stamp.at (t.node (core / 96)).k j = held.foldl (fun v e => Rules.laterOf v (Stamp.at e.know j)) (Stamp.at (s.node (core / 96)).k j)
  | [], s, y, h => ⟨y, rfl, h.1, rfl, fun _ => rfl, fun _ _ => rfl, fun _ => rfl, fun _ _ _ => rfl⟩
  | e :: held, s, y, h => by
    obtain ⟨hframe, hown, hothers, hknow⟩ := landHeld_spec (core := core) h e
    obtain ⟨z, hframe', hz, hzy, -, hothers', hspad, hknow'⟩ := landEach_spec held (core := core) hown
    rw [List.foldl_cons]
    generalize landHeld uid core s e = u at *
    generalize held.foldl (landHeld uid core) u = t at *
    refine ⟨z, by rw [hframe', hframe], hz, ?_, fun h => by (cases h), fun k hk => (hothers' k hk).trans (hothers k hk), fun a => ?_, fun j hj hne => ?_⟩
    · rw [hzy, landed_eq]
    · rw [hspad, spadByte_landed]; rfl
    · rw [hknow' j hj hne, hknow j hj hne]; rfl

/-! ## What is sent again (R248, R331) -/

/-- Only nodes have changed, and what they know of others has not. -/
def SentOnly (s t : State) : Prop := t = { s with nodes := t.nodes } ∧ ∀ n j, j ≠ n → Stamp.at (t.node n).k j = Stamp.at (s.node n).k j

theorem SentOnly.refl (s : State) : SentOnly s s := ⟨rfl, fun _ _ _ => rfl⟩
theorem SentOnly.trans {s t u : State} (h : SentOnly s t) (h' : SentOnly t u) : SentOnly s u := by
  obtain ⟨hst, hs⟩ := h
  obtain ⟨htu, ht⟩ := h'
  exact ⟨by rw [htu, hst], fun n j hj => (ht n j hj).trans (hs n j hj)⟩

theorem sentOnly_sendCausal (s : State) (i dst : Nat) (b : Body) : SentOnly s (s.sendCausal i dst b) := by
  obtain ⟨ns, hns⟩ := sendCausal_frame s i dst b
  exact ⟨by rw [hns], fun n j hj => sendCausal_at s i dst b hj⟩

theorem sentOnly_resendRead (tk : Nat) (s : State) (h : HeldSa) : SentOnly s (resendRead tk s h) := by
  unfold resendRead
  split
  · exact SentOnly.refl s
  · exact sentOnly_sendCausal _ _ _ _

theorem sentOnly_resendReads (tk : Nat) : ∀ (hs : List HeldSa) (s : State), SentOnly s (hs.foldl (resendRead tk) s)
  | [], s => SentOnly.refl s
  | h :: hs, s => (sentOnly_resendRead tk s h).trans (sentOnly_resendReads tk hs _)

theorem sentOnly_resendCmd (s : State) (t : Team) (core : Nat) (c : Option (Nat × SaCmd × Nat)) : SentOnly s (resendCmd s t core c) := by
  cases c with
  | none => exact SentOnly.refl s
  | some c => exact sentOnly_sendCausal _ _ _ _

/-! ## The quad pool (R129) -/

theorem releaseQuad_keeps {s : State} {task quad q : Nat} {tk : Nat} {y : Team} (hy : s.teams.find tk = some y) (htask : y.task = task) (hq : quadOf y.core = q) :
    (releaseQuad s task quad).quadAlloc.find (192 * task + q) = s.quadAlloc.find (192 * task + q) := by
  unfold releaseQuad
  split
  · rfl
  · next h =>
    have hne : q ≠ quad := fun e => h (Bool.or_eq_true_iff.mpr (.inl (List.any_eq_true.mpr ⟨(tk, y), SMap.mem_of_find hy, by simp [htask, hq, e]⟩)))
    show (s.quadAlloc.del _).find _ = _
    rw [SMap.find_del, if_neg (by omega)]

/-! ## The re-entry -/

/-- The team on its new core, before what was held for it arrives. -/
def Team.entering (t : Team) (core since : Nat) (places : List Nat) : Team := { t with core := core, slots := places, since := since, heldSa := [] }

theorem moveQueues_frame (s : State) (uid die : Nat) : moveQueues s uid die = { s with opqs := (moveQueues s uid die).opqs } := rfl

/-- A saved team in its new place, before knowledge and deliveries reach it. -/
def settledIn (s : State) (i : Saved) (core ctx : Nat) (places : List Nat) : State :=
  let t := i.team
  let s := allocQuad (clearWins { s with images := s.images.del t.uid } core (8 * core + ctx) places) t.task (quadOf core) t.quadg
  let s := { s with nextId := s.nextId + 1, teams := s.teams.put (8 * core + ctx) (t.entering core s.nextId places) }
  releaseQuad (moveQueues ((i.groups.zip places).foldl (enterGroup i core (8 * core + ctx)) s) t.uid (dieOf core)) t.task (quadOf t.core)
/-- The die of a re-entered team knows what the image knows, unless its epoch is over (R334). -/
def learnImage (s : State) (i : Saved) (core : Nat) : State := if i.epoch = (s.node (dieOf core)).epoch then s.learn (dieOf core) i.k else s

theorem enterTeam_eq (s : State) (i : Saved) (core ctx : Nat) (places : List Nat) : enterTeam s i core ctx places =
    resendCmd (i.team.heldSa.foldl (resendRead (8 * core + ctx)) (i.held.foldl (landHeld i.team.uid core) (learnImage (settledIn s i core ctx places) i core)))
      i.team core i.cmd := rfl

theorem settledIn_spec {s : State} {i : Saved} {core ctx : Nat} {places : List Nat} (hplaces : places.Nodup) (hlen : places.length = i.groups.length)
    (hs : i.threads.sorted = true) : let t := settledIn s i core ctx places
    t.images = s.images.del i.team.uid ∧ t.teams = s.teams.put (8 * core + ctx) (i.team.entering core s.nextId places) ∧ t.nodes = s.nodes
      ∧ (∀ (j gid : Nat) (g : Group) (p : Nat), i.groups[j]? = some (gid, g) → places[j]? = some p → t.groups.find (8 * core + p) = some { g with team := 8 * core + ctx }
        ∧ ∀ l < 64, ∀ th, i.threads.find (64 * gid + l) = some th → t.threads.find (64 * (8 * core + p) + l) = some th)
      ∧ (i.team.quadg ≠ 0 → t.quadAlloc.find (192 * i.team.task + core / 4) ≠ none) := by
  unfold settledIn
  obtain ⟨hquad, halloc⟩ := allocQuad_spec (clearWins { s with images := s.images.del i.team.uid } core (8 * core + ctx) places) i.team.task (quadOf core) i.team.quadg
  dsimp only
  generalize allocQuad (clearWins { s with images := s.images.del i.team.uid } core (8 * core + ctx) places) i.team.task (quadOf core) i.team.quadg = v at *
  obtain ⟨hgframe, -, -, hgroups⟩ := enterGroups_spec hs core (8 * core + ctx) (i.groups.zip places)
    { v with nextId := v.nextId + 1, teams := v.teams.put (8 * core + ctx) (i.team.entering core v.nextId places) }
  generalize (i.groups.zip places).foldl (enterGroup i core (8 * core + ctx))
    { v with nextId := v.nextId + 1, teams := v.teams.put (8 * core + ctx) (i.team.entering core v.nextId places) } = w at *
  have hwt : w.teams = s.teams.put (8 * core + ctx) (i.team.entering core s.nextId places) := by rw [hgframe, hquad]; rfl
  have hframe := releaseQuad_frame (moveQueues w i.team.uid (dieOf core)) i.team.task (quadOf i.team.core)
  have hkeeps := releaseQuad_keeps (s := moveQueues w i.team.uid (dieOf core)) (task := i.team.task) (q := core / 4) (quad := quadOf i.team.core) (tk := 8 * core + ctx)
    (y := i.team.entering core s.nextId places) (by rw [moveQueues_frame, hwt, SMap.find_put_same]) rfl rfl
  generalize releaseQuad (moveQueues w i.team.uid (dieOf core)) i.team.task (quadOf i.team.core) = r at *
  rw [moveQueues_frame] at hframe
  refine ⟨?_, ?_, ?_, fun j gid g p hj hp => ?_, fun hq => ?_⟩
  · rw [hframe, hgframe, hquad]; rfl
  · rw [hframe]; exact hwt
  · rw [hframe, hgframe, hquad]; rfl
  · have hmem : ((gid, g), p) ∈ i.groups.zip places := List.mem_of_getElem? (i := j) (List.getElem?_zip_eq_some.mpr ⟨hj, hp⟩)
    rw [hframe]
    exact hgroups (by rw [List.map_snd_zip (by omega)]; exact hplaces) gid g p hmem
  · have hwq : w.quadAlloc = v.quadAlloc := by rw [hgframe]
    rw [hkeeps]
    exact hwq ▸ halloc hq

theorem learnImage_spec (s : State) (i : Saved) (core : Nat) : learnImage s i core = { s with nodes := (learnImage s i core).nodes }
    ∧ ∀ j < 10, j ≠ core / 96 → Stamp.at ((learnImage s i core).node (core / 96)).k j =
      if i.epoch = (s.node (core / 96)).epoch then Rules.laterOf (Stamp.at (s.node (core / 96)).k j) (Stamp.at i.k j) else Stamp.at (s.node (core / 96)).k j := by
  unfold learnImage
  by_cases h : i.epoch = (s.node (core / 96)).epoch
  · rw [if_pos (show i.epoch = (s.node (dieOf core)).epoch from h)]
    exact ⟨rfl, fun j hj hne => by rw [if_pos h]; exact learn_at s (core / 96) i.k hj hne⟩
  · rw [if_neg (show i.epoch ≠ (s.node (dieOf core)).epoch from h)]
    exact ⟨rfl, fun j _ _ => by rw [if_neg h]⟩

theorem enterTeam_spec {s : State} {i : Saved} {core ctx : Nat} {places : List Nat} (hplaces : places.Nodup) (hlen : places.length = i.groups.length)
    (hs : i.threads.sorted = true) (hone : ∀ e ∈ s.teams, e.2.uid ≠ i.team.uid) :
    let t := enterTeam s i core ctx places
    ∃ tm, t.images = s.images.del i.team.uid ∧ Rules.TeamNow (8 * core + ctx) tm s t
      ∧ tm = { i.team.entering core s.nextId places with spad := tm.spad, bars := tm.bars }
      ∧ (∀ a, Rules.spadByte tm a = landedByte a i.held (Rules.spadByte i.team a)) ∧ (i.held = [] → tm.bars = i.team.bars)
      ∧ (∀ (j gid : Nat) (g : Group) (p : Nat), i.groups[j]? = some (gid, g) → places[j]? = some p → t.groups.find (8 * core + p) = some { g with team := 8 * core + ctx }
        ∧ ∀ l < 64, ∀ th, i.threads.find (64 * gid + l) = some th → t.threads.find (64 * (8 * core + p) + l) = some th)
      ∧ (i.team.quadg ≠ 0 → t.quadAlloc.find (192 * i.team.task + core / 4) ≠ none)
      ∧ ∀ j < 10, j ≠ core / 96 → Stamp.at (t.node (core / 96)).k j = i.held.foldl (fun v e => Rules.laterOf v (Stamp.at e.know j))
          (if i.epoch = (s.node (core / 96)).epoch then Rules.laterOf (Stamp.at (s.node (core / 96)).k j) (Stamp.at i.k j) else Stamp.at (s.node (core / 96)).k j) := by
  obtain ⟨himages, hteams, hnodes, hgroups, hquad⟩ := settledIn_spec (s := s) (ctx := ctx) hplaces hlen hs
  dsimp only
  rw [enterTeam_eq]
  generalize settledIn s i core ctx places = v at *
  obtain ⟨hlframe, hlknow⟩ := learnImage_spec v i core
  generalize learnImage v i core = u at *
  have howner : OnlyOwner u i.team.uid (8 * core + ctx) (i.team.entering core s.nextId places) := by
    have hut : u.teams = s.teams.put (8 * core + ctx) (i.team.entering core s.nextId places) := by rw [hlframe]; exact hteams
    refine ⟨by rw [hut, SMap.find_put_same], rfl, fun e he hu => ?_⟩
    rw [hut] at he
    rcases SMap.mem_put he with rfl | he
    · rfl
    · exact absurd hu (hone e he)
  obtain ⟨tm, hframe, htm, htmeq, hbars, hothers, hspad, hknow⟩ := landEach_spec i.held (core := core) howner
  generalize i.held.foldl (landHeld i.team.uid core) u = w at *
  obtain ⟨hsent, hsame⟩ := (sentOnly_resendReads (8 * core + ctx) i.team.heldSa w).trans (sentOnly_resendCmd _ i.team core i.cmd)
  generalize resendCmd (i.team.heldSa.foldl (resendRead (8 * core + ctx)) w) i.team core i.cmd = t at *
  have hnode : v.node (core / 96) = s.node (core / 96) := by unfold State.node; rw [hnodes]
  refine ⟨tm, ?_, ⟨?_, fun k hk => ?_⟩, htmeq, hspad, hbars, fun j gid g p hj hp => ?_, fun hq => ?_, fun j hj hne => ?_⟩
  · rw [hsent, hframe, hlframe]; exact himages
  · rw [hsent]; exact htm
  · rw [hsent]
    refine (hothers k hk).trans ?_
    rw [hlframe]
    show v.teams.find k = _
    rw [hteams, SMap.find_put_other _ _ hk]
  · rw [hsent, hframe, hlframe]; exact hgroups j gid g p hj hp
  · rw [hsent, hframe, hlframe]; exact hquad hq
  · rw [hsame _ j hne, hknow j hj hne, hlknow j hj hne, hnode]

/-- The re-entry of an image that may enter, where nothing is to be admitted first and no home has been removed. -/
theorem teamReentry_runs {s : State} {image core ctx : Nat} {places : List Nat} {i : Saved} {x : Task} (hi : s.images.find image = some i)
    (hx : s.tasks.find i.team.task = some x) (hctx : Rules.FreeContext s core ctx) (hmay : i.mayEnter s = true) (htake : mayTake s (x.cand true i.team.index) core = true)
    (hcore : chosenCore s x i.need core = true) (hplaces : Rules.FreePlaces s core i.groups.length places)
    (hroom : i.homes ≠ [] → roomFor s (core / 96) i.homes.length = true) (hhomes : ∀ h ∈ i.homes, h ∉ s.removed) (hreason : i.reason ≠ 2#4 ∨ i.ready = true) :
    exec (.teamReentry image core places) s = .next (enterTeam s i core ctx places) := by
  obtain ⟨rest, hfree⟩ := freeCtxs_of_freeContext hctx
  have hroom : (i.homes.isEmpty || roomFor s (dieOf core) i.homes.length) = true := by
    by_cases h : i.homes = []
    · rw [h]; rfl
    · rw [Bool.or_eq_true]; exact .inr (hroom h)
  have hadmit : ∀ u tk, admitFirst u i tk = some u := fun u tk => by
    unfold admitFirst
    rw [if_neg]
    rcases hreason with h | h <;> simp [h]
  have hremoved : i.homes.any s.removed.contains = false := List.any_eq_false.mpr fun h hh => by simpa using hhomes h hh
  rw [show exec (.teamReentry image core places) s = execTeamReentry image core places s from rfl]
  unfold execTeamReentry
  simp only [hi, hfree, hx, hmay, htake, hcore, slotsOk_of_freePlaces hplaces, hroom, hadmit, hremoved, Bool.and_self, if_true, Bool.false_eq_true, if_false]

end Sys2Proof.Machine

/-!
SUPPORT. A context image as a debugger reads it (R334 to R336): where each field sits in it, and what a written image resumes with (R340).
-/
namespace Sys2Proof.Machine

/-! ## Where a piece sits in a byte string -/

/-- `p` stands in `bs` from byte `off` on. -/
def Sits (p : List Byte) (off : Nat) (bs : List Byte) : Prop := ∃ a c, bs = a ++ p ++ c ∧ a.length = off

theorem Sits.self (p : List Byte) : Sits p 0 p := ⟨[], [], by simp, rfl⟩
theorem Sits.left {p bs : List Byte} {off : Nat} (h : Sits p off bs) (cs : List Byte) : Sits p off (bs ++ cs) := by
  obtain ⟨a, c, rfl, ha⟩ := h
  exact ⟨a, c ++ cs, by simp, ha⟩
theorem Sits.right {p bs : List Byte} {off n : Nat} (h : Sits p off bs) {as : List Byte} (hn : as.length = n) : Sits p (n + off) (as ++ bs) := by
  obtain ⟨a, c, rfl, ha⟩ := h
  exact ⟨as ++ a, c, by simp, by rw [List.length_append, hn, ha]⟩
theorem Sits.trans {p q bs : List Byte} {m n : Nat} (h : Sits p m q) (h' : Sits q n bs) : Sits p (n + m) bs := by
  obtain ⟨a, c, rfl, ha⟩ := h
  obtain ⟨a', c', rfl, ha'⟩ := h'
  exact ⟨a' ++ a, c ++ c', by simp, by rw [List.length_append, ha, ha']⟩

theorem Sits.numAt_eq {p bs : List Byte} {off n : Nat} (h : Sits p off bs) (hn : p.length = n) : Rules.numAt bs off n = natOfBytes p := by
  obtain ⟨a, c, rfl, ha⟩ := h
  unfold Rules.numAt
  rw [leNat_eq_natOfBytes, List.append_assoc, List.drop_left' ha, List.take_left' hn]

/-- A number written in `n` bytes reads as itself, modulo what the bytes hold. -/
theorem Sits.num {bs : List Byte} {off n v : Nat} (h : Sits (bytesOfNat n v) off bs) : Rules.numAt bs off n = v % 256 ^ n := by
  rw [h.numAt_eq (length_bytesOfNat n v), natOfBytes_bytesOfNat]

theorem length_blocks {f : Nat → List Byte} {n : Nat} (hf : ∀ k, (f k).length = n) (m : Nat) : ((List.range m).flatMap f).length = n * m := by
  induction m with
  | zero => rfl
  | succ m ih => rw [List.range_succ, List.flatMap_append, List.length_append, ih, List.flatMap_singleton, hf, Nat.mul_succ]

theorem sits_block {f : Nat → List Byte} {n : Nat} (hf : ∀ k, (f k).length = n) {m k : Nat} (hk : k < m) : Sits (f k) (n * k) ((List.range m).flatMap f) := by
  induction m with
  | zero => cases hk
  | succ m ih =>
    rw [List.range_succ, List.flatMap_append]
    by_cases hm : k = m
    · rw [hm, List.flatMap_singleton]
      exact (Sits.self (f m)).right (length_blocks hf m)
    · exact (ih (by omega)).left _

theorem Sits.pad {p bs : List Byte} {off : Nat} (h : Sits p off bs) (n : Nat) : Sits p off (padTo n bs) := h.left _

theorem length_padTo {n : Nat} {bs : List Byte} (h : bs.length ≤ n) : (padTo n bs).length = n := by
  unfold padTo; rw [List.length_append, length_bytesOfNat]; omega

theorem length_smapBytes (m : SMap Byte) (a n : Nat) : (m.bytes a n).length = n := by
  induction n generalizing a with
  | zero => rfl
  | succ n ih => rw [SMap.bytes, List.length_cons, ih]

/-! ## The sections of an image (R334 to R336) -/

theorem length_imageHeader (i : Saved) (h : BitVec 32) : (imageHeader i h).length = 64 := by
  unfold imageHeader
  simp only [List.length_append, length_bytesOfNat, length_blocks (f := fun k => bytesOfNat 2 (Stamp.at i.k k).toNat) (fun _ => length_bytesOfNat 2 _)]
  rfl

theorem length_leadRegs (l : Lead) : ((List.range 64).flatMap (fun k => bytesOfNat 8 (l.s.get k 0#64).toNat)).length = 512 :=
  length_blocks (fun _ => length_bytesOfNat 8 _) 64

theorem length_leadSection (t : Team) : (leadSection t).length = 576 :=
  length_padTo (by simp only [List.length_append, length_bytesOfNat, length_leadRegs]; decide)

theorem length_queueSection (t : Team) : (queueSection t).length = 576 := by
  unfold queueSection
  exact length_padTo (by simp only [List.length_append, length_bytesOfNat, length_blocks (fun _ => length_bytesOfNat 8 _)]; decide)

theorem length_barSection (t : Team) : (barSection t).length = 256 := by
  unfold barSection
  exact length_blocks (n := 16) (fun k => by simp only [List.length_append, length_bytesOfNat]) 16

theorem length_threadRecord (s : State) (g : Group) (th : Thread) (lane regs : Nat) : (threadRecord s g th lane regs).length = 128 + 4 * regs := by
  have hindex := length_blocks (f := fun k => bytesOfNat 4 (th.xb.get k 0#32).toNat ++ bytesOfNat 4 (th.xl.get k 0#32).toNat) (n := 8)
    (fun _ => by simp only [List.length_append, length_bytesOfNat]) 4
  unfold threadRecord
  simp only [List.length_append, length_bytesOfNat, length_blocks (fun _ => length_bytesOfNat 4 _), hindex]

/-- Register `k` of a thread in its record (R336). -/
theorem sits_threadReg (s : State) (g : Group) (th : Thread) (lane : Nat) {regs k : Nat} (hk : k < 64) (hr : 64 ≤ regs) :
    Sits (bytesOfNat 4 (th.reg k).toNat) (128 + 4 * k) (threadRecord s g th lane regs) := by
  have hindex := length_blocks (f := fun k => bytesOfNat 4 (th.xb.get k 0#32).toNat ++ bytesOfNat 4 (th.xl.get k 0#32).toNat) (n := 8)
    (fun _ => by simp only [List.length_append, length_bytesOfNat]) 4
  have hblock := sits_block (f := fun k => bytesOfNat 4 (if k < 64 then th.v.get k 0#32 else th.e.get (k - 64) 0#32).toNat) (fun _ => length_bytesOfNat 4 _)
    (show k < regs by omega)
  simp only [if_pos hk] at hblock
  unfold Thread.reg threadRecord
  rw [if_pos hk]
  refine hblock.right ?_
  simp only [List.length_append, length_bytesOfNat, length_blocks (fun _ => length_bytesOfNat 4 _), hindex]

/-- The group of a number as an image's records take it: one that has retired has no path. -/
def Saved.groupAt (i : Saved) (g : Nat) : Group :=
  (SMap.find i.groups g).getD { team := 0, gid := g, running := none, parked := [], parkCtr := 0, halted := false }

/-- The record of a thread among those of its team. -/
theorem sits_threadRecord (s : State) (i : Saved) {g l : Nat} (hg : g < i.team.ngroups) (hl : l < 64) :
    Sits (threadRecord s (i.groupAt g) (i.threads.get (64 * g + l) Thread.none) l i.team.regs) ((64 * g + l) * (128 + 4 * i.team.regs)) (threadSection s i) := by
  have hinner := sits_block (m := Config.lanes) (f := fun l => threadRecord s (i.groupAt g) (i.threads.get (64 * g + l) Thread.none) l i.team.regs)
    (fun l => length_threadRecord _ _ _ _ _) hl
  have houter := sits_block (m := i.team.ngroups) (f := fun g => (List.range Config.lanes).flatMap (fun l =>
    threadRecord s (i.groupAt g) (i.threads.get (64 * g + l) Thread.none) l i.team.regs)) (fun k => length_blocks (fun l => length_threadRecord _ _ _ _ _) 64) hg
  have h := hinner.trans houter
  rw [show (128 + 4 * i.team.regs) * 64 * g + (128 + 4 * i.team.regs) * l = (64 * g + l) * (128 + 4 * i.team.regs) by ring] at h
  exact h

theorem ofNat64_bytes (v : DWord) : BitVec.ofNat 64 (v.toNat % 256 ^ 8) = v := by
  rw [Nat.mod_eq_of_lt (by have := v.isLt; omega), BitVec.ofNat_toNat, BitVec.setWidth_eq]
theorem ofNat32_bytes (v : Word) : BitVec.ofNat 32 (v.toNat % 256 ^ 4) = v := by
  rw [Nat.mod_eq_of_lt (by have := v.isLt; omega), BitVec.ofNat_toNat, BitVec.setWidth_eq]

section
variable (s : State) (i : Saved) (h : BitVec 32)

theorem sits_header : Sits (imageHeader i h) 0 (imageBytes s i h) := by
  unfold imageBytes
  exact (((((((((Sits.self _).left _).left _).left _).left _).left _).left _).left _).left _).left _ |>.left _

theorem sits_lead : Sits (leadSection i.team) 64 (imageBytes s i h) := by
  unfold imageBytes
  exact ((((((((((Sits.self _).right (length_imageHeader i h)).left _).left _).left _).left _).left _).left _).left _).left _).left _

theorem sits_threads : Sits (threadSection s i) 9792 (imageBytes s i h) := by
  unfold imageBytes
  refine ((((((Sits.self (threadSection s i)).right (n := 9792) ?_).left _).left _).left _).left _)
  simp only [List.length_append, length_imageHeader, length_leadSection, length_queueSection, length_barSection, length_smapBytes]

/-- VER, TASKH and TEAM (R334). -/
theorem numAt_image_ver : Rules.numAt (imageBytes s i h) 0 1 = 1 := by
  have hver : ∀ v, Sits (bytesOfNat 1 v) 0 (bytesOfNat 4 v) := fun v => ⟨[], _, rfl, rfl⟩
  have hsits := ((((((((hver (1 + (i.team.ngroups - 1) * 2 ^ 8 + (i.team.regs - 64) / 16 * 2 ^ 11 + (if i.team.array.isSome then 2 ^ 15 else 0) + i.team.spadg * 2 ^ 16
      + i.team.accg * 2 ^ 23 + (if i.team.gen then 2 ^ 30 else 0))).left _).left _).left _).left _).left _).left _).left _).left _ |>.trans (sits_header s i h)
  rw [hsits.num]
  split <;> split <;> omega

theorem numAt_image_task : Rules.numAt (imageBytes s i h) 4 4 = h.toNat := by
  have hsits := ((((((((Sits.self (bytesOfNat 4 h.toNat)).right (length_bytesOfNat 4 _)).left _).left _).left _).left _).left _).left _).left _ |>.trans (sits_header s i h)
  rw [hsits.num]
  have := h.isLt
  omega

theorem numAt_image_index : Rules.numAt (imageBytes s i h) 8 2 = i.team.index % 2 ^ 16 := by
  have hsits := (((((((Sits.self (bytesOfNat 2 i.team.index)).right (n := 8) (by rw [List.length_append, length_bytesOfNat, length_bytesOfNat])).left _).left _).left _).left
    _).left _).left _ |>.trans (sits_header s i h)
  rw [hsits.num]
  rfl

theorem numAt_image_leadReg (r : BitVec 6) : BitVec.ofNat 64 (Rules.numAt (imageBytes s i h) (64 + 8 * r.toNat) 8) = i.team.lead.reg r := by
  have hblock := sits_block (f := fun k => bytesOfNat 8 (i.team.lead.s.get k 0#64).toNat) (fun _ => length_bytesOfNat 8 _) (show r.toNat < 64 from r.isLt)
  have hsits := (((((((hblock.left _).left _).left _).left _).left _).left _).left _).pad 576 |>.trans (sits_lead s i h)
  rw [hsits.num]
  exact ofNat64_bytes _

theorem numAt_image_leadPc : BitVec.ofNat 64 (Rules.numAt (imageBytes s i h) 584 8) = i.team.lead.pc := by
  have hsits := ((((((Sits.self (bytesOfNat 8 i.team.lead.pc.toNat)).right (n := 520) (by rw [List.length_append, length_leadRegs, length_bytesOfNat])).left _).left _).left
    _).left _).left _ |>.pad 576 |>.trans (sits_lead s i h)
  rw [hsits.num]
  exact ofNat64_bytes _

/-- A register of a thread (R335, R336). -/
theorem numAt_image_threadReg {g l : Nat} {th : Thread} (hg : g < i.team.ngroups) (hl : l < 64) (hth : i.threads.find (64 * g + l) = some th)
    (hr : 64 ≤ i.team.regs) {k : Nat} (hk : k < 64) :
    BitVec.ofNat 32 (Rules.numAt (imageBytes s i h) (9792 + (64 * g + l) * (128 + 4 * i.team.regs) + 128 + 4 * k) 4) = th.reg k := by
  have hrec := sits_threadRecord s i hg hl
  rw [show i.threads.get (64 * g + l) Thread.none = th by unfold SMap.get; rw [hth]; rfl] at hrec
  have hsits := ((sits_threadReg s (i.groupAt g) th l hk hr).trans hrec).trans (sits_threads s i h)
  rw [Nat.add_assoc, Nat.add_assoc, hsits.num]
  exact ofNat32_bytes _
end

end Sys2Proof.Machine

/-!
SUPPORT. The debugger's commands on context images (R340, R369): what is read, what a written image resumes with, and what is refused.
-/
namespace Sys2Proof.Machine

/-! ## Ling's answers (R369, R375) -/

theorem logError_logged (s : State) (transient : Bool) (code src : Nat) (detail : BitVec 96) :
    Rules.Logged code transient (src / 4096) none s (logError s transient code src detail) := by
  unfold logError
  dsimp only
  split
  · exact ⟨rfl, ⟨_, rfl⟩, rfl, _, rfl, rfl, rfl, rfl, rfl, rfl, fun d h => by cases h⟩
  · exact ⟨rfl, ⟨[], (List.append_nil _).symm⟩, rfl, _, rfl, rfl, rfl, rfl, rfl, rfl, fun d h => by cases h⟩

theorem errSrc_node (node code : Nat) : errSrc node code / 4096 = node := by
  unfold errSrc
  have := (Config.freeUnit code).isLt
  omega

theorem lingReady_of_serves {s : State} (h : Rules.Serves s) : lingReady s = true := by
  obtain ⟨hup, hrec, hinv⟩ := h
  unfold lingReady
  rw [hup, hrec, hinv]
  rfl

theorem debug_performed {s t : State} {cmd : DebugCmd} {bs : List Byte} (h : Rules.Serves s) (hd : debugDo cmd s = some (t, bs)) :
    ∃ u, exec (.debug cmd) s = .next u ∧ Rules.Performed 10 bs t u := by
  refine ⟨answer t 10 0 bs, ?_, rfl⟩
  rw [show exec (.debug cmd) s = execDebug cmd s from rfl]
  unfold execDebug debugAnswer ling
  simp [hd, lingReady_of_serves h]

theorem debug_declined {s : State} {cmd : DebugCmd} (h : Rules.Serves s) (hd : debugDo cmd s = none) :
    ∃ t, exec (.debug cmd) s = .next t ∧ Rules.Declined 10 s t := by
  refine ⟨lingRefuse s 10, ?_, logError s false 0x42 (errSrc Config.ioNode 0x42) (Config.freeDetail 0x42), ?_, rfl⟩
  · rw [show exec (.debug cmd) s = execDebug cmd s from rfl]
    unfold execDebug debugAnswer ling
    simp [hd, lingReady_of_serves h]
  · have hl := logError_logged s false 0x42 (errSrc Config.ioNode 0x42) (Config.freeDetail 0x42)
    rw [errSrc_node] at hl
    exact hl

/-! ## What a written image holds (R336, R340) -/

theorem field_eq_numAt (bs : List Byte) (off n : Nat) : field bs off n = Rules.numAt bs off n := (leNat_eq_natOfBytes _).symm

theorem numAt_drop (bs : List Byte) (d off n : Nat) : Rules.numAt (bs.drop d) off n = Rules.numAt bs (d + off) n := by
  unfold Rules.numAt
  rw [List.drop_drop]

theorem numAt_take (bs : List Byte) {off n m : Nat} (h : off + n ≤ m) : Rules.numAt (bs.take m) off n = Rules.numAt bs off n := by
  unfold Rules.numAt
  rw [List.drop_take, List.take_take, Nat.min_eq_left (by omega)]

theorem leadWritten_reg (l : Lead) (bs : List Byte) (r : BitVec 6) : (l.written bs).reg r = BitVec.ofNat 64 (Rules.numAt bs (8 * r.toNat) 8) := by
  refine (SMap.get_setEach (fun k => BitVec.ofNat 64 (field bs (8 * k) 8)) 0#64 r.toNat 64).trans ?_
  rw [if_pos r.isLt, field_eq_numAt]

theorem leadWritten_pc (l : Lead) (bs : List Byte) : (l.written bs).pc = BitVec.ofNat 64 (Rules.numAt bs 520 8) := by
  rw [← field_eq_numAt]; rfl

theorem threadWritten_reg (th : Thread) (bs : List Byte) (regs : Nat) {k : Nat} (hk : k < 64) :
    (th.written bs regs).reg k = BitVec.ofNat 32 (Rules.numAt bs (128 + 4 * k) 4) := by
  unfold Thread.reg
  rw [if_pos hk]
  refine (SMap.get_setEach (fun k => fieldW bs (128 + 4 * k)) 0#32 k 64).trans ?_
  rw [if_pos hk, fieldW, field_eq_numAt]

theorem numAt_imageRecord (t : Team) (bs : List Byte) (g l : Nat) {off n : Nat} (h : off + n ≤ 128 + 4 * t.regs) :
    Rules.numAt (imageRecord t bs g l) off n = Rules.numAt bs (9792 + (64 * g + l) * (128 + 4 * t.regs) + off) n := by
  unfold imageRecord recordSize
  rw [numAt_take _ h, numAt_drop, Nat.mul_comm g Config.lanes]
  rfl

theorem SMap.find_mapKeys {β : Type} (m : SMap β) (f : Nat → β → β) (k : Nat) : SMap.find (m.map (fun e => (e.1, f e.1 e.2))) k = (m.find k).map (f k) := by
  induction m with
  | nil => rfl
  | cons e m ih =>
    obtain ⟨j, v⟩ := e
    rw [List.map_cons, SMap.find, SMap.find]
    by_cases h : k = j
    · rw [if_pos h, if_pos h, h]; rfl
    · rw [if_neg h, if_neg h]; exact ih

section
variable {i : Saved} (s : State) (bs : List Byte) (hh : i.team.thalt = true)
include hh

theorem written_team : (i.written s bs).team = i.team.written bs := by
  unfold Saved.written
  simp only [hh, if_true]

theorem written_thread {g l : Nat} {th : Thread} (hl : l < 64) (hr : 64 ≤ i.team.regs) (hth : i.threads.find (64 * g + l) = some th) :
    ∃ th', (i.written s bs).threads.find (64 * g + l) = some th'
      ∧ ∀ k < 64, th'.reg k = BitVec.ofNat 32 (Rules.numAt bs (9792 + (64 * g + l) * (128 + 4 * i.team.regs) + 128 + 4 * k) 4) := by
  have hhalt : ∀ g, i.groupHalted g = true := fun g => by unfold Saved.groupHalted; rw [hh]; rfl
  refine ⟨th.written (imageRecord i.team bs g l) i.team.regs, ?_, fun k hk => ?_⟩
  · refine (SMap.find_mapKeys i.threads (fun key th => if i.groupHalted (key / 64) then th.written (imageRecord i.team bs (key / 64) (key % 64)) i.team.regs else th) _).trans ?_
    rw [hth, Option.map_some, hhalt, if_pos rfl, show (64 * g + l) / 64 = g by omega, show (64 * g + l) % 64 = l by omega]
  · rw [threadWritten_reg _ _ _ hk, numAt_imageRecord i.team bs g l (by omega), ← Nat.add_assoc]
end

/-! ## Reading and writing the image of a saved team (R340) -/

section
variable {s : State} {uid : Nat} {i : Saved} (hs : Rules.Serves s) (hn : teamByUid s uid = none) (hi : s.images.find uid = some i)
include hn hi
theorem teamImage_saved : teamImage s uid = some (none, i) := by
  unfold teamImage
  simp only [hn, hi]
  rfl

include hs
theorem readImage_saved : ∃ t, exec (.debug (.readImage uid)) s = .next t ∧ Rules.Performed 10 (imageBytes s i (teamHandle s i.team)) s t :=
  debug_performed hs (by unfold debugDo; simp only [teamImage_saved hn hi]; rfl)

theorem writeImage_refused (hteam : i.team.thalt = false) (hlead : i.team.lead.halted = false) (hgroups : ∀ e ∈ i.groups, e.2.halted = false)
    (off : Nat) (new : List Byte) : ∃ t, exec (.debug (.writeImage uid off new)) s = .next t ∧ Rules.Declined 10 s t := by
  have hhalt : ∀ g, i.groupHalted g = false := fun g => by
    unfold Saved.groupHalted
    rw [hteam, Bool.false_or]
    cases hg : SMap.find i.groups g with
    | none => rfl
    | some x => exact hgroups _ (SMap.mem_of_find hg)
  have hmay : i.mayWrite off new.length = false := by
    unfold Saved.mayWrite
    simp [hteam, hlead, hhalt]
  refine debug_declined hs ?_
  unfold debugDo writeImage
  simp [teamImage_saved hn hi, hmay]

theorem writeImage_saved (hteam : i.team.thalt = true) {off : Nat} {new : List Byte} (hlen : off + new.length ≤ (imageBytes s i (teamHandle s i.team)).length)
    (hindex : imageIndexOk i.team (patchImage (imageBytes s i (teamHandle s i.team)) off new) = true) :
    ∃ t, exec (.debug (.writeImage uid off new)) s = .next t
      ∧ Rules.Performed 10 [] { s with images := s.images.put uid (i.written s (patchImage (imageBytes s i (teamHandle s i.team)) off new)) } t := by
  have hmay : i.mayWrite off new.length = true := by
    unfold Saved.mayWrite
    simp [hteam]
  refine debug_performed hs ?_
  unfold debugDo writeImage
  simp [teamImage_saved hn hi, hmay, hlen, hindex]
end

/-! ## A group that BRK has stopped goes on (R340, R347) -/

/-- One parked path at its handler, whose threads all name one place: the group goes on from there. -/
theorem rftPath_one {s : State} {gk : Nat} {g : Group} {tm : Team} {x : Task} {q : Path} {p : Pos} (hg : s.groups.find gk = some g) (ht : s.teams.find g.team = some tm)
    (hx : s.tasks.find tm.task = some x) (hl : q.lanes ≠ []) (hat : q.pos.remain = 0 ∧ q.pos.pc = descHandler x.desc)
    (hm : ∀ l ∈ q.lanes, (s.thread gk l).trapMode = true) (hp : ∀ l ∈ q.lanes, (s.thread gk l).resumeAt = p)
    (hok : ∀ c : GCtx, c.gk = gk → c.core = gk / 8 → c.task = x → ∀ l ∈ q.lanes, rftCheck s c l = .ok) :
    rftPath s gk q = parkPath ((s.modGroup gk (fun g => { g with
      parked := (g.parked.map (fun r => if r.park = q.park then { r with lanes := r.lanes.filter (fun l => !q.lanes.contains l) } else r)).filter (fun r => !r.lanes.isEmpty) })).onLanes
        gk q.lanes (fun _ th => th.rft)) gk { park := 0, lanes := q.lanes, pos := p, wait := .none } := by
  obtain ⟨hrem, hpc⟩ := hat
  have hon : pathOn s gk q = some { gk := gk, core := coreOf gk, tk := g.team, group := g, path := q, team := tm, task := x } := by
    unfold pathOn
    simp only [hg, lctxOf_of_find ht hx]
  have hlanes : atHandler s { gk := gk, core := coreOf gk, tk := g.team, group := g, path := q, team := tm, task := x } = q.lanes := by
    unfold atHandler
    rw [if_pos (by simp [hrem, hpc])]
    exact List.filter_eq_self.mpr hm
  have hgood : q.lanes.filter (fun l => !([] : List Nat).contains l) = q.lanes := List.filter_eq_self.mpr fun _ _ => rfl
  unfold rftPath
  simp only [hon, hlanes]
  rw [List.filterMap_eq_nil_iff.mpr ?none]
  case none => exact fun l h => by rw [hok _ rfl rfl rfl l h]
  simp only [List.map_nil, hgood, partsAt_one hl hp, List.foldl_cons, List.foldl_nil]
  rfl

theorem resumeGroup_spec {s : State} {gk : Nat} {g : Group} {tm : Team} {x : Task} {q : Path} {p : Pos} (hg : s.groups.find gk = some g)
    (ht : s.teams.find g.team = some tm) (hx : s.tasks.find tm.task = some x) (hq : g.parked = [q]) (hl : q.lanes ≠ [])
    (hat : q.pos.remain = 0 ∧ q.pos.pc = descHandler x.desc) (hm : ∀ l ∈ q.lanes, (s.thread gk l).trapMode = true)
    (hp : ∀ l ∈ q.lanes, (s.thread gk l).resumeAt = p)
    (hok : ∀ c : GCtx, c.gk = gk → c.core = gk / 8 → c.task = x → ∀ l ∈ q.lanes, rftCheck (s.modGroup gk (fun g => { g with halted := false })) c l = .ok) :
    let u := resumeGroup s gk true
    u = { s with groups := u.groups, threads := u.threads }
      ∧ (∀ j, u.groups.find j = if j = gk then
          some { g with halted := false, parked := [{ park := g.parkCtr, lanes := q.lanes, wait := .none, pos := p }], parkCtr := g.parkCtr + 1 } else s.groups.find j)
      ∧ ∀ key, u.threads.find key = if key / 64 = gk ∧ key % 64 ∈ q.lanes then (s.threads.find key).map Thread.rft else s.threads.find key := by
  have hg' : (s.modGroup gk (fun g => { g with halted := false })).groups.find gk = some { g with halted := false } := by
    rw [modGroup_groups, SMap.find_mod, if_pos rfl, hg]; rfl
  have heq : resumeGroup s gk true = rftPath (s.modGroup gk (fun g => { g with halted := false })) gk q := by
    unfold resumeGroup
    simp only [if_true, hg', hq, List.foldl_cons, List.foldl_nil]
  have hempty : (g.parked.map (fun r => if r.park = q.park then { r with lanes := r.lanes.filter (fun l => !q.lanes.contains l) } else r)).filter
      (fun r => !r.lanes.isEmpty) = [] := by
    simp [hq, List.filter_eq_nil_iff]
  rw [heq, rftPath_one hg' ht hx hl hat hm hp hok, parkPath_nonempty (p := Path.mk 0 q.lanes p .none) hl]
  refine ⟨rfl, fun j => ?_, fun key => ?_⟩
  · rw [modGroup_groups, SMap.find_mod_at, onLanes_groups, modGroup_groups, SMap.find_mod_at, modGroup_groups, SMap.find_mod_at]
    by_cases hj : j = gk
    · simp only [if_pos hj]
      rw [hj, hg]
      simp only [Option.map_some, hempty, List.nil_append]
    · simp only [if_neg hj]
  · rw [modGroup_threads, find_onLanes, modGroup_threads, modGroup_threads]

/-- The command itself, of threads whose trap registers name one place (R347). -/
theorem resumeGroup_fromRecords {s : State} (hs : Rules.Serves s) {gk : Nat} {g : Group} {tm : Team} {x : Task} {q : Path} {t0 : Word} {pc : DWord} {k : Cls}
    (hg : s.groups.find gk = some g) (ht : s.teams.find g.team = some tm) (hx : s.tasks.find tm.task = some x) (hq : g.parked = [q]) (hl : q.lanes ≠ [])
    (hstand : q.pos.remain = 0 ∧ q.pos.pc = descHandler x.desc)
    (hth : ∀ l ∈ q.lanes, (s.thread gk l).trapMode = true ∧ (s.thread gk l).t.get 0 0#32 = t0 ∧ (s.thread gk l).t.get 3 0#32 ++ (s.thread gk l).t.get 2 0#32 = pc)
    (hz : t0.toNat / 2 ^ 30 = 0) (hk : k.code.toNat = t0.toNat / 2 ^ 25 % 8) (hlead : k ≠ .lead) (h4 : pc.toNat % 4 = 0) (hcan : canonical pc = true) :
    let remain := t0.toNat / 2 ^ 21 % 16
    (remain = 0 → checkTarget s (gk / 8) x.space x.priv pc = .ok) →
    let at_ : Pos := if remain = 0 then { pc := pc, remain := 0, cls := .int, y := false, rep := none, repFrom := none }
      else { pc := pc, remain := remain, cls := k, y := t0.getLsbD 29, rep := none, repFrom := if t0.getLsbD 20 then some (t0.toNat / 2 ^ 14 % 64) else none }
    ∃ t u, exec (.debug (.resumeGroup gk true)) s = .next t ∧ Rules.Performed 10 [] u t ∧ u = { s with groups := u.groups, threads := u.threads }
      ∧ (∀ j, u.groups.find j = if j = gk then
          some { g with halted := false, parked := [{ park := g.parkCtr, lanes := q.lanes, wait := .none, pos := at_ }], parkCtr := g.parkCtr + 1 }
        else s.groups.find j)
      ∧ ∀ key, u.threads.find key = if key / 64 = gk ∧ key % 64 ∈ q.lanes then
          (s.threads.find key).map (fun th => { th with trapMode := false, gen := if remain = 0 then th.gen else t0.getLsbD 28 })
        else s.threads.find key := by
  intro remain hok at_
  have hat : ∀ l ∈ q.lanes, (s.thread gk l).resumeAt = at_ := fun l h => resumeAt_eq (hth l h).2.1 (hth l h).2.2 hk
  have hv : ∀ c : GCtx, c.gk = gk → c.core = gk / 8 → c.task = x → ∀ l ∈ q.lanes, rftCheck (s.modGroup gk (fun g => { g with halted := false })) c l = .ok := by
    rintro c rfl hcore rfl l h
    obtain ⟨hm, h0, hpc'⟩ := hth l h
    have hrem' : (s.thread c.gk l).resumeAt.remain = remain := by
      show t0Remain ((s.thread c.gk l).t.get 0 0#32) = _
      rw [h0, t0Remain_eq]
    have hrpc : (s.thread c.gk l).resumeAt.pc = pc := hpc'
    rw [rftCheck_eq (s := s.modGroup c.gk (fun g => { g with halted := false })) hm h0 hz hk hlead,
      show (s.modGroup c.gk (fun g => { g with halted := false })).thread c.gk l = s.thread c.gk l from rfl, hrpc, hrem', if_neg (by simp [hcan, h4])]
    split
    · next h0 => exact targetVerdict_ok (by rw [hcore]; exact hok h0)
    · rfl
  obtain ⟨hframe, hgroups, hthreads⟩ := resumeGroup_spec hg ht hx hq hl hstand (fun l h => (hth l h).1) hat hv
  obtain ⟨t, hrun, hperf⟩ := debug_performed (cmd := .resumeGroup gk true) (t := resumeGroup s gk true) (bs := []) hs
    (by unfold debugDo; simp [SMap.has, hg])
  refine ⟨t, _, hrun, hperf, hframe, hgroups, fun key => ?_⟩
  rw [hthreads]
  split
  · next hin =>
    obtain ⟨hgk, hlane⟩ := hin
    cases hf : s.threads.find key with
    | none => rfl
    | some th =>
      have h0 := (hth _ hlane).2.1
      rw [thread_of_find hgk hf] at h0
      simp only [Option.map_some, Thread.rft, h0, t0Remain_eq]
      rfl
  · rfl

/-- Settles O49: each clause is a specification of its own (`clauseArbitration_group`, `swapOut_faults`, `contextImageWrite_spec`, `enterTeam_spec`,
`resumeGroup_spec`, and where the fields of an image sit). -/
theorem arbitrationAndSwaps : Obligations.ArbitrationAndSwaps := by
  unfold Obligations.ArbitrationAndSwaps
  refine ⟨⟨?_, ?_, ?_, ?_, ?_⟩, ?_⟩
  · intro s core hth hfree hiss hs
    exact clauseArbitration_group hth hfree hiss hs
  · intro s core hth hheld hfree hiss hs
    exact clauseArbitration_lead hth hheld hfree hiss hs
  · intro s tk tm x ht hx hswap
    exact ⟨fun sp hf hsp => swapOut_faults ht hx hswap hf hsp, fun _ _ _ _ _ hw hlate => swapOut_spawn ht hswap hw hlate,
      fun q hq hpre hrung => swapOut_preempted ht hswap hq hpre hrung⟩
  · intro s tk tm reason ht hswap hready hfresh hh _ hgs hths hone
    exact contextImageWrite_spec ht hswap hready hfresh hh hgs hths hone
  · intro s image i core ctx places x hi huid hx hctx hmay htake hcore hplaces hroom hhomes hreason hsorted hone
    have hrun := teamReentry_runs hi hx hctx hmay htake hcore hplaces hroom hhomes hreason
    obtain ⟨hlen, hnodup, -⟩ := hplaces
    obtain ⟨tm, himages, hnow, htm, hspad, hbars, hgroups, hquad, hknow⟩ := enterTeam_spec (ctx := ctx) hnodup hlen hsorted (by rw [huid]; exact hone)
    refine ⟨_, tm, hrun, ?_, hnow, htm, hspad, hbars, hgroups, hquad, hknow⟩
    rw [himages, SMap.find_del, if_pos huid.symm]
  · intro s hs
    refine ⟨?_, ?_⟩
    · exact fun _ _ _ _ _ _ _ _ hg ht hx hq hl _ hrem hpc hth hz hk hlead h4 hcan hok => resumeGroup_fromRecords hs hg ht hx hq hl ⟨hrem, hpc⟩ hth hz hk hlead h4 hcan hok
    · intro uid i hn hi size old
      refine ⟨readImage_saved hs hn hi, numAt_image_ver s i _, numAt_image_task s i _, numAt_image_index s i _, numAt_image_leadReg s i _, numAt_image_leadPc s i _,
        fun g l th hg hl hth hr k hk => numAt_image_threadReg s i _ hg hl hth hr hk, fun off new => ⟨fun h1 h2 h3 => writeImage_refused hs hn hi h1 h2 h3 off new, ?_⟩⟩
      intro bs hteam hlen hindex hr
      obtain ⟨t, hrun, hperf⟩ := writeImage_saved hs hn hi hteam hlen hindex
      refine ⟨t, _, i.written s bs, hrun, hperf, rfl, fun k => SMap.find_put _ _ _ _, fun r => ?_, ?_, ?_, fun g l th hl hth => written_thread s bs hteam hl hr hth⟩
      · rw [written_team s bs hteam]
        exact (leadWritten_reg i.team.lead (bs.drop 64) r).trans (by rw [numAt_drop])
      · rw [written_team s bs hteam]
        exact (leadWritten_pc i.team.lead (bs.drop 64)).trans (by rw [numAt_drop])
      · rw [written_team s bs hteam]
        exact congrArg (BitVec.ofNat 16) ((field_eq_numAt _ _ _).trans (numAt_drop bs 64 532 4))

end Sys2Proof.Machine

/-!
SUPPORT and claims. Words and instructions, there and back (R41, R52, R58 to R91).
-/
namespace Sys2Proof

/-! ## A word is its fields (R52) -/

theorem extract_append {N t n m : Nat} {w : BitVec N} {b : BitVec m} (ht : t = m) (h : b = w.extractLsb' 0 m) :
    w.extractLsb' t n ++ b = w.extractLsb' 0 (n + m) :=
  h ▸ BitVec.extractLsb'_append_extractLsb'_eq_extractLsb' (by omega)
theorem extract_extract {N s n t m : Nat} (w : BitVec N) (h : t + m ≤ n) : (w.extractLsb' s n).extractLsb' t m = w.extractLsb' (s + t) m := by
  ext i hi
  simp [BitVec.getElem_extractLsb', show t + i < n by omega, Nat.add_assoc]

/-! The word that a format builds from its fields has those fields, and no other word has them. -/

theorem append_eq_iff {n m : Nat} (a : BitVec n) (b : BitVec m) (w : BitVec (n + m)) :
    a ++ b = w ↔ a = w.extractLsb' m n ∧ b = w.extractLsb' 0 m := by
  constructor
  · rintro rfl
    exact ⟨(extract_left a b).symm, ((extract_right a b (by omega)).trans (extract_whole b)).symm⟩
  · rintro ⟨rfl, rfl⟩
    exact (extract_append rfl rfl).trans (extract_whole w)
theorem append_eq_extract_and {N n m : Nat} {a : BitVec n} {b : BitVec m} {w : BitVec N} {p : Prop} (h : b = w.extractLsb' 0 m ↔ p) :
    a ++ b = w.extractLsb' 0 (n + m) ↔ a = w.extractLsb' m n ∧ p := by
  rw [append_eq_iff, extract_extract w (by omega), extract_extract w (by omega), Nat.zero_add, Nat.zero_add, h]

section
variable (w : Word)
@[simp] theorem wordR_eq_iff (op d a b : BitVec 6) (x y : BitVec 1) (f : BitVec 6) :
    wordR op d a b x y f = w ↔ op = w.extractLsb' 26 6 ∧ d = w.extractLsb' 20 6 ∧ a = w.extractLsb' 14 6 ∧ b = w.extractLsb' 8 6 ∧ x = w.extractLsb' 7 1 ∧
      y = w.extractLsb' 6 1 ∧ f = w.extractLsb' 0 6 := by
  unfold wordR
  refine (append_eq_iff (m := 26) op _ w).trans (and_congr_right fun _ => ?_)
  exact append_eq_extract_and <| append_eq_extract_and <| append_eq_extract_and <| append_eq_extract_and <| append_eq_extract_and <| Iff.rfl
@[simp] theorem wordI_eq_iff (op d a : BitVec 6) (x : BitVec 1) (i : BitVec 13) :
    wordI op d a x i = w ↔ op = w.extractLsb' 26 6 ∧ d = w.extractLsb' 20 6 ∧ a = w.extractLsb' 14 6 ∧ x = w.extractLsb' 13 1 ∧ i = w.extractLsb' 0 13 := by
  unfold wordI
  refine (append_eq_iff (m := 26) op _ w).trans (and_congr_right fun _ => ?_)
  exact append_eq_extract_and <| append_eq_extract_and <| append_eq_extract_and <| Iff.rfl
@[simp] theorem wordM_eq_iff (op d a : BitVec 6) (x : BitVec 1) (z : BitVec 3) (o : BitVec 10) :
    wordM op d a x z o = w ↔ op = w.extractLsb' 26 6 ∧ d = w.extractLsb' 20 6 ∧ a = w.extractLsb' 14 6 ∧ x = w.extractLsb' 13 1 ∧ z = w.extractLsb' 10 3 ∧
      o = w.extractLsb' 0 10 := by
  unfold wordM
  refine (append_eq_iff (m := 26) op _ w).trans (and_congr_right fun _ => ?_)
  exact append_eq_extract_and <| append_eq_extract_and <| append_eq_extract_and <| append_eq_extract_and <| Iff.rfl
@[simp] theorem wordB_eq_iff (op a : BitVec 6) (x : BitVec 1) (s : BitVec 19) :
    wordB op a x s = w ↔ op = w.extractLsb' 26 6 ∧ a = w.extractLsb' 20 6 ∧ x = w.extractLsb' 19 1 ∧ s = w.extractLsb' 0 19 := by
  unfold wordB
  refine (append_eq_iff (m := 26) op _ w).trans (and_congr_right fun _ => ?_)
  exact append_eq_extract_and <| append_eq_extract_and <| Iff.rfl
@[simp] theorem wordJ_eq_iff (op d : BitVec 6) (i : BitVec 20) :
    wordJ op d i = w ↔ op = w.extractLsb' 26 6 ∧ d = w.extractLsb' 20 6 ∧ i = w.extractLsb' 0 20 := by
  unfold wordJ
  refine (append_eq_iff (m := 26) op _ w).trans (and_congr_right fun _ => ?_)
  exact append_eq_extract_and <| Iff.rfl
@[simp] theorem wordL_eq_iff (op d a b : BitVec 6) (g : BitVec 8) :
    wordL op d a b g = w ↔ op = w.extractLsb' 26 6 ∧ d = w.extractLsb' 20 6 ∧ a = w.extractLsb' 14 6 ∧ b = w.extractLsb' 8 6 ∧ g = w.extractLsb' 0 8 := by
  unfold wordL
  refine (append_eq_iff (m := 26) op _ w).trans (and_congr_right fun _ => ?_)
  exact append_eq_extract_and <| append_eq_extract_and <| append_eq_extract_and <| Iff.rfl
@[simp] theorem wordLI_eq_iff (op d a : BitVec 6) (h : BitVec 3) (j : BitVec 11) :
    wordLI op d a h j = w ↔ op = w.extractLsb' 26 6 ∧ d = w.extractLsb' 20 6 ∧ a = w.extractLsb' 14 6 ∧ h = w.extractLsb' 11 3 ∧ j = w.extractLsb' 0 11 := by
  unfold wordLI
  refine (append_eq_iff (m := 26) op _ w).trans (and_congr_right fun _ => ?_)
  exact append_eq_extract_and <| append_eq_extract_and <| append_eq_extract_and <| Iff.rfl
@[simp] theorem wordLB_eq_iff (op : BitVec 6) (k p : BitVec 3) (x : BitVec 1) (s : BitVec 19) :
    wordLB op k p x s = w ↔ op = w.extractLsb' 26 6 ∧ k = w.extractLsb' 23 3 ∧ p = w.extractLsb' 20 3 ∧ x = w.extractLsb' 19 1 ∧ s = w.extractLsb' 0 19 := by
  unfold wordLB
  refine (append_eq_iff (m := 26) op _ w).trans (and_congr_right fun _ => ?_)
  exact append_eq_extract_and <| append_eq_extract_and <| append_eq_extract_and <| Iff.rfl
@[simp] theorem wordREP_eq_iff (op c : BitVec 6) (s t : BitVec 3) (v : BitVec 14) :
    wordREP op c s t v = w ↔ op = w.extractLsb' 26 6 ∧ c = w.extractLsb' 20 6 ∧ s = w.extractLsb' 17 3 ∧ t = w.extractLsb' 14 3 ∧ v = w.extractLsb' 0 14 := by
  unfold wordREP
  refine (append_eq_iff (m := 26) op _ w).trans (and_congr_right fun _ => ?_)
  exact append_eq_extract_and <| append_eq_extract_and <| append_eq_extract_and <| Iff.rfl
end

/-! Fields that are put together from smaller ones. -/

@[simp] theorem append_3_3_eq (a : BitVec 3) (b : BitVec 3) (w : BitVec 6) : a ++ b = w ↔ a = w.extractLsb' 3 3 ∧ b = w.extractLsb' 0 3 := append_eq_iff a b w
@[simp] theorem append_2_4_eq (a : BitVec 2) (b : BitVec 4) (w : BitVec 6) : a ++ b = w ↔ a = w.extractLsb' 4 2 ∧ b = w.extractLsb' 0 4 := append_eq_iff a b w
@[simp] theorem append_4_2_eq (a : BitVec 4) (b : BitVec 2) (w : BitVec 6) : a ++ b = w ↔ a = w.extractLsb' 2 4 ∧ b = w.extractLsb' 0 2 := append_eq_iff a b w
@[simp] theorem append_1_5_eq (a : BitVec 1) (b : BitVec 5) (w : BitVec 6) : a ++ b = w ↔ a = w.extractLsb' 5 1 ∧ b = w.extractLsb' 0 5 := append_eq_iff a b w
@[simp] theorem append_5_3_eq (a : BitVec 5) (b : BitVec 3) (w : BitVec 8) : a ++ b = w ↔ a = w.extractLsb' 3 5 ∧ b = w.extractLsb' 0 3 := append_eq_iff a b w
@[simp] theorem append_4_4_eq (a : BitVec 4) (b : BitVec 4) (w : BitVec 8) : a ++ b = w ↔ a = w.extractLsb' 4 4 ∧ b = w.extractLsb' 0 4 := append_eq_iff a b w
@[simp] theorem append_8_5_eq (a : BitVec 8) (b : BitVec 5) (w : BitVec 13) : a ++ b = w ↔ a = w.extractLsb' 5 8 ∧ b = w.extractLsb' 0 5 := append_eq_iff a b w
@[simp] theorem append_5_6_eq (a : BitVec 5) (b : BitVec 6) (w : BitVec 11) : a ++ b = w ↔ a = w.extractLsb' 6 5 ∧ b = w.extractLsb' 0 6 := append_eq_iff a b w
@[simp] theorem append_12_8_eq (a : BitVec 12) (b : BitVec 8) (w : BitVec 20) : a ++ b = w ↔ a = w.extractLsb' 8 12 ∧ b = w.extractLsb' 0 8 := append_eq_iff a b w
@[simp] theorem append_5_5_3_eq (a b : BitVec 5) (c : BitVec 3) (w : BitVec 13) :
    a ++ b ++ c = w ↔ a = w.extractLsb' 8 5 ∧ b = w.extractLsb' 3 5 ∧ c = w.extractLsb' 0 3 := by
  have h := append_eq_iff (a ++ b) c w
  rw [append_eq_iff a b, extract_extract w (by omega), extract_extract w (by omega), and_assoc] at h
  exact h
@[simp] theorem append_3_1_1_3_eq (a d : BitVec 3) (b c : BitVec 1) (w : BitVec 8) :
    a ++ b ++ c ++ d = w ↔ a = w.extractLsb' 5 3 ∧ b = w.extractLsb' 4 1 ∧ c = w.extractLsb' 3 1 ∧ d = w.extractLsb' 0 3 := by
  have h := append_eq_iff (a ++ b ++ c) d w
  rw [append_eq_iff (a ++ b) c, append_eq_iff a b,
    extract_extract w (by omega), extract_extract w (by omega), extract_extract w (by omega), extract_extract w (by omega), and_assoc, and_assoc] at h
  exact h

/-! ## Codes of the enumerated fields -/

@[simp] theorem ofBool_beq_one (x : BitVec 1) : BitVec.ofBool (x == 1#1) = x := by
  revert x; decide
@[simp] theorem RMode.ofCode_eq_some : ∀ (c : BitVec 2) (m : RMode), RMode.ofCode c = some m ↔ m.code = c := by
  intro c m; cases m <;> revert c <;> decide
@[simp] theorem Size.ofCode_eq_some : ∀ (c : BitVec 3) (m : Size), Size.ofCode c = some m ↔ m.code = c := by
  intro c m; cases m <;> revert c <;> decide
@[simp] theorem FCond.ofCode_eq_some : ∀ (c : BitVec 3) (m : FCond), FCond.ofCode c = some m ↔ m.code = c := by
  intro c m; cases m <;> revert c <;> decide
@[simp] theorem Net.ofCode_eq_some : ∀ (c : BitVec 3) (m : Net), Net.ofCode c = some m ↔ m.code = c := by
  intro c m; cases m <;> revert c <;> decide
@[simp] theorem AtomOp.ofCode_eq_some : ∀ (c : BitVec 3) (m : AtomOp), AtomOp.ofCode c = some m ↔ m.code = c := by
  intro c m; cases m <;> revert c <;> decide
@[simp] theorem Cond.ofCode6_eq_some : ∀ (c : BitVec 6) (m : Cond), Cond.ofCode6 c = some m ↔ m.code6 = c := by
  intro c m; cases m <;> revert c <;> decide
@[simp] theorem Cond.ofCode4_eq_some : ∀ (c : BitVec 4) (m : Cond), Cond.ofCode4 c = some m ↔ m.code4 = c := by
  intro c m; cases m <;> revert c <;> decide
@[simp] theorem Cond.ofCode3_eq_some : ∀ (c : BitVec 3) (m : Cond), Cond.ofCode3 c = some m ↔ cmpiCondOk m = true ∧ m.code3 = c := by
  intro c m; cases m <;> revert c <;> decide

/-! ## Every word that decodes is the word of its instruction -/

/-- The answer of a decoder, where it is an instruction, is one whose word is `w`. -/
def EncodesTo (w : Word) (e : Except Reject Instr) : Prop := ∀ i, e = .ok i → encode i = some w

section
variable {w : Word} {i : Instr}
theorem encodesTo_ok {v : Word} (h : encode i = some v) : EncodesTo w (.ok i) ↔ v = w := by simp [EncodesTo, h]
theorem encodesTo_error (r : Reject) : EncodesTo w (.error r) := fun _ h => nomatch h
theorem encodesTo_only {z : Bool} : EncodesTo w (only z i) ↔ (z = true → EncodesTo w (.ok i)) := by
  unfold only
  split <;> simp [*, encodesTo_error]
theorem encodesTo_withCode {α : Type} {c : Option α} {f : α → Except Reject Instr} :
    EncodesTo w (withCode c f) ↔ ∀ a, c = some a → EncodesTo w (f a) := by
  cases c <;> simp [encodesTo_error]
theorem encodesTo_ite {c : Prop} [Decidable c] {a b : Except Reject Instr} (ha : c → EncodesTo w a) (hb : EncodesTo w b) :
    EncodesTo w (if c then a else b) := by
  split
  · exact ha ‹_›
  · exact hb


end

/-! The two largest tables apart, then all of them. The theorems of a mutual block are elaborated one after the other: each of these takes much memory,
and side by side with what follows they would take more than there is. -/

mutual
theorem decode01_encodesTo {w : Word} (h : w.extractLsb' 26 6 = 1#6) :
    EncodesTo w (decode01 (w.extractLsb' 20 6) (w.extractLsb' 14 6) (w.extractLsb' 8 6) (w.extractLsb' 7 1) (w.extractLsb' 6 1) (w.extractLsb' 0 6)) := by
  unfold decode01
  repeat' with_reducible first | exact encodesTo_error _ | refine encodesTo_ite (fun _ => ?_) ?_
  all_goals
    refine (encodesTo_ok rfl).mpr ?_
    simp [*]
theorem decode2C_encodesTo {w : Word} (h : w.extractLsb' 26 6 = 44#6) :
    EncodesTo w (decode2C (w.extractLsb' 20 6) (w.extractLsb' 14 6) (w.extractLsb' 8 6) (w.extractLsb' 0 8)) := by
  unfold decode2C
  repeat' with_reducible first
    | exact encodesTo_error _ | refine encodesTo_ite (fun _ => ?_) ?_ | refine encodesTo_only.mpr fun _ => ?_ | refine encodesTo_withCode.mpr fun _ _ => ?_
  all_goals
    refine (encodesTo_ok rfl).mpr ?_
    simp_all

theorem decodeFields_encodesTo (w : Word) : EncodesTo w (decodeFields w) := by
  unfold decodeFields decode02 decode04 decode05 decode06 decode07 decode08 decode09 decode0A decode0B decode0C decode0D decode0E decode0F decode10 decode11
    decode12 decode13 decode14 decode15 decode16 decode17 decode18 decode19 decode1A decode1B decode1C decode1D decode1E decode1F decode20 decode21 decode22
    decode23 decode24 decode25 decode26 decode27 decode28 decode29 decode2A decode2B decode2D decode2E decode2F decode30 decode31 decode32 decode33 decode34
    decode35 decode36 decode37 decode38 decode39
  dsimp only
  repeat' with_reducible first
    | exact decode01_encodesTo ‹_› | exact decode2C_encodesTo ‹_› | exact encodesTo_error _ | refine encodesTo_ite (fun _ => ?_) ?_
    | refine encodesTo_only.mpr fun _ => ?_ | refine encodesTo_withCode.mpr fun _ _ => ?_
  all_goals
    refine (encodesTo_ok rfl).mpr ?_
    simp_all
end

/-! ## Every well-formed instruction is what its word decodes to -/

/-- LSEL's function codes do not meet those of LCMP (R70). -/
@[simp] theorem lsel_code_high (k : BitVec 3) : (6#5 ++ k).extractLsb' 4 4 = 3#4 := by
  revert k; decide

/-! The table that reads a word is that of its major opcode (R58, R59). -/

section
variable (w : Word)
theorem decodeFields_ofR :
    List.Forall (fun p => w.extractLsb' 26 6 = p.1 →
        decodeFields w = p.2 (w.extractLsb' 20 6) (w.extractLsb' 14 6) (w.extractLsb' 8 6) (w.extractLsb' 7 1) (w.extractLsb' 6 1) (w.extractLsb' 0 6))
      [(1#6, decode01), (2#6, decode02), (4#6, decode04), (6#6, decode06), (7#6, decode07), (23#6, decode17), (57#6, decode39), (32#6, decode20), (33#6, decode21),
      (34#6, decode22), (35#6, decode23), (36#6, decode24), (37#6, decode25), (38#6, decode26), (39#6, decode27), (40#6, decode28), (41#6, decode29),
      (42#6, decode2A), (43#6, decode2B), (54#6, decode36)] := by
  simp +contextual [decodeFields]
theorem decodeFields_ofI :
    List.Forall (fun p => w.extractLsb' 26 6 = p.1 →
        decodeFields w = p.2 (w.extractLsb' 20 6) (w.extractLsb' 14 6) (w.extractLsb' 13 1) (w.extractLsb' 0 13))
      [(5#6, decode05), (8#6, decode08), (9#6, decode09), (10#6, decode0A), (11#6, decode0B), (12#6, decode0C), (15#6, decode0F)] := by
  simp +contextual [decodeFields]
theorem decodeFields_ofJ :
    List.Forall (fun p => w.extractLsb' 26 6 = p.1 →
        decodeFields w = p.2 (w.extractLsb' 20 6) (w.extractLsb' 0 20))
      [(13#6, decode0D), (14#6, decode0E), (55#6, decode37)] := by
  simp +contextual [decodeFields]
theorem decodeFields_ofB :
    List.Forall (fun p => w.extractLsb' 26 6 = p.1 →
        decodeFields w = p.2 (w.extractLsb' 20 6) (w.extractLsb' 19 1) (w.extractLsb' 0 19))
      [(16#6, decode10), (17#6, decode11), (18#6, decode12), (19#6, decode13), (20#6, decode14), (21#6, decode15), (22#6, decode16)] := by
  simp +contextual [decodeFields]
theorem decodeFields_ofREP (h : w.extractLsb' 26 6 = 56#6) :
    decodeFields w = decode38 (w.extractLsb' 20 6) (w.extractLsb' 17 3) (w.extractLsb' 14 3) (w.extractLsb' 0 14) := by
  simp [decodeFields, h]
theorem decodeFields_ofM :
    List.Forall (fun p => w.extractLsb' 26 6 = p.1 →
        decodeFields w = p.2 (w.extractLsb' 20 6) (w.extractLsb' 14 6) (w.extractLsb' 13 1) (w.extractLsb' 10 3) (w.extractLsb' 0 10))
      [(24#6, decode18), (25#6, decode19), (26#6, decode1A), (27#6, decode1B), (28#6, decode1C), (29#6, decode1D), (30#6, decode1E), (31#6, decode1F),
      (47#6, decode2F)] := by
  simp +contextual [decodeFields]
theorem decodeFields_ofL :
    List.Forall (fun p => w.extractLsb' 26 6 = p.1 →
        decodeFields w = p.2 (w.extractLsb' 20 6) (w.extractLsb' 14 6) (w.extractLsb' 8 6) (w.extractLsb' 0 8))
      [(44#6, decode2C), (48#6, decode30), (49#6, decode31), (50#6, decode32), (51#6, decode33), (52#6, decode34), (53#6, decode35)] := by
  simp +contextual [decodeFields]
theorem decodeFields_ofLI (h : w.extractLsb' 26 6 = 45#6) :
    decodeFields w = decode2D (w.extractLsb' 20 6) (w.extractLsb' 14 6) (w.extractLsb' 11 3) (w.extractLsb' 0 11) := by
  simp [decodeFields, h]
theorem decodeFields_ofLB (h : w.extractLsb' 26 6 = 46#6) :
    decodeFields w = decode2E (w.extractLsb' 23 3) (w.extractLsb' 20 3) (w.extractLsb' 19 1) (w.extractLsb' 0 19) := by
  simp [decodeFields, h]
end

mutual
theorem word_of_encode {w v : Word} {i : Instr} (hv : encode i = some v) (h : encode i = some w) : v = w := Option.some.inj (hv.symm.trans h)

/-- The fields of an instruction's word are read back by the table of its major opcode. -/
theorem decodeFields_of_encode {w : Word} {i : Instr} (hwf : i.wf = true) (h : encode i = some w) : decodeFields w = .ok i := by
  have hR := decodeFields_ofR w
  have hI := decodeFields_ofI w
  have hJ := decodeFields_ofJ w
  have hB := decodeFields_ofB w
  have hM := decodeFields_ofM w
  have hL := decodeFields_ofL w
  simp only [List.Forall] at hR hI hJ hB hM hL
  cases i
  case nop => cases h; rfl
  all_goals first | have hw := word_of_encode rfl h | cases h
  all_goals
    simp only [wordR_eq_iff, wordI_eq_iff, wordM_eq_iff, wordB_eq_iff, wordJ_eq_iff, wordL_eq_iff, wordLI_eq_iff, wordLB_eq_iff, wordREP_eq_iff,
      @eq_comm _ _ (BitVec.extractLsb' _ _ w)] at hw
  case cmpi c p a x i => simp [hI, decode0F, Cond.ofCode3_code c hwf, hw]
  all_goals
    simp [hR, hI, hJ, hB, hM, hL, decodeFields_ofREP, decodeFields_ofLI, decodeFields_ofLB, only,
      decode01, decode02, decode04, decode05, decode06, decode07, decode08, decode09, decode0A, decode0B, decode0C, decode0D, decode0E,
      decode10, decode11, decode12, decode13, decode14, decode15, decode16, decode17, decode18, decode19, decode1A, decode1B, decode1C, decode1D, decode1E,
      decode1F, decode20, decode21, decode22, decode23, decode24, decode25, decode26, decode27, decode28, decode29, decode2A, decode2B, decode2C, decode2D,
      decode2E, decode2F, decode30, decode31, decode32, decode33, decode34, decode35, decode36, decode37, decode38, decode39, hw]
end

/-- Settles O56: the fields of a word and the operands of its instruction determine each other, table by table. -/
theorem decodingRoundTrips : Obligations.DecodingRoundTrips :=
  ⟨fun _ _ hwf h => decode_of_fields (decodeFields_of_encode hwf h) hwf,
    fun w i h => ⟨decodeFields_encodesTo w i (decode_fields h).1, (decode_fields h).2⟩⟩

/-- Settles O55: the words are those of their instructions, which are well formed; 1 has major opcode 0 and is not NOP. -/
theorem wordsDecode : Obligations.WordsDecode := by
  obtain ⟨hword, -⟩ := decodingRoundTrips
  exact ⟨hword _ _ rfl rfl, ⟨_, rfl⟩, hword _ _ rfl rfl, hword _ _ rfl rfl, hword _ _ rfl rfl, hword _ _ rfl rfl, hword _ _ rfl rfl, hword _ _ rfl rfl,
    hword _ _ rfl rfl, hword _ _ rfl rfl, hword _ _ rfl rfl, hword _ _ rfl rfl, hword _ _ rfl rfl⟩

end Sys2Proof

/-!
SUPPORT and claims. How a path runs on, REP, and the words that it forms (R43, R51, R63, R108 to R110).
-/
namespace Sys2Proof.Machine

/-! ## Plain instructions -/

/-- The path runs on after a group instruction that passes its checks and changes its threads alone (R43, R51). -/
theorem onLanes_stands {i : Instr} {s s' : State} {c : GCtx} (h : PathReady i s c s') (f : Nat → Thread → Thread) :
    Rules.StandsAt c (Rules.runOn c c.path.lanes) (Rules.parkOn c c.path.lanes) (s'.onLanes c.gk c.path.lanes f) (goOn c .none (s'.onLanes c.gk c.path.lanes f)) := by
  obtain ⟨-, hg, hr, -⟩ := gctx_some h.ctx
  have hg' : (s'.onLanes c.gk c.path.lanes f).groups.find c.gk = some c.group := by
    rw [charge_of_eq h.paid]; exact hg
  exact (Rules.Places.refl hg' hr).go_on rfl h.lanes

/-- The instructions that `Rules.plain` names change each thread by itself (R92). -/
theorem exec_plain {i : Instr} (h : Rules.plain i = true) : ∃ f, ∀ s, exec i s = threadOp i f s := by
  cases i
  all_goals first | exact absurd h Bool.false_ne_true | exact ⟨_, fun _ => rfl⟩

/-! ## REP (R63, R108) -/

/-- A REP that passes its checks starts the first execution, for no charge. -/
theorem rep_runs {n : BitVec 6} {st sr : BitVec 3} {s s' : State} {c : GCtx} {w : Word} (h : PathReady (.rep n st sr) s c s') (hf : c.path.pos.repFrom = none)
    (h2 : 2 ≤ c.path.pos.remain) (hw : fetch s c.core c.task.space c.task.priv (c.path.pos.pc + 4#64) = .word w) (ho : repOk w (n.toNat + 1) st sr = true) :
    s' = s ∧ ∃ t, exec (.rep n st sr) s = .next t ∧ Rules.StandsAt c
      (some { c.path with pos := { c.path.pos with rep := some { j := 0, count := n.toNat + 1, step := st, stride := sr }, repFrom := none } }) [] s t := by
  obtain ⟨-, hg, hr, -⟩ := gctx_some h.ctx
  have hs : s' = s := by
    have hp := h.paid
    rw [show (Instr.rep n st sr).cost = 0 from rfl, Nat.mul_zero] at hp
    exact (congrArg Prod.snd hp).symm
  subst hs
  have hv : ∀ l ∈ c.path.lanes, repCheck (n.toNat + 1) st sr s' c l = .ok := fun l _ => by
    unfold repCheck
    rw [if_neg (by omega), hw]
    exact if_pos ho
  refine ⟨rfl, _, groupOp_runs h.ctx h.lanes h.cls h.full h.free hv rfl h.paid, ?_⟩
  dsimp only
  rw [hf, Option.getD_none, if_pos (Nat.zero_le _)]
  refine ⟨(Rules.Places.refl hg hr).set_running _, ?_⟩
  dsimp only
  rw [if_neg (by omega)]
  rfl

/-! ## The words that REP forms (R108) -/

/-- The strides of R52. -/
theorem strideOf_eq (c : BitVec 3) : [1, 2, 4, 8, -1, -2, -4, -8].getD c.toNat 0 = strideOf c := by
  revert c; decide

/-- A word with the six bits from `lo` on replaced. -/
theorem getLsbD_setSix (w : Word) (lo v : Nat) (hv : v < 64) {k : Nat} (hk : k < 32) :
    ((w &&& ~~~(0x3F#32 <<< lo)) ||| (BitVec.ofNat 32 v <<< lo)).getLsbD k = if lo ≤ k ∧ k < lo + 6 then v.testBit (k - lo) else w.getLsbD k := by
  have hones : Nat.testBit 63 (k - lo) = decide (k - lo < 6) := Nat.testBit_two_pow_sub_one 6 _
  have hhigh : 6 ≤ k - lo → v.testBit (k - lo) = false := fun h => Nat.testBit_lt_two_pow (lt_of_lt_of_le hv (Nat.pow_le_pow_right (by decide) h : 2 ^ 6 ≤ _))
  simp only [BitVec.getLsbD_or, BitVec.getLsbD_and, BitVec.getLsbD_not, BitVec.getLsbD_shiftLeft, BitVec.getLsbD_ofNat, hones, hk, decide_true, Bool.true_and,
    show k - lo < 32 by omega]
  by_cases h1 : lo ≤ k
  · by_cases h2 : k < lo + 6
    · simp [h1, h2, show ¬k < lo by omega, show k - lo < 6 by omega]
    · simp [h2, show ¬k < lo by omega, show ¬k - lo < 6 by omega, hhigh (by omega)]
  · simp [h1, show k < lo by omega]

theorem fieldLo_eq {f : Nat} (hf : f < 3) : fieldLo f = 8 + 6 * f := by
  interval_cases f <;> rfl

/-- Moving a register field (R108): the field has moved, and what lies beside it stands. -/
theorem moveField_some {w v : Word} {f : Nat} {n : Int} (hf : f < 3) (h : moveField w f n = some v) :
    ((v.extractLsb' (8 + 6 * f) 6).toNat : Int) = (w.extractLsb' (8 + 6 * f) 6).toNat + n
    ∧ ∀ p k, p + k ≤ 8 + 6 * f ∨ 8 + 6 * f + 6 ≤ p → v.extractLsb' p k = w.extractLsb' p k := by
  unfold moveField at h
  rw [fieldLo_eq hf] at h
  dsimp only at h
  split at h
  · rename_i hr
    obtain rfl := Option.some.inj h
    generalize hm : ((w.toNat / 2 ^ (8 + 6 * f) % 64 : Nat) : Int) + n = m at hr ⊢
    have hlt : m.toNat < 64 := by omega
    constructor
    · have hfield : ((w &&& ~~~(0x3F#32 <<< (8 + 6 * f))) ||| (BitVec.ofNat 32 m.toNat <<< (8 + 6 * f))).extractLsb' (8 + 6 * f) 6 = BitVec.ofNat 6 m.toNat := by
        ext k hk
        rw [← BitVec.getLsbD_eq_getElem, ← BitVec.getLsbD_eq_getElem, BitVec.getLsbD_extractLsb', getLsbD_setSix _ _ _ hlt (by omega), BitVec.getLsbD_ofNat,
          if_pos (by omega), Nat.add_sub_cancel_left]
      rw [hfield, toNat_field, BitVec.toNat_ofNat]
      omega
    · intro p k hp
      ext j hj
      rw [← BitVec.getLsbD_eq_getElem, ← BitVec.getLsbD_eq_getElem, BitVec.getLsbD_extractLsb', BitVec.getLsbD_extractLsb']
      by_cases h32 : p + j < 32
      · rw [getLsbD_setSix _ _ _ hlt h32, if_neg (by omega)]
      · rw [BitVec.getLsbD_of_ge _ _ (by omega), BitVec.getLsbD_of_ge _ _ (by omega)]
  · cases h

/-- What one step of R108 makes of a word: field `f` has moved when the mask names it, and the other fields stand. -/
def FieldMoved (f : Nat) (n : Int) (w v : Word) : Prop :=
  (∀ g < 3, ((v.extractLsb' (8 + 6 * g) 6).toNat : Int) = (w.extractLsb' (8 + 6 * g) 6).toNat + if g = f then n else 0)
  ∧ v.extractLsb' 0 8 = w.extractLsb' 0 8 ∧ v.extractLsb' 26 6 = w.extractLsb' 26 6

theorem fieldMoved_of_step {w v : Word} {f : Nat} {n : Int} {b : Bool} (hf : f < 3) (h : (if b = true then moveField w f n else some w) = some v) :
    FieldMoved f (if b then n else 0) w v := by
  cases b with
  | false =>
    obtain rfl := Option.some.inj h
    exact ⟨fun g _ => by simp, rfl, rfl⟩
  | true =>
    obtain ⟨hm, ho⟩ := moveField_some hf h
    refine ⟨fun g hg => ?_, ho 0 8 (by omega), ho 26 6 (by omega)⟩
    by_cases hgf : g = f
    · subst hgf; simpa using hm
    · rw [ho _ _ (by omega), if_neg hgf, Int.add_zero]

/-- In execution j the fields of the mask have moved by j strides, and all other bits stand. -/
theorem formWord_some {w v : Word} {st sr : BitVec 3} {j : Nat} (h : formWord w st sr j = some v) :
    (∀ f < 3, ((v.extractLsb' (8 + 6 * f) 6).toNat : Int) = (w.extractLsb' (8 + 6 * f) 6).toNat + if st.getLsbD f then (j : Int) * strideOf sr else 0)
    ∧ v.extractLsb' 0 8 = w.extractLsb' 0 8 ∧ v.extractLsb' 26 6 = w.extractLsb' 26 6 := by
  simp only [formWord, List.foldl_cons, List.foldl_nil] at h
  split at h
  · cases h
  rename_i w1 h1
  split at h1
  · cases h1
  rename_i w2 h2
  obtain ⟨m0, l0, o0⟩ := fieldMoved_of_step (by decide) h
  obtain ⟨m1, l1, o1⟩ := fieldMoved_of_step (by decide) h1
  obtain ⟨m2, l2, o2⟩ := fieldMoved_of_step (by decide) h2
  refine ⟨fun f hf => ?_, l0.trans (l1.trans l2), o0.trans (o1.trans o2)⟩
  rw [m0 f hf, m1 f hf, m2 f hf, Int.mul_comm]
  interval_cases f <;> simp

/-- Settles O9: `onLanes_stands` for the instructions that change their threads alone, `rep_runs` for REP, `formWord_some` for the words that it forms. -/
theorem pathsRunAndRepeat : Obligations.PathsRunAndRepeat := by
  unfold Obligations.PathsRunAndRepeat
  refine ⟨fun i hi s c s' h => ?_, fun n st sr s c s' w h hf h2 hw ho => rep_runs h hf h2 hw ho, fun w st sr j v h => ?_⟩
  · obtain ⟨f, hex⟩ := exec_plain hi
    exact ⟨fun _ => f, _, (hex s).trans (groupOp_runs h.ctx h.lanes h.cls h.full h.free (fun _ _ => rfl) rfl h.paid), onLanes_stands h _⟩
  · dsimp only
    rw [strideOf_eq]
    exact formWord_some h

end Sys2Proof.Machine

/-!
SUPPORT and claims. FENCE, BARW and BARI (R47, R138, R264).
-/
namespace Sys2Proof.Machine

/-! ## FENCE (R264) -/

/-- A charge does not touch what a fence waits for. -/
theorem fenceOver_charged {i : Instr} {s s' : State} {c : GCtx} (h : PathReady i s c s') (scope : Net) (upto l : Nat) :
    Rules.fenceOver s' c scope upto l ↔ Rules.fenceOver s c scope upto l := by
  rw [charge_of_eq h.paid]
  exact Iff.rfl

/-- The running path stands in the state after the charge as in the one before it. -/
theorem group_charged {i : Instr} {s s' : State} {c : GCtx} (h : PathReady i s c s') :
    s'.groups.find c.gk = some c.group ∧ c.group.running = some c.path := by
  obtain ⟨-, hg, hr, -⟩ := gctx_some h.ctx
  refine ⟨?_, hr⟩
  rw [charge_of_eq h.paid]
  exact hg

theorem fence_runs {n : Net} {s s' : State} {c : GCtx} (h : PathReady (.fence n) s c s') : ∃ t, exec (.fence n) s = .next t ∧
    ((∀ l ∈ c.path.lanes, Rules.fenceOver s c n s.nextId l) → Rules.StandsAt c (Rules.runOn c c.path.lanes) (Rules.parkOn c c.path.lanes) s' t)
    ∧ (¬(∀ l ∈ c.path.lanes, Rules.fenceOver s c n s.nextId l) →
        Rules.StandsAt c none [{ Rules.onward c c.path.lanes with wait := .fence n s.nextId }] s' t) := by
  obtain ⟨hg, hr⟩ := group_charged h
  have hid : s'.nextId = s.nextId := by rw [charge_of_eq h.paid]
  have hmet : c.path.lanes.all (fenceMet s' c.team c.group c.gk n s'.nextId) = true ↔ ∀ l ∈ c.path.lanes, Rules.fenceOver s c n s.nextId l := by
    rw [List.all_eq_true, hid]
    exact forall₂_congr fun l _ => (fenceMet_iff s' c n s.nextId l).trans (fenceOver_charged h n s.nextId l)
  refine ⟨_, groupOp_runs h.ctx h.lanes h.cls h.full h.free (fun _ _ => rfl) rfl h.paid, fun hover => ?_, fun hover => ?_⟩
  · rw [if_pos (hmet.mpr hover)]
    exact (Rules.Places.refl hg hr).go_on rfl h.lanes
  · rw [if_neg (mt hmet.mp hover), hid]
    exact goOn_wait_places hg hr h.lanes (by simp)

/-! ## Waits at barriers (R138) -/

/-- The check of the network passes for a barrier that is bound to it. -/
theorem netCheck_ok {k : BitVec 4} {n : Net} {c : GCtx} (hn : (c.team.bars.get k.toNat Barrier.initial).net = n) (s : State) (l : Nat) : netCheck k n s c l = .ok :=
  if_pos hn
theorem netCheck_trap {k : BitVec 4} {n : Net} {c : GCtx} (hn : (c.team.bars.get k.toNat Barrier.initial).net ≠ n) (s : State) (l : Nat) :
    netCheck k n s c l = .trap { cause := .illegalOp, code := 0, addr := 0#64 } :=
  if_neg hn

theorem one_shiftLeft_eq (k : BitVec 4) : 1#16 <<< k.toNat = BitVec.ofNat 16 (2 ^ k.toNat) := by
  revert k; decide

theorem barw_runs {k : BitVec 4} {n : Net} {s s' : State} {c : GCtx} (h : PathReady (.barw k n) s c s') (hn : (c.team.bars.get k.toNat Barrier.initial).net = n) :
    let met : Nat → Bool := fun l => Rules.seenPhase s c.team k.toNat != (s.thread c.gk l).waitb.getLsbD k.toNat
    let rest := c.path.lanes.filter (fun l => !met l)
    ∃ t, exec (.barw k n) s = .next t ∧
      Rules.StandsAt c (if rest = [] then Rules.runOn c c.path.lanes else none)
        (if rest = [] then Rules.parkOn c c.path.lanes else [{ Rules.onward c c.path.lanes with wait := .barw k.toNat rest }])
        (s'.onLanes c.gk (c.path.lanes.filter met) (fun _ th => { th with waitb := th.waitb ^^^ BitVec.ofNat 16 (2 ^ k.toNat) })) t := by
  intro met rest
  obtain ⟨hg, hr⟩ := group_charged h
  have hmet : (fun l => phaseSeen s' c.team k.toNat != (s'.thread c.gk l).waitb.getLsbD k.toNat) = met := by
    funext l
    rw [thread_charge h.paid, charge_of_eq h.paid]
    rfl
  refine ⟨_, groupOp_runs h.ctx h.lanes h.cls h.full h.free (fun l _ => netCheck_ok hn s l) rfl h.paid, ?_⟩
  have hrests : c.path.lanes.filter (fun l => !(phaseSeen s' c.team k.toNat != (s'.thread c.gk l).waitb.getLsbD k.toNat)) = rest :=
    congrArg (fun f => c.path.lanes.filter fun l => !f l) hmet
  unfold barwSet
  simp only [hmet, hrests, one_shiftLeft_eq, List.isEmpty_iff]
  by_cases hrest : rest = []
  · rw [if_pos hrest, if_pos hrest, if_pos hrest]
    exact ((Rules.Places.refl hg hr).on_lanes _ _ _).go_on rfl h.lanes
  · rw [if_neg hrest, if_neg hrest, if_neg hrest]
    exact goOn_wait_places (s := s'.onLanes _ _ _) (w := .barw k.toNat rest) hg hr h.lanes nofun

/-- An instruction of a barrier that is bound to another network raises ILLEGAL_OP in every thread. -/
theorem groupOp_otherNet {i : Instr} {chk : State → GCtx → Nat → Verdict} {hold : State → GCtx → Bool} {fin : GCtx → List Nat → State → State} {s : State} {c : GCtx}
    (h : Rules.Checked i s c) (hv : ∀ l ∈ c.path.lanes, chk s c l = .trap { cause := .illegalOp, code := 0, addr := 0#64 }) :
    ∃ t, groupOp i chk hold fin s = .next t
      ∧ Rules.Trapped c c.path.pos (wordOf i) (fun _ => { cause := .illegalOp, code := 0, addr := 0#64 }) c.path.lanes [] s t := by
  obtain ⟨h0, h16⟩ := h.inside
  exact ⟨_, groupOp_checks h.ctx h.cls h.full h.free hv, pathTrap_trapped h.ctx h.lanes h0 h16 h.handled _ (fun _ _ => by decide)⟩

/-- Settles O22: `fence_runs` and `barw_runs` for the waits; BARI changes each thread, and a barrier of another network is refused. -/
theorem fencesAndWaits : Obligations.FencesAndWaits := by
  unfold Obligations.FencesAndWaits
  refine ⟨fun n s c s' h => fence_runs h, fun k n s c s' h hn => barw_runs h hn, fun k n p s c s' h hn => laneOp_runs h (fun l _ => netCheck_ok hn s l),
    fun i hi s c h hnet => ?_⟩
  rcases hi with ⟨k, n, rfl | rfl⟩ | ⟨k, n, p, rfl⟩ | ⟨k, n, b, y, rfl⟩
  · exact groupOp_otherNet h fun l _ => netCheck_trap (hnet k n 0#3 0#6 false (.inl rfl)) s l
  · exact groupOp_otherNet h fun l _ => netCheck_trap (hnet k n 0#3 0#6 false (.inr (.inl rfl))) s l
  · exact groupOp_otherNet h fun l _ => netCheck_trap (hnet k n p 0#6 false (.inr (.inr (.inl rfl)))) s l
  · refine groupOp_otherNet (chk := fun s c l => if n = .core then netCheck k n s c l else .of .illegalOp) h fun l _ => ?_
    split
    · exact netCheck_trap (hnet k n 0#3 b y (.inr (.inr (.inr rfl)))) s l
    · rfl

end Sys2Proof.Machine

/-!
SUPPORT and claims. Loads of the local memories (R55, R122, R124, R126, R214).
-/
namespace Sys2Proof.Machine

/-! ## What a local memory gives (R2, R55) -/

theorem sizeBytes_eq_width (z : Size) : sizeBytes z = Rules.width z := by cases z <;> rfl
theorem loadRegs_eq_regsOf (z : Size) : loadRegs z = Rules.regsOf z := by cases z <;> rfl

theorem smapBytes_eq_map (m : SMap Byte) (a n : Nat) : m.bytes a n = (List.range n).map (fun k => m.get (a + k) 0#8) := by
  induction n generalizing a with
  | zero => rfl
  | succ n ih =>
    rw [SMap.bytes, ih, List.range_succ_eq_map, List.map_cons, List.map_map]
    exact congrArg _ (List.map_congr_left fun k _ => by rw [Function.comp_apply, Nat.add_assoc, Nat.add_comm 1 k])

/-- The words of bytes, one after the other. -/
theorem bytesWords_eq_map (n : Nat) (bs : List Byte) : bytesWords n bs = (List.range n).map (fun k => BitVec.ofNat 32 (Rules.leNat ((bs.drop (4 * k)).take 4))) := by
  induction n generalizing bs with
  | zero => rfl
  | succ n ih =>
    rw [bytesWords, ih, List.range_succ_eq_map, List.map_cons, List.map_map, leNat_eq_natOfBytes]
    exact congrArg _ (List.map_congr_left fun k _ => by rw [Function.comp_apply, List.drop_drop, Nat.mul_succ, Nat.add_comm 4])

/-- A number of `n` bits read as signed. -/
theorem signExtend_ofNat {n : Nat} (v : Nat) (hv : v < 2 ^ n) (hn : 0 < n) :
    (BitVec.ofNat n v).signExtend 32 = BitVec.ofInt 32 (if v < 2 ^ (n - 1) then (v : Int) else (v : Int) - 2 ^ n) := by
  rw [BitVec.signExtend, BitVec.toInt_eq_toNat_cond, BitVec.toNat_ofNat, Nat.mod_eq_of_lt hv]
  have hp : 2 ^ n = 2 * 2 ^ (n - 1) := by rw [← Nat.pow_succ', Nat.succ_eq_add_one, Nat.sub_add_cancel hn]
  by_cases h : v < 2 ^ (n - 1)
  · rw [if_pos h, if_pos (by omega)]
  · rw [if_neg h, if_neg (by omega)]; push_cast; rfl

theorem leNat_lt (bs : List Byte) : Rules.leNat bs < 256 ^ bs.length := by
  induction bs with
  | nil => decide
  | cons b bs ih =>
    rw [Rules.leNat, List.length_cons, Nat.pow_succ]
    have := b.isLt
    omega

theorem sizeWords_eq_loaded {z : Size} {bs : List Byte} (h : bs.length = Rules.width z) : sizeWords z bs = Rules.loaded z bs := by
  have hlt := leNat_lt bs
  rw [h] at hlt
  cases z with
  | sb => rw [sizeWords, ← leNat_eq_natOfBytes, signExtend_ofNat _ hlt (by decide)]; rfl
  | sh => rw [sizeWords, ← leNat_eq_natOfBytes, signExtend_ofNat _ hlt (by decide)]; rfl
  | d => exact bytesWords_eq_map 2 bs
  | q => exact bytesWords_eq_map 4 bs
  | b | h | w | sw =>
    have hall : bs.take 4 = bs := List.take_of_length_le (by rw [h]; decide)
    show [BitVec.ofNat 32 (natOfBytes bs)] = [BitVec.ofNat 32 (Rules.leNat ((bs.drop (4 * 0)).take 4))]
    rw [Nat.mul_zero, List.drop_zero, hall, leNat_eq_natOfBytes]

/-! ## Addresses and limits (R122, R126) -/

theorem localAddr_eq_localAt (th : Thread) (a : BitVec 6) (o : BitVec 10) (z : Size) : th.localAddr a o (sizeBytes z) = Rules.localAt z a o th := by
  have h : th.rd a + o.signExtend 32 * BitVec.ofNat 32 (Rules.width z) = BitVec.ofInt 32 ((th.rd a).toNat + o.toInt * (Rules.width z : Int)) := by
    rw [BitVec.ofInt_add, BitVec.ofInt_mul, BitVec.ofInt_natCast, BitVec.ofInt_natCast, BitVec.ofNat_toNat, BitVec.setWidth_eq, BitVec.signExtend]
  unfold Thread.localAddr Rules.localAt
  rw [sizeBytes_eq_width, h, BitVec.toNat_ofInt]
  rfl

theorem localCheck_ok {limit x n : Nat} (h : x + n ≤ limit) (ha : x % n = 0) : localCheck limit x n = .ok := by
  unfold localCheck
  rw [if_neg (by omega), if_neg (by omega)]

theorem spadCheck_inside {t : Team} {x n : Nat} (h : x + n ≤ 16384 * t.spadg) (ha : x % n = 0) : spadCheck t x n = if (t.absent.find (x / 64)).isSome then .absent else .ok := by
  have hc : localCheck t.spadLimit x n = .ok := localCheck_ok (by rw [Nat.mul_comm] at h; exact h) ha
  unfold spadCheck
  rw [hc]
  rfl

theorem spadCheck_ok {t : Team} {x n : Nat} (h : Rules.inSpad t x n) : spadCheck t x n = .ok := by
  obtain ⟨hl, ha, hf⟩ := h
  rw [spadCheck_inside hl ha, hf]
  rfl
theorem spadCheck_absent {t : Team} {x n : Nat} (h : Rules.lineGone t x n) : spadCheck t x n = .absent := by
  obtain ⟨hl, ha, hf⟩ := h
  rw [spadCheck_inside hl ha, if_pos (Option.isSome_iff_ne_none.mpr hf)]

/-! ## Registers on their way (R16) -/

theorem markEmpties_eq (th : Thread) (rs : List Nat) : th.markEmpties rs = { th with empty := rs.foldl (fun e n => Rules.notFull n .pending e) th.empty } := by
  unfold Thread.markEmpties
  induction rs generalizing th with
  | nil => rfl
  | cons r rs ih =>
    rw [List.foldl_cons, ih, List.foldl_cons]
    unfold Thread.markEmpty Rules.notFull
    split <;> rfl

theorem await_eq_awaits (th : Thread) (id : Nat) (rs : List Nat) (v : Option (List Word)) : th.await id rs v = Rules.awaits id rs v th := by
  unfold Thread.await
  rw [markEmpties_eq]
  rfl

/-- A load of size `z` in one thread, of the bytes `get` of a local memory. -/
theorem await_size_eq (th : Thread) (d a : BitVec 6) (o : BitVec 10) (z : Size) (m : SMap Byte) (base : Nat) :
    th.await 0 (th.ixs d (loadRegs z)) (some (sizeWords z (m.bytes (base + th.localAddr a o (sizeBytes z)) (sizeBytes z))))
      = Rules.awaits 0 ((List.range (Rules.regsOf z)).map (fun k => th.ix d + k))
        (some (Rules.loaded z ((List.range (Rules.width z)).map (fun k => m.get (base + (Rules.localAt z a o th + k)) 0#8)))) th := by
  rw [await_eq_awaits, localAddr_eq_localAt, sizeBytes_eq_width, sizeWords_eq_loaded (length_smapBytes _ _ _), smapBytes_eq_map, loadRegs_eq_regsOf]
  simp only [Nat.add_assoc]
  rfl

/-! ## Threads that await nothing (R253, R255) -/

theorem holdSends_of_mayTouchSpad {s : State} {c : GCtx} (h : Rules.mayTouchSpad s c) : holdSends s c = false := by
  unfold holdSends sendsOwn sendsOf
  simp only [List.any_eq_false, List.mem_filter, Bool.and_eq_true, beq_iff_eq, Bool.or_eq_true, and_imp, Bool.not_eq_true]
  intro l hl x hx hu hg hlane hd
  exact (h l hl).2 x hx ⟨hu, hg, hlane, hd⟩

theorem holdSpadRead {s : State} {c : GCtx} (h : Rules.mayTouchSpad s c) : (holdRead s c || holdSends s c) = false := by
  rw [holdRead_of_quiet fun l hl => (h l hl).1, holdSends_of_mayTouchSpad h]
  rfl

/-- A charge moves no access. -/
theorem quiet_charge {s s' : State} {core task : Nat} {who : Payer} {n b : Nat} (h : charge s core task who n b = (true, s')) (gk l : Nat) :
    quiet s' (s'.thread gk l).ops = quiet s (s.thread gk l).ops := by
  rw [thread_charge h, charge_of_eq h]
  rfl

theorem mem_of_mem_sortLanes {ls : List Nat} {l : Nat} (h : l ∈ sortLanes ls) : l ∈ ls := by
  unfold sortLanes at h
  simpa using (List.mem_filter.mp h).2

/-- Reads by threads that await nothing leave no note. -/
theorem eachLane_see_quiet {s : State} {gk : Nat} {lanes : List Nat} (h : ∀ l ∈ lanes, quiet s (s.thread gk l).ops = true) (x : Nat → State → Sight) :
    eachLane (fun l s => s.see (s.thread gk l).ops (x l s)) lanes s = s :=
  eachLane_id _ _ _ fun l hl => see_of_not_passed (not_passed_of_quiet (h l (mem_of_mem_sortLanes hl))) _

/-! ## A set of which some lines are absent (R126, R377) -/

section
variable {i : Instr} {s s' : State} {c : GCtx} {here away : List Nat}

/-- What the checks give when the lines of some lanes are absent. -/
def absentVerdicts (away lanes : List Nat) : List (Nat × Verdict) := lanes.map (fun l => (l, if away.contains l then .absent else .ok))

theorem absentVerdicts_absent (away lanes : List Nat) : ((absentVerdicts away lanes).filter (fun v => v.2 == .absent)).map Prod.fst = lanes.filter (fun l => away.contains l) := by
  unfold absentVerdicts
  induction lanes with
  | nil => rfl
  | cons l ls ih => by_cases hl : l ∈ away <;> simp_all
theorem absentVerdicts_ok (away lanes : List Nat) : okLanes (absentVerdicts away lanes) = lanes.filter (fun l => !away.contains l) := by
  unfold absentVerdicts okLanes
  induction lanes with
  | nil => rfl
  | cons l ls ih => by_cases hl : l ∈ away <;> simp_all
theorem absentVerdicts_traps (away lanes : List Nat) : trapsOf (absentVerdicts away lanes) = [] := by
  unfold absentVerdicts trapsOf
  induction lanes with
  | nil => rfl
  | cons l ls ih => by_cases hl : l ∈ away <;> simp_all
theorem absentVerdicts_miss (away lanes : List Nat) : missOf (absentVerdicts away lanes) = none := by
  unfold absentVerdicts missOf
  induction lanes with
  | nil => rfl
  | cons l ls ih => by_cases hl : l ∈ away <;> simp_all
theorem absentVerdicts_lost (away lanes : List Nat) : (absentVerdicts away lanes).any (fun v => v.2 == .lost) = false := by
  unfold absentVerdicts
  induction lanes with
  | nil => rfl
  | cons l ls ih => by_cases hl : l ∈ away <;> simp_all

/-- The lanes whose lines are absent are split off, and the others have the effect; the charge is for these. -/
theorem groupOp_absent {chk : State → GCtx → Nat → Verdict} {hold : State → GCtx → Bool} {fin : GCtx → List Nat → State → State} (h : Rules.Checked i s c)
    (hhere : c.path.lanes.filter (fun l => here.contains l) = here) (haway : c.path.lanes.filter (fun l => away.contains l) = away)
    (hall : ∀ l ∈ c.path.lanes, l ∈ here ∨ l ∈ away) (hok : ∀ l ∈ here, chk s c l = .ok) (hab : ∀ l ∈ away, chk s c l = .absent)
    (hne : here ≠ []) (hh : hold s c = false)
    (hp : charge s c.core c.team.task (c.keep here).payer (here.length * i.cost) (here.length * i.byteCost) = (true, s')) :
    groupOp i chk hold fin s = .next (fin (c.keep here) here (splitSet c (wordOf i) [] away here s')) := by
  have hdisj : ∀ l ∈ here, l ∉ away := fun l hl ha => by
    have := (hok l hl).symm.trans (hab l ha); cases this
  have hvs : c.path.lanes.map (fun l => (l, chk s c l)) = absentVerdicts away c.path.lanes := by
    refine List.map_congr_left fun l hl => ?_
    by_cases ha : l ∈ away
    · simp [ha, hab l ha]
    · simp [ha, hok l ((hall l hl).resolve_right ha)]
  have hoks : c.path.lanes.filter (fun l => !away.contains l) = here := by
    conv_rhs => rw [← hhere]
    refine List.filter_congr fun l hl => ?_
    by_cases ha : l ∈ away
    · simp [ha, show l ∉ here from fun hl => hdisj l hl ha]
    · simp [ha, (hall l hl).resolve_right ha]
  have h1 : c.path.lanes.filterMap (fun l => (operandTrap i (s.thread c.gk l)).map (fun t => (l, t))) = [] := by
    rw [List.filterMap_eq_nil_iff]; intro l hl; simp [h.full l hl]
  have h2 : c.path.lanes.filter (fun l => (operandTrap i (s.thread c.gk l)).isNone) = c.path.lanes := by
    rw [List.filter_eq_self]; intro l hl; simp [h.full l hl]
  have h3 : c.path.lanes.any (fun l => operandWait i (s.thread c.gk l)) = false := by
    rw [List.any_eq_false]; intro l hl; simp [h.free l hl]
  simp only [groupOp, h.ctx, h.cls, if_true, h1, h2, h3, Bool.false_eq_true, if_false, issueGroup, hvs, absentVerdicts_absent, absentVerdicts_ok, absentVerdicts_traps,
    absentVerdicts_miss, absentVerdicts_lost, hoks, haway, hh, hp, List.nil_append, List.isEmpty_eq_false_iff.mpr hne, unhandled_nil, sysTrap_none, parkAfterTrap_nil]

theorem trapLanes_nil (c : GCtx) (w : Word) (p : Pos) (resume : DWord) (s : State) : trapLanes c w p resume [] s = s := by
  unfold trapLanes
  exact (parkPath_empty (p := ⟨_, [], _, _⟩) rfl _ _).trans (onLanes_nil _ _ _)

theorem splitSet_absent_places (hg : s.groups.find c.gk = some c.group) (hr : c.group.running = some c.path) (hne : here ≠ []) (haw : away ≠ []) (w : Word) :
    Rules.Places c (some (c.keep here).path) [{ c.path with lanes := away }] s (splitSet c w [] away here s)
    ∧ ∀ k, (splitSet c w [] away here s).core k = s.core k := by
  unfold splitSet
  rw [if_neg (by simp [haw])]
  dsimp only
  rw [if_neg (by simpa using hne), trapLanes_nil]
  refine ⟨((Rules.Places.refl hg hr).park_path (p := { c.path with lanes := away }) haw).set_running _, fun k => ?_⟩
  rw [core_setRunning, core_parkPath]
end

/-! ## LDS, LDQ and LDACC -/

/-- A load of the scratchpad in one thread. -/
def spadLoad (t : Team) (d a : BitVec 6) (z : Size) (o : BitVec 10) (th : Thread) : Thread :=
  Rules.awaits 0 ((List.range (Rules.regsOf z)).map (fun k => th.ix d + k))
    (some (Rules.loaded z ((List.range (Rules.width z)).map (fun k => Rules.spadByte t (Rules.localAt z a o th + k))))) th

theorem await_spad_eq (t : Team) (d a : BitVec 6) (z : Size) (o : BitVec 10) (th : Thread) :
    th.await 0 (th.ixs d (loadRegs z)) (some (sizeWords z (t.spadBytes (th.localAddr a o (sizeBytes z)) (sizeBytes z)))) = spadLoad t d a z o th := by
  have h := await_size_eq th d a o z t.spad 0
  simp only [Nat.zero_add] at h
  exact h

section
variable {d a : BitVec 6} {x : Bool} {z : Size} {o : BitVec 10} {s s' : State} {c : GCtx}

theorem lds_effect {lanes : List Nat} (hq : ∀ l ∈ lanes, quiet s (s.thread c.gk l).ops = true) :
    (eachLane (ldsSee a z o c) lanes s).onLanes c.gk lanes (fun _ th =>
      th.await 0 (th.ixs d (loadRegs z)) (some (sizeWords z (c.team.spadBytes (th.localAddr a o (sizeBytes z)) (sizeBytes z))))) = s.onLanes c.gk lanes (fun _ => spadLoad c.team d a z o) := by
  rw [show eachLane (ldsSee a z o c) lanes s = s from eachLane_see_quiet hq _]
  exact onLanes_congr fun _ _ th => await_spad_eq c.team d a z o th

theorem lds_runs (h : PathReady (.lds d a x z o) s c s') (hq : Rules.mayTouchSpad s c)
    (hin : ∀ l ∈ c.path.lanes, Rules.inSpad c.team (Rules.localAt z a o (s.thread c.gk l)) (Rules.width z)) :
    ∃ t, exec (.lds d a x z o) s = .next t ∧ Ran c (fun _ => spadLoad c.team d a z o) s' t := by
  show ∃ t, execLds d a x z o s = .next t ∧ _
  unfold execLds
  refine ⟨_, groupOp_runs h.ctx h.lanes h.cls h.full h.free (fun l hl => ?_) (holdSpadRead hq) h.paid, ?_⟩
  · rw [localAddr_eq_localAt, sizeBytes_eq_width]
    exact spadCheck_ok (hin l hl)
  · rw [lds_effect fun l hl => (quiet_charge h.paid c.gk l).trans (hq l hl).1]
    exact placeOnly_goOn _ _ _

theorem ldq_runs (h : PathReady (.ldq d a x z o) s c s') (hq : ∀ l ∈ c.path.lanes, quiet s (s.thread c.gk l).ops = true)
    (hin : ∀ l ∈ c.path.lanes, Rules.localAt z a o (s.thread c.gk l) + Rules.width z ≤ 16384 * c.team.quadg ∧ Rules.localAt z a o (s.thread c.gk l) % Rules.width z = 0) :
    ∃ t, exec (.ldq d a x z o) s = .next t ∧ Ran c (fun _ th =>
      Rules.awaits 0 ((List.range (Rules.regsOf z)).map (fun k => th.ix d + k))
        (some (Rules.loaded z ((List.range (Rules.width z)).map (fun k => Rules.poolByte s c (Rules.localAt z a o th + k))))) th) s' t := by
  show ∃ t, execLdq d a x z o s = .next t ∧ _
  unfold execLdq
  refine ⟨_, groupOp_runs h.ctx h.lanes h.cls h.full h.free (fun l hl => ?_) (holdRead_of_quiet hq) h.paid, ?_⟩
  · obtain ⟨hlim, hal⟩ := hin l hl
    rw [localAddr_eq_localAt, sizeBytes_eq_width]
    exact localCheck_ok (by rw [Nat.mul_comm] at hlim; exact hlim) hal
  · have hpool : s'.quadPool = s.quadPool := by rw [charge_of_eq h.paid]
    have hsee : eachLane (ldqSee a z o c) c.path.lanes s' = s' := eachLane_see_quiet (fun l hl => (quiet_charge h.paid c.gk l).trans (hq l hl)) _
    simp only [hsee, hpool, await_size_eq]
    exact placeOnly_goOn _ _ _

theorem lds_divides (h : Rules.Checked (.lds d a x z o) s c) (hq : Rules.mayTouchSpad s c) {here away : List Nat}
    (hhere : c.path.lanes.filter (fun l => here.contains l) = here) (haway : c.path.lanes.filter (fun l => away.contains l) = away)
    (hall : ∀ l ∈ c.path.lanes, l ∈ here ∨ l ∈ away) (hne : here ≠ []) (haw : away ≠ [])
    (hin : ∀ l ∈ here, Rules.inSpad c.team (Rules.localAt z a o (s.thread c.gk l)) (Rules.width z))
    (hgone : ∀ l ∈ away, Rules.lineGone c.team (Rules.localAt z a o (s.thread c.gk l)) (Rules.width z))
    (hp : charge s c.core c.team.task (c.keep here).payer (here.length * (Instr.lds d a x z o).cost) (here.length * (Instr.lds d a x z o).byteCost) = (true, s')) :
    ∃ t, exec (.lds d a x z o) s = .next t
      ∧ Rules.StandsAt c (Rules.runOn c here) ({ c.path with lanes := away } :: Rules.parkOn c here) (s'.onLanes c.gk here (fun _ => spadLoad c.team d a z o)) t := by
  obtain ⟨-, hg, hr, -⟩ := gctx_some h.ctx
  have hg' : s'.groups.find c.gk = some c.group := by rw [charge_of_eq hp]; exact hg
  have hsub : ∀ l ∈ here, l ∈ c.path.lanes := fun l hl => by rw [← hhere] at hl; exact (List.mem_filter.mp hl).1
  obtain ⟨hpl, hcore⟩ := splitSet_absent_places hg' hr hne haw (wordOf (.lds d a x z o))
  show ∃ t, execLds d a x z o s = .next t ∧ _
  unfold execLds
  refine ⟨_, groupOp_absent h hhere haway hall (fun l hl => ?_) (fun l hl => ?_) hne (holdSpadRead hq) hp, ?_⟩
  · rw [localAddr_eq_localAt, sizeBytes_eq_width]
    exact spadCheck_ok (hin l hl)
  · rw [localAddr_eq_localAt, sizeBytes_eq_width]
    exact spadCheck_absent (hgone l hl)
  · have hquiet : ∀ l ∈ here, quiet (splitSet c (wordOf (.lds d a x z o)) [] away here s') ((splitSet c (wordOf (.lds d a x z o)) [] away here s').thread c.gk l).ops = true := fun l hl => by
      rw [hpl.1.1]
      exact (quiet_charge hp c.gk l).trans (hq l (hsub l hl)).1
    rw [lds_effect (c := c.keep here) hquiet]
    exact (hpl.on_lanes c.gk here _).go_on (congrArg Core.gHold (hcore c.core)) hne

theorem ldacc_runs {n : BitVec 3} (h : PathReady (.ldacc d a x n o) s c s') (hq : ∀ l ∈ c.path.lanes, quiet s (s.thread c.gk l).ops = true)
    (hin : ∀ l ∈ c.path.lanes, 0 ≤ ((s.thread c.gk l).rd a).toNat + o.toInt ∧ ((s.thread c.gk l).rd a).toNat + o.toInt + n.toNat < 4096 * c.team.accg) :
    ∃ t, exec (.ldacc d a x n o) s = .next t ∧ Ran c (fun _ th =>
      Rules.awaits 0 ((List.range (n.toNat + 1)).map (fun k => th.ix d + k))
        (some ((List.range (n.toNat + 1)).map (fun k => c.team.acc.get (((th.rd a).toNat + o.toInt).toNat + k) 0#32))) th) s' t := by
  have hq' : holdQuiet s c = false := by
    simpa [holdQuiet, allQuiet] using hq
  show ∃ t, execLdacc d a x n o s = .next t ∧ _
  unfold execLdacc
  refine ⟨_, groupOp_runs h.ctx h.lanes h.cls h.full h.free (fun l hl => ?_) hq' h.paid, ?_⟩
  · obtain ⟨h0, hlt⟩ := hin l hl
    have hlim : (c.team.accLimit : Int) = 4096 * c.team.accg := by
      unfold Team.accLimit; push_cast; ring
    refine if_neg ?_
    rw [Bool.or_eq_true, decide_eq_true_iff, decide_eq_true_iff]
    unfold Thread.accAddr
    omega
  · simp only [await_eq_awaits]
    exact placeOnly_goOn _ _ _
end

/-- Settles O17: `lds_runs`, `ldq_runs` and `ldacc_runs` for loads that every thread makes, `lds_divides` where some lines are absent. -/
theorem localLoads : Obligations.LocalLoads := by
  unfold Obligations.LocalLoads
  exact ⟨fun d a x z o s c s' h hq hin => lds_runs h hq hin, fun d a x z o s c s' h hq hin => ldq_runs h hq hin,
    fun d a x n o s c s' h hq hin => ⟨rfl, ldacc_runs h hq hin⟩,
    fun d a x z o s c h hq here away hhere haway _ hall hne haw hin hgone s' hp => lds_divides h hq hhere haway hall hne haw hin hgone hp⟩

end Sys2Proof.Machine

/-!
SUPPORT and claims. Arrivals at barriers, their binding and the completion of phases (R133 to R138, R151).
-/
namespace Sys2Proof.Machine

/-! ## One barrier of a team -/

theorem bar_modBar (t : Team) (k j : Nat) (f : Barrier → Barrier) : (t.modBar k f).bar j = if j = k then f (t.bar k) else t.bar j :=
  SMap.get_set _ _ _ _ _

theorem getLsbD_setBit {w : Nat} (v : BitVec w) {k : Nat} (hk : k < w) (j : Nat) : (setBit v k true).getLsbD j = (decide (j = k) || v.getLsbD j) := by
  unfold setBit
  rw [if_pos rfl, BitVec.getLsbD_or, BitVec.getLsbD_shiftLeft, BitVec.getLsbD_one, Bool.or_comm]
  congr 1
  rw [Bool.eq_iff_iff]
  simp
  omega

theorem pend_count (b : Barrier) (n : BitVec 48) : (b.count n).pend = b.pend + n := by
  unfold Barrier.count
  split
  · rename_i h; rw [h, BitVec.add_zero]
  · rfl

/-! ## Counting arrivals (R134) -/

/-- From `b` to `b'` only parties have arrived. -/
def ArrivedAt (b b' : Barrier) : Prop := b'.pend = b.pend ∧ ∀ g, b.here.getLsbD g = true → b'.here.getLsbD g = true

theorem ArrivedAt.refl (b : Barrier) : ArrivedAt b b := ⟨rfl, fun _ h => h⟩
theorem ArrivedAt.trans {a b c : Barrier} (h : ArrivedAt a b) (h' : ArrivedAt b c) : ArrivedAt a c :=
  ⟨h'.1.trans h.1, fun g hg => h'.2 g (h.2 g hg)⟩
theorem arrivedAt_setBit (b : Barrier) (k : Nat) : ArrivedAt b { b with here := setBit b.here k true } :=
  ⟨rfl, fun g hg => by unfold setBit; rw [if_pos rfl, BitVec.getLsbD_or, hg, Bool.true_or]⟩
theorem arrivedAt_arrive (b : Barrier) (k : Nat) : ArrivedAt b (b.arrive k) := arrivedAt_setBit b k

/-- From `s` to `t` only arrivals have been counted, at the barriers of the team `tk` as of all others. -/
structure Counted (tk : Nat) (s t : State) : Prop where
  only : ArrivalsOnly s t
  team : ∀ tm, s.teams.find tk = some tm → ∃ tm', t.teams.find tk = some tm' ∧ tm' = { tm with bars := tm'.bars } ∧ ∀ k, ArrivedAt (tm.bar k) (tm'.bar k)

theorem Counted.refl (tk : Nat) (s : State) : Counted tk s s := ⟨.refl s, fun tm h => ⟨tm, h, rfl, fun _ => .refl _⟩⟩
theorem Counted.trans {tk : Nat} {s t u : State} (h : Counted tk s t) (h' : Counted tk t u) : Counted tk s u := by
  refine ⟨h.only.trans h'.only, fun tm hm => ?_⟩
  obtain ⟨tm1, h1, he1, ha1⟩ := h.team tm hm
  obtain ⟨tm2, h2, he2, ha2⟩ := h'.team tm1 h1
  exact ⟨tm2, h2, by rw [he2, he1], fun k => (ha1 k).trans (ha2 k)⟩
theorem Counted.foldl {α : Type} {tk : Nat} {f : State → α → State} (hf : ∀ s x, Counted tk s (f s x)) (l : List α) (s : State) : Counted tk s (l.foldl f s) := by
  induction l generalizing s with
  | nil => exact .refl tk s
  | cons x l ih => exact (hf s x).trans (ih _)
/-- Where teams stand, what is counted elsewhere is as nothing. -/
theorem Counted.of_teams {tk : Nat} {s t : State} (h : ArrivalsOnly s t) (ht : t.teams = s.teams) : Counted tk s t :=
  ⟨h, fun tm hm => ⟨tm, ht ▸ hm, rfl, fun _ => .refl _⟩⟩
theorem counted_modBar (tk : Nat) (s : State) (j k : Nat) {f : Barrier → Barrier} (hf : ∀ b, ArrivedAt b (f b)) : Counted tk s (s.modTeam j (fun t => t.modBar k f)) := by
  refine ⟨rfl, fun tm hm => ?_⟩
  show ∃ tm', (s.teams.mod j _).find tk = some tm' ∧ _
  rw [SMap.find_mod_at, hm]
  split
  · refine ⟨_, rfl, rfl, fun i => ?_⟩
    rw [bar_modBar]
    split
    · next hi => rw [hi]; exact hf _
    · exact .refl _
  · exact ⟨tm, rfl, rfl, fun _ => .refl _⟩

theorem teams_podCount (s : State) (task : Nat) (pod : BitVec 16) (w : WideBar) : (podCount s task pod w).teams = s.teams := by
  unfold podCount; (repeat' split) <;> rfl
theorem teams_wideArrive (s : State) (t : Team) (b : Barrier) (k : Nat) : (wideArrive s t b k).teams = s.teams := by
  unfold wideArrive
  cases b.net with
  | core => rfl
  | pod => exact teams_podCount s _ _ _
  | quad => rfl
  | die => rfl
  | pkg => dsimp only; split <;> rfl

theorem counted_countGroup (tk : Nat) (s : State) (j gk gid k : Nat) : Counted tk s (countGroup s j gk gid k) := by
  unfold countGroup
  split
  · exact .refl tk s
  · rename_i t _
    split
    · exact .refl tk s
    · cases (t.bar k).net with
      | core => exact counted_modBar tk s j k fun b => arrivedAt_arrive b gid
      | quad => exact counted_modBar tk s j k fun b => arrivedAt_setBit b gid
      | die => exact counted_modBar tk s j k fun b => arrivedAt_setBit b gid
      | pkg => exact counted_modBar tk s j k fun b => arrivedAt_setBit b gid
      | pod => exact counted_modBar tk s j k fun b => arrivedAt_setBit b gid
theorem counted_countTeam (tk : Nat) (s : State) (j k : Nat) : Counted tk s (countTeam s j k) := by
  unfold countTeam
  split
  · exact .refl tk s
  · dsimp only
    split
    · exact .refl tk s
    · split
      · exact .refl tk s
      · exact (counted_modBar tk s j k fun b => arrivedAt_setBit b 9).trans (.of_teams (arrivalsOnly_wideArrive _ _ _ _) (teams_wideArrive _ _ _ _))
theorem counted_countArrivals (tk : Nat) (s : State) (j : Nat) : Counted tk s (countArrivals s j) :=
  (Counted.foldl (fun s _ => Counted.foldl (fun s _ => counted_countGroup tk s _ _ _ _) _ s) _ s).trans
    (Counted.foldl (fun s _ => counted_countTeam tk s _ _) _ _)

/-- What one step of a fold makes true and counting keeps true is true after the fold. -/
theorem Counted.foldl_reaches {α : Type} {tk : Nat} {f : State → α → State} {P : State → Prop} (hf : ∀ s x, Counted tk s (f s x))
    (hk : ∀ t u, Counted tk t u → P t → P u) {l : List α} {x : α} (hx : x ∈ l) {s : State} (hP : ∀ t, Counted tk s t → P (f t x)) : P (l.foldl f s) := by
  induction l generalizing s with
  | nil => cases hx
  | cons y l ih =>
    rw [List.foldl_cons]
    rcases List.mem_cons.mp hx with rfl | hx
    · exact hk _ _ (Counted.foldl hf l _) (hP s (.refl tk s))
    · exact ih hx fun t ht => hP t ((hf s y).trans ht)

/-- Party `gid` has arrived at barrier `k` of the team. -/
def HereAt (tk k gid : Nat) (s : State) : Prop := ∃ tm, s.teams.find tk = some tm ∧ (tm.bar k).here.getLsbD gid = true

theorem HereAt.counted {tk k gid : Nat} {s t : State} (h : Counted tk s t) (hh : HereAt tk k gid s) : HereAt tk k gid t := by
  obtain ⟨tm, hm, hb⟩ := hh
  obtain ⟨tm', hm', -, ha⟩ := h.team tm hm
  exact ⟨tm', hm', (ha k).2 gid hb⟩

/-- Counting arrivals changes no thread and nothing that it awaits. -/
theorem groupHere_counted {s t : State} (h : ArrivalsOnly s t) (uid gid gk k : Nat) : groupHere t uid gid gk k = groupHere s uid gid gk k := by
  rw [h]; rfl

theorem hereAt_countGroup {s : State} {tk gk gid k : Nat} {tm : Team} (ht : s.teams.find tk = some tm) (hg : gid < 16) (hh : groupHere s tm.uid gid gk k = true) :
    HereAt tk k gid (countGroup s tk gk gid k) := by
  have hbit : ∀ f : Barrier → Barrier, (∀ b, (f b).here = setBit b.here gid true) → HereAt tk k gid (s.modTeam tk (fun t => t.modBar k f)) := fun f hf => by
    refine ⟨tm.modBar k f, ?_, ?_⟩
    · show (s.teams.mod tk _).find tk = _
      rw [SMap.find_mod, if_pos rfl, ht]; rfl
    · rw [bar_modBar, if_pos rfl, hf, getLsbD_setBit _ hg]; simp
  unfold countGroup
  rw [ht]
  dsimp only
  by_cases hb : (tm.bar k).here.getLsbD gid = true
  · rw [if_pos (by rw [hb]; rfl)]
    exact ⟨tm, ht, hb⟩
  · rw [if_neg (by rw [hh]; simpa using hb)]
    cases (tm.bar k).net <;> exact hbit _ fun _ => rfl

/-- A group whose live threads have arrived has arrived once arrivals are counted. -/
theorem hereAt_countArrivals {s : State} {tk gk k : Nat} {g : Group} {tm : Team} (ht : s.teams.find tk = some tm) (hg : s.groups.find gk = some g) (htk : g.team = tk)
    (hgid : g.gid < 16) (hk : k < 16) (hh : groupHere s tm.uid g.gid gk k = true) : HereAt tk k g.gid (countArrivals s tk) := by
  refine HereAt.counted (Counted.foldl (fun s _ => counted_countTeam tk s _ _) _ _) ?_
  refine Counted.foldl_reaches (fun s _ => Counted.foldl (fun s _ => counted_countGroup tk s _ _ _ _) _ s) (fun _ _ => HereAt.counted)
    (x := (gk, g)) (List.mem_filter.mpr ⟨SMap.mem_of_find hg, by simpa using htk⟩) fun t h1 => ?_
  refine Counted.foldl_reaches (fun s _ => counted_countGroup tk s _ _ _ _) (fun _ _ => HereAt.counted) (x := k) (List.mem_range.mpr hk) fun u h2 => ?_
  obtain ⟨tm', hm, he, -⟩ := (h1.trans h2).team tm ht
  refine hereAt_countGroup hm hgid ?_
  rw [show tm'.uid = tm.uid by rw [he], groupHere_counted (h1.trans h2).only]
  exact hh

/-! ## BARA and BARAB (R134, R138) -/

/-- A thread that arrives at barrier `k`. -/
def arrivesAt (k : Nat) (th : Thread) : Thread := { th with arr := th.arr.put k 1 }

/-- A live thread of a set that arrives has arrived; what a thread awaits and whether it lives stand. -/
theorem thread_arrives (s : State) (gk k : Nat) (lanes : List Nat) {l : Nat} (hl : l < 64) :
    ((s.onLanes gk lanes (fun _ => arrivesAt k)).thread gk l).live = (s.thread gk l).live
    ∧ ((s.onLanes gk lanes (fun _ => arrivesAt k)).thread gk l).ops = (s.thread gk l).ops
    ∧ ((s.thread gk l).live = true → l ∈ lanes ∨ (s.thread gk l).arr.get k 0 ≠ 0 → ((s.onLanes gk lanes (fun _ => arrivesAt k)).thread gk l).arr.get k 0 ≠ 0) := by
  have hkey : tkey gk l / 64 = gk ∧ tkey gk l % 64 = l := by unfold tkey; omega
  unfold State.thread SMap.get
  rw [find_onLanes, hkey.1, hkey.2]
  cases hf : s.threads.find (tkey gk l) with
  | none => simp [Thread.none]
  | some th =>
    by_cases hm : l ∈ lanes
    · simp [hm, arrivesAt]
    · simp [hm]

/-- A group has arrived when the set that arrives was all that was missing, and nothing of its threads is on its way. -/
theorem groupHere_arrives {s : State} {uid gid gk k : Nat} {lanes : List Nat}
    (hall : ∀ l < 64, (s.thread gk l).live = true → (l ∈ lanes ∨ (s.thread gk l).arr.get k 0 ≠ 0)
      ∧ quiet s (s.thread gk l).ops = true ∧ ∀ x ∈ s.sends, ¬(x.uid = uid ∧ x.gid = gid ∧ x.lane = l)) (hone : ∃ l < 64, (s.thread gk l).live = true) :
    groupHere (s.onLanes gk lanes (fun _ => arrivesAt k)) uid gid gk k = true := by
  have hlive : ∀ l, l ∈ liveLanes (s.onLanes gk lanes (fun _ => arrivesAt k)) gk ↔ l < 64 ∧ (s.thread gk l).live = true := fun l => by
    unfold liveLanes
    rw [List.mem_filter, List.mem_range]
    exact and_congr_right fun hl => by rw [(thread_arrives s gk k lanes hl).1]
  unfold groupHere
  simp only [Bool.and_eq_true, Bool.not_eq_true', List.isEmpty_eq_false_iff, List.all_eq_true, bne_iff_ne]
  obtain ⟨l0, h0, hl0⟩ := hone
  refine ⟨List.ne_nil_of_mem ((hlive l0).mpr ⟨h0, hl0⟩), fun l hm => ?_⟩
  obtain ⟨hl, hv⟩ := (hlive l).mp hm
  obtain ⟨harr, hq, hsend⟩ := hall l hl hv
  obtain ⟨-, hops, hput⟩ := thread_arrives s gk k lanes hl
  refine ⟨hput hv harr, ?_⟩
  unfold threadClean sendsOf
  rw [hops, Bool.and_eq_true, List.isEmpty_iff, List.filter_eq_nil_iff]
  exact ⟨fun x hx hc => hsend x hx (by simpa [and_assoc] using hc), quietOn_of_quiet hq⟩

theorem ArrivalsOnly.of_onLanes {s u : State} {gk : Nat} {lanes : List Nat} {f : Nat → Thread → Thread} (h : ArrivalsOnly (s.onLanes gk lanes f) u) :
    u = { s with threads := u.threads, teams := u.teams, wides := u.wides, nodes := u.nodes, fibres := u.fibres, nextId := u.nextId } := by
  rw [h.threads]
  exact h

/-- The live threads of the group of `c` have all arrived, or arrive now, and nothing of theirs is on its way. -/
def AllArrive (s : State) (c : GCtx) (k : Nat) : Prop :=
  ∀ l < 64, (s.thread c.gk l).live = true → (l ∈ c.path.lanes ∨ (s.thread c.gk l).arr.get k 0 ≠ 0)
    ∧ quiet s (s.thread c.gk l).ops = true ∧ ∀ x ∈ s.sends, ¬(x.uid = c.team.uid ∧ x.gid = c.group.gid ∧ x.lane = l)

/-- The arrival of the running set, from a state `s1` in which the bytes have been counted in. -/
theorem arriveSet_spec {k : BitVec 4} {s s1 u : State} {c : GCtx} {tm1 : Team} (hc : gctx s = some c) (hl : c.path.lanes ≠ [])
    (h1 : s1 = { s with leases := s1.leases, hist := s1.hist, teams := s1.teams }) (ht : s1.teams.find c.tk = some tm1) (htm : tm1 = { c.team with bars := tm1.bars })
    (hu : countArrivals (s1.onLanes c.gk c.path.lanes (fun _ => arrivesAt k.toNat)) c.tk = u) :
    Rules.StandsAt c (Rules.runOn c c.path.lanes) (Rules.parkOn c c.path.lanes) u (goOn c .none u)
      ∧ u.threads = (s1.onLanes c.gk c.path.lanes (fun _ => arrivesAt k.toNat)).threads
      ∧ u = { s1 with threads := u.threads, teams := u.teams, wides := u.wides, nodes := u.nodes, fibres := u.fibres, nextId := u.nextId }
      ∧ ∃ tm, u.teams.find c.tk = some tm ∧ tm = { c.team with bars := tm.bars } ∧ (tm.bar k.toNat).pend = (tm1.bar k.toNat).pend
        ∧ (AllArrive s c k.toNat → (∃ l < 64, (s.thread c.gk l).live = true) → c.group.team = c.tk → c.group.gid < 16 →
            (tm.bar k.toNat).here.getLsbD c.group.gid = true) := by
  obtain ⟨-, hg, hr, -⟩ := gctx_some hc
  obtain ⟨honly, hteam⟩ := hu ▸ counted_countArrivals c.tk (s1.onLanes c.gk c.path.lanes (fun _ => arrivesAt k.toNat)) c.tk
  have hg1 : (s1.onLanes c.gk c.path.lanes (fun _ => arrivesAt k.toNat)).groups.find c.gk = some c.group := by
    rw [h1]; exact hg
  obtain ⟨tm, hm, he, ha⟩ := hteam tm1 ht
  refine ⟨(Rules.Places.refl (honly.groups ▸ hg1) hr).go_on rfl hl, honly.threads, honly.of_onLanes, tm, hm, he.trans (by rw [htm]), (ha k.toNat).1,
    fun hall hone htk hgid => ?_⟩
  have hgh : groupHere (s1.onLanes c.gk c.path.lanes (fun _ => arrivesAt k.toNat)) tm1.uid c.group.gid c.gk k.toNat = true := by
    rw [show tm1.uid = c.team.uid by rw [htm], h1]
    exact groupHere_arrives hall hone
  obtain ⟨tm', hm', hb⟩ := hereAt_countArrivals (s := s1.onLanes c.gk c.path.lanes (fun _ => arrivesAt k.toNat)) ht hg1 htk hgid k.isLt hgh
  rw [hu] at hm'
  rw [Option.some.inj (hm.symm.trans hm')]
  exact hb

/-- Who is not held: neither the group nor a thread of the set has arrived in this phase. -/
theorem arrivedHold_false {k : BitVec 4} {s : State} {c : GCtx} (hh : (c.team.bar k.toNat).here.getLsbD c.group.gid = false)
    (ha : ∀ l ∈ c.path.lanes, (s.thread c.gk l).arr.find k.toNat = none) : arrivedHold k s c = false := by
  unfold arrivedHold
  rw [hh, Bool.false_or, List.any_eq_false]
  exact fun l hl => by simp [SMap.get, ha l hl]

theorem bara_runs {k : BitVec 4} {n : Net} {s s' : State} {c : GCtx} (h : PathReady (.bara k n) s c s') (hn : (c.team.bars.get k.toNat Barrier.initial).net = n)
    (hh : (c.team.bars.get k.toNat Barrier.initial).here.getLsbD c.group.gid = false) (ha : ∀ l ∈ c.path.lanes, (s.thread c.gk l).arr.find k.toNat = none) :
    exec (.bara k n) s = .next (goOn c .none (countArrivals (s'.onLanes c.gk c.path.lanes (fun _ => arrivesAt k.toNat)) c.tk)) :=
  groupOp_runs h.ctx h.lanes h.cls h.full h.free (fun l _ => netCheck_ok hn s l) (arrivedHold_false hh ha) h.paid

/-- The state in which BARAB has counted in the bytes that the set expects. -/
def expects (k : Nat) (c : GCtx) (b : BitVec 6) (s : State) : State :=
  s.modTeam c.tk (fun t => t.modBar k (fun bar => bar.count (BitVec.ofNat 48 (c.path.lanes.map (fun l => ((s.thread c.gk l).rd b).toNat)).sum)))

theorem barab_runs {k : BitVec 4} {b : BitVec 6} {y : Bool} {s s' : State} {c : GCtx} (h : PathReady (.barab k .core b y) s c s')
    (hn : (c.team.bars.get k.toNat Barrier.initial).net = .core)
    (hh : (c.team.bars.get k.toNat Barrier.initial).here.getLsbD c.group.gid = false) (ha : ∀ l ∈ c.path.lanes, (s.thread c.gk l).arr.find k.toNat = none) :
    exec (.barab k .core b y) s = .next (goOn c .none (countArrivals ((expects k.toNat c b s').onLanes c.gk c.path.lanes (fun _ => arrivesAt k.toNat)) c.tk)) :=
  groupOp_runs (chk := fun s c l => if Net.core = .core then netCheck k .core s c l else .of .illegalOp) h.ctx h.lanes h.cls h.full h.free
    (fun l _ => (if_pos rfl).trans (netCheck_ok hn s l)) (arrivedHold_false hh ha) h.paid

/-- What an arrival leaves, for a set whose members expect `bytes` (R134). -/
def ArrivedSet (c : GCtx) (k : Nat) (bytes : Nat) (s s' u : State) : Prop :=
  u.threads = (s'.onLanes c.gk c.path.lanes (fun _ => arrivesAt k)).threads
  ∧ u = { s' with threads := u.threads, teams := u.teams, wides := u.wides, nodes := u.nodes, fibres := u.fibres, nextId := u.nextId }
  ∧ ∃ tm, u.teams.find c.tk = some tm ∧ tm = { c.team with bars := tm.bars } ∧ (tm.bar k).pend = (c.team.bar k).pend + BitVec.ofNat 48 bytes
    ∧ (AllArrive s c k → (∃ l < 64, (s.thread c.gk l).live = true) → c.group.team = c.tk → c.group.gid < 16 → (tm.bar k).here.getLsbD c.group.gid = true)

/-- A change of a team after a charge: the charge's parts and the teams. -/
theorem charged_modTeam {s s' : State} (hs : s' = { s with leases := s'.leases, hist := s'.hist }) (tk : Nat) (f : Team → Team) :
    s'.modTeam tk f = { s with leases := s'.leases, hist := s'.hist, teams := (s'.modTeam tk f).teams } :=
  congrArg (fun u : State => { u with teams := s'.teams.mod tk f }) hs

section
variable {k : BitVec 4} {s s' : State} {c : GCtx}

theorem bara_arrives {n : Net} (h : PathReady (.bara k n) s c s') (hn : (c.team.bars.get k.toNat Barrier.initial).net = n)
    (hh : (c.team.bars.get k.toNat Barrier.initial).here.getLsbD c.group.gid = false) (ha : ∀ l ∈ c.path.lanes, (s.thread c.gk l).arr.find k.toNat = none) :
    ∃ t u, exec (.bara k n) s = .next t ∧ Rules.StandsAt c (Rules.runOn c c.path.lanes) (Rules.parkOn c c.path.lanes) u t ∧ ArrivedSet c k.toNat 0 s s' u := by
  obtain ⟨-, -, -, -, ht, -⟩ := gctx_some h.ctx
  have hs := charge_of_eq h.paid
  have hteams : s'.teams = s.teams := by rw [hs]
  obtain ⟨hst, hth, hu, tm, hm, he, hp, hhere⟩ := arriveSet_spec h.ctx h.lanes (s1 := s') (hs.trans (by rw [hteams])) (by rw [hteams]; exact ht) rfl rfl
  exact ⟨_, _, bara_runs h hn hh ha, hst, hth, hu, tm, hm, he, hp.trans (BitVec.add_zero _).symm, hhere⟩

theorem barab_arrives {b : BitVec 6} {y : Bool} (h : PathReady (.barab k .core b y) s c s') (hn : (c.team.bars.get k.toNat Barrier.initial).net = .core)
    (hh : (c.team.bars.get k.toNat Barrier.initial).here.getLsbD c.group.gid = false) (ha : ∀ l ∈ c.path.lanes, (s.thread c.gk l).arr.find k.toNat = none) :
    ∃ t u, exec (.barab k .core b y) s = .next t ∧ Rules.StandsAt c (Rules.runOn c c.path.lanes) (Rules.parkOn c c.path.lanes) u t
      ∧ ArrivedSet c k.toNat (c.path.lanes.map (fun l => ((s.thread c.gk l).rd b).toNat)).sum s s' u := by
  obtain ⟨-, -, -, -, ht, -⟩ := gctx_some h.ctx
  have hs := charge_of_eq h.paid
  have h1 : expects k.toNat c b s' = { s with leases := s'.leases, hist := s'.hist, teams := (expects k.toNat c b s').teams } := by
    exact charged_modTeam hs c.tk _
  have hfind : (expects k.toNat c b s').teams.find c.tk
      = some (c.team.modBar k.toNat (fun bar => bar.count (BitVec.ofNat 48 (c.path.lanes.map (fun l => ((s.thread c.gk l).rd b).toNat)).sum))) := by
    show (s'.teams.mod c.tk _).find c.tk = _
    rw [SMap.find_mod, if_pos rfl, show s'.teams = s.teams by rw [hs], ht]
    simp only [thread_charge h.paid, Option.map_some]
  obtain ⟨hst, hth, hu, tm, hm, he, hp, hhere⟩ := arriveSet_spec h.ctx h.lanes h1 hfind rfl rfl
  refine ⟨_, _, barab_runs h hn hh ha, hst, hth, hu, tm, hm, he, hp.trans ?_, hhere⟩
  rw [bar_modBar, if_pos rfl, pend_count]
end

/-- The first clause of O23: BARA expects no byte, BARAB what its members hold. -/
theorem arrivals_clause : ∀ i k n (bytes : Thread → Nat),
    ((i = .bara k n ∧ ∀ th, bytes th = 0) ∨ (∃ b y, i = .barab k n b y ∧ n = .core ∧ ∀ th, bytes th = (th.rd b).toNat)) →
    i.cost = 1 ∧ ∀ s c s', PathReady i s c s' → (c.team.bars.get k.toNat Barrier.initial).net = n →
      (c.team.bars.get k.toNat Barrier.initial).here.getLsbD c.group.gid = false → (∀ l ∈ c.path.lanes, (s.thread c.gk l).arr.find k.toNat = none) →
      ∃ t u, exec i s = .next t ∧ Rules.StandsAt c (Rules.runOn c c.path.lanes) (Rules.parkOn c c.path.lanes) u t
        ∧ ArrivedSet c k.toNat (c.path.lanes.map (fun l => bytes (s.thread c.gk l))).sum s s' u := by
  rintro i k n bytes (⟨rfl, hb⟩ | ⟨b, y, rfl, rfl, hb⟩)
  · refine ⟨rfl, fun s c s' h hn hh ha => ?_⟩
    rw [show (c.path.lanes.map (fun l => bytes (s.thread c.gk l))).sum = 0 by simp [hb]]
    exact bara_arrives h hn hh ha
  · refine ⟨rfl, fun s c s' h hn hh ha => ?_⟩
    simp only [hb]
    exact barab_arrives h hn hh ha

/-! ## BARS (R133, R138) -/

/-- A set in ascending order begins with its lowest lane. -/
theorem sortLanes_lowest {lanes : List Nat} {l0 : Nat} (hm : l0 ∈ lanes) (h64 : l0 < 64) (hmin : ∀ l ∈ lanes, l0 ≤ l) : ∃ rest, sortLanes lanes = l0 :: rest := by
  have hhead : (sortLanes lanes).head? = some l0 := by
    unfold sortLanes
    rw [List.head?_filter, List.find?_range_eq_some]
    exact ⟨by simpa using hm, by simpa [Config.lanes] using h64, fun j hj => by simpa using fun h => absurd (hmin j h) (by omega)⟩
  exact ⟨_, List.eq_cons_of_mem_head? hhead⟩

/-- The value of BARS is that of the lowest lane. -/
theorem barsValue_lowest {i : Instr} {s : State} {c : GCtx} {b : BitVec 6} {l0 : Nat} (hfull : ∀ l ∈ c.path.lanes, operandTrap i (s.thread c.gk l) = none)
    (hm : l0 ∈ c.path.lanes) (h64 : l0 < 64) (hmin : ∀ l ∈ c.path.lanes, l0 ≤ l) : barsValue i s c b = (s.thread c.gk l0).rd b := by
  obtain ⟨rest, hr⟩ := sortLanes_lowest hm h64 hmin
  unfold barsValue
  rw [List.filter_eq_self.mpr fun l hl => by rw [hfull l hl]; rfl, hr]

/-- The identifier of a pod barrier in the value of BARS; 0 for another network. -/
def podOf (n : Net) (v : Word) : BitVec 16 := if n = .pod then BitVec.ofNat 16 (v.toNat / 2 ^ 16) else 0#16

theorem extract_high (v : Word) : v.extractLsb' 16 16 = BitVec.ofNat 16 (v.toNat / 2 ^ 16) := by
  rw [BitVec.extractLsb', Nat.shiftRight_eq_div_pow]
theorem extract_low (v : Word) : (v.extractLsb' 0 16).toNat = v.toNat % 2 ^ 16 := by
  rw [BitVec.extractLsb'_toNat, Nat.shiftRight_zero]

/-- What BARS does with its value. -/
def bindTo (c : GCtx) (k : Nat) (n : Net) (v : Word) (s : State) : State :=
  if n = .core then bindCore c.tk k (v.toNat % 2 ^ 16) s else bindWide c.team c.tk k n (podOf n v) (v.toNat % 2 ^ 16) s

section
variable {k : BitVec 4} {n : Net} {b : BitVec 6} {y : Bool} {s s' : State} {c : GCtx} {l0 : Nat}

theorem bars_runs (h : PathReady (.bars k n b y) s c s') (hm : l0 ∈ c.path.lanes) (h64 : l0 < 64) (hmin : ∀ l ∈ c.path.lanes, l0 ≤ l)
    (hpod : n ≠ .pod → ((s.thread c.gk l0).rd b).toNat < 2 ^ 16)
    (hnet : (c.team.bar k.toNat).net ≠ n → barArr s c.team k.toNat = 0 ∧ (c.team.bar k.toNat).pend = 0#48) :
    exec (.bars k n b y) s = .next (goOn c .none (bindTo c k.toNat n ((s.thread c.gk l0).rd b) s')) := by
  have hok : ∀ l, barsCheck (.bars k n b y) k n b s c l = .ok := fun l => by
    unfold barsCheck
    rw [barsValue_lowest h.full hm h64 hmin, extract_high]
    dsimp only
    rw [if_neg fun hc => ?_, if_neg fun hc => ?_]
    · obtain ⟨hn, hbad⟩ : (c.team.bar k.toNat).net ≠ n ∧ (barArr s c.team k.toNat ≠ 0 ∨ (c.team.bar k.toNat).pend ≠ 0#48) := by simpa [imp_iff_not_or] using hc
      obtain ⟨ha, hp⟩ := hnet hn
      exact hbad.elim (· ha) (· hp)
    · obtain ⟨hn, hbad⟩ : n ≠ .pod ∧ BitVec.ofNat 16 (((s.thread c.gk l0).rd b).toNat / 2 ^ 16) ≠ 0#16 := by simpa using hc
      rw [Nat.div_eq_of_lt (hpod hn)] at hbad
      exact hbad rfl
  have hval : barsValue (.bars k n b y) s' c b = (s.thread c.gk l0).rd b := by
    rw [barsValue_lowest (fun l hl => by rw [thread_charge h.paid]; exact h.full l hl) hm h64 hmin, thread_charge h.paid]
  refine (groupOp_runs h.ctx h.lanes h.cls h.full h.free (fun l _ => hok l) rfl h.paid).trans ?_
  rw [hval]
  unfold bindTo podOf
  rw [← extract_low, ← extract_high]
  cases n <;> rfl

theorem modTeam_oneBar {s : State} {c : GCtx} (ht : s.teams.find c.tk = some c.team) (k : Nat) (f : Barrier → Barrier) :
    ∃ tm, (s.modTeam c.tk (fun t => t.modBar k f)).teams.find c.tk = some tm ∧ (∀ j, j ≠ k → tm.bar j = c.team.bar j) ∧ tm.bar k = f (c.team.bar k) := by
  refine ⟨c.team.modBar k f, ?_, fun j hj => by rw [bar_modBar, if_neg hj], by rw [bar_modBar, if_pos rfl]⟩
  show (s.teams.mod c.tk _).find c.tk = _
  rw [SMap.find_mod, if_pos rfl, ht, Option.map_some]

/-- The wider barrier that BARS leaves at its key (R138). -/
def boundWide (task : Nat) (n : Net) (count : Nat) : Option WideBar → WideBar
  | some w => if w.n = count then w else { w with n := count, members := [] }
  | none => WideBar.mk task n count [] 0 false false [] []

theorem boundWide_n (task : Nat) (n : Net) (count : Nat) (old : Option WideBar) : (boundWide task n count old).n = count := by
  cases old with
  | none => rfl
  | some w =>
    unfold boundWide
    dsimp only
    split
    · next h => exact h
    · rfl

theorem bindWide_wides (t : Team) (tk k : Nat) (n : Net) (pod : BitVec 16) (count : Nat) (s : State) :
    (bindWide t tk k n pod count s).wides = s.wides.put (wideKey t n pod k) (boundWide t.task n count (s.wides.find (wideKey t n pod k))) := by
  refine congrArg (SMap.put s.wides (wideKey t n pod k)) ?_
  cases s.wides.find (wideKey t n pod k) <;> rfl

theorem bindWide_frame (t : Team) (tk k : Nat) (n : Net) (pod : BitVec 16) (count : Nat) (s : State) :
    bindWide t tk k n pod count s = { s with teams := (bindWide t tk k n pod count s).teams, wides := (bindWide t tk k n pod count s).wides } := rfl

theorem bindWide_team {s : State} (ht : s.teams.find c.tk = some c.team) (k : Nat) (n : Net) (pod : BitVec 16) (count : Nat) :
    ∃ tm, (bindWide c.team c.tk k n pod count s).teams.find c.tk = some tm ∧ (∀ j, j ≠ k → tm.bar j = c.team.bar j) ∧ (tm.bar k).net = n ∧ (tm.bar k).pod = pod := by
  unfold bindWide
  obtain ⟨tm, hm, hj, hk⟩ := modTeam_oneBar (s := { s with wides := _ }) ht k _
  refine ⟨tm, hm, hj, ?_⟩
  rw [hk]
  split
  · next h => simpa using h
  · exact ⟨rfl, rfl⟩

/-- What BARS leaves at its barrier and the wider one (R133, R138), in a state `u` after the charge `s'`. -/
def Bound (c : GCtx) (k : Nat) (n : Net) (v : Word) (s s' u : State) (tm : Team) : Prop :=
  u = { s' with teams := u.teams, wides := u.wides } ∧ u.teams.find c.tk = some tm
  ∧ (∀ j, j ≠ k → tm.bar j = c.team.bar j)
  ∧ (n = .core → u.wides = s'.wides ∧ tm.bar k =
      if (c.team.bar k).net = .core ∧ (c.team.bar k).n = v.toNat % 2 ^ 16 then c.team.bar k
      else { c.team.bar k with net := .core, n := v.toNat % 2 ^ 16, members := 0#16, pod := 0#16 })
  ∧ (n ≠ .core → (tm.bar k).net = n ∧ (tm.bar k).pod = podOf n v
      ∧ (∃ w, u.wides.find (wideKey c.team n (podOf n v) k) = some w ∧ w.n = v.toNat % 2 ^ 16
          ∧ (s.wides.find (wideKey c.team n (podOf n v) k) = none → w = WideBar.mk c.team.task n (v.toNat % 2 ^ 16) [] 0 false false [] [])
          ∧ ∀ old, s.wides.find (wideKey c.team n (podOf n v) k) = some old →
              w = if old.n = v.toNat % 2 ^ 16 then old else { old with n := v.toNat % 2 ^ 16, members := [] })
      ∧ ∀ j, j ≠ wideKey c.team n (podOf n v) k → u.wides.find j = s.wides.find j)

theorem bindTo_binds (ht : s'.teams.find c.tk = some c.team) (hw : s'.wides = s.wides) (k : Nat) (n : Net) (v : Word) : ∃ tm, Bound c k n v s s' (bindTo c k n v s') tm := by
  unfold bindTo
  by_cases hn : n = .core
  · rw [if_pos hn]
    obtain ⟨tm, hm, hj, hk⟩ := modTeam_oneBar ht k _
    exact ⟨tm, rfl, hm, hj, fun _ => ⟨rfl, by rw [hk]; simp only [Bool.and_eq_true, decide_eq_true_eq]⟩, fun h => absurd hn h⟩
  · rw [if_neg hn]
    obtain ⟨tm, hm, hj, hnet, hpod⟩ := bindWide_team ht k n (podOf n v) (v.toNat % 2 ^ 16)
    refine ⟨tm, rfl, hm, hj, fun h => absurd h hn, fun _ => ⟨hnet, hpod, ⟨boundWide c.team.task n (v.toNat % 2 ^ 16) (s.wides.find (wideKey c.team n (podOf n v) k)), ?_,
      boundWide_n _ _ _ _, fun h => by rw [h]; rfl, fun old h => by rw [h]; rfl⟩, fun j hne => ?_⟩⟩
    · rw [bindWide_wides, hw, SMap.find_put, if_pos rfl]
    · rw [bindWide_wides, hw, SMap.find_put, if_neg hne]

theorem bars_binds (h : PathReady (.bars k n b y) s c s') (hm : l0 ∈ c.path.lanes) (h64 : l0 < 64) (hmin : ∀ l ∈ c.path.lanes, l0 ≤ l)
    (hpod : n ≠ .pod → ((s.thread c.gk l0).rd b).toNat < 2 ^ 16)
    (hnet : (c.team.bar k.toNat).net ≠ n → barArr s c.team k.toNat = 0 ∧ (c.team.bar k.toNat).pend = 0#48) :
    ∃ t u tm, exec (.bars k n b y) s = .next t ∧ Rules.StandsAt c (Rules.runOn c c.path.lanes) (Rules.parkOn c c.path.lanes) u t
      ∧ Bound c k.toNat n ((s.thread c.gk l0).rd b) s s' u tm := by
  obtain ⟨-, -, -, -, ht, -⟩ := gctx_some h.ctx
  obtain ⟨hg, hr⟩ := group_charged h
  have hs := charge_of_eq h.paid
  obtain ⟨tm, hb⟩ := bindTo_binds (s := s) (s' := s') (c := c) (by rw [hs]; exact ht) (by rw [hs]) k.toNat n ((s.thread c.gk l0).rd b)
  have hgroups : (bindTo c k.toNat n ((s.thread c.gk l0).rd b) s').groups = s'.groups := by rw [hb.1]
  exact ⟨_, _, tm, bars_runs h hm h64 hmin hpod hnet, (Rules.Places.refl (hgroups ▸ hg) hr).go_on rfl h.lanes, hb⟩
end

/-! ## The end of a clk (R135, R151) -/

/-- What the turn of the clk does after the barriers changes none of them. -/
theorem endClk_barriers (s : State) :
    (endClk s).teams = (completePhases (releaseWaits s)).teams ∧ (endClk s).wides = (completePhases (releaseWaits s)).wides
      ∧ (endClk s).threads = (completePhases (releaseWaits s)).threads ∧ (endClk s).fresh.phases = [] := by
  obtain ⟨ops, ns, h⟩ := flushEach_frame ((completePhases (releaseWaits s)).opqs.map Prod.fst) (completePhases (releaseWaits s))
  rw [List.foldl_map] at h
  unfold endClk
  dsimp only
  rw [h]
  exact ⟨rfl, rfl, rfl, rfl⟩

/-! ### Arrivals are forgotten -/

/-- From `s` to `t` threads have only forgotten arrivals. -/
def Forgot (s t : State) : Prop :=
  t = { s with threads := t.threads }
  ∧ ∀ key th', t.threads.find key = some th' → ∃ th, s.threads.find key = some th ∧ ∀ j, th.arr.find j = none → th'.arr.find j = none

theorem Forgot.refl (s : State) : Forgot s s := ⟨rfl, fun _ th h => ⟨th, h, fun _ hj => hj⟩⟩
theorem Forgot.trans {s t u : State} (h : Forgot s t) (h' : Forgot t u) : Forgot s u := by
  refine ⟨by rw [h'.1, h.1], fun key th2 h2 => ?_⟩
  obtain ⟨th1, h1, ha1⟩ := h'.2 key th2 h2
  obtain ⟨th, h0, ha⟩ := h.2 key th1 h1
  exact ⟨th, h0, fun j hj => ha1 j (ha j hj)⟩
theorem Forgot.none_kept {s t : State} (h : Forgot s t) {key j : Nat} (hs : ∀ th, s.threads.find key = some th → th.arr.find j = none) :
    ∀ th, t.threads.find key = some th → th.arr.find j = none := fun th' h' => by
  obtain ⟨th, h0, ha⟩ := h.2 key th' h'
  exact ha j (hs th h0)

/-- The threads of one group forget their arrivals at barrier `k`. -/
def forgetGroup (k gk : Nat) (s : State) : State := s.onLanes gk (List.range Config.lanes) (fun _ th => { th with arr := th.arr.del k })

theorem find_forgetGroup (k gk : Nat) (s : State) (key : Nat) :
    (forgetGroup k gk s).threads.find key = if key / 64 = gk then (s.threads.find key).map (fun th => { th with arr := th.arr.del k }) else s.threads.find key := by
  unfold forgetGroup
  rw [find_onLanes]
  have h : key % 64 ∈ List.range Config.lanes := List.mem_range.mpr (Nat.mod_lt _ (by decide))
  simp only [h, and_true]

theorem forgot_forgetGroup (k gk : Nat) (s : State) : Forgot s (forgetGroup k gk s) := by
  refine ⟨rfl, fun key th' h' => ?_⟩
  rw [find_forgetGroup] at h'
  split at h'
  · obtain ⟨th, h0, rfl⟩ := Option.map_eq_some_iff.mp h'
    exact ⟨th, h0, fun j hj => by rw [SMap.find_del, hj, ite_self]⟩
  · exact ⟨th', h', fun _ hj => hj⟩

theorem forgot_foldl (k : Nat) (l : List (Nat × Group)) (s : State) : Forgot s (l.foldl (fun s e => forgetGroup k e.1 s) s) := by
  induction l generalizing s with
  | nil => exact .refl s
  | cons e l ih => exact (forgot_forgetGroup k e.1 s).trans (ih _)

/-- No thread of a group in the list holds an arrival at barrier `k` afterwards. -/
theorem none_foldl_forget {k : Nat} {l : List (Nat × Group)} {e : Nat × Group} (he : e ∈ l) (s : State) {key : Nat} (hk : key / 64 = e.1) :
    ∀ th, (l.foldl (fun s e => forgetGroup k e.1 s) s).threads.find key = some th → th.arr.find k = none := by
  induction l generalizing s with
  | nil => cases he
  | cons f l ih =>
    rcases List.mem_cons.mp he with rfl | he
    · refine (forgot_foldl k l _).none_kept fun th h => ?_
      rw [find_forgetGroup, if_pos hk] at h
      obtain ⟨th0, -, rfl⟩ := Option.map_eq_some_iff.mp h
      rw [SMap.find_del, if_pos rfl]
    · exact ih he _

theorem forgot_forgetArrivals (s : State) (tk k : Nat) : Forgot s (forgetArrivals s tk k) := forgot_foldl k _ s

theorem none_forgetArrivals (s : State) (tk k : Nat) {e : Nat × Group} (he : e ∈ s.groups) (htk : e.2.team = tk) {key : Nat} (hk : key / 64 = e.1) :
    ∀ th, (forgetArrivals s tk k).threads.find key = some th → th.arr.find k = none :=
  none_foldl_forget (List.mem_filter.mpr ⟨he, by simpa using htk⟩) s hk

/-! ### One barrier -/

/-- The phase of a barrier at CORE is due to complete. -/
def Barrier.due (b : Barrier) : Prop := b.net = .core ∧ b.n ≤ b.arr ∧ b.pend = 0#48 ∧ b.touched = true
/-- A barrier at CORE at the begin of its next phase. -/
def Barrier.renewed (b : Barrier) : Barrier := { b with arr := 0, here := 0#16, touched := false, phase := !b.phase }
/-- The lead's held arrival is made. -/
def leadArrives (k : Nat) (t : Team) : Team := { t.modBar k (fun b => b.arrive leadBit) with lead := { t.lead with wait := .none } }

theorem due_iff (b : Barrier) : (b.net = .core && b.complete) = true ↔ b.due := by
  unfold Barrier.complete Barrier.due
  simp [and_assoc]

/-- The team after its barrier `k`, which was due, has begun anew. -/
def renewBar (k : Nat) (t : Team) : Team := if t.lead.wait = .arv k then leadArrives k (t.modBar k Barrier.renewed) else t.modBar k Barrier.renewed

theorem completeBar_due {s : State} {tk k : Nat} {tm : Team} (ht : s.teams.find tk = some tm) (hd : (tm.bar k).due) :
    completeBar s tk k = (if tm.lead.wait = .arv k then (forgetArrivals (s.modTeam tk (fun t => t.modBar k Barrier.renewed)) tk k).modTeam tk (leadArrives k)
      else forgetArrivals (s.modTeam tk (fun t => t.modBar k Barrier.renewed)) tk k) := by
  unfold completeBar
  rw [ht]
  exact if_pos ((due_iff _).mpr hd)

theorem completeBar_not_due {s : State} {tk k : Nat} (hd : ∀ tm, s.teams.find tk = some tm → ¬(tm.bar k).due) : completeBar s tk k = s := by
  unfold completeBar
  split
  · rfl
  · next tm ht => exact if_neg (mt (due_iff _).mp (hd tm ht))

/-- A due barrier begins anew: its team, and the other teams and the threads. -/
theorem completeBar_due_spec {s : State} {tk k : Nat} {tm : Team} (ht : s.teams.find tk = some tm) (hd : (tm.bar k).due) :
    completeBar s tk k = { s with teams := (completeBar s tk k).teams, threads := (completeBar s tk k).threads }
      ∧ (∀ j, (completeBar s tk k).teams.find j = if j = tk then some (renewBar k tm) else s.teams.find j)
      ∧ (completeBar s tk k).threads = (forgetArrivals (s.modTeam tk (fun t => t.modBar k Barrier.renewed)) tk k).threads := by
  obtain ⟨hf, -⟩ := forgot_forgetArrivals (s.modTeam tk (fun t => t.modBar k Barrier.renewed)) tk k
  have hteams : ∀ j, (forgetArrivals (s.modTeam tk (fun t => t.modBar k Barrier.renewed)) tk k).teams.find j
      = if j = tk then some (tm.modBar k Barrier.renewed) else s.teams.find j := fun j => by
    rw [hf]
    show (s.teams.mod tk _).find j = _
    rw [SMap.find_mod, ht, Option.map_some]
  rw [completeBar_due ht hd]
  unfold renewBar
  split
  · refine ⟨?_, fun j => ?_, rfl⟩
    · rw [hf]; rfl
    · show ((forgetArrivals _ tk k).teams.mod tk _).find j = _
      rw [SMap.find_mod, hteams tk, if_pos rfl, hteams j, Option.map_some]
      split <;> rfl
  · exact ⟨by rw [hf]; rfl, hteams, rfl⟩

theorem find_modBar_other (t : Team) (k : Nat) (f : Barrier → Barrier) {j : Nat} (hj : j ≠ k) : (t.modBar k f).bars.find j = t.bars.find j := by
  show (SMap.set t.bars k _ _).find j = _
  unfold SMap.set
  split
  · rw [SMap.find_del, if_neg hj]
  · rw [SMap.find_put, if_neg hj]

/-- From the team `a` to `b` nothing has changed but barriers and what the lead waits for. -/
def BarsOnly (a b : Team) : Prop := b = { a with bars := b.bars, lead := { a.lead with wait := b.lead.wait } }
theorem BarsOnly.trans {a b c : Team} (h : BarsOnly a b) (h' : BarsOnly b c) : BarsOnly a c := by
  unfold BarsOnly at h'
  rw [h', h]
  rfl

theorem renewBar_only (k : Nat) (t : Team) : BarsOnly t (renewBar k t) := by
  unfold renewBar; split <;> rfl
theorem renewBar_wait (k : Nat) (t : Team) : (renewBar k t).lead.wait = if t.lead.wait = .arv k then .none else t.lead.wait := by
  unfold renewBar; split <;> rfl
theorem renewBar_other (k : Nat) (t : Team) {j : Nat} (hj : j ≠ k) : (renewBar k t).bars.find j = t.bars.find j := by
  unfold renewBar
  split
  · exact (find_modBar_other _ k (fun b => b.arrive leadBit) hj).trans (find_modBar_other t k _ hj)
  · exact find_modBar_other t k _ hj
theorem renewBar_free {k : Nat} {t : Team} (h : t.lead.wait ≠ .arv k) : (renewBar k t).bar k = (t.bar k).renewed := by
  unfold renewBar
  rw [if_neg h, bar_modBar, if_pos rfl]
theorem arrive_renewed (b : Barrier) :
    b.renewed.arrive leadBit = { b with arr := 1, here := 0x100#16, members := b.members ||| 0x100#16, touched := true, phase := !b.phase } := by
  simp [Barrier.arrive, Barrier.renewed, setBit, leadBit]
theorem renewBar_held {k : Nat} {t : Team} (h : t.lead.wait = .arv k) :
    (renewBar k t).bar k = { (t.bar k) with arr := 1, here := 0x100#16, members := (t.bar k).members ||| 0x100#16, touched := true, phase := !(t.bar k).phase } := by
  unfold renewBar
  rw [if_pos h]
  show ((t.modBar k Barrier.renewed).modBar k (fun b => b.arrive leadBit)).bar k = _
  rw [bar_modBar, if_pos rfl, bar_modBar, if_pos rfl, arrive_renewed]

/-! ### All barriers -/

/-- From `s` to `t` barriers have begun anew, but not barrier `k` of the team `tk`. -/
structure Keeps (tk k : Nat) (s t : State) : Prop where
  frame : t = { s with teams := t.teams, threads := t.threads }
  threads : ∀ key j, (∀ th, s.threads.find key = some th → th.arr.find j = none) → ∀ th, t.threads.find key = some th → th.arr.find j = none
  team : ∀ tm, s.teams.find tk = some tm → ∃ tm', t.teams.find tk = some tm' ∧ BarsOnly tm tm' ∧ tm'.bars.find k = tm.bars.find k
    ∧ (tm'.lead.wait = tm.lead.wait ∨ tm.lead.wait ≠ .arv k ∧ tm'.lead.wait = .none)

theorem Keeps.refl (tk k : Nat) (s : State) : Keeps tk k s s := ⟨rfl, fun _ _ h => h, fun tm h => ⟨tm, h, rfl, rfl, .inl rfl⟩⟩
theorem Keeps.trans {tk k : Nat} {s t u : State} (h : Keeps tk k s t) (h' : Keeps tk k t u) : Keeps tk k s u := by
  refine ⟨by rw [h'.frame, h.frame], fun key j hj => h'.threads key j (h.threads key j hj), fun tm hm => ?_⟩
  obtain ⟨tm1, h1, ho1, hb1, hw1⟩ := h.team tm hm
  obtain ⟨tm2, h2, ho2, hb2, hw2⟩ := h'.team tm1 h1
  refine ⟨tm2, h2, ho1.trans ho2, hb2.trans hb1, ?_⟩
  rcases hw1 with hw1 | ⟨hne, hw1⟩
  · rw [← hw1]; exact hw2
  · exact .inr ⟨hne, hw2.elim (·.trans hw1) And.right⟩
theorem bar_of_find {tm tm' : Team} {k : Nat} (h : tm'.bars.find k = tm.bars.find k) : tm'.bar k = tm.bar k :=
  congrArg (·.getD Barrier.initial) h

theorem forgot_completeBar (s : State) (tk k : Nat) : completeBar s tk k = { s with teams := (completeBar s tk k).teams, threads := (completeBar s tk k).threads }
    ∧ ∀ key j, (∀ th, s.threads.find key = some th → th.arr.find j = none) → ∀ th, (completeBar s tk k).threads.find key = some th → th.arr.find j = none := by
  by_cases hd : ∃ tm, s.teams.find tk = some tm ∧ (tm.bar k).due
  · obtain ⟨tm, ht, hd⟩ := hd
    obtain ⟨hf, -, hth⟩ := completeBar_due_spec ht hd
    refine ⟨hf, fun key j hj => ?_⟩
    rw [hth]
    exact (forgot_forgetArrivals (s.modTeam tk (fun t => t.modBar k Barrier.renewed)) tk k).none_kept hj
  · rw [completeBar_not_due fun tm ht h => hd ⟨tm, ht, h⟩]
    exact ⟨rfl, fun _ _ h => h⟩

/-- Another barrier that completes keeps this one; so does this one while it is not due. -/
theorem keeps_completeBar {tk k : Nat} {s : State} {p : Nat × Nat} (h : p = (tk, k) → ∀ tm, s.teams.find tk = some tm → ¬(tm.bar k).due) :
    Keeps tk k s (completeBar s p.1 p.2) := by
  obtain ⟨i, j⟩ := p
  by_cases hd : ∃ tm, s.teams.find i = some tm ∧ (tm.bar j).due
  · obtain ⟨hf, hth⟩ := forgot_completeBar s i j
    refine ⟨hf, hth, fun tm hm => ?_⟩
    obtain ⟨tm0, ht0, hd0⟩ := hd
    obtain ⟨-, hteams, -⟩ := completeBar_due_spec ht0 hd0
    by_cases hi : tk = i
    · subst hi
      obtain rfl : tm0 = tm := Option.some.inj (ht0.symm.trans hm)
      have hk : k ≠ j := by
        rintro rfl
        exact h rfl _ ht0 hd0
      refine ⟨renewBar j tm0, (hteams tk).trans (if_pos rfl), renewBar_only j tm0, renewBar_other j tm0 hk, ?_⟩
      rw [renewBar_wait]
      by_cases hw : tm0.lead.wait = .arv j
      · exact .inr ⟨by rw [hw]; simpa using hk.symm, if_pos hw⟩
      · exact .inl (if_neg hw)
    · exact ⟨tm, ((hteams tk).trans (if_neg hi)).trans hm, rfl, rfl, .inl rfl⟩
  · rw [completeBar_not_due fun tm ht h => hd ⟨tm, ht, h⟩]
    exact .refl tk k s

/-- The barriers of a list complete. -/
def completeBars (l : List (Nat × Nat)) (s : State) : State := l.foldl (fun s p => completeBar s p.1 p.2) s

theorem keeps_completeBars {tk k : Nat} {l : List (Nat × Nat)} {s : State} {tm : Team} (hs : s.teams.find tk = some tm) (h : (tk, k) ∈ l → ¬(tm.bar k).due) :
    Keeps tk k s (completeBars l s) := by
  induction l generalizing s tm with
  | nil => exact .refl tk k s
  | cons p l ih =>
    have h1 : Keeps tk k s (completeBar s p.1 p.2) := keeps_completeBar fun hp tm' hm' => by
      rw [Option.some.inj (hm'.symm.trans hs)]
      exact h (hp ▸ List.mem_cons_self)
    obtain ⟨tm1, hm1, -, hb, -⟩ := h1.team tm hs
    exact h1.trans (ih hm1 fun hmem => by rw [bar_of_find hb]; exact h (List.mem_cons_of_mem p hmem))

/-- Barrier `k` of the team `tm`, of the key `tk`, has begun anew in `t`. -/
def Renewed (tk k : Nat) (tm : Team) (s t : State) (new : Team) : Prop :=
  t.teams.find tk = some new ∧ BarsOnly tm new
  ∧ (tm.lead.wait ≠ .arv k → new.bar k = (tm.bar k).renewed)
  ∧ (tm.lead.wait = .arv k → new.lead.wait = .none ∧ new.bar k =
      { (tm.bar k) with arr := 1, here := 0x100#16, members := (tm.bar k).members ||| 0x100#16, touched := true, phase := !(tm.bar k).phase })
  ∧ ∀ e ∈ s.groups, e.2.team = tk → ∀ key th, key / 64 = e.1 → t.threads.find key = some th → th.arr.find k = none

theorem completeBar_renews {s : State} {tk k : Nat} {tm : Team} (ht : s.teams.find tk = some tm) (hd : (tm.bar k).due) :
    Renewed tk k tm s (completeBar s tk k) (renewBar k tm) := by
  obtain ⟨-, hteams, hth⟩ := completeBar_due_spec ht hd
  refine ⟨(hteams tk).trans (if_pos rfl), renewBar_only k tm, renewBar_free,
    fun h => ⟨(renewBar_wait k tm).trans (if_pos h), renewBar_held h⟩, fun e he htk key th hk h => ?_⟩
  rw [hth] at h
  exact none_forgetArrivals (s.modTeam tk (fun t => t.modBar k Barrier.renewed)) tk k he htk hk th h

/-- A due barrier that is listed once has begun anew after the list. -/
theorem completeBars_renews {tk k : Nat} {l : List (Nat × Nat)} {s : State} {tm : Team} (hl : (tk, k) ∈ l) (hn : l.Nodup) (ht : s.teams.find tk = some tm)
    (hd : (tm.bar k).due) : ∃ new, Renewed tk k tm s (completeBars l s) new := by
  obtain ⟨l1, l2, rfl⟩ := List.append_of_mem hl
  obtain ⟨-, hn2, hdis⟩ := List.nodup_append.mp hn
  have h1 : Keeps tk k s (completeBars l1 s) := keeps_completeBars ht fun h => absurd rfl (hdis _ h _ List.mem_cons_self)
  obtain ⟨tm1, ht1, ho1, hb1, hw1⟩ := h1.team tm ht
  have hbar1 := bar_of_find hb1
  obtain ⟨ht2, ho2, hfree, hheld, hforgot⟩ := completeBar_renews ht1 (by rw [hbar1]; exact hd)
  have h3 : Keeps tk k (completeBar (completeBars l1 s) tk k) (completeBars l2 (completeBar (completeBars l1 s) tk k)) :=
    keeps_completeBars ht2 fun h => absurd h (List.nodup_cons.mp hn2).1
  obtain ⟨tm3, ht3, ho3, hb3, hw3⟩ := h3.team _ ht2
  have hsplit : completeBars (l1 ++ (tk, k) :: l2) s = completeBars l2 (completeBar (completeBars l1 s) tk k) := by
    unfold completeBars; rw [List.foldl_append, List.foldl_cons]
  rw [hsplit]
  have hbar3 := bar_of_find hb3
  rw [hbar1] at hfree hheld
  refine ⟨tm3, ht3, (ho1.trans ho2).trans ho3, fun h => hbar3.trans (hfree ?_), fun h => ?_, fun e he htk key th hk h => ?_⟩
  · rcases hw1 with hw1 | ⟨-, hw1⟩ <;> rw [hw1]
    · exact h
    · exact nofun
  · obtain ⟨hw2, hb2⟩ := hheld (hw1.elim (·.trans h) fun hne => absurd h hne.1)
    exact ⟨hw3.elim (·.trans hw2) And.right, hbar3.trans hb2⟩
  · exact h3.threads key k (fun th h => hforgot e (by rw [h1.frame]; exact he) htk key th hk h) th h

/-! ### All wider barriers -/

/-- The teams that are told of the new phase of a wider barrier. -/
def boundUids (s : State) (key : Nat) : List Nat :=
  (s.teams.filter (fun e => e.2.bars.any (fun b => b.2.net ≠ .core && wideKey e.2 b.2.net b.2.pod b.1 == key))).map (fun e => e.2.uid)
    ++ (s.images.filter (fun e => e.2.team.bars.any (fun b => b.2.net ≠ .core && wideKey e.2.team b.2.net b.2.pod b.1 == key))).map (fun e => e.2.team.uid)

/-- The phase of a wider barrier is due to complete. -/
def WideBar.due (key : Nat) (w : WideBar) : Prop := w.net ≠ .core ∧ key < 2 ^ 61 ∧ w.n ≤ w.arr ∧ w.touched = true
/-- A wider barrier at the begin of its next phase. -/
def WideBar.renewed (uids : List Nat) (w : WideBar) : WideBar := { w with arr := 0, touched := false, phase := !w.phase, unseen := w.unseen ++ uids }

theorem wideDue_iff (key : Nat) (w : WideBar) : (decide (w.net ≠ .core) && decide (w.n ≤ w.arr) && w.touched && decide (key < 2 ^ 61)) = true ↔ w.due key := by
  unfold WideBar.due
  simp only [Bool.and_eq_true, decide_eq_true_eq]
  tauto

theorem completeWide_due {s : State} {key : Nat} {w : WideBar} (h : w.due key) : completeWide s key w = s.modWide key (WideBar.renewed (boundUids s key)) :=
  if_pos ((wideDue_iff key w).mpr h)
theorem completeWide_not_due {s : State} {key : Nat} {w : WideBar} (h : ¬w.due key) : completeWide s key w = s :=
  if_neg (mt (wideDue_iff key w).mp h)

theorem completeWide_frame (s : State) (key : Nat) (w : WideBar) : completeWide s key w = { s with wides := (completeWide s key w).wides } := by
  by_cases h : w.due key
  · rw [completeWide_due h]; rfl
  · rw [completeWide_not_due h]
theorem completeWide_other (s : State) (key : Nat) (w : WideBar) {j : Nat} (hj : j ≠ key) : (completeWide s key w).wides.find j = s.wides.find j := by
  by_cases h : w.due key
  · rw [completeWide_due h]
    show (s.wides.mod key _).find j = _
    rw [SMap.find_mod, if_neg hj]
  · rw [completeWide_not_due h]

/-- The wider barriers of a list complete. -/
def completeWides (l : List (Nat × WideBar)) (s : State) : State := l.foldl (fun s e => completeWide s e.1 e.2) s

theorem completeWides_frame (l : List (Nat × WideBar)) (s : State) : completeWides l s = { s with wides := (completeWides l s).wides } := by
  induction l generalizing s with
  | nil => rfl
  | cons e l ih =>
    show completeWides l (completeWide s e.1 e.2) = { s with wides := (completeWides l (completeWide s e.1 e.2)).wides }
    rw [ih, completeWide_frame]
theorem completeWides_other (l : List (Nat × WideBar)) (s : State) {j : Nat} (hj : j ∉ l.map Prod.fst) : (completeWides l s).wides.find j = s.wides.find j := by
  induction l generalizing s with
  | nil => rfl
  | cons e l ih =>
    obtain ⟨hne, hj⟩ := List.ne_and_not_mem_of_not_mem_cons hj
    exact (ih (completeWide s e.1 e.2) hj).trans (completeWide_other s e.1 e.2 hne)

/-- A wider barrier that is listed once is as its own completion leaves it. -/
theorem completeWides_find {l : List (Nat × WideBar)} {key : Nat} {w : WideBar} (hl : (key, w) ∈ l) (hn : (l.map Prod.fst).Nodup) (s : State)
    (hs : s.wides.find key = some w) :
    (w.due key → (completeWides l s).wides.find key = some (w.renewed (boundUids s key))) ∧ (¬w.due key → (completeWides l s).wides.find key = some w) := by
  obtain ⟨l1, l2, rfl⟩ := List.append_of_mem hl
  rw [List.map_append, List.map_cons, List.nodup_append] at hn
  obtain ⟨-, hn2, hdis⟩ := hn
  have hsplit : completeWides (l1 ++ (key, w) :: l2) s = completeWides l2 (completeWide (completeWides l1 s) key w) := by
    unfold completeWides; rw [List.foldl_append, List.foldl_cons]
  have h1 : (completeWides l1 s).wides.find key = some w := (completeWides_other l1 s fun h => absurd rfl (hdis _ h _ List.mem_cons_self)).trans hs
  have huids : boundUids (completeWides l1 s) key = boundUids s key := by
    rw [completeWides_frame]; rfl
  rw [hsplit, completeWides_other l2 _ (List.nodup_cons.mp hn2).1]
  refine ⟨fun h => ?_, fun h => ?_⟩
  · rw [completeWide_due h, huids]
    show ((completeWides l1 s).wides.mod key _).find key = _
    rw [SMap.find_mod, if_pos rfl, h1, Option.map_some]
  · rw [completeWide_not_due h, h1]

theorem uid_mem_boundUids {s : State} {e : Nat × Team} {k key : Nat} {b : Barrier} (he : e ∈ s.teams) (hb : e.2.bars.find k = some b) (hn : b.net ≠ .core)
    (hk : wideKey e.2 b.net b.pod k = key) : e.2.uid ∈ boundUids s key := by
  refine List.mem_append_left _ (List.mem_map.mpr ⟨e, List.mem_filter.mpr ⟨he, List.any_eq_true.mpr ⟨(k, b), SMap.mem_of_find hb, ?_⟩⟩, rfl⟩)
  simp [hn, hk]
theorem uid_mem_boundUids_image {s : State} {uid k key : Nat} {x : Saved} {b : Barrier} (he : (uid, x) ∈ s.images) (hb : x.team.bars.find k = some b) (hn : b.net ≠ .core)
    (hk : wideKey x.team b.net b.pod k = key) : x.team.uid ∈ boundUids s key := by
  refine List.mem_append_right _ (List.mem_map.mpr ⟨(uid, x), List.mem_filter.mpr ⟨he, List.any_eq_true.mpr ⟨(k, b), SMap.mem_of_find hb, ?_⟩⟩, rfl⟩)
  simp [hn, hk]

/-! ### The end of the clk at the barriers -/

/-- The barriers that the end of the clk looks at. -/
def allBars (s : State) : List (Nat × Nat) := (s.teams.map Prod.fst) ×ˢ List.range 16

/-- When no arrival is left to be counted, the barriers of teams complete, then the wider ones. -/
theorem completePhases_eq {s : State} (h : s.teams.foldl (fun s e => countArrivals s e.1) s = s) :
    completePhases s = completeWides (completeBars (allBars s) s).wides (completeBars (allBars s) s) := by
  have hflat : s.teams.foldl (fun s e => (List.range 16).foldl (fun s k => completeBar s e.1 k) s) s = completeBars (allBars s) s := by
    unfold completeBars allBars
    simp only [SProd.sprod, List.product, List.foldl_flatMap, List.foldl_map]
  unfold completePhases
  dsimp only
  rw [h, hflat]
  rfl

theorem completeBars_frame (l : List (Nat × Nat)) (s : State) : completeBars l s = { s with teams := (completeBars l s).teams, threads := (completeBars l s).threads } := by
  induction l generalizing s with
  | nil => rfl
  | cons p l ih =>
    show completeBars l (completeBar s p.1 p.2)
      = { s with teams := (completeBars l (completeBar s p.1 p.2)).teams, threads := (completeBars l (completeBar s p.1 p.2)).threads }
    rw [ih, (forgot_completeBar s p.1 p.2).1]

section
variable {s : State}

/-- A barrier at CORE at the end of a clk. -/
theorem barrier_phase (hs : s.teams.foldl (fun s e => countArrivals s e.1) s = s) (hn : (s.teams.map Prod.fst).Nodup) {tk k : Nat} {tm : Team}
    (ht : s.teams.find tk = some tm) (hk : k < 16) :
    ∃ new, (completePhases s).teams.find tk = some new ∧ BarsOnly tm new
      ∧ ((tm.bar k).due → Renewed tk k tm s (completePhases s) new) ∧ (¬(tm.bar k).due → new.bar k = tm.bar k) := by
  rw [completePhases_eq hs]
  have hmem : (tk, k) ∈ allBars s := List.mem_product.mpr ⟨List.mem_map_of_mem (SMap.mem_of_find ht), List.mem_range.mpr hk⟩
  have hframe := completeWides_frame (completeBars (allBars s) s).wides (completeBars (allBars s) s)
  unfold Renewed
  rw [hframe]
  by_cases hd : (tm.bar k).due
  · obtain ⟨new, hr⟩ := completeBars_renews hmem (hn.product (List.nodup_range)) ht hd
    exact ⟨new, hr.1, hr.2.1, fun _ => hr, fun h => absurd hd h⟩
  · obtain ⟨new, hm, ho, hb, -⟩ := (keeps_completeBars (l := allBars s) ht fun _ => hd).team tm ht
    exact ⟨new, hm, ho, fun h => absurd h hd, fun _ => bar_of_find hb⟩

/-- A wider barrier at the end of a clk. -/
theorem wide_phase (hs : s.teams.foldl (fun s e => countArrivals s e.1) s = s) (hn : (s.wides.map Prod.fst).Nodup) {key : Nat} {w : WideBar}
    (hw : s.wides.find key = some w) :
    (w.due key → (completePhases s).wides.find key = some (w.renewed (boundUids (completeBars (allBars s) s) key)))
      ∧ (¬w.due key → (completePhases s).wides.find key = some w) := by
  have hwides : (completeBars (allBars s) s).wides = s.wides := by rw [completeBars_frame]
  rw [completePhases_eq hs, hwides]
  exact completeWides_find (SMap.mem_of_find hw) hn _ (by rw [hwides]; exact hw)

/-- Teams that are bound to a wider barrier are among those that are told. -/
theorem bound_told {tk k key : Nat} {tm : Team} {b : Barrier} (ht : s.teams.find tk = some tm) (hb : tm.bars.find k = some b) (hnet : b.net ≠ .core)
    (hkey : wideKey tm b.net b.pod k = key) : tm.uid ∈ boundUids (completeBars (allBars s) s) key := by
  have hbar : tm.bar k = b := by unfold Team.bar SMap.get; rw [hb]; rfl
  obtain ⟨new, hm, ho, hf, -⟩ := (keeps_completeBars (l := allBars s) ht fun _ hd => hnet (hbar ▸ hd.1)).team tm ht
  have huid : new.uid = tm.uid := by rw [ho]
  rw [← huid]
  refine uid_mem_boundUids (e := (tk, new)) (SMap.mem_of_find hm) (hf.trans hb) hnet ?_
  rw [← hkey, ho]
  rfl
theorem bound_told_image {uid k key : Nat} {x : Saved} {b : Barrier} (hx : (uid, x) ∈ s.images) (hb : x.team.bars.find k = some b) (hnet : b.net ≠ .core)
    (hkey : wideKey x.team b.net b.pod k = key) : x.team.uid ∈ boundUids (completeBars (allBars s) s) key :=
  uid_mem_boundUids_image (by rw [completeBars_frame]; exact hx) hb hnet hkey
end

/-- Settles O23: `arrivals_clause` for BARA and BARAB, `bars_binds` for BARS, `endClk_barriers`, `barrier_phase` and `wide_phase` for the end of a clk. -/
theorem barriersArriveAndBind : Obligations.BarriersArriveAndBind := by
  unfold Obligations.BarriersArriveAndBind
  refine ⟨arrivals_clause, fun k n b y s c s' h l0 hm h64 hmin hpod hnet => bars_binds h hm h64 hmin hpod hnet,
    fun s ts hs hd => ⟨_, step_clk hs hd, endClk_barriers _⟩, fun s hs hn hnw => ⟨fun tk tm k ht hk hcore => ?_, fun key w hw => ?_⟩⟩
  · obtain ⟨new, hm, ho, hdue, hkept⟩ := barrier_phase hs hn ht hk
    refine ⟨new, hm, ho, fun hd => ?_, fun hd => hkept fun h => hd h.2⟩
    obtain ⟨-, -, hfree, hheld, hforgot⟩ := hdue ⟨hcore, hd⟩
    exact ⟨hfree, hheld, hforgot⟩
  · obtain ⟨hdue, hkept⟩ := wide_phase hs hnw hw
    exact ⟨fun hd => ⟨_, hdue hd, fun tk tm k b => bound_told, fun uid x k b => bound_told_image⟩, hkept⟩

end Sys2Proof.Machine

/-!
SUPPORT and claims. The compare and predicate instructions (R45, R100, R101).
-/
namespace Sys2Proof.Machine

/-! ## The rows of a table -/

/-- An instruction costs what a row says, and does to each thread what the row says. -/
def RowHolds (i : Instr) (r : Rules.TableRow) : Prop := i.cost = r.1 ∧ ∀ s, exec i s = threadOp i r.2 s
/-- The row that a table has for an instruction, if it has one, is as `p` says. -/
def IfRow (p : Rules.TableRow → Prop) : Option Rules.TableRow → Prop
  | none => True
  | some r => p r

theorem IfRow.of_some {p : Rules.TableRow → Prop} {o : Option Rules.TableRow} {r : Rules.TableRow} (h : IfRow p o) (ho : o = some r) : p r :=
  (congrArg (IfRow p) ho).mp h

theorem runsAsTable_of_rows {table : Instr → Option Rules.TableRow} (h : ∀ i r, table i = some r → RowHolds i r) : Rules.RunsAsTable table := fun i n f hi =>
  have hrow := h i (n, f) hi
  ⟨hrow.1, fun s _ _ hready => (hrow.2 s).symm ▸ threadOp_runs f hready⟩

section
variable {i : Instr}
theorem rowHolds_thread {n : Nat} {f g : Thread → Thread} (hc : i.cost = n) (he : ∀ s, exec i s = threadOp i f s) (hv : ∀ th, f th = g th) : RowHolds i (n, g) :=
  ⟨hc, (funext hv : f = g) ▸ he⟩
theorem rowHolds_cond {c : Cond} {d : BitVec 3} {f g : Thread → Word} (hc : i.cost = 1) (he : ∀ s, exec i s = predOp i d (fun th => condHolds c (f th) (g th)) s) :
    RowHolds i (1, fun th => th.setPred d (Rules.condition c (f th) (g th))) :=
  rowHolds_thread hc he fun th => congrArg (th.setPred d) (condHolds_eq c _ _)
end

/-- What may stand in a clause of any group class (R45). -/
theorem classOk_of_anyClass {i : Instr} (h : i.anyClass = true) (k : Cls) : k.group = true → i.classOk k = true :=
  have hok : ∀ c : Cls, (i.anyClass || decide (i.cls = c)) = true := fun c => (congrArg (· || decide (i.cls = c)) h).trans rfl
  k.casesOn (motive := fun k => k.group = true → i.classOk k = true) (fun _ => hok .int) (fun _ => hok .flt) (fun _ => hok .mem) (fun _ => hok .sa)
    (fun hlead => absurd hlead Bool.false_ne_true) (fun _ => hok .sys)
/-- A row of R101, which R100 has none for. -/
theorem onlyR101 {i : Instr} {n : Nat} {f g : Thread → Thread} (hc : i.cost = n) (he : ∀ s, exec i s = threadOp i f s) (hv : ∀ th, f th = g th) (ha : i.anyClass = true) :
    IfRow (RowHolds i) none ∧ IfRow (fun r => RowHolds i r ∧ i.anyClass = true) (some (n, g)) :=
  ⟨True.intro, rowHolds_thread hc he hv, ha⟩

set_option tactic.hygienic false in
/-- The rows of R100 and R101 hold, and what R101 has a row for may stand in any group class. -/
theorem comparisonRows_hold (instr : Instr) :
    IfRow (RowHolds instr) (Rules.r100 instr) ∧ IfRow (fun r => RowHolds instr r ∧ instr.anyClass = true) (Rules.r101 instr) := by
  induction instr
  case cmp => exact ⟨rowHolds_cond rfl fun _ => rfl, True.intro⟩
  case cmpi => exact ⟨rowHolds_cond rfl fun _ => rfl, True.intro⟩
  case pand => exact onlyR101 rfl (fun _ => rfl) (fun _ => rfl) rfl
  case por => exact onlyR101 rfl (fun _ => rfl) (fun _ => rfl) rfl
  case pxor => exact onlyR101 rfl (fun _ => rfl) (fun _ => rfl) rfl
  case pnot => exact onlyR101 rfl (fun _ => rfl) (fun _ => rfl) rfl
  case ptor => exact onlyR101 rfl (fun _ => rfl) (fun th => congrArg (th.wr d) (BitVec.ofNat_toNat 32 th.p).symm) rfl
  case sel => exact onlyR101 rfl (fun _ => rfl) (fun _ => rfl) rfl
  all_goals exact (⟨True.intro, True.intro⟩ : True ∧ True)

/-- Settles O2: the tables by their rows (`comparisonRows_hold`), the codes and the operands as they stand. -/
theorem comparisonResults : Obligations.ComparisonResults :=
  ⟨⟨runsAsTable_of_rows fun i _ hi => (comparisonRows_hold i).1.of_some hi, rfl⟩, runsAsTable_of_rows fun i _ hi => ((comparisonRows_hold i).2.of_some hi).1,
    fun i _ _ hi _ => classOk_of_anyClass ((comparisonRows_hold i).2.of_some hi).2 _, fun _ _ _ _ _ _ => rfl⟩

end Sys2Proof.Machine

/-!
SUPPORT and claims. LLD and LST (R120, R122, R123).
-/
namespace Sys2Proof.Machine

/-! ## Guards -/

theorem ite_of_true {α : Type} {g : Bool} {x y : α} (h : g = true) : (if g then x else y) = x := if_pos h
theorem ite_of_false {α : Type} {g : Bool} {x y : α} (h : g = false) : (if g then x else y) = y := if_neg (ne_true_of_eq_false h)
theorem ite_of_false_of_true {α : Type} {g h : Bool} {x y z : α} (hg : g = false) (hh : h = true) :
    (if g then x else if h then y else z) = y :=
  (ite_of_false hg).trans (if_pos hh)
theorem ite_of_false_of_false {α : Type} {g h : Bool} {x y z w : α} (hg : g = false) (hh : h = false) (hz : z = w) :
    (if g then x else if h then y else z) = w :=
  (ite_of_false hg).trans ((ite_of_false hh).trans hz)
theorem and_true_of {a b : Bool} (ha : a = true) (hb : b = true) : (a && b) = true := Bool.and_eq_true_iff.mpr ⟨ha, hb⟩
theorem or_false_of {a b : Bool} (ha : a = false) (hb : b = false) : (a || b) = false := Bool.or_eq_false_iff.mpr ⟨ha, hb⟩

/-! ## The checks of an access of a lead (R120, R122, R123) -/

theorem va48_eq_mod (va : DWord) : va48 va = va.toNat % 2 ^ 48 := (toNat_field va 0 48).trans (congrArg (· % 2 ^ 48) (Nat.div_one va.toNat))

theorem leadAddr_eq_ofInt (l : Lead) (a : BitVec 6) (o : BitVec 10) (z : Size) :
    l.addr a o (sizeBytes z) = BitVec.ofInt 64 ((l.reg a).toNat + o.toInt * (Rules.width z : Int)) :=
  ((BitVec.ofInt_add _ _).trans (congrArg₂ (· + ·) ((BitVec.ofInt_natCast 64 _).trans ((BitVec.ofNat_toNat 64 _).trans (BitVec.setWidth_eq _)))
    ((BitVec.ofInt_mul _ _).trans (congrArg (o.signExtend 64 * ·) ((BitVec.ofInt_natCast 64 _).trans (congrArg (BitVec.ofNat 64) (sizeBytes_eq_width z).symm)))))).symm

theorem ioKind_eq (n kind : Nat) : ioKind n kind = decide (kind ≠ 3 ∨ n ≤ 8) :=
  ((Bool.decide_or _ _).trans (congrArg (· || decide (n ≤ 8)) (decide_not (p := kind = 3)))).symm

/-- Checks of orders 2 to 5 of R123 that all pass, as the rule writes them and as the model does. -/
theorem checks_pass : ∀ dir priv user kind sab pub stores raw : Bool,
    (if dir = false ∨ (priv = false ∧ user = false) ∨ kind = false then some Cause.permission else if sab = true then some .permission
      else if pub = true ∧ stores = true then some .permission else if raw = false then some .regionRaw else none) = none →
    (if !dir || !(priv || user) || !kind then some Cause.permission else if sab then some .permission
      else if pub && stores && !!stores then some .permission else if true && !raw then some .regionRaw else none) = none := by decide

section
variable {s : State} {k : Task} {l : Leaf} {n : Nat}
theorem leafTrap_none_read (h : Rules.refusedBy s k l .read n = none) : leafTrap s k .read (ioKind n) true true l = none :=
  (congrArg (fun b => accessTrap s k.priv l .read b true true) (ioKind_eq n l.kind)).trans (checks_pass _ _ _ _ _ _ false _ h)
theorem leafTrap_none_write (h : Rules.refusedBy s k l .write n = none) : leafTrap s k .write (ioKind n) false true l = none :=
  (congrArg (fun b => accessTrap s k.priv l .write b false true) (ioKind_eq n l.kind)).trans (checks_pass _ _ _ _ _ _ true _ h)
end

section
variable {s : State} {core : Nat} {k : Task} {va : DWord} {l : Leaf}
theorem accessBy_ok {trap : Leaf → Option Cause} (hl : lookup s core k.space (va48 va) = .ok l) (ht : trap l = none)
    (hh : s.removed.contains (homeOf (l.loc (va48 va))) = false) : accessBy s core k va trap = .ok l := by
  unfold accessBy
  rw [hl]
  dsimp only
  rw [ht]
  exact ite_of_false hh
theorem placeOf_ok {space : Nat} (hl : lookup s core space (va48 va) = .ok l) : placeOf s core space va = some (l.loc (va48 va)) := by
  unfold placeOf
  rw [hl]
end
/-- A charge changes no translation. -/
theorem placeOf_charged {s s' : State} {core task n b : Nat} {who : Payer} (h : charge s core task who n b = (true, s')) (j space : Nat) (va : DWord) :
    placeOf s' j space va = placeOf s j space va :=
  (congrArg (placeOf · j space va) (charge_of_eq h)).trans rfl

section
variable {s : State} {c : LCtx} {va : DWord} {n : Nat} {acc : Acc} {loc : Loc}
theorem alignedAccess_ok {core : Nat} {k : Task} {kindOk : Nat → Bool} {pubOk rawNeed : Bool} (hc : -2 ^ 47 ≤ va.toInt ∧ va.toInt < 2 ^ 47)
    (hn : va.toNat % n = 0) {l : Leaf} (hv : access s core k va acc kindOk pubOk rawNeed = .ok l) :
    alignedAccess s core k va n acc kindOk pubOk rawNeed = .ok l :=
  (ite_of_false (congrArg not ((canonical_iff va).mpr hc))).trans ((if_neg (not_not_intro hn)).trans hv)
theorem loc_at {l : Leaf} (hloc : loc = l.loc (va.toNat % 2 ^ 48)) : l.loc (va48 va) = loc := (congrArg l.loc (va48_eq_mod va)).trans hloc.symm
theorem not_removed {l : Loc} (hl : l = loc) (h : homeOf loc ∉ s.removed) : s.removed.contains (homeOf l) = false :=
  Bool.eq_false_iff.mpr fun hh => h (hl ▸ List.contains_iff_mem.mp hh)
/-- The verdict on an access that passes its checks. -/
theorem verdict_ok {x : Access} {l : Leaf} {v : LVerdict} (hx : x = .ok l) :
    (match (generalizing := false) x with | .ok _ => v | x => x.lverdict acc) = v := by
  rw [hx]
/-- An access that passes the checks of the rule passes those of the model, and the model finds the same place. -/
theorem access_reached {pubOk : Bool} {v : LVerdict}
    (ht : ∀ {l}, Rules.refusedBy s c.task l acc n = none → leafTrap s c.task acc (ioKind n) pubOk true l = none)
    (h : Rules.LeadReaches s c va n acc loc) (hv : v = .ok) :
    (match (generalizing := false) alignedAccess s c.core c.task va n acc (ioKind n) pubOk true with | .ok _ => v | x => x.lverdict acc) = .ok
      ∧ placeOf s c.core c.task.space va = some loc :=
  h.2.2.2.elim fun _ hl => have hleaf := (congrArg (lookup s c.core c.task.space) (va48_eq_mod va)).trans hl.1
    ⟨(verdict_ok (alignedAccess_ok ⟨h.1, h.2.1⟩ h.2.2.1 (accessBy_ok hleaf (ht hl.2.1) (not_removed (loc_at hl.2.2.1) hl.2.2.2)))).trans hv,
      (placeOf_ok hleaf).trans (congrArg some (loc_at hl.2.2.1))⟩
end

/-! ## An access in the queue of a lead -/

/-- `s` with the parts that an access of a lead may change as they are in `u`. -/
noncomputable def State.withAccess (s u : State) : State :=
  { s with teams := u.teams, cores := u.cores, opqs := u.opqs, nodes := u.nodes, nextId := u.nextId }

section
variable {s v u : State} {c : LCtx}
theorem withAccess_trans (hv : v = s.withAccess v) (hu : u = v.withAccess u) : u = s.withAccess u :=
  hu.trans (congrArg (State.withAccess · u) hv : _ = (s.withAccess v).withAccess u)
theorem onlyCached_of_cores {core : Nat} (hu : u.cores = v.cores) (hv : Rules.OnlyCached core s v) : Rules.OnlyCached core s u := fun k =>
  (congrArg (fun x : Core => x = if k = core then { s.core k with cached := x.cached } else s.core k) (congrArg (SMap.get · k Core.initial) hu)).mpr (hv k)
theorem teamNow_of_teams {tk : Nat} {tm : Team} (hu : u.teams = v.teams) (hv : Rules.TeamNow tk tm s v) : Rules.TeamNow tk tm s u :=
  ⟨(congrArg (SMap.find · tk) hu).trans hv.1, fun k hk => (congrArg (SMap.find · k) hu).trans (hv.2 k hk)⟩
/-- The team of a lead that `f` changes. -/
theorem teamNow_modLead {tk : Nat} {tm : Team} (h : Rules.TeamNow tk tm s v) (f : Lead → Lead) :
    Rules.TeamNow tk { tm with lead := f tm.lead } s (v.modLead tk f) :=
  ⟨(modLead_teams v tk tk f).trans ((if_pos rfl).trans (congrArg _ h.1)), fun k hk => (modLead_teams v tk k f).trans ((if_neg hk).trans (h.2 k hk))⟩
theorem addOp_withAccess (s : State) (q : Nat) (who : Who) (task node : Nat) (o : MemOp) :
    s.addOp q who task node o = s.withAccess (s.addOp q who task node o)
      ∧ (s.addOp q who task node o).teams = s.teams ∧ (s.addOp q who task node o).cores = s.cores :=
  (addOp_frame s q who task node o).elim fun _ h => h.elim fun _ h =>
    ⟨h.trans (congrArg s.withAccess h.symm), (congrArg State.teams h :), (congrArg State.cores h :)⟩
theorem fetched_withAccess {core : Nat} (h : Rules.Fetched core s u) : u = s.withAccess u ∧ u.teams = s.teams ∧ Rules.OnlyCached core s u :=
  ⟨h.1.trans (congrArg s.withAccess h.1.symm), (congrArg State.teams h.1 :), h.2⟩
theorem leadAccess_withAccess (c : LCtx) (loc : Loc) (n : Nat) (k : OpKind) (v : State) :
    leadAccess c loc n k v = v.withAccess (leadAccess c loc n k v)
      ∧ (leadAccess c loc n k v).teams = v.teams ∧ (leadAccess c loc n k v).cores = v.cores := addOp_withAccess _ _ _ _ _ _
theorem leadAccess_mem (c : LCtx) (loc : Loc) (n : Nat) (k : OpKind) (v : State) :
    ∃ op ∈ opsOf (leadAccess c loc n k v) c.team.lead.ops, op.id = v.nextId ∧ op.loc = loc ∧ op.n = n ∧ op.kind = k := addOp_mem _ _ _ _ _ _
end

/-- An access enters the queue of the lead of `c`, the lead goes on, and nothing else has changed but what the core caches and the lead's own note of the access,
by which its team is `tm` of the access's number. -/
def LeadEnters (s : State) (c : LCtx) (loc : Loc) (n : Nat) (k : OpKind) (tm : Nat → Team) (out : Out) : Prop :=
  ∃ t u, out = .next t ∧ LeadOn c u t ∧ u = s.withAccess u ∧ Rules.OnlyCached c.core s u
    ∧ ∃ op ∈ opsOf u c.team.lead.ops, op.loc = loc ∧ op.n = n ∧ op.kind = k ∧ Rules.TeamNow c.tk (tm op.id) s u
theorem LeadEnters.intro {s t u : State} {c : LCtx} {loc : Loc} {n : Nat} {k : OpKind} {tm : Nat → Team} {out : Out} {op : MemOp}
    (hout : out = .next t) (hon : LeadOn c u t) (hu : u = s.withAccess u) (hcached : Rules.OnlyCached c.core s u) (hop : op ∈ opsOf u c.team.lead.ops)
    (hloc : op.loc = loc) (hn : op.n = n) (hk : op.kind = k) (hteam : Rules.TeamNow c.tk (tm op.id) s u) : LeadEnters s c loc n k tm out :=
  ⟨t, u, hout, hon, hu, hcached, op, hop, hloc, hn, hk, hteam⟩
theorem leadEnters_leadAccess {s v : State} {c : LCtx} {loc : Loc} {n n' : Nat} {k k' : OpKind} {tm : Nat → Team} {team : Team} {out : Out}
    (hn : n = n') (hk : k = k') (htm : tm v.nextId = team) (hv : v = s.withAccess v) (hcached : Rules.OnlyCached c.core s v)
    (hteam : Rules.TeamNow c.tk team s v) (hout : out = .next (leadOn c (leadAccess c loc n k v))) : LeadEnters s c loc n' k' tm out :=
  have h := leadAccess_withAccess c loc n k v
  (leadAccess_mem c loc n k v).elim fun _ hop => .intro hout (leadOn_on c _) (withAccess_trans hv h.1) (onlyCached_of_cores h.2.2 hcached)
    hop.1 hop.2.2.1 (hop.2.2.2.1.trans hn) (hop.2.2.2.2.trans hk)
    (((congrArg tm hop.2.1).trans htm).symm.subst (motive := (Rules.TeamNow c.tk · s _)) (teamNow_of_teams h.2.1 hteam))

/-! ## LLD and LST -/

/-- What is done at the place of an address, when the address has one. -/
theorem atPlace {s : State} {core space : Nat} {va : DWord} {loc : Loc} (h : placeOf s core space va = some loc) (f : Loc → State) :
    (match placeOf s core space va with | none => s | some loc => f loc) = f loc := by
  rw [h]
/-- An instruction of a lead that does something at the place of an address. -/
theorem leadOp_atPlace {i : Instr} {chk : State → LCtx → LVerdict} {va : LCtx → DWord} {f : LCtx → Loc → State → State} {s s' : State} {c : LCtx} {loc : Loc}
    (h : LeadReady i 3 1 s c s') (hok : chk s c = .ok ∧ placeOf s c.core c.task.space (va c) = some loc) :
    leadOp i chk (fun _ _ => (3, 1)) (fun c s => match placeOf s c.core c.task.space (va c) with | none => s | some loc => f c loc s) s = .next (f c loc s') :=
  (leadOp_runs (cost := fun _ _ => (3, 1)) h.ctx h.free h.srcs h.dsts hok.1 h.paid).trans
    (congrArg _ (atPlace ((placeOf_charged h.paid _ _ _).trans hok.2) (f c · s')))
/-- A lead that has paid for its instruction, with the translation of an address in its core's cache. -/
theorem noteTlb_paid {i : Instr} {s s' : State} {c : LCtx} (h : LeadReady i 3 1 s c s') (va : Nat) :
    let w := s'.noteTlb c.core c.task.space va
    w = s'.withAccess w ∧ Rules.OnlyCached c.core s' w ∧ Rules.TeamNow c.tk c.team s' w :=
  have hw := fetched_withAccess (noteTlb_fetched s' c.core c.task.space va)
  ⟨hw.1, hw.2.2, teamNow_of_teams hw.2.1 ⟨team_charged h.ctx h.paid, fun _ _ => rfl⟩⟩
/-- The bytes of a number, as fields of its word: those of a store are the low bytes of its register (R120). -/
theorem bytesOfNat_eq_map {m : Nat} (n : Nat) (w : BitVec m) : bytesOfNat n w.toNat = (List.range n).map (fun k => w.extractLsb' (8 * k) 8) :=
  (numBytes_eq_bytesOfNat n w.toNat).symm.trans (List.map_congr_left fun _ _ =>
    BitVec.eq_of_toNat_eq ((BitVec.toNat_ofNat _ _).trans (toNat_field w _ 8).symm))
/-- The register that a load of a lead fills is empty until the answer of access `id` (R16, R120). -/
noncomputable def Lead.awaits (d id : Nat) (l : Lead) : Lead := { l.markEmpty d with pend := l.pend ++ [(id, d, none)] }

section
variable {s s' : State} {c : LCtx} {loc : Loc} {d a : BitVec 6} {z : Size} {o : BitVec 10} {n : Nat} {k : OpKind} {tm : Nat → Team} {out : Out}
  (hroom : roomFor s (c.core / 96) 1 = true) (hn : sizeBytes z = n)
include hroom hn
theorem lld_enters (h : LeadReady (.lld d a z o) 3 1 s c s') (hr : Rules.LeadReaches s c (c.team.lead.addr a o (sizeBytes z)) (sizeBytes z) .read loc)
    (hk : .load (.lead z) [d.toNat] = k) (htm : ∀ id, tm id = { c.team with lead := c.team.lead.awaits d.toNat id }) (hout : out = exec (.lld d a z o) s) :
    LeadEnters s' c loc n k tm out :=
  have hw := noteTlb_paid h (va48 (c.team.lead.addr a o (sizeBytes z)))
  leadEnters_leadAccess (v := State.modLead _ c.tk (Lead.awaits d.toNat _)) hn hk (htm _) (withAccess_trans hw.1 rfl) hw.2.1 (teamNow_modLead hw.2.2 _)
    (hout.trans (leadOp_atPlace h (access_reached leafTrap_none_read hr (if_pos hroom)) : execLld d a z o s = _))
theorem lst_enters (h : LeadReady (.lst d a z o) 3 1 s c s') (hr : Rules.LeadReaches s c (c.team.lead.addr a o (sizeBytes z)) (sizeBytes z) .write loc)
    (hq : quiet s c.team.lead.ops = true) (hk : .store (bytesOfNat (sizeBytes z) (c.team.lead.reg d).toNat) = k) (htm : ∀ id, tm id = c.team)
    (hout : out = exec (.lst d a z o) s) : LeadEnters s' c loc n k tm out :=
  have hw := noteTlb_paid h (va48 (c.team.lead.addr a o (sizeBytes z)))
  leadEnters_leadAccess hn hk (htm _) hw.1 hw.2.1 hw.2.2
    (hout.trans (leadOp_atPlace h (access_reached leafTrap_none_write hr (if_pos (Bool.and_eq_true_iff.mpr ⟨hroom, hq⟩))) : execLst d a z o s = _))
end

/-- The team of a lead once its access `id` has entered the queue: for a load the lead awaits the answer. -/
noncomputable def LCtx.noted (c : LCtx) (acc : Acc) (d id : Nat) : Team :=
  if acc = .read then { c.team with lead := c.team.lead.awaits d id } else c.team

/-- Settles O29: `lld_enters` and `lst_enters`, in the words of the statement. -/
theorem leadLoadsAndStores : Obligations.LeadLoadsAndStores := fun d a z o i acc kind hi s c s' loc h hroom hq hr =>
  have hr : Rules.LeadReaches s c (c.team.lead.addr a o (sizeBytes z)) (sizeBytes z) acc loc :=
    (leadAddr_eq_ofInt c.team.lead a o z).symm.subst (motive := (Rules.LeadReaches s c · _ acc loc))
      ((sizeBytes_eq_width z).symm.subst (motive := (Rules.LeadReaches s c _ · acc loc)) hr)
  show LeadEnters s' c loc _ _ (c.noted acc d.toNat) (exec i s) from hi.elim
    (fun hi => lld_enters hroom (sizeBytes_eq_width z) (hi.1.subst (motive := (LeadReady · 3 1 s c s')) h)
      (hi.2.1.subst (motive := (Rules.LeadReaches s c _ _ · loc)) hr) (hi.2.2 _).symm (fun _ => if_pos hi.2.1) (congrArg (exec · s) hi.1))
    (fun hi => lst_enters hroom (sizeBytes_eq_width z) (hi.1.subst (motive := (LeadReady · 3 1 s c s')) h)
      (hi.2.1.subst (motive := (Rules.LeadReaches s c _ _ · loc)) hr) (hq hi.2.1)
      ((congrArg OpKind.store ((bytesOfNat_eq_map _ _).trans (congrArg (fun n => (List.range n).map _) (sizeBytes_eq_width z)))).trans (hi.2.2 _).symm)
      (fun _ => if_neg (hi.2.1.trans_ne (by decide))) (congrArg (exec · s) hi.1))

end Sys2Proof.Machine

/-!
SUPPORT and claims. Bring-up, recovery, power, mirrors and fibres (R113, R357, R366, R367, R370 to R374).
-/
namespace Sys2Proof.Machine

/-! ## Outcomes of the platform's steps -/

section
variable {o : Out}
/-- An outcome with two things said of the state that it leaves and of another value. -/
theorem next_and {α : Type} {t : State} {x : α} {P Q : State → α → Prop} (h : o = .next t) (hp : P t x) (hq : Q t x) :
    ∃ t x, o = .next t ∧ P t x ∧ Q t x :=
  ⟨t, x, h, hp, hq⟩
/-- An outcome that leaves the platform changed by `f`. -/
theorem next_platNow {s : State} {f : Platform → Platform} (h : o = .next (s.modPlat f)) : ∃ t, o = .next t ∧ Rules.PlatNow f s t := ⟨_, h, rfl⟩
end

/-! ## Fibres (R370 to R372) -/

/-- An entry of a map that is replaced by what `f` makes of it. -/
theorem get_put {β : Type} (m : SMap β) (k j : Nat) (f : β → β) (d : β) :
    (m.put k (f (m.get k d))).get j d = if j = k then f (m.get j d) else m.get j d :=
  (congrArg (·.getD d) (SMap.find_put m k j _)).trans ((apply_ite (fun o : Option β => o.getD d) (j = k) (some (f (m.get k d))) (m.find j)).trans
    (ite_congr rfl (fun h => congrArg (fun i => f (m.get i d)) h.symm) fun _ => rfl))
theorem oneFibre_setFibre (s : State) (fibre : Nat) (f : Fibre → Fibre) : Rules.OneFibre fibre f s (s.setFibre fibre (f (s.fibre fibre))) :=
  ⟨rfl, fun k => get_put s.fibres fibre k f _⟩
theorem logError_detail (s : State) (transient : Bool) (code src : Nat) (detail : BitVec 96) :
    Rules.Logged code transient (src / 4096) (some detail) s (logError s transient code src detail) := by
  unfold logError
  dsimp only
  split
  · exact ⟨rfl, ⟨_, rfl⟩, rfl, _, rfl, rfl, rfl, rfl, rfl, rfl, fun _ => Option.some.inj⟩
  · exact ⟨rfl, ⟨[], (List.append_nil _).symm⟩, rfl, _, rfl, rfl, rfl, rfl, rfl, rfl, fun _ => Option.some.inj⟩
theorem logFibre_logged (s : State) (transient : Bool) (fibre : Nat) :
    Rules.Logged 0x30 transient (8 + fibre / 32) (some (BitVec.ofNat 96 fibre)) s (logFibre s transient fibre) :=
  errSrc_node (Config.ioNode + fibre / 32) 0x30 ▸ logError_detail s transient 0x30 _ _
section
variable {o : Out} {s : State} {fibre : Nat} {f : Fibre → Fibre}
theorem next_oneFibre (h : o = .next (s.setFibre fibre (f (s.fibre fibre)))) : ∃ t, o = .next t ∧ Rules.OneFibre fibre f s t :=
  ⟨_, h, oneFibre_setFibre s fibre f⟩
theorem next_fibreFails {transient : Bool} (h : o = .next (logFibre (s.setFibre fibre (f (s.fibre fibre))) transient fibre)) :
    ∃ t u, o = .next t ∧ Rules.OneFibre fibre f s u ∧ Rules.Logged 0x30 transient (8 + fibre / 32) (some (BitVec.ofNat 96 fibre)) u t :=
  ⟨_, _, h, oneFibre_setFibre s fibre f, logFibre_logged _ _ _⟩
end
theorem fibre_trains {s : State} {f : Nat} (hf : f < 64) (hb : 6 ≤ s.plat.bringUp) (hup : (s.fibre f).up = false) :
    (decide (64 ≤ f) || decide (s.plat.bringUp < 6) || (s.fibre f).up) = false :=
  or_false_of (or_false_of (decide_eq_false (Nat.not_le.mpr hf)) (decide_eq_false (Nat.not_lt.mpr hb))) hup
/-- What waits on a fibre after an acknowledgement (R370). -/
theorem acked_waiting (f : Fibre) (id time : Nat) : (f.acked id time).waiting = f.waiting.filter (fun w => w.1 != id) := by
  by_cases h : f.waiting.any (fun w => w.1 == id)
  · exact congrArg Fibre.waiting (if_pos h)
  · exact (congrArg Fibre.waiting (if_neg h)).trans
      (List.filter_eq_self.mpr fun w hw => congrArg not (Bool.eq_false_iff.mpr (List.any_eq_false.mp (Bool.eq_false_iff.mpr h) w hw))).symm
theorem acked_getD (id time : Nat) (o : Option Fibre) :
    ((o.map (fun f => f.acked id time)).getD Fibre.initial).waiting = (o.getD Fibre.initial).waiting.filter (fun w => w.1 != id) :=
  o.casesOn rfl fun f => acked_waiting f id time
theorem fibreAck_waiting (fibres : SMap Fibre) (id time k : Nat) :
    (SMap.get (fibres.map (fun (e : Nat × Fibre) => (e.1, e.2.acked id time))) k Fibre.initial).waiting
      = (fibres.get k Fibre.initial).waiting.filter (fun w => w.1 != id) :=
  (congrArg (fun o => (o.getD Fibre.initial).waiting) (SMap.find_map fibres (fun f => f.acked id time) k)).trans (acked_getD id time _)
theorem forall_lt_succ {P : Nat → Prop} {n : Nat} (h : ∀ m < n, P m) (hn : P n) : ∀ m < n + 1, P m :=
  Nat.forall_lt_succ_right.mpr ⟨h, hn⟩
theorem writePa_frame (s : State) (pa : Nat) (bs : List Byte) : ∀ kind < 2,
    s.writePa kind pa bs = { s with far := (s.writePa kind pa bs).far, near := (s.writePa kind pa bs).near } :=
  forall_lt_succ (forall_lt_succ (fun _ h => absurd h (Nat.not_lt_zero _)) (@rfl _ (s.writePa 0 pa bs))) (@rfl _ (s.writePa 1 pa bs))
theorem find_mod_some {β : Type} {m : SMap β} {k : Nat} {v : β} (h : m.find k = some v) (f : β → β) (j : Nat) :
    (m.mod k f).find j = if j = k then some (f v) else m.find j :=
  (SMap.find_mod m k j f).trans (congrArg (fun o => if j = k then o.map f else m.find j) h)

/-! ## Spare rows (R113) -/

/-- The bytes of a number that is put together from bytes. -/
theorem bytesOfNat_natOfBytes (bs : List Byte) : bytesOfNat bs.length (natOfBytes bs) = bs := by
  induction bs with
  | nil => rfl
  | cons b bs ih =>
    exact congrArg₂ List.cons (BitVec.eq_of_toNat_eq ((BitVec.toNat_ofNat _ 8).trans ((Nat.add_mul_mod_self_left _ 256 _).trans (Nat.mod_eq_of_lt b.isLt))))
      ((congrArg (bytesOfNat bs.length) ((Nat.add_mul_div_left _ _ (by decide)).trans
        ((congrArg (· + natOfBytes bs) (Nat.div_eq_of_lt b.isLt)).trans (Nat.zero_add _)))).trans ih)
theorem byte_mem {m : Nat} {w : BitVec m} {bs : List Byte} (hw : w.toNat = natOfBytes bs) {j : Nat} (hj : j < bs.length) : w.extractLsb' (8 * j) 8 ∈ bs :=
  Eq.subst (motive := (w.extractLsb' (8 * j) 8 ∈ ·))
    ((bytesOfNat_eq_map bs.length w).symm.trans ((congrArg (bytesOfNat bs.length) hw).trans (bytesOfNat_natOfBytes bs)))
    (List.mem_map.mpr ⟨j, List.mem_range.mpr hj, rfl⟩)
/-- A number that is put together from the bytes of a word. -/
theorem toNat_ofBytes {bs : List Byte} (hl : bs.length = 4) : (BitVec.ofNat 32 (natOfBytes bs)).toNat = natOfBytes bs :=
  (BitVec.toNat_ofNat _ _).trans (Nat.mod_eq_of_lt ((leNat_eq_natOfBytes bs).symm.trans_lt ((leNat_lt bs).trans_eq (congrArg (256 ^ ·) hl))))
/-- A byte without its bit 7 is set to 0. -/
theorem byte_unused (b : Byte) : (if b.getLsbD 7 then b else 0#8).getLsbD 7 = false → (if b.getLsbD 7 then b else 0#8) = 0#8 :=
  fun h => if_neg fun h7 => Bool.false_ne_true (h.symm.trans ((congrArg (BitVec.getLsbD · 7) (if_pos h7)).trans h7))
/-- A spare row that is not used has number 0. -/
theorem spareMap_unused {v w : BitVec 32} (hw : w = spareMap v) {j : Nat} (hj : j < 4) (h : w.getLsbD (8 * j + 7) = false) :
    w.extractLsb' (8 * j) 8 = 0#8 :=
  have hl := (List.length_map _).trans (length_bytesOfNat 4 v.toNat)
  (List.forall_mem_map (P := fun x => x.getLsbD 7 = false → x = 0#8)).mpr (fun b _ => byte_unused b) _
    (byte_mem ((congrArg BitVec.toNat hw).trans (toNat_ofBytes hl)) (hj.trans_eq hl.symm)) ((BitVec.getLsbD_extractLsb' (8 * j) 8 w 7).trans h)

/-! ## Bring-up and recovery (R357) -/

theorem imageOk_iff (image : List Byte) : imageOk image = true ↔ Rules.SignedImage image :=
  Bool.and_eq_true_iff.trans (and_congr decide_eq_true_iff
    (congrArg (fun n => Config.ed25519Ok Config.romKey (image.take (image.length - 64)) (BitVec.ofNat 512 n) = true)
      (leNat_eq_natOfBytes (image.drop (image.length - 64))).symm).to_iff)
theorem imageOk_false {image : List Byte} (h : ¬Rules.SignedImage image) : imageOk image = false :=
  Bool.eq_false_iff.mpr (mt (imageOk_iff image).mp h)
theorem forall_lt_six {P : Nat → Prop} (h0 : P 0) (h1 : P 1) (h2 : P 2) (h3 : P 3) (h4 : P 4) (h5 : P 5) : ∀ n < 6, P n :=
  forall_lt_succ (forall_lt_succ (forall_lt_succ (forall_lt_succ (forall_lt_succ (forall_lt_succ (fun _ h => absurd h (Nat.not_lt_zero _)) h0) h1) h2) h3) h4) h5
/-- What step `n` + 1 of R357 does, before it is counted as done. -/
noncomputable def bringUpEffect (n : Nat) (s : State) : State :=
  [s, s.modPlat (fun p => { p with trained := (List.range 32).foldl (fun m c => SMap.put m c s.time.toNat) [] }), selfTest s, startFabric s,
    s.modPlat (restoreCounters s.time.toNat)].getD n (linkTrained s)
/-- Step `n` + 1 succeeds, the first one only with an image that is signed; where it fails the module goes into recovery,
or, at the last step, stays without its link. -/
noncomputable def bringUpOutcome (ok : Bool) (s : State) (n : Nat) : Out :=
  .next (if (if n = 0 then ok && imageOk s.plat.image else ok) then stepDone (bringUpEffect n s)
    else if n = 5 then s.modPlat (fun p => { p with linkDown := true }) else s.modPlat (fun p => { p with recovery := true }))

section
variable {s : State}
section
variable (hup : s.plat.linkUp = false) (hdown : s.plat.linkDown = false)
include hup hdown
theorem bringUp_recovery (hr : s.plat.recovery = true) (ok : Bool) :
    exec (.bringUp ok) s = .next (if ok then linkTrained s else s.modPlat (fun p => { p with linkDown := true })) :=
  (ite_of_false_of_true (or_false_of hup hdown) hr : execBringUp ok s = _)
theorem bringUp_step (hr : s.plat.recovery = false) (hn : s.plat.bringUp < 6) (ok : Bool) : exec (.bringUp ok) s = bringUpOutcome ok s s.plat.bringUp := by
  refine (ite_of_false_of_false (or_false_of hup hdown) hr ?_ : execBringUp ok s = _)
  generalize s.plat.bringUp = n at hn
  revert n
  exact forall_lt_six (@rfl _ (bringUpOutcome ok s 0)) (@rfl _ (bringUpOutcome ok s 1)) (@rfl _ (bringUpOutcome ok s 2)) (@rfl _ (bringUpOutcome ok s 3))
    (@rfl _ (bringUpOutcome ok s 4)) (@rfl _ (bringUpOutcome ok s 5))
theorem bringUp_fails (hr : s.plat.recovery = false) (hn : s.plat.bringUp ≤ 5) {ok : Bool} {t : State}
    (hg : (if s.plat.bringUp = 0 then ok && imageOk s.plat.image else ok) = false)
    (ht : (if s.plat.bringUp = 5 then s.modPlat (fun p => { p with linkDown := true }) else s.modPlat (fun p => { p with recovery := true })) = t) :
    exec (.bringUp ok) s = .next t :=
  (bringUp_step hup hdown hr (Nat.lt_succ_of_le hn) ok).trans (congrArg _ ((ite_of_false hg).trans ht))
theorem bringUp_succeeds (hr : s.plat.recovery = false) (hn : s.plat.bringUp < 6) (hi : s.plat.bringUp = 0 → Rules.SignedImage s.plat.image) :
    exec (.bringUp true) s = .next (stepDone (bringUpEffect s.plat.bringUp s)) :=
  (bringUp_step hup hdown hr hn true).trans (congrArg _ (ite_of_true (ite_eq_iff'.mpr ⟨fun h => (imageOk_iff _).mpr (hi h), fun _ => rfl⟩)))
end
end

/-- A map that is made entry by entry. -/
theorem find_putEach {β : Type} (f : Nat → β) {n k : Nat} (h : k < n) :
    SMap.find ((List.range n).foldl (fun m c => SMap.put m c (f c)) []) k = some (f k) :=
  find_foldl_put (fun c => c) f (List.range n) [] (fun _ _ he => congrArg f he) (.inr ⟨k, List.mem_range.mpr h, rfl⟩)
theorem get_putEach {β : Type} (f : Nat → β) {n k : Nat} (h : k < n) (d : β) :
    SMap.get ((List.range n).foldl (fun m c => SMap.put m c (f c)) []) k d = f k :=
  congrArg (·.getD d) (find_putEach f h)
/-- The link trains to a rate and a width of R358. -/
theorem linkTo_free (s : State) : Rules.LinkTo (5 + (Config.freeLinkGen s.freeCtr).val) ([1, 4, 8, 16].getD (Config.freeLinkWidth s.freeCtr).val 16) := by
  generalize Config.freeLinkGen s.freeCtr = g
  generalize Config.freeLinkWidth s.freeCtr = w
  revert g w
  unfold Rules.LinkTo
  decide

theorem plat_trained (s : State) (tr : SMap Nat) : (s.modPlat (fun p => { p with trained := tr })).plat.bringUp = s.plat.bringUp := rfl
section
variable (k : Nat) (s : State)
theorem plat_cores (cs : SMap Core) : ({ s with cores := cs } : State).plat = s.plat := rfl
theorem core_cores (cs : SMap Core) : (stepDone { s with cores := cs }).core k = SMap.get cs k Core.initial := rfl
theorem stepDone_cores (cs : SMap Core) : let t := stepDone { s with cores := cs }; t = { s with cores := t.cores, plat := t.plat } := rfl
theorem plat_fabric (ns : SMap Node) (cs : SMap Chan) : ({ s with nodes := ns, chans := cs } : State).plat = s.plat := rfl
theorem node_nodes (ns : SMap Node) (cs : SMap Chan) : (stepDone { s with nodes := ns, chans := cs }).node k = SMap.get ns k Node.initial := rfl
theorem stepDone_nodes (ns : SMap Node) (cs : SMap Chan) :
    let t := stepDone { s with nodes := ns, chans := cs }; t = { s with nodes := t.nodes, chans := t.chans, plat := t.plat } := rfl
end
/-- The number of steps that have been done is left to `stepDone`. -/
theorem bringUpEffect_bringUp (s : State) : ∀ n < 6, (bringUpEffect n s).plat.bringUp = s.plat.bringUp :=
  forall_lt_six rfl (plat_trained s _) (congrArg Platform.bringUp (plat_cores s _)) (congrArg Platform.bringUp (plat_fabric s _ _)) rfl rfl
/-- A spare row of a core after its self-test. -/
theorem spare_unused {c d : Core} {v : BitVec 32} (h : c = { d with spare := spareMap v }) :
    c = { d with spare := c.spare } ∧ ∀ j < 4, c.spare.getLsbD (8 * j + 7) = false → c.spare.extractLsb' (8 * j) 8 = 0#8 :=
  ⟨h.trans (congrArg (fun c : Core => { d with spare := c.spare }) h.symm), fun _ => spareMap_unused (congrArg Core.spare h)⟩
theorem node_starts {x : Node} (h : x = Node.initial) : x.epoch = 0#8 ∧ x.c = 0#16 ∧ x.out = [] ∧ x.early = []
    ∧ ∀ j < 10, Stamp.at x.k j = 0#16 ∧ Stamp.at x.rcv j = 0#16 ∧ Stamp.at x.a j = 0#16 :=
  ⟨congrArg Node.epoch h, congrArg Node.c h, congrArg Node.out h, congrArg Node.early h,
    fun j _ => ⟨congrArg (fun x : Node => Stamp.at x.k j) h, congrArg (fun x : Node => Stamp.at x.rcv j) h, congrArg (fun x : Node => Stamp.at x.a j) h⟩⟩

theorem linkTo_intro (s : State) {P : Nat → Nat → Prop}
    (h : P (5 + (Config.freeLinkGen s.freeCtr).val) ([1, 4, 8, 16].getD (Config.freeLinkWidth s.freeCtr).val 16)) :
    ∃ gen width, Rules.LinkTo gen width ∧ P gen width := ⟨_, _, linkTo_free s, h⟩
theorem next_linkTo {o : Out} {t : State} (s : State) {P : State → Nat → Nat → Prop} (h : o = .next t)
    (hp : P t (5 + (Config.freeLinkGen s.freeCtr).val) ([1, 4, 8, 16].getD (Config.freeLinkWidth s.freeCtr).val 16)) :
    ∃ t gen width, o = .next t ∧ Rules.LinkTo gen width ∧ P t gen width := ⟨t, _, _, h, linkTo_free s, hp⟩

section
variable {s t : State}
theorem stepDone_at {n : Nat} (h : s.plat.bringUp = n) : stepDone (bringUpEffect s.plat.bringUp s) = stepDone (bringUpEffect n s) :=
  congrArg (fun n => stepDone (bringUpEffect n s)) h
/-- A step that changes the platform by `g` has succeeded. -/
theorem platNow_stepDone {n : Nat} (g : Platform → Platform) (hg : (g s.plat).bringUp = n) (ht : t = stepDone (s.modPlat g)) :
    Rules.PlatNow (fun p => { g p with bringUp := n + 1 }) s t :=
  ht.trans (congrArg (fun m => s.modPlat fun p => { g p with bringUp := m + 1 }) hg)
theorem platNow_trained (tr : SMap Nat) (h : s.plat.bringUp = 1) (ht : t = stepDone (s.modPlat (fun p => { p with trained := tr }))) :
    Rules.PlatNow (fun p => { p with bringUp := 2, trained := tr }) s t := platNow_stepDone (fun p => { p with trained := tr }) h ht
theorem core_selfTest {k : Nat} (hk : k < 768) :
    (stepDone (selfTest s)).core k = { s.core k with spare := spareMap (Config.freeSpare (Config.cores * s.freeCtr + k)) } :=
  Eq.trans (a := (stepDone (selfTest s)).core k) (core_cores k s _) (get_putEach (n := Config.cores) _ hk _)
theorem node_startFabric {k : Nat} (hk : k < 10) : (stepDone (startFabric s)).node k = Node.initial :=
  Eq.trans (a := (stepDone (startFabric s)).node k) (node_nodes k s _ _) (get_putEach (n := Config.nodes) (fun _ => Node.initial) hk _)
theorem cores_tested (ht : t = stepDone (selfTest s)) :
    t = { s with cores := t.cores, plat := t.plat } ∧ ∀ k < 768, t.core k = { s.core k with spare := (t.core k).spare }
      ∧ ∀ j < 4, (t.core k).spare.getLsbD (8 * j + 7) = false → (t.core k).spare.extractLsb' (8 * j) 8 = 0#8 :=
  ⟨Eq.subst (motive := fun t : State => t = { s with cores := t.cores, plat := t.plat }) ht.symm (stepDone_cores s _),
    fun k hk => spare_unused ((congrArg (State.core · k) ht).trans (core_selfTest hk))⟩
theorem fabric_started (ht : t = stepDone (startFabric s)) :
    t = { s with nodes := t.nodes, chans := t.chans, plat := t.plat }
      ∧ ∀ k < 10, (t.node k).epoch = 0#8 ∧ (t.node k).c = 0#16 ∧ (t.node k).out = [] ∧ (t.node k).early = []
        ∧ ∀ j < 10, Stamp.at (t.node k).k j = 0#16 ∧ Stamp.at (t.node k).rcv j = 0#16 ∧ Stamp.at (t.node k).a j = 0#16 :=
  ⟨Eq.subst (motive := fun t : State => t = { s with nodes := t.nodes, chans := t.chans, plat := t.plat }) ht.symm (stepDone_nodes s _ _),
    fun k hk => node_starts ((congrArg (State.node · k) ht).trans (node_startFabric hk))⟩
end

/-- An outcome with seven things said of the state that it leaves. -/
theorem next_all {o : Out} {t : State} {P₁ P₂ P₃ P₄ P₅ P₆ P₇ : State → Prop} (h : o = .next t) (h₁ : P₁ t) (h₂ : P₂ t) (h₃ : P₃ t)
    (h₄ : P₄ t) (h₅ : P₅ t) (h₆ : P₆ t) (h₇ : P₇ t) : ∃ t, o = .next t ∧ P₁ t ∧ P₂ t ∧ P₃ t ∧ P₄ t ∧ P₅ t ∧ P₆ t ∧ P₇ t :=
  ⟨t, h, h₁, h₂, h₃, h₄, h₅, h₆, h₇⟩
theorem dark_powerOff (mirror : Mirror) (s : State) : Rules.Dark mirror s (powerOff s mirror) := ⟨rfl, rfl⟩
theorem next_dark {o : Out} {mirror : Mirror} {s : State} (h : o = .next (powerOff s mirror)) :
    ∃ t, o = .next t ∧ Rules.Dark mirror s t := ⟨_, h, dark_powerOff mirror s⟩

/-- Settles O53: bring-up by `bringUp_step`, the fibres by the lemmas of their steps, the rest as it stands. -/
theorem platformSteps : Obligations.PlatformSteps := by
  unfold Obligations.PlatformSteps
  refine ⟨fun s hup hdown => ⟨fun hr => ?recovered, fun hr => ?recoveryFails, fun hr hn => ?failed, fun hr hn => ?failedLast, fun hr hn hi => ?succeeded,
      fun hr hn hi => ?unsigned⟩,
    fun s image hr hup => ⟨fun hi => ?replaced, fun hi => ?kept⟩, fun s hb ht => ?mirrored, fun s => next_dark rfl, fun s => next_dark rfl,
    fun s channel hc hb => ?retrained, fun s => ⟨fun h => next_and (ite_of_false h) rfl ?stopped, fun h => next_platNow (ite_of_true h)⟩,
    fun s f hf hup hb lambdas version => ⟨fun hv hl => ?trained, fun h => ?untrained⟩,
    fun s f hup => ⟨fun hw => ⟨?retried, ?lost, fun hl => ?woken⟩, fun hw hl ht => ?parked⟩,
    fun s f hup => ⟨fun flit place bytes hk hp => ?written, fun id w hw => ?arrived, fun id => ?acknowledged⟩⟩
  case recovered => exact next_linkTo s (bringUp_recovery hup hdown hr true) (@rfl _ (linkTrained s))
  case recoveryFails => exact next_platNow (bringUp_recovery hup hdown hr false)
  case failed => exact next_platNow (bringUp_fails hup hdown hr hn.le (ite_self false) (if_neg hn.ne))
  case failedLast => exact next_platNow (bringUp_fails hup hdown hr hn.le (ite_self false) (if_pos hn))
  case succeeded =>
    exact next_all (bringUp_succeeds hup hdown hr hn hi) (congrArg (· + 1) (bringUpEffect_bringUp s _ hn)) (fun h => platNow_stepDone id h (stepDone_at h))
      (fun h => ⟨_, platNow_trained _ h (stepDone_at h), fun k hk => find_putEach _ hk⟩) (fun h => cores_tested (stepDone_at h))
      (fun h => fabric_started (stepDone_at h)) (fun h => platNow_stepDone (restoreCounters s.time.toNat) h (stepDone_at h))
      (fun h => linkTo_intro s (platNow_stepDone (fun p => { p with linkUp := true, linkGen := _, linkWidth := _ }) h (stepDone_at h)))
  case unsigned =>
    exact next_platNow (bringUp_fails (ok := true) hup hdown hr (hn.trans_le (Nat.zero_le 5)) ((if_pos hn).trans (imageOk_false hi))
      (if_neg (hn.trans_ne (Nat.zero_ne_add_one 4))))
  case replaced => exact next_platNow ((ite_of_true (and_true_of hr hup)).trans (congrArg _ (ite_of_true ((imageOk_iff _).mpr hi))))
  case kept => exact (ite_of_true (and_true_of hr hup)).trans (congrArg _ (ite_of_false (imageOk_false hi)))
  case mirrored => exact next_platNow (ite_of_true (and_true_of (decide_eq_true hb) (decide_eq_true ht)))
  case retrained => exact next_platNow (ite_of_true (and_true_of (decide_eq_true hc) (decide_eq_true hb)))
  case stopped => exact errSrc_node 8 0x50 ▸ logError_logged _ false 0x50 _ _
  case trained => exact next_oneFibre (ite_of_false_of_true (fibre_trains hf hb hup) (and_true_of (decide_eq_true hv) (decide_eq_true hl)))
  case untrained =>
    exact next_fibreFails (ite_of_false_of_false (fibre_trains hf hb hup) ((Bool.decide_and _ _).symm.trans (decide_eq_false h)) rfl)
  case retried => exact ⟨_, ite_of_false_of_true (or_false_of (congrArg not hup) (List.isEmpty_eq_false_iff.mpr hw)) rfl, logFibre_logged _ _ _⟩
  case lost => exact next_fibreFails (ite_of_false (or_false_of (congrArg not hup) (List.isEmpty_eq_false_iff.mpr hw)))
  case woken =>
    exact next_oneFibre (ite_of_true (and_true_of (and_true_of hup (congrArg not (List.isEmpty_eq_false_iff.mpr hw))) (decide_eq_true hl)))
  case parked =>
    exact next_oneFibre (ite_of_true (and_true_of (and_true_of (and_true_of hup (List.isEmpty_iff.mpr hw)) (decide_eq_true hl)) (decide_eq_true ht)))
  case written =>
    exact next_and (ite_of_false_of_true (congrArg not hup) (and_true_of (decide_eq_true hk) (inSpace_device hk hp))) (writePa_frame s _ _ _ hk)
      ⟨oneFibre_setFibre _ f _, (wrote_writePa _ _).resolve_right (Nat.lt_asymm hk)⟩
  case arrived =>
    exact next_and (ite_of_false_of_true (congrArg not hup) (congrArg Option.isSome hw)) rfl ⟨find_mod_some hw _, rfl, rfl, rfl, rfl⟩
  case acknowledged => exact ⟨_, ite_of_false (congrArg not hup), rfl, fun k => fibreAck_waiting s.fibres id _ k⟩

end Sys2Proof.Machine
